-- ==== Sys2Proof/Word.lean ====
section
/-! DEFINITION. The word types of the QN-9 (02_formats R31, R35, R50). -/
namespace Sys2Proof

/-- A memory byte. -/
abbrev Byte := BitVec 8
/-- One 32-bit register or instruction word (R31, R35). -/
abbrev W32 := BitVec 32
/-- A 64-bit quantity: an address, a handle, a clock (R35, R378). -/
abbrev W64 := BitVec 64

end Sys2Proof
end

