-- ==== Sys2Proof/Machine/Bits.lean ====
section
/-! DEFINITION. Exact integer readings of bit fields (00_scope R4): instructions compute on exact integers and narrow at
the end. -/
namespace Sys2Proof.Machine

/-- signed(x, w): the low w bits of x as two's complement (R4). -/
def sgn (x w : Nat) : Int :=
  let v := x % 2 ^ w
  if v < 2 ^ (w - 1) then (v : Int) else (v : Int) - (2 ^ w : Nat)

/-- x modulo 2^w, as an unsigned value (R74). -/
def wrap (x : Int) (w : Nat) : Nat := (x % (2 ^ w : Nat)).toNat

/-- x[lo + len - 1 : lo] (R4). -/
def fld (x lo len : Nat) : Nat := x / 2 ^ lo % 2 ^ len

/-- x with field [lo + len - 1 : lo] replaced by v. -/
def setFld (x lo len v : Nat) : Nat := x - fld x lo len * 2 ^ lo + v % 2 ^ len * 2 ^ lo

/-- not x, within w bits. -/
def notW (x w : Nat) : Nat := 2 ^ w - 1 - x % 2 ^ w

/-- Number of 1 bits among the low w bits. -/
def popc (x w : Nat) : Nat := ((List.range w).filter (fun i => x.testBit i)).length

/-- Number of trailing zero bits of a w-bit value, w when it is 0. -/
def ctz (x w : Nat) : Nat := ((List.range w).takeWhile (fun i => !x.testBit i)).length

/-- Number of leading zero bits of a w-bit value, w when it is 0. -/
def clz (x w : Nat) : Nat := ((List.range w).takeWhile (fun i => !x.testBit (w - 1 - i))).length

/-- Number with bit i set exactly where p i holds, i below w. -/
def ofBits (w : Nat) (p : Nat → Bool) : Nat := (List.range w).foldl (fun acc i => if p i then acc + 2 ^ i else acc) 0

/-- x with bit i moved to bit w - 1 - i. -/
def brev (x w : Nat) : Nat := ofBits w (fun i => x.testBit (w - 1 - i))

/-- The number of 1 or 0 that a condition gives. -/
def b2n (b : Bool) : Nat := if b then 1 else 0

/-- The low 32 bits as a register value. -/
def w32 (x : Nat) : W32 := BitVec.ofNat 32 x

/-- {hi, lo} of two 32-bit values. -/
def pairOf (lo hi : Nat) : Nat := lo + 2 ^ 32 * hi

/-- Bit i of a set held as a number. -/
def hasBit (x i : Nat) : Bool := x.testBit i

/-- The members below n of a set held as a number, ascending. -/
def bitList (x n : Nat) : List Nat := (List.range n).filter (fun i => x.testBit i)

/-- The numbers from lo, n of them. -/
def rangeFrom (lo n : Nat) : List Nat := (List.range n).map (lo + ·)

/-- Little-endian number of a byte list (R5). -/
def bytesToNat : List Byte → Nat
  | [] => 0
  | b :: bs => b.toNat + 256 * bytesToNat bs

/-- The low n bytes of a number, little-endian. -/
def natToBytes : Nat → Nat → List Byte
  | 0, _ => []
  | n + 1, v => BitVec.ofNat 8 v :: natToBytes n (v / 256)

/-- The 32-bit words of a number, n of them, low first. -/
def natToWords : Nat → Nat → List W32
  | 0, _ => []
  | n + 1, v => w32 v :: natToWords n (v / 2 ^ 32)

/-- The number whose 32-bit words are given, low first. -/
def wordsToNat : List W32 → Nat
  | [] => 0
  | w :: ws => w.toNat + 2 ^ 32 * wordsToNat ws

end Sys2Proof.Machine
end

