-- ==== Sys2Proof/Config.lean ====
section
/-! DEFINITION. What a QN-9 implementation fixes and what the manual leaves open: the free values are opaque constants
with no body, applied to the State's `tick` or to the operands they depend on. The concrete constants are those of the
part (01_machine R12) or a DESIGN CHOICE named in the assumption log. -/
namespace Sys2Proof.Config

/-- FREE. Which of several enabled steps the machine takes at a tick (R110, R216, R228, R249; log entry 1). -/
opaque choose : Nat → Nat
/-- FREE. Cycles that go by during a step (R106; log entry 2). Argument: tick. -/
opaque cycles : Nat → Nat
/-- FREE. The latency in cycles of the instruction that a group issues at a tick (R103, R454; log entry 2). -/
opaque latency : Nat → Nat
/-- FREE. Nanoseconds that pass during a step (R25; log entry 7). -/
opaque elapsedNs : Nat → Nat
/-- FREE. Whether a cached translation is still held in a TLB at a tick (R199, R406; log entry 5). Arguments: tick, page. -/
opaque tlbHolds : Nat → Nat → Bool
/-- FREE. Whether a remote load in windowed visibility is served from a read-only copy, and whether one is filled
(R231; log entry 13). -/
opaque copyServes : Nat → Bool
/-- FREE. The value a special function proposes for an operand; the same every time on one part (R165; log entry 11).
Arguments: function code, format tag, operand encoding. -/
opaque special : Nat → Nat → Nat → Nat
/-- FREE. The sealed check of a queue handle under the partition's unreadable key (R319; log entry 12). Arguments:
partition, INDEX, rights, GEN, package and number of the holder's VF. -/
opaque handleSeal : Nat → Nat → Nat → Nat → Nat → Nat → BitVec 16
/-- FREE. Which of several writes of one command to the same word ends (R269, R293), and which words of a copy that
ends in error are performed (R273; log entry 14). Arguments: tick, word. -/
opaque pick : Nat → Nat → Bool
/-- FREE. Whether a matrix engine takes a tile action that it may take, before it reads operands of further steps (R284, R300; log
entry 21). Argument: tick. -/
opaque engineActs : Nat → Bool
/-- FREE. Whether an image carries a valid LMS signature under Quolin's key (R423; log entry 15). -/
opaque lmsVerifies : List Byte → Bool
/-- FREE. The version number an image carries (R422; log entry 15). -/
opaque imageVersion : List Byte → Nat
/-- FREE. The runner image in package ROM (R422; log entry 10). -/
opaque romImage : List Byte
/-- FREE. SHA-256, as the manual names it without giving it, over a list of values (R423; log entry 15). -/
opaque sha256 : List Nat → Nat
/-- FREE. The serial number of a package, and the version of its bedstone (R423; log entry 15). -/
opaque packageSerial : Nat → Nat
opaque bedstoneVersion : Nat
/-- The identity codes of the family, its stepping and its adapter (R1). -/
def familyCode : Nat := 0x0009
def steppingCode : Nat := 0x0002
def adapterCode : Nat := 0x0019
/-- FREE. Length of an attestation report and its bytes, signature included, whose layout the manual does not give: they depend on the
one-time key and on the values that the report holds (R423; log entry 15). -/
opaque attestLength : Nat → List Nat → Nat
opaque attestByte : Nat → List Nat → Nat → Byte
/-- FREE. How many one-time signing keys a package holds (R423; log entry 15). -/
opaque attestKeys : Nat
/-- FREE. What a destroyed memory byte holds after an array-pattern self-test (R424; log entry 16). -/
opaque destroyed : Nat → Nat → Byte
/-- Bytes of host-physical space behind one memory channel. DESIGN CHOICE (log entry 17): the manual gives each stack 64
GB and 32 channels (R12) and no layout; channel c of a package holds the c-th such range. -/
def channelSpan : Nat := 2 ^ 31
/-- Fill byte of memory that nothing has written. DESIGN CHOICE (log entry 3). -/
def blank : Byte := 0
/-- Bits of a package's host-physical key: ADDR of a table entry holds bits [56:12] (R402). -/
def physBits : Nat := 57
/-- Entries of a pond (R244). -/
def pondEntries : Nat := 4096
/-- Entries of the quad TLB and of a controller's stage-2 TLB (R12, R404). -/
def tlbEntries : Nat := 4096
def stage2TlbEntries : Nat := 2048
/-- Records held per event ring (R419). -/
def heldRecords : Nat := 1024
/-- Entries of the page-request ring (R407). -/
def pageRing : Nat := 4096
/-- Size of the core pool in bytes (R12, R195). -/
def poolBytes : Nat := 0x180000

end Sys2Proof.Config
end

