-- ==== Sys2Proof/Syntax.lean ====
section
/-! DEFINITION. The syntax of the machine's steps: the fields of the four instruction formats (02_formats R32, R39 to
R41), the names of the machine's parts, and `Instr`, one constructor per row of the opcode table. The rows before the
instruction words are the machine's other steps (95_what_each_step_holds): events of its engines, BAR 0 writes and host
commands. -/
namespace Sys2Proof

/-- Base word fields other than S, MAJ and MIN (R32, Table 1): guard, guard inversion, width, destination, source A. -/
structure L1 where
  g : BitVec 5
  gn : Bool
  w : BitVec 2
  d : BitVec 7
  a : BitVec 7
deriving DecidableEq, Repr

/-- A base word and the register extension word (R39, Table 4). -/
structure L2R extends L1 where
  b : BitVec 7
  c : BitVec 7
  mod : BitVec 6
  imm : BitVec 12
deriving DecidableEq, Repr

/-- A base word and a literal word (R40). -/
structure L2I extends L1 where
  lit : W32
deriving DecidableEq, Repr

/-- A base word and the memory extension word (R41, Table 5). -/
structure LM extends L1 where
  strm : BitVec 4
  space : BitVec 3
  ix : BitVec 7
  sc : BitVec 2
  cp : BitVec 2
  scope : BitVec 3
  off : BitVec 11
deriving DecidableEq, Repr

/-- A core: the package number 16 x row + column (R18) and the core number in the package (R14). -/
structure CoreId where
  pkg : Nat
  core : Nat
deriving DecidableEq, Repr

/-- A team slot of a core (R17, R374). -/
structure TeamId where
  core : CoreId
  slot : Nat
deriving DecidableEq, Repr

/-- A thread: its team slot and its team-lane id (R17). -/
structure ThreadId where
  team : TeamId
  lane : Nat
deriving DecidableEq, Repr

/-- A die of a package (R13). -/
structure DieId where
  pkg : Nat
  die : Nat
deriving DecidableEq, Repr

/-- A queue set: partition and INDEX (R318, R319). -/
structure QSetId where
  part : Nat
  idx : Nat
deriving DecidableEq, Repr

/-- A function of a package's Sprinkel adapter: the PF (`none`) or VF n (R413). -/
structure FnId where
  pkg : Nat
  vf : Option Nat
deriving DecidableEq, Repr

/-- A host command record taken from a command ring (R415, Table 1): the function that issued it, SUB, TAG and the 56
PARAM bytes as one little-endian number (byte 0 of PARAM, at offset 0x08, is least significant). -/
structure Cmd where
  fn : FnId
  sub : Nat
  tag : W32
  param : BitVec 448
deriving DecidableEq, Repr

/-- The links whose flits carry a CRC and are replayed (R412, R431 Table 9). -/
inductive Link where
  | boundary
  | podLink
  | sprinkel
deriving DecidableEq, Repr

/-- One step of the machine: the engines' events and the host's commands, then the instruction words. -/
inductive Instr where
  /-- RENDEZVOUS_COMPLETE: The last named member arrives and the set is issued as one group (R121) -/
  | rendezvousComplete (t : TeamId)
  /-- YIELD_READY: The 16-cycle not-ready period after YIELD expires (R116) -/
  | yieldReady (t : ThreadId)
  /-- THREAD_RETIRE: An exited thread retires once its LDN reaches 0 (R115) -/
  | threadRetire (t : ThreadId)
  /-- LOAD_DATA_RETURN: Load data arrives, writes the registers, clears pending bits and lowers LDN (R185) -/
  | loadDataReturn (a : Nat)
  /-- STORE_PERFORMED: A store is performed at its scope and STN falls (R187) -/
  | storePerformed (a : Nat)
  /-- HELD_ACCESS_RELEASE: Accesses held by a fence are released when the ordered accesses are performed (R221) -/
  | heldAccessRelease (t : ThreadId)
  /-- PUTSIG_SIGNAL: After the payload is performed, the signal add is sent (R226) -/
  | putsigSignal (a : Nat)
  /-- REQUEST_LEAVE_CORE: A lane-combined atomic request leaves the core once all contributions may be performed (R241) -/
  | requestLeaveCore (r : Nat)
  /-- STAGE_ARRIVAL: A request arrives at a race or weir stage and is absorbed or queued (R242) -/
  | stageArrival (r : Nat)
  /-- STAGE_DEPART: A queued request departs, its split record moving into the pond (R244) -/
  | stageDepart (r : Nat)
  /-- HOME_PERFORM: The home slice performs a request's contributions in serial order (R246) -/
  | homePerform (r : Nat)
  /-- REPLY_SPLIT: A reply reaching a stage is split among contributions and the pond entry freed (R247) -/
  | replySplit (r : Nat)
  /-- ATOMIC_VALUE_RETURN: An atomic's value or acknowledgement returns to the thread (R254) -/
  | atomicValueReturn (a : Nat)
  /-- BARRIER_RELEASE: A barrier release reaches waiting teams, ending BAR and BARW waits (R343) -/
  | barrierRelease (t : TeamId)
  /-- PAGE_FAULT: A translation miss marks faulted and withheld accesses and stops the team (R201) -/
  | pageFault (a : Nat)
  /-- FAULT_FRAME_SAVE: After other accesses drain, the team is saved to a fault frame and its slot reused or kept (R201) -/
  | faultFrameSave (t : TeamId)
  /-- DEFERRED_TRAP: A trap raised at an instruction boundary after replay, uncorrectable data or matrix failure (R383) -/
  | deferredTrap (t : ThreadId)
  /-- FRESH_START: Once counters are zero, live threads restart at ENTRY (R333) -/
  | freshStart (t : TeamId)
  /-- ROLLBACK: A guarded team drops held writes, restores its snapshot and queues a resume record (R390) -/
  | rollback (t : TeamId)
  /-- COPY_ACCEPT: A parked copy is accepted once its tag is free and the queue has room (R268) -/
  | copyAccept (t : ThreadId)
  /-- COPY_PAGE_FAULT: A copy word misses translation, is held and a page request queued (R273) -/
  | copyPageFault (c : CoreId) (tag : Nat)
  /-- COPY_LINE_FULL: A copy's writes to a scratchpad line finish and the line is marked full (R269) -/
  | copyLineFull (c : CoreId) (tag : Nat) (line : Nat)
  /-- COPY_COMPLETE: A copy completes, setting its CTAG bit and lowering CPN (R269) -/
  | copyComplete (c : CoreId) (tag : Nat)
  /-- MATRIX_STEP_RETIRE: A matrix command takes its tile action and retires, lowering MXN (R284) -/
  | matrixStepRetire (c : CoreId) (m : Nat)
  /-- PENDING_LAUNCH_TAKE: The controller takes a pending-launch entry, accepts or refuses it and writes status (R324) -/
  | pendingLaunchTake (c : CoreId)
  /-- STEAL_MESSAGE: A distributor steals up to 8 records or indices from another die (R336) -/
  | stealMessage (q : QSetId) (d : DieId)
  /-- JOIN_DECREMENT: The controller subtracts 1 from a finished task's join counter at its home (R316) -/
  | joinDecrement (j : Nat)
  /-- FENCE_COMPLETE: A queue fence completes and its sequence number is logged (R338) -/
  | fenceComplete (q : QSetId)
  /-- GATE_HOME_REQUEST: A gate request is checked and performed at the gate's home (R349) -/
  | gateHomeRequest (r : Nat)
  /-- GATE_REPLY: A gate reply reaches the parked threads and writes the result (R350) -/
  | gateReply (r : Nat)
  /-- OVERLAY_HEADER_READ: The hoist's header and table read completes; frames are allocated or the load fails (R366) -/
  | overlayHeaderRead (f : Nat)
  /-- OVERLAY_FILL_COMPLETE: A body fill ends, making the overlay resident or faulty (R366) -/
  | overlayFillComplete (f : Nat)
  /-- SLICE_BOUNDARY: A quantum ends and the running context begins pre-emption (R384) -/
  | sliceBoundary (p : Nat)
  /-- PREEMPT_FORCED_STOP: 10 µs after the boundary, unstopped teams are stopped per thread (R384) -/
  | preemptForcedStop (p : Nat)
  /-- CONTEXT_SAVE: After the drain, the context state is written to its save area (R384) -/
  | contextSave (p : Nat)
  /-- WINDOW_END: A visibility window ends and read-only remote copies filled in it are dropped (R231) -/
  | windowEnd (c : CoreId)
  /-- BUCKET_REFILL: CLKW passes a multiple of PERIOD and a gate bucket gains a token (R346) -/
  | bucketRefill (gate : Nat) (k : Nat)
  /-- WATCHDOG_FIRE: A partition makes no progress for the watchdog period (R392) -/
  | watchdogFire (p : Nat)
  /-- EVENT_COALESCE_TIMEOUT: The oldest uninterrupted record has stood TIME µs and the vector is raised (R420) -/
  | eventCoalesceTimeout (fn : FnId)
  /-- CRDOOR: Doorbell write publishes command records to runner (R415) -/
  | crdoor (fn : FnId) (v : Nat)
  /-- CRSIZE: Writing the command ring size enables or disables the ring (R429) -/
  | crsize (fn : FnId) (v : Nat)
  /-- ERSIZE: Writing the event ring size enables or disables the ring (R429) -/
  | ersize (fn : FnId) (v : Nat)
  /-- ERHEAD: Host advances the event head, freeing space for held records and an overflow record (R419) -/
  | erhead (fn : FnId) (v : Nat)
  /-- PRHEAD: Host advances the page-request head, letting waiting requests enter (R429) -/
  | prhead (fn : FnId) (v : Nat)
  /-- BAR0_REGISTER_WRITE: Write to a BAR 0 register with no behaviour of its own, such as a base (R429) -/
  | bar0RegisterWrite (fn : FnId) (off : Nat) (v : Nat)
  /-- PART_SET: Writes a partition share descriptor (R394) -/
  | partSet (c : Cmd)
  /-- PART_PAUSE: Pauses a partition at its next slice boundary (R397) -/
  | partPause (c : Cmd)
  /-- PART_RESUME: Resumes a paused partition (R397) -/
  | partResume (c : Cmd)
  /-- PART_RESET: Resets a partition by command (R392) -/
  | partReset (c : Cmd)
  /-- REHOME: Moves a partition's lines to their new homes (R397) -/
  | rehome (c : Cmd)
  /-- VF_BIND: Binds a VF to a partition with quota and areas (R398) -/
  | vfBind (c : Cmd)
  /-- VF_UNBIND: Unbinds a VF with no started context (R398) -/
  | vfUnbind (c : Cmd)
  /-- GRANT: Grants a shared window between partitions (R411) -/
  | grant (c : Cmd)
  /-- REVOKE: Revokes a shared window grant (R411) -/
  | revoke (c : Cmd)
  /-- S2_ROOT: Sets a share's stage-2 root (R401) -/
  | s2Root (c : Cmd)
  /-- S2_INVAL: Invalidates stage-2 translations of a range (R406) -/
  | s2Inval (c : Cmd)
  /-- GATE_CREATE: Creates a gate table entry (R345) -/
  | gateCreate (c : Cmd)
  /-- GATE_CONFIGURE: Rewrites a gate's ACL and buckets (R346) -/
  | gateConfigure (c : Cmd)
  /-- GATE_RECYCLE: Recycles a gate, advancing GEN (R353) -/
  | gateRecycle (c : Cmd)
  /-- GATE_DELETE: Deletes a gate (R353) -/
  | gateDelete (c : Cmd)
  /-- MIGRATE_QUIESCE: Starts the quiesce of a migrating partition (R355) -/
  | migrateQuiesce (c : Cmd)
  /-- MIGRATE_START: Starts the partition at its destination with the identity map (R355) -/
  | migrateStart (c : Cmd)
  /-- ERRREAD: Reads the shared-resource error counters (R431) -/
  | errread (c : Cmd)
  /-- CTX_CREATE: Creates a context with PASID, stage-1 root and SHDCTL (R398) -/
  | ctxCreate (c : Cmd)
  /-- CTX_START: Checks descriptors and places a context's blocks and gangs (R312) -/
  | ctxStart (c : Cmd)
  /-- CTX_END: Ends a context at its next slice boundary (R456) -/
  | ctxEnd (c : Cmd)
  /-- S1_INVAL: Invalidates stage-1 translations of a range (R406) -/
  | s1Inval (c : Cmd)
  /-- QSET_CREATE: Creates a queue set and returns a full-rights handle (R318) -/
  | qsetCreate (c : Cmd)
  /-- QSET_DELETE: Deletes a queue set (R318) -/
  | qsetDelete (c : Cmd)
  /-- QSUBMIT: Host push of one record to a named shard (R321) -/
  | qsubmit (c : Cmd)
  /-- PAGE_REPLY: Grants or refuses a page request, releasing held accesses (R409) -/
  | pageReply (c : Cmd)
  /-- RING_SET: Sets an event ring's base, size and coalescing (R420) -/
  | ringSet (c : Cmd)
  /-- SELFTEST: Runs self-test on unowned units and marks failures (R425) -/
  | selftest (c : Cmd)
  /-- FW_UPDATE: Verifies and writes a new flash runner image (R422) -/
  | fwUpdate (c : Cmd)
  /-- FW_RECOVER: Restarts runner from ROM, optionally copying it to flash (R422) -/
  | fwRecover (c : Cmd)
  /-- ATTEST: Returns a signed attestation report for a nonce (R423) -/
  | attest (c : Cmd)
  /-- FIRMWARE_BOOT: At package reset bedstone verifies and starts a runner image (R422) -/
  | firmwareBoot (pkg : Nat)
  /-- POWER_LIMIT: Power or temperature reaches its limit and pickers insert idle cycles (R428) -/
  | powerLimit (pkg : Nat) (on : Bool)
  /-- THERMAL_SHUTDOWN: Junction reaches 105 °C and the package shuts down (R428) -/
  | thermalShutdown (pkg : Nat)
  /-- LINK_FLIT_REPLAY: A link flit fails its CRC and is replayed, or the link failure is reported (R412) -/
  | linkFlitReplay (pkg : Nat) (link : Link) (recovered : Bool)
  /-- ETHERNET_FRAME_RECEIVED: A frame arrives on the Ethernet interface of ports 30 and 31, and one with a bad frame check sequence raises shared counter 15 (R431) -/
  | ethernetFrameReceived (pkg : Nat) (good : Bool)
  /-- ADD: Two-address lane add, d := d + a, wrapping at the group width (R79) -/
  | add (f : L1)
  /-- SUB: Two-address lane subtract, d := d - a (R79) -/
  | sub (f : L1)
  /-- AND: Two-address lane bitwise AND (R79) -/
  | and (f : L1)
  /-- OR: Two-address lane bitwise OR (R79) -/
  | or (f : L1)
  /-- XOR: Two-address lane bitwise XOR (R79) -/
  | xor (f : L1)
  /-- SHL: Two-address lane shift left by a single count register (R79) -/
  | shl (f : L1)
  /-- SHR: Two-address lane logical shift right by a single count register (R79) -/
  | shr (f : L1)
  /-- SAR: Two-address lane arithmetic shift right by a single count register (R79) -/
  | sar (f : L1)
  /-- ADD_REG: Three-address lane add, d := a + b (major 0x01) (R79) -/
  | addReg (f : L2R)
  /-- SUB_REG: Three-address lane subtract (major 0x01) (R79) -/
  | subReg (f : L2R)
  /-- AND_REG: Three-address lane AND (major 0x01) (R79) -/
  | andReg (f : L2R)
  /-- OR_REG: Three-address lane OR (major 0x01) (R79) -/
  | orReg (f : L2R)
  /-- XOR_REG: Three-address lane XOR (major 0x01) (R79) -/
  | xorReg (f : L2R)
  /-- SHL_REG: Three-address lane shift left by single register B (major 0x01) (R79) -/
  | shlReg (f : L2R)
  /-- SHR_REG: Three-address lane logical shift right (major 0x01) (R79) -/
  | shrReg (f : L2R)
  /-- SAR_REG: Three-address lane arithmetic shift right (major 0x01) (R79) -/
  | sarReg (f : L2R)
  /-- ADD_LIT: Lane add of a sign-extended literal (major 0x02) (R79) -/
  | addLit (f : L2I)
  /-- SUB_LIT: Lane subtract of a literal (major 0x02) (R79) -/
  | subLit (f : L2I)
  /-- AND_LIT: Lane AND with a sign-extended literal (major 0x02) (R80) -/
  | andLit (f : L2I)
  /-- OR_LIT: Lane OR with a literal (major 0x02) (R80) -/
  | orLit (f : L2I)
  /-- XOR_LIT: Lane XOR with a literal (major 0x02) (R80) -/
  | xorLit (f : L2I)
  /-- SHL_LIT: Lane shift left by a literal count below 32g (major 0x02) (R80) -/
  | shlLit (f : L2I)
  /-- SHR_LIT: Lane logical shift right by a literal count (major 0x02) (R80) -/
  | shrLit (f : L2I)
  /-- SAR_LIT: Lane arithmetic shift right by a literal count (major 0x02) (R80) -/
  | sarLit (f : L2I)
  /-- MUL: Lane multiply, low half of the product (R82) -/
  | mul (f : L2R)
  /-- MULHS: Lane signed multiply, high half (R82) -/
  | mulhs (f : L2R)
  /-- MULHU: Lane unsigned multiply, high half (R82) -/
  | mulhu (f : L2R)
  /-- MAD: Lane multiply-add, (a*b + c) mod 2^32g (R82) -/
  | mad (f : L2R)
  /-- MADW: Widening 32x32 multiply-add into a 64-bit pair, signed or unsigned (R83) -/
  | madw (f : L2R)
  /-- MIN: Lane signed minimum (R84) -/
  | min (f : L2R)
  /-- MAX: Lane signed maximum (R84) -/
  | max (f : L2R)
  /-- MINU: Lane unsigned minimum (R84) -/
  | minu (f : L2R)
  /-- MAXU: Lane unsigned maximum (R84) -/
  | maxu (f : L2R)
  /-- SEL: Selects A or B by predicate C (R85) -/
  | sel (f : L2R)
  /-- LEAX: Forms a 64-bit address from a base pair and a scaled 32-bit index (R86) -/
  | leax (f : L2R)
  /-- DIV: Lane signed divide, truncated, with fixed results for zero and overflow (R87) -/
  | div (f : L2R)
  /-- DIVU: Lane unsigned divide (R87) -/
  | divu (f : L2R)
  /-- REM: Lane signed remainder (R87) -/
  | rem (f : L2R)
  /-- REMU: Lane unsigned remainder (R87) -/
  | remu (f : L2R)
  /-- BFX: Signed bit-field extract, immediate or register control (R89) -/
  | bfx (f : L2R)
  /-- BFXU: Unsigned bit-field extract (R89) -/
  | bfxu (f : L2R)
  /-- BFI: Bit-field insert of B into A (R89) -/
  | bfi (f : L2R)
  /-- BSEL: Byte select from (B, A) with a zero mask (R90) -/
  | bsel (f : L2R)
  /-- ROTL: Rotate left by the count in single register B (R91) -/
  | rotl (f : L2R)
  /-- ANDN: Lane x AND NOT y (R88) -/
  | andn (f : L2R)
  /-- MOV: Lane move of a group, including queue-window pops and pushes (R92) -/
  | mov (f : L1)
  /-- NOT: Lane bitwise NOT (R92) -/
  | not (f : L1)
  /-- NEG: Lane negate (R92) -/
  | neg (f : L1)
  /-- ABS: Lane absolute value (R92) -/
  | abs (f : L1)
  /-- POPC: Lane population count (R92) -/
  | popc (f : L1)
  /-- CLZ: Lane count of leading zeros (R92) -/
  | clz (f : L1)
  /-- CTZ: Lane count of trailing zeros (R92) -/
  | ctz (f : L1)
  /-- BREV: Lane bit reversal (R92) -/
  | brev (f : L1)
  /-- MOVL: Moves a sign-extended literal into a register or pair (R93) -/
  | movl (f : L2I)
  /-- LEA: Adds a signed literal to a 64-bit base pair (R93) -/
  | lea (f : L2I)
  /-- SEXT: Sign-extends the low n bits of a single register (R94) -/
  | sext (f : L2I)
  /-- ZEXT: Zero-extends the low n bits of a single register (R94) -/
  | zext (f : L2I)
  /-- CMP_EQ: Writes predicate D := A = B (R95) -/
  | cmpEq (f : L2R)
  /-- CMP_NE: Writes predicate D := A <> B (R95) -/
  | cmpNe (f : L2R)
  /-- CMP_LT: Writes predicate D := signed A < B (R95) -/
  | cmpLt (f : L2R)
  /-- CMP_GE: Writes predicate D := signed A >= B (R95) -/
  | cmpGe (f : L2R)
  /-- CMP_LTU: Writes predicate D := unsigned A < B (R95) -/
  | cmpLtu (f : L2R)
  /-- CMP_GEU: Writes predicate D := unsigned A >= B (R95) -/
  | cmpGeu (f : L2R)
  /-- CMP_TST: Writes predicate D := (A and B) <> 0 (R95) -/
  | cmpTst (f : L2R)
  /-- CMP_TSTZ: Writes predicate D := (A and B) = 0 (R95) -/
  | cmpTstz (f : L2R)
  /-- CMPI_EQ: Compares A with a literal for equality into a predicate (R95) -/
  | cmpiEq (f : L2I)
  /-- CMPI_NE: Compares A with a literal for inequality (R95) -/
  | cmpiNe (f : L2I)
  /-- CMPI_LT: Signed less-than against a literal (R95) -/
  | cmpiLt (f : L2I)
  /-- CMPI_GE: Signed greater-or-equal against a literal (R95) -/
  | cmpiGe (f : L2I)
  /-- CMPI_LTU: Unsigned less-than against a literal (R95) -/
  | cmpiLtu (f : L2I)
  /-- CMPI_GEU: Unsigned greater-or-equal against a literal (R95) -/
  | cmpiGeu (f : L2I)
  /-- CMPI_TST: Tests A and literal for any common bit (R95) -/
  | cmpiTst (f : L2I)
  /-- CMPI_TSTZ: Tests A and literal for no common bit (R95) -/
  | cmpiTstz (f : L2I)
  /-- PAND: Predicate AND (R97) -/
  | pand (f : L2R)
  /-- POR: Predicate OR (R97) -/
  | por (f : L2R)
  /-- PXOR: Predicate XOR (R97) -/
  | pxor (f : L2R)
  /-- PANDN: Predicate AND NOT (R97) -/
  | pandn (f : L2R)
  /-- PMOV: Predicate move (R97) -/
  | pmov (f : L2R)
  /-- PRD: Reads p0-p23 into a general register (R97) -/
  | prd (f : L2R)
  /-- PWR: Writes selected predicates from a register under a mask (R98) -/
  | pwr (f : L2R)
  /-- PSET: Sets a predicate to an immediate bit (R97) -/
  | pset (f : L2R)
  /-- BRA: Relative branch within the current overlay (R111) -/
  | bra (f : L2I)
  /-- CALL: Relative call writing a link pair (R111) -/
  | call (f : L2I)
  /-- REP: Repeats the next lane instruction n times with advancing operand numbers (R53) -/
  | rep (f : L2I)
  /-- BRX: Branch to an absolute offset held in a register (R113) -/
  | brx (f : L1)
  /-- CALLX: Call to an absolute offset in a register, writing a link pair (R113) -/
  | callx (f : L1)
  /-- RET: Continues at a link pair, resolving its token and possibly starting a refill (R114) -/
  | ret (f : L1)
  /-- EXIT: Ends the thread once its LDN reaches 0 (R115) -/
  | exit (f : L1)
  /-- CONV: Parks until every live team thread stands at the same CONV (R118) -/
  | conv (f : L1)
  /-- YIELD: Retires and makes the thread not ready for 16 cycles (R116) -/
  | yield (f : L1)
  /-- NOP: Occupies one issue slot (R117) -/
  | nop (f : L1)
  /-- BKPT: Raises BREAKPOINT in each guard-true thread (R117) -/
  | bkpt (f : L1)
  /-- PEEK: Reads A from a chosen or relative lane of the team (R126) -/
  | peek (f : L2R)
  /-- FLIP: Reads A from the lane differing in the bits of k (R126) -/
  | flip (f : L2R)
  /-- ALLOF: Predicate true when it holds in all active members (R127) -/
  | allof (f : L2R)
  /-- ANYOF: Predicate true when it holds in any active member (R127) -/
  | anyof (f : L2R)
  /-- PMASK: Writes the mask of active members whose predicate holds (R127) -/
  | pmask (f : L2R)
  /-- PEERS: Writes the mask of active members with equal A bits (R127) -/
  | peers (f : L2R)
  /-- LEADP: Sets a predicate only in the lowest active member (R127) -/
  | leadp (f : L2R)
  /-- TSUM: Team reduction sum over active members in a fixed tree (R128) -/
  | tsum (f : L2R)
  /-- TMAX: Team reduction maximum (R128) -/
  | tmax (f : L2R)
  /-- TMIN: Team reduction minimum (R128) -/
  | tmin (f : L2R)
  /-- TSCAN: Team inclusive or exclusive prefix sum in lane order (R128) -/
  | tscan (f : L2R)
  /-- FADD: Element-wise floating add, rounded once, shadow-checked (R157) -/
  | fadd (f : L2R)
  /-- FSUB: Element-wise floating subtract (R157) -/
  | fsub (f : L2R)
  /-- FMUL: Element-wise floating multiply (R157) -/
  | fmul (f : L2R)
  /-- FMIN: Element-wise floating minimum with NaN rules (R160) -/
  | fmin (f : L2R)
  /-- FMAX: Element-wise floating maximum with NaN rules (R160) -/
  | fmax (f : L2R)
  /-- FFMA: Element-wise fused multiply-add with one rounding (R157) -/
  | ffma (f : L2R)
  /-- FCMP_EQ: Floating compare equal into a predicate (R161) -/
  | fcmpEq (f : L2R)
  /-- FCMP_NE: Floating compare unordered or not equal (R161) -/
  | fcmpNe (f : L2R)
  /-- FCMP_LT: Floating compare ordered less-than (R161) -/
  | fcmpLt (f : L2R)
  /-- FCMP_LE: Floating compare ordered less-or-equal (R161) -/
  | fcmpLe (f : L2R)
  /-- FCMP_UNO: Floating compare unordered (R161) -/
  | fcmpUno (f : L2R)
  /-- FCMP_ORD: Floating compare ordered (R161) -/
  | fcmpOrd (f : L2R)
  /-- FCLASS: Writes a class mask per element (R163) -/
  | fclass (f : L1)
  /-- FRINT: Rounds each element to an integral value (R164) -/
  | frint (f : L1)
  /-- FSAT: Clamps each element to [+0, 1] (R164) -/
  | fsat (f : L1)
  /-- RCP: Reciprocal of each element (R165) -/
  | rcp (f : L1)
  /-- RSQ: Reciprocal square root of each element (R165) -/
  | rsq (f : L1)
  /-- SQRT: Correctly rounded square root of each element (R165) -/
  | sqrt (f : L1)
  /-- EX2: Base-2 exponential of each element (R165) -/
  | ex2 (f : L1)
  /-- LG2: Base-2 logarithm of each element (R165) -/
  | lg2 (f : L1)
  /-- SIN: Sine of each element (R165) -/
  | sin (f : L1)
  /-- COS: Cosine of each element (R165) -/
  | cos (f : L1)
  /-- TANH: Hyperbolic tangent of each element (R165) -/
  | tanh (f : L1)
  /-- TAGGET: Writes each register's format tag as an integer (R166) -/
  | tagget (f : L1)
  /-- CVT: Converts between floating formats (R169) -/
  | cvt (f : L2R)
  /-- CVTI: Converts floating elements to integer formats (R169) -/
  | cvti (f : L2R)
  /-- CVTF: Converts integer elements to floating formats (R169) -/
  | cvtf (f : L2R)
  /-- PACK: Packs INT32 elements into 8- or 4-bit integers, clamping or truncating (R170) -/
  | pack (f : L2R)
  /-- UNPK: Widens packed integers to INT32 (R170) -/
  | unpk (f : L2R)
  /-- DOT2: Two-element 16-bit float dot product plus C, rounded once (R172) -/
  | dot2 (f : L2R)
  /-- DOT4: Four-element 8-bit integer dot product plus C (R172) -/
  | dot4 (f : L2R)
  /-- DOT8: Eight-element 4-bit integer dot product plus C (R172) -/
  | dot8 (f : L2R)
  /-- DOT4F: Four-element FP8 dot product plus C (R172) -/
  | dot4f (f : L2R)
  /-- DOT8F: Eight-element E2M1 dot product plus C (R172) -/
  | dot8f (f : L2R)
  /-- SCL: Applies one or two UE5M3 block scales to A and adds C (R173) -/
  | scl (f : L2R)
  /-- TAGSET: Copies a group and gives it a tag (R174) -/
  | tagset (f : L2I)
  /-- TAGCHK: Sets a predicate when every register carries a given tag (R175) -/
  | tagchk (f : L2I)
  /-- LDB: Loads a signed byte (R185) -/
  | ldb (f : LM)
  /-- LDBU: Loads an unsigned byte (R185) -/
  | ldbu (f : LM)
  /-- LDH: Loads a signed half-word (R185) -/
  | ldh (f : LM)
  /-- LDHU: Loads an unsigned half-word (R185) -/
  | ldhu (f : LM)
  /-- LDW: Loads a group of words with tag RAW (R185) -/
  | ldw (f : LM)
  /-- LDT: Loads a group of words with a tag taken from IX (R184) -/
  | ldt (f : LM)
  /-- LDFE: Loads from a scratchpad line, parking while the line is empty (R190) -/
  | ldfe (f : LM)
  /-- STB: Stores a byte (R187) -/
  | stb (f : LM)
  /-- STH: Stores a half-word (R187) -/
  | sth (f : LM)
  /-- STW: Stores a group of words (R187) -/
  | stw (f : LM)
  /-- STFE: Stores to a scratchpad line and marks it full, releasing parked LDFEs (R191) -/
  | stfe (f : LM)
  /-- STE: Marks a scratchpad line empty (R191) -/
  | ste (f : LM)
  /-- PUTSIG: Stores a payload and then adds 1 to a signal word (R226) -/
  | putsig (f : LM)
  /-- PREF: Prefetches a line into L2 and optionally L1 (R193) -/
  | pref (f : LM)
  /-- CFLUSH: Writes back and invalidates a line in L1 and, at wide scope, L2 (R194) -/
  | cflush (f : LM)
  /-- ATADD: Combining atomic add (R254) -/
  | atadd (f : LM)
  /-- ATAND: Combining atomic AND (R254) -/
  | atand (f : LM)
  /-- ATOR: Combining atomic OR (R254) -/
  | ator (f : LM)
  /-- ATXOR: Combining atomic XOR (R254) -/
  | atxor (f : LM)
  /-- ATMAX: Combining atomic signed maximum (R254) -/
  | atmax (f : LM)
  /-- ATMIN: Combining atomic signed minimum (R254) -/
  | atmin (f : LM)
  /-- ATMAXU: Combining atomic unsigned maximum (R254) -/
  | atmaxu (f : LM)
  /-- ATMINU: Combining atomic unsigned minimum (R254) -/
  | atminu (f : LM)
  /-- ATSWP: Combining atomic swap (R254) -/
  | atswp (f : LM)
  /-- ATLD: Atomic load at the home (R256) -/
  | atld (f : LM)
  /-- ATFADD: Combining atomic F32 add (R256) -/
  | atfadd (f : LM)
  /-- ATCAS: Atomic compare-and-swap, never combined (R255) -/
  | atcas (f : LM)
  /-- UADD: Uniform add of register operands (R79) -/
  | uadd (f : L2R)
  /-- USUB: Uniform subtract (R79) -/
  | usub (f : L2R)
  /-- UAND: Uniform AND (R79) -/
  | uand (f : L2R)
  /-- UOR: Uniform OR (R79) -/
  | uor (f : L2R)
  /-- UXOR: Uniform XOR (R79) -/
  | uxor (f : L2R)
  /-- USHL: Uniform shift left (R79) -/
  | ushl (f : L2R)
  /-- USHR: Uniform logical shift right (R79) -/
  | ushr (f : L2R)
  /-- UMUL: Uniform multiply (R79) -/
  | umul (f : L2R)
  /-- UADD_LIT: Uniform add of a literal (R79) -/
  | uaddLit (f : L2I)
  /-- USUB_LIT: Uniform subtract of a literal (R79) -/
  | usubLit (f : L2I)
  /-- UAND_LIT: Uniform AND with a literal (R79) -/
  | uandLit (f : L2I)
  /-- UOR_LIT: Uniform OR with a literal (R79) -/
  | uorLit (f : L2I)
  /-- UXOR_LIT: Uniform XOR with a literal (R79) -/
  | uxorLit (f : L2I)
  /-- USHL_LIT: Uniform shift left by a literal (R79) -/
  | ushlLit (f : L2I)
  /-- USHR_LIT: Uniform shift right by a literal (R79) -/
  | ushrLit (f : L2I)
  /-- UMUL_LIT: Uniform multiply by a literal (R79) -/
  | umulLit (f : L2I)
  /-- UMOV: Moves the leader's group to the group, or pops one window entry for it (R101) -/
  | umov (f : L1)
  /-- ULANE: Writes each thread's rank in the gathered group (R100) -/
  | ulane (f : L1)
  /-- UCNT: Writes the number of gathered guard-true threads (R100) -/
  | ucnt (f : L1)
  /-- ULEAD: Writes the leader's tidx (R100) -/
  | ulead (f : L1)
  /-- UCMP_EQ: Uniform equality compare into a predicate (R96) -/
  | ucmpEq (f : L2R)
  /-- UCMP_NE: Uniform inequality compare (R96) -/
  | ucmpNe (f : L2R)
  /-- UCMP_LT: Uniform signed less-than (R96) -/
  | ucmpLt (f : L2R)
  /-- UCMP_GE: Uniform signed greater-or-equal (R96) -/
  | ucmpGe (f : L2R)
  /-- UCMP_LTU: Uniform unsigned less-than (R96) -/
  | ucmpLtu (f : L2R)
  /-- UCMP_GEU: Uniform unsigned greater-or-equal (R96) -/
  | ucmpGeu (f : L2R)
  /-- ULDW: One load for the group, written to every guard-true thread with tag RAW (R188) -/
  | uldw (f : LM)
  /-- ULDT: One tagged load for the group (R188) -/
  | uldt (f : LM)
  /-- USTW: One store of the leader's group for the gathered group (R188) -/
  | ustw (f : LM)
  /-- CPY: Asynchronous contiguous copy on a copy tag (R266) -/
  | cpy (f : L2R)
  /-- CPY2: Asynchronous two-dimensional strided copy (R266) -/
  | cpy2 (f : L2R)
  /-- CPYG: Asynchronous gather through an index list (R266) -/
  | cpyg (f : L2R)
  /-- CPYS: Asynchronous scatter through an index list (R266) -/
  | cpys (f : L2R)
  /-- CPYX: Asynchronous copy applying an element chain to each word (R270) -/
  | cpyx (f : L2R)
  /-- CPYF: Asynchronous fill with a word (R266) -/
  | cpyf (f : L2R)
  /-- TWAIT: Parks until no masked tag is busy, trapping on a recorded copy error (R275) -/
  | twait (f : L2R)
  /-- TWANY: Waits for any masked tag done and returns the lowest, optionally clearing it (R275) -/
  | twany (f : L2R)
  /-- TFIRST: Returns the lowest done masked tag without parking (R275) -/
  | tfirst (f : L2R)
  /-- TCLR: Clears CTAG bits and error records of idle masked tags (R275) -/
  | tclr (f : L2R)
  /-- MMA: Team matrix tile step accumulating A x B into a tile (R288) -/
  | mma (f : L2R)
  /-- MMAM: Masked matrix tile step with row, column and depth masks (R291) -/
  | mmam (f : L2R)
  /-- MMAS: 2:4-sparse matrix tile step using metadata (R290) -/
  | mmas (f : L2R)
  /-- ACCZ: Zeros a run of tiles and sets their tags (R292) -/
  | accz (f : L2R)
  /-- ACCLD: Loads a tile from memory under masks (R293) -/
  | accld (f : L2R)
  /-- ACCST: Stores a tile's masked cells to memory (R293) -/
  | accst (f : L2R)
  /-- MWALK: Performs nested loops of masked steps from a job card (R295) -/
  | mwalk (f : L2R)
  /-- MSTAT: Reads the team's matrix status, optionally waiting for zero outstanding (R298) -/
  | mstat (f : L2R)
  /-- TSPAWN: Pushes one task record through the pending-launch queue, raising JOIN (R324) -/
  | tspawn (f : L2R)
  /-- GRID: Pushes a grid record for expansion by the distributors (R324) -/
  | grid (f : L2R)
  /-- QPUSH: Pushes one record without touching its join counter (R324) -/
  | qpush (f : L2R)
  /-- QPOP: Pops at most one record from this die's shard without parking (R327) -/
  | qpop (f : L2R)
  /-- QSTEAL: Steals at most one record from the tail of another shard (R327) -/
  | qsteal (f : L2R)
  /-- QCAP: Derives a handle with reduced rights (R328) -/
  | qcap (f : L2R)
  /-- QBIND: Binds or unbinds a queue window of the block (R328) -/
  | qbind (f : L2R)
  /-- JADD: Adds to a join counter at its home as a release (R332) -/
  | jadd (f : L2R)
  /-- JWAIT: Saves the team into its frame, links or queues a continuation and starts afresh (R333) -/
  | jwait (f : L2R)
  /-- JRD: Reads a join counter as an acquire (R332) -/
  | jrd (f : L2R)
  /-- RGIVE: Gives registers from the team allocation to the block budget (R335) -/
  | rgive (f : L2R)
  /-- RCLAIM: Claims registers from the block budget (R335) -/
  | rclaim (f : L2R)
  /-- SNAP: Commits a guarded task's held writes and snapshot (R389) -/
  | snap (f : L2R)
  /-- QFENCE: Appends a fence record to every shard and returns its sequence number (R337) -/
  | qfence (f : L2R)
  /-- BAR: Arrives at a barrier and waits for the phase (R343) -/
  | bar (f : L2I)
  /-- BARA: Arrives at a barrier and returns the phase (R343) -/
  | bara (f : L2I)
  /-- BARW: Waits for a barrier phase beyond a given one (R343) -/
  | barw (f : L2I)
  /-- FENCE: Orders all earlier accesses before all later ones at a scope (R222) -/
  | fence (f : L2I)
  /-- XFENCE: Holds later accesses in stream set Y until earlier ones in X are performed (R221) -/
  | xfence (f : L2I)
  /-- WAITC: Parks until the thread's counters fall to the given limits (R223) -/
  | waitc (f : L2I)
  /-- GOPEN: Obtains a handle to a gate (R349) -/
  | gopen (f : L2R)
  /-- GCLOSE: Owner closes a gate, releasing waiters with CLOSED (R353) -/
  | gclose (f : L2R)
  /-- GSIG: Releases and increments a gate counter (R349) -/
  | gsig (f : L2R)
  /-- GWAIT: Waits until a gate counter reaches a target (R349) -/
  | gwait (f : L2R)
  /-- GADD: Adds to a gate counter and returns the old value (R349) -/
  | gadd (f : L2R)
  /-- GPOLL: Reads a gate counter (R349) -/
  | gpoll (f : L2R)
  /-- OVLD: Loads an overlay image and returns its token (R366) -/
  | ovld (f : L2R)
  /-- OVWAIT: Waits for a filling overlay and reports its state (R367) -/
  | ovwait (f : L2R)
  /-- OVPIN: Pins a resident overlay (R368) -/
  | ovpin (f : L2R)
  /-- OVUNPIN: Unpins an overlay (R368) -/
  | ovunpin (f : L2R)
  /-- OVREL: Drops a reference to an overlay (R368) -/
  | ovrel (f : L2R)
  /-- CALLO: Calls an entry of an overlay image, demand-filling it if needed (R369) -/
  | callo (f : L2R)
  /-- TRAP: Raises SOFTWARE with TINFO n (R376) -/
  | trap (f : L2R)
  /-- SRD: Reads a system register, clearing RC fields once (R377) -/
  | srd (f : L2R)
  /-- SWR: Writes a system register under its access codes (R377) -/
  | swr (f : L2R)
  /-- CLKW: Reads the wall clock (R378) -/
  | clkw (f : L2R)
  /-- CLKR: Reads the partition running clock (R378) -/
  | clkr (f : L2R)
  /-- ERRD: Reads a VF error counter (R379) -/
  | errd (f : L2R)
deriving DecidableEq, Repr

end Sys2Proof
end

