-- ==== Sys2Proof/Machine/State.lean ====
section
/-! DEFINITION. The state of the pod, as plain data, and its reset. Tables are lists of keyed rows; what a table does not
list is at reset. Every field's rule of the manual and its reset value stand in INVENTORY.md. -/
namespace Sys2Proof.Machine

/-- A table: rows found by their key. -/
abbrev Tbl (κ α : Type) := List (κ × α)

/-- The QN-9 reports its faults as traps, refusals of commands and records: no behaviour of the manual stops the
machine, so the model has no fault (safe: nothing is cut short). -/
inductive Fault where
deriving DecidableEq, Repr

/-- Why a step can have no meaning. -/
inductive Refusal where
  /-- Raised by `exec` for a row of the opcode table that has no meaning yet; safe. -/
  | notModelled (mnemonic : String)
deriving DecidableEq, Repr

/-! ## Threads -/

/-- A program counter: token and word offset (R50). The offset may stand at the end of an overlay (R43). -/
structure Pc where
  tok : BitVec 16
  off : Nat
deriving DecidableEq, Repr

/-- A general register: 32 bits, format tag, pending bit (R46, R48). -/
structure Reg where
  val : W32
  tag : BitVec 4
  pend : Bool
deriving DecidableEq, Repr

/-- A VF of a package (R413). -/
structure VfId where
  pkg : Nat
  vf : Nat
deriving DecidableEq, Repr

/-- A context: CIDX of a VF (R23, R398). -/
structure CtxId where
  vf : VfId
  cidx : Nat
deriving DecidableEq, Repr

/-- A block slot of a core (R374). -/
structure BlockId where
  core : CoreId
  slot : Nat
deriving DecidableEq, Repr

/-- Where a byte lies once its address is resolved: guest-physical in a partition, or in a core's scratchpad (R211). -/
inductive Loc where
  | glob (part gpa : Nat)
  | pad (c : CoreId) (off : Nat)
deriving DecidableEq, Repr

/-- Combining operations and the requests that share their path (R239, R247 Table 1, R342): `read`, `write`, `jadd` and `jrd` are the
remote-home accesses that never merge. -/
inductive NetOp where
  | add | and | or | xor | max | min | maxu | minu | swp | ld | fadd | cas | arrive | read | write | jadd | jrd
deriving DecidableEq, Repr

/-- What an outstanding access is (R210). A probe stands for the
translation of an instruction that issues afresh (R455), `engine` for a held write of a copy or ACCST (R387). -/
inductive AccKind where
  | load | store | stfe | ste | cflush
  | atomic (op : NetOp)
  | payload | signal
  | jadd | jrd
  | probe | engine
deriving DecidableEq, Repr

/-- How far an outstanding access has come: waiting to be performed, faulted or withheld behind a fault (R201), refused
(R203), sent into the network (R241). -/
inductive AccState where
  | waiting | faulted | withheld | refused | sent
deriving DecidableEq, Repr

/-- An access that has issued and has not completed (R210). `owners` are the threads it serves: one, or every guard-true
thread of a uniform access (R188); `rcv` those that a counter's value reaches (R332). `born` is CLKW at issue, `replay` marks an element
of a restored team (R202), `after` the part of a uniform access that has its effect, on a part without one (R386), `base` and `extw` are the instruction's words, which a fault frame holds (R386). -/
structure Access where
  seq : Nat
  kind : AccKind
  owners : List ThreadId
  ctx : CtxId
  core : CoreId
  space : Nat
  addr : Nat
  size : Nat
  data : Nat
  data2 : Nat
  dst : Nat
  g : Nat
  tag : BitVec 4
  sext : Bool
  strm : Nat
  scope : Nat
  cp : Nat
  loc : Option Loc
  held : Bool
  replay : Bool
  state : AccState
  reqs : List Nat
  got : Option Nat
  word : W32
  rcv : List ThreadId
  born : Nat
  after : Option Nat
  base : W32
  extw : W32
deriving DecidableEq, Repr

/-- A fence in force in a thread (R221): stream sets, scope, and the number that divides earlier from later accesses. -/
structure Fence where
  x : BitVec 16
  y : BitVec 16
  scope : Nat
  seq : Nat
deriving DecidableEq, Repr

/-- A trap to deliver: cause, TINFO, TADDR, the resume point when it is not the instruction itself, and whether it was
raised at an instruction boundary (R380, R382). -/
structure Raise where
  cause : Nat
  info : Nat
  addr : Nat
  link : Option Pc
  defer : Bool
deriving DecidableEq, Repr

/-- Where a thread goes when the fill it waits for ends (R366, R369, R370). -/
inductive FillThen where
  /-- CALLO: link destination and entry number, and whether the thread is its group's leader; a failure traps, a bad entry number traps the
  leader. -/
  | call (d : Nat) (entry : Nat) (lead : Bool)
  /-- RET and restores: continue at the offset of the image; `tok` is the token that named it. -/
  | offset (image tok off : Nat)
  /-- Handler entry: a failure ends the task with the trap's own cause. -/
  | handler (entry : Nat)
  /-- ENTRY at context start or a fresh start: a failure ends the team's threads. -/
  | entry (entry : Nat)
deriving DecidableEq, Repr

/-- What a thread parked at a rendezvous arrived for (R118 to R120): CONV, a cross-lane collective with the mask of a
guard-true arrival, a matrix command, an instruction that acts for the whole team (R333), or a barrier (R341). -/
inductive Arrival where
  | conv
  | lanes (mask : Option W32)
  | matrix
  | team
  | barrier
deriving DecidableEq, Repr

/-- A barrier: the scope unit it belongs to and its ID (R341); `part` keeps clamped barriers apart (R410). -/
structure BarId where
  scope : Nat
  team : Option TeamId
  block : Option BlockId
  core : CoreId
  part : Option Nat
  id : Nat
deriving DecidableEq, Repr

/-- A copy command's operands as the leader read them (R265, R266): `dst`, `src` and the index list `list` are addresses in
their spaces, `par` holds the B group and `ext` the C group of CPYX or the fill word. -/
structure CopyCmd where
  block : BlockId
  minor : Nat
  tag : Nat
  strm : Nat
  cp : Nat
  scope : Nat
  dsp : Nat
  ssp : Nat
  isp : Nat
  dst : Int
  src : Int
  list : Int
  par : List Nat
  ext : Nat
  ctx : CtxId
deriving DecidableEq, Repr

/-- What a thread that stands at its instruction needs of a queue window (R36, R101, R325): an entry of its own, so many entries one after
another, or room for so many records. -/
inductive WinNeed where
  | entry
  | pop (n : Nat)
  | push (n : Nat)
deriving DecidableEq, Repr

/-- What a thread that stands at its instruction waits for before it issues it again: the team has nothing outstanding, nor a counter above
0 (`rest`, R333, R389); nothing outstanding (`quiet`, R388); its launch entries are taken (R337); the thread's earlier accesses are performed
(R322, R349); the accesses that an arrival at a scope releases (R343); the end of a migration's quiescence (R355); the accesses that an LDFE
must follow (R190); room for a matrix command of these issuers (R301), the accesses that its read at issue follows (R287, R294), or the end of
the team's commands (R298). -/
inductive Hold where
  | rest
  | quiet
  | launches
  | earlier
  | release (scope : Nat)
  | quiesce
  | access (a : Access)
  | command (ids : List ThreadId)
  | engine (strm scope : Nat) (ids : List ThreadId)
  | retired
deriving DecidableEq, Repr

/-- Why a thread is not ready (R106). Threads parked under a condition issue their instruction afresh when it holds; a member of
a released rendezvous set carries the set's number (R121); `whole` is a group that waits whole for room (R49), `team` a team that has met
at its instruction and waits there. -/
inductive Park where
  | ready
  | yielding
  | exiting
  | arrived (k : Arrival)
  | released (set : Nat) (k : Arrival)
  | waitc (lit : W32)
  | window (w : Nat) (need : WinNeed)
  | ldfe (a : Access)
  | ordered (h : Hold)
  | room (ldn stn cpn mxn : Bool)
  | whole (ldn stn cpn mxn : Bool)
  | launch
  | copy (tag : Nat)
  | tags (mask : W64) (any : Bool)
  | team (h : Hold)
  | gate (r : Nat)
  | fill (f image : Nat) (k : FillThen)
  | ovwait (f : Nat) (d : Nat)
  | ovld (f : Nat) (d : Nat)
  | bar (b : BarId) (ph : W32)
  | barWord (addr : Nat) (ph : W32)
  | reply (a : Nat)
deriving DecidableEq, Repr

/-- A thread's visible state (R16) and what it waits for. The register allocation is the length of `regs` (R38); `since` is the cycle from
which the thread has waited to issue, or from which its latency is over (R106). -/
structure Thread where
  live : Bool
  pc : Pc
  regs : List Reg
  preds : BitVec 24
  ldn : Nat
  stn : Nat
  cpn : Nat
  mxn : Nat
  fflags : BitVec 6
  fmode : BitVec 2
  cause : BitVec 8
  inh : Bool
  defer : Bool
  tinfo : W32
  taddr : W64
  tlinkLo : BitVec 16
  tlinkHi : BitVec 14
  park : Park
  fences : List Fence
  deferred : List Raise
  heldWait : Bool
  since : Nat
deriving DecidableEq, Repr

/-! ## Teams, blocks, contexts -/

/-- A task record or queue record: ENTRY, FRAME, JOIN, ARG (R72). -/
structure Rec where
  entry : W64
  frame : W64
  join : W64
  arg : W64
deriving DecidableEq, Repr

/-- The task a team runs: its record, and the queue set and acceptance number it was delivered under (R315, R316). -/
structure Task where
  body : Rec
  q : Option QSetId
  no : Nat
deriving DecidableEq, Repr

/-- A tile of the accumulator store: tag (0 none, 1 F32, 12 INT32) and its cells that are not 0 (R282). -/
structure Tile where
  id : Nat
  tag : Nat
  cells : List (Nat × W32)
deriving DecidableEq, Repr

/-- Why a team issues nothing (R201, R204, R381, R384, R390). -/
inductive TeamStop where
  | running
  /-- Stopped by a page fault; saved once its other accesses are done (R201). -/
  | faulting
  /-- Its slot waits for the last page reply (R204). -/
  | kept
  /-- Restored; replaying its elements before its threads issue (R202). -/
  | replaying
  /-- Its task is ended by the trap of a thread; its record is sent and it restarts at ENTRY when nothing is outstanding (R333, R381). -/
  | fresh (id : ThreadId) (r : Raise)
  /-- To be rolled back (R390), with the thread that raised the cause. -/
  | rolling (id : ThreadId) (r : Raise)
  /-- Stopped for a slice end (R384); `full` when stopped per thread. -/
  | sliced (full : Bool)
deriving DecidableEq, Repr

/-- A resident team (R17, R312, R315) with the guarded task's held writes, written lines and tiles (R387), its current
snapshot (R389), whether a commit is due before its threads issue again, and whether that commit follows an irrevocable operation
(R388, R390). -/
structure Team where
  block : BlockId
  tnum : Nat
  role : BitVec 8
  frame : W64
  targ : W64
  task : Option Task
  unchk : Nat
  mnv : Bool
  mof : Bool
  msat : Bool
  held : List Access
  wlines : List (CoreId × Nat)
  wtiles : List Nat
  snap : Option Nat
  stop : TeamStop
  commitDue : Bool
  irrevocable : Bool
deriving DecidableEq, Repr

/-- A worker block: its descriptor, window bindings, register budget and gang place (R71, R312 to R314); `lost` from a fatal fault of
this gang member until the gang is handled (R391). -/
structure Block where
  ctx : CtxId
  descVa : Nat
  entry : W64
  handler : W64
  nregs : Nat
  teams : Nat
  windows : List W64
  budget : Nat
  gang : Nat
  gpos : Nat
  lost : Bool
deriving DecidableEq, Repr

/-- A team as saved: slot, team state, its 32 threads and its unperformed elements (R385, R386). -/
structure SavedTeam where
  id : TeamId
  team : Team
  threads : List (Nat × Thread)
  elems : List Access
deriving DecidableEq, Repr

/-- A team suspended on page faults (R201 to R204). -/
structure Susp where
  key : Nat
  saved : SavedTeam
  kept : Bool
  waits : List Nat
  queued : Bool
deriving DecidableEq, Repr

/-- A snapshot of a guarded task (R389), in one (0 or 1) of the two slots that its team slot has in the snapshot region. -/
structure Snap where
  key : Nat
  slot : Nat
  saved : SavedTeam
  lines : List ((CoreId × Nat) × List Byte)
  tiles : List Tile
deriving DecidableEq, Repr

/-- A resume record, kind 4, on the resume list of a die (R202, R204, R390): a suspended team or a snapshot. -/
structure Resume where
  key : Nat
  dies : List DieId
  fromSnap : Bool
deriving DecidableEq, Repr

/-! ## Cores -/

/-- An error record of a copy tag (R263, R273), with the TINFO of a recovery cause: the source, or the lost peer's gang
position (R382). -/
structure TagErr where
  tag : Nat
  cause : Nat
  addr : Nat
  info : Nat
deriving DecidableEq, Repr

/-- An accepted copy (R268, R269): its issuers, whether the memmove rule binds it (R271), the destination words not yet performed, the
source words and the index words read for them, the page requests it waits on, each with the first address that needs it (R273), and the
lines it marked empty. -/
structure Copy where
  seq : Nat
  cmd : CopyCmd
  issuers : List ThreadId
  memmove : Bool
  todo : List Nat
  vals : List (Nat × Nat)
  idx : List (Nat × Nat)
  waits : List (Nat × Nat)
  lines : List (CoreId × Nat)
  error : Option TagErr
deriving DecidableEq, Repr

/-- An accepted matrix command (R284, R301, Table 6 of R308): `card` holds the job card or the MMAS metadata, `next` the first
unretired step of a walk, `lost` the address of a refused page. `got` holds the operands read (step, number of the run, value), `acted` and
`todo` an ACCST's tile action and the cells still to be written, `replay` a command replayed after a fault (R303). -/
structure MatCmd where
  key : Nat
  seq : Nat
  team : TeamId
  ctx : CtxId
  minor : Nat
  ctl : Nat
  mod : Nat
  tile : Nat
  scope : Nat
  areg : Nat
  breg : Nat
  creg : Nat
  card : Nat
  next : Nat
  issuers : List ThreadId
  state : AccState
  waits : List Nat
  lost : Nat
  got : List (Nat × Nat × Nat)
  acted : Bool
  todo : List (Nat × Nat)
  replay : Bool
  base : W32
  extw : W32
deriving DecidableEq, Repr

/-- State of an overlay (R359). -/
inductive OvState where
  | filling | resident | faulty
deriving DecidableEq, Repr

/-- An overlay in a core's instruction store (R358, R359, R368). `slots` ascend; `counts` holds the pins and references
each context added. -/
structure Overlay where
  vf : VfId
  pasid : Nat
  image : Nat
  state : OvState
  len : Nat
  entries : List Nat
  body : List W32
  slots : List Nat
  gen : Nat
  pins : Nat
  refs : Nat
  stamp : Nat
  counts : List (CtxId × Nat × Nat)
deriving DecidableEq, Repr

/-- A token-map entry (R360). -/
structure MapEntry where
  slot : Nat
  gen : Nat
  image : Nat
  vf : VfId
  pasid : Nat
deriving DecidableEq, Repr

/-- A fill the hoist carries out (R366), forked by its issuers: before the header read `slot` is none; afterwards it names the first slot,
and `crc` holds the header's BODYCRC. -/
structure Fill where
  key : Nat
  core : CoreId
  ctx : CtxId
  image : Nat
  issuers : List ThreadId
  ovld : Option (List ThreadId × Nat)
  slot : Option Nat
  waits : List Nat
  refused : Bool
  crc : Nat
deriving DecidableEq, Repr

/-- A pending-launch entry (R324, R326), with the number of the pushing task, the earlier accesses that its release
covers (R322), the page request that its JOIN waits on, and whether its team holds that miss as a faulted element (R455). -/
structure Launch where
  minor : Nat
  need : List Nat
  pusher : Option Nat
  q : QSetId
  body : Rec
  n : Nat
  owners : List ThreadId
  dst : Nat
  team : TeamId
  ctx : CtxId
  waits : List Nat
  elem : Bool
deriving DecidableEq, Repr

/-- A store whose write stands in an L1 (R212): its number, its threads and its stream. -/
structure Writer where
  seq : Nat
  owners : List ThreadId
  strm : Nat
deriving DecidableEq, Repr

/-- A byte of an L1 line that stores have written there and nowhere else (R198, R212): its place in the line, its value, and the stores
that wrote it, the latest first: a wider fence or release of any of them covers the byte. -/
structure Dirty where
  off : Nat
  byte : Byte
  by_ : List Writer
deriving DecidableEq, Repr

/-- A line of an L1 (R198): the tag (VF, PASID, virtual line), the partition and guest-physical line of the reverse map (R200),
the memory key of the line, whether it is protected, its dirty bytes, and, for a read-only copy of a remote line, the window it was
filled in and its bytes (R231). A clean byte of a local line reads as memory holds it. -/
structure L1Line where
  vf : VfId
  pasid : Nat
  line : Nat
  part : Nat
  gpa : Nat
  key : Nat
  prot : Bool
  dirty : List Dirty
  copy : Option (Nat × List Byte)
deriving DecidableEq, Repr

/-- A line that an L2 slice caches (R15, R199, R396), named by its partition and guest-physical line; `unit` is the slice's number in the
pod, 64 for each package, `dirty` that memory has not its latest bytes. The State holds a slice's bytes with those of memory (log entry
101). -/
structure L2Line where
  unit : Nat
  part : Nat
  gpa : Nat
  key : Nat
  dirty : Bool
deriving DecidableEq, Repr

/-- A cached translation (R199, R404): the TLB that holds it, a quad's or a memory controller's, the (VF, PASID) of a stage-1 entry,
the partition, the page, its frame and its write permission. -/
structure TlbEntry where
  unit : Nat
  space : Option (VfId × Nat)
  part : Nat
  page : Nat
  frame : Nat
  wr : Bool
deriving DecidableEq, Repr

/-- A core (R12, R16). Scratchpad bytes and tiles that are not listed are 0, lines not listed are full; the lines of the L1 stand
from the most recent position to the least (R198). -/
structure Core where
  poolb0 : W32
  poolb1 : W32
  poolb2 : W32
  scratch : List Host.Cell
  empty : List Nat
  ctag : W64
  errs : List TagErr
  copies : List Copy
  tiles : List Tile
  mq : List MatCmd
  launch : List Launch
  gens : List (Nat × Nat)
  overlays : List Overlay
  tokmap : List MapEntry
  l1 : List L1Line
deriving DecidableEq, Repr

/-! ## Barriers, network, joins -/

/-- A hardware barrier (R341). -/
structure Bar where
  count : Nat
  phase : W32
  expect : Nat
deriving DecidableEq, Repr

/-- A request of the Millrace network (R241 to R247): operation on a word, its operands, and the contributions it was
formed from at the core (accesses, with their operands, in tidx order). `loc` is the word's own place, behind any window, `gpa` its
address as the issuing partition `part` names it; `grp` is the issue that formed it (R241). -/
structure Req where
  rid : Nat
  grp : Nat
  gpa : Nat
  op : NetOp
  loc : Loc
  size : Nat
  x : Nat
  y : Nat
  src : Nat
  home : Nat
  leaves : List (Nat × Nat × Nat)
  part : Nat
  ctx : CtxId
  waits : List Nat
deriving DecidableEq, Repr

/-- Where a request or its reply stands on the path of R20 and R239. -/
inductive Spot where
  | core | toRace | toWeir | toHome | backWeir | backRace | backCore
deriving DecidableEq, Repr

/-- A request in flight, or its reply with the value and the fault mark (R246, R252); `port` is the input port at the
stage it is going to (R240). -/
structure Flight where
  req : Req
  at_ : Spot
  port : Nat
  value : Nat
  faulted : Bool
deriving DecidableEq, Repr

/-- A request queued at a stage (R242, R244): `kids` are the contributions it holds here (request number and operand),
`ports` the input ports they came on, `pond` whether an entry is reserved, `out` the output queue it stands in: the next package at a
race stage, the L2 slice or controller at a weir stage. -/
structure QEntry where
  req : Req
  out : Nat
  kids : List (Nat × Nat)
  ports : List Nat
  pond : Bool
  kidReqs : List Req
deriving DecidableEq, Repr

/-- A split record in a pond (R244). -/
structure Split where
  rid : Nat
  op : NetOp
  size : Nat
  kids : List (Nat × Nat)
  kidReqs : List Req
deriving DecidableEq, Repr

/-- A race or weir stage of a package (R240 to R245): its queue and its pond. -/
structure Stage where
  queue : List QEntry
  pond : List Split
deriving DecidableEq, Repr

/-- Work that a queue controller still has to do for a context: the end of a task, with the accesses that its release
covers, the join counter to lower (`addr` 0: none) and the record to complete (R316); or, with `frame`, the continuations
of a list of waiting frames (R330). `waits` holds the page request it waits on (R455). -/
structure Join where
  key : Nat
  ctx : CtxId
  frame : Bool
  need : List Nat
  addr : Nat
  waits : List Nat
  rec_ : Option (QSetId × Nat)
deriving DecidableEq, Repr

/-! ## Queue sets -/

/-- State of an accepted record (R316, R338). -/
inductive RecState where
  | queued | running | done
deriving DecidableEq, Repr

/-- A record of a queue set (R318, R321): acceptance number, shard, level, pushing task's number (none for a host
push), whether it counts toward O and holds a ring entry. `sub` orders the indices of one grid. -/
structure QRec where
  no : Nat
  sub : Nat
  die : DieId
  level : Nat
  body : Rec
  state : RecState
  pusher : Option Nat
  counted : Bool
  ring : Bool
deriving DecidableEq, Repr

/-- A grid slice on a distributor (R336): the next index place, how many are left, the stride D. -/
structure Slice where
  no : Nat
  die : DieId
  level : Nat
  body : Rec
  first : Nat
  count : Nat
  next : Nat
  left : Nat
  stride : Nat
  pusher : Option Nat
deriving DecidableEq, Repr

/-- A continuation waiting for a team (R330, R334): its place, its frame, the record its task came from, the descriptor
that a team must have (none for a frame that no JWAIT registered), LIVE and n. -/
structure Cont where
  die : DieId
  level : Nat
  no : Nat
  frame : Nat
  ctx : CtxId
  task : Option (QSetId × Nat)
  desc : Option Nat
  live : Nat
  n : Nat
deriving DecidableEq, Repr

/-- A frame registered at a join counter, with the record its task came from (R338) and the descriptor of its block (R334). -/
structure Waiting where
  frame : Nat
  ctx : CtxId
  task : Option (QSetId × Nat)
  desc : Nat
deriving DecidableEq, Repr

/-- A queue set (R318 to R322, R337, R338); a fence that is not complete has its number, its place in the order of acceptance, and the
number of the task that issued it. -/
structure QSet where
  gen : Nat
  vf : VfId
  ringLog : Nat
  ring : Nat
  fenceLog : Nat
  drops : Nat
  fenceSeq : Nat
  logged : Nat
  fences : List (Nat × Nat × Option Nat)
  lastFenceNo : Nat
  logWaits : List Nat
  recs : List QRec
  slices : List Slice
  conts : List Cont
  waiting : List Waiting
deriving DecidableEq, Repr

/-! ## Gates -/

/-- An access-list entry with its bucket and refusal count (R345, R346). `filled` is the last PERIOD multiple seen. -/
structure AclEnt where
  valid : Bool
  vf : VfId
  signal : Bool
  wait : Bool
  add : Bool
  tokens : Nat
  cap : Nat
  period : Nat
  refused : Nat
  filled : Nat
deriving DecidableEq, Repr

/-- A registered waiter (R349). -/
structure Waiter where
  target : Nat
  vf : VfId
  req : Nat
deriving DecidableEq, Repr

/-- A gate (R345 Table 1). -/
structure Gate where
  counter : W64
  gen : W32
  owner : VfId
  valid : Bool
  closed : Bool
  waiters : List Waiter
  acl : List AclEnt
  home : Nat
deriving DecidableEq, Repr

/-- A gate reply: a trap of Table 3, or status and value (R349). -/
inductive GateAns where
  | trap (info : Nat)
  | status (code : Nat) (value : Nat)
deriving DecidableEq, Repr

/-- A gate request in flight (R349, R354); `lead` says that its first owner is the leader, whose operands it carries. -/
structure GateReq where
  lead : Bool
  key : Nat
  minor : Nat
  num : Nat
  gen : Nat
  x : Nat
  caller : VfId
  ctx : CtxId
  owners : List ThreadId
  dst : Nat
  sent : Bool
  waiting : Bool
  ans : Option GateAns
deriving DecidableEq, Repr

/-! ## Partitions, VFs, contexts -/

/-- A home-set entry (R236, R430 Table 8): package, stack, mask of the stack's 32 channels owned. -/
structure HomeEnt where
  pkg : Nat
  stack : Nat
  mask : W32
deriving DecidableEq, Repr

/-- A partition's share on a package (R394, Table 8 of R430). -/
structure Share where
  pkg : Nat
  quads : W64
  slices : W64
  channels : BitVec 256
  engines : W64
  s2root : Nat
  window : Nat
  slice : W32
  wdog : Nat
deriving DecidableEq, Repr

/-- Homing of a partition (R236, R237): package-homed regions and the home set. -/
structure Homing where
  regions : List (Nat × Nat)
  set : List HomeEnt
deriving DecidableEq, Repr

/-- How far a pre-emption has come (R384, R397, R456). -/
inductive Slicing where
  | none
  | stopping (since : Nat)
  | stopped
deriving DecidableEq, Repr

/-- A partition (R23, R394 to R400). -/
structure Part where
  shares : List Share
  homing : Homing
  oldHoming : Option Homing
  paused : Bool
  pausing : Bool
  quiesced : Bool
  clkr : Nat
  running : Option CtxId
  boundary : Nat
  quanta : Nat
  lastCidx : List (VfId × Nat)
  lastVf : Nat
  slicing : Slicing
  pauseTag : Option (FnId × W32)
  progress : Nat
deriving DecidableEq, Repr

/-- A VF bound to a partition (R321, R379, R398). -/
structure Vf where
  part : Nat
  quota : Nat
  out : Nat
  snapArea : Nat
  frameArea : Nat
  saveArea : Nat
  snapSlot : Nat
  frameSlot : Nat
  saveSize : Nat
  errs : List Nat
deriving DecidableEq, Repr

/-- A page request not yet answered (R407 to R409). -/
structure PageReq where
  vf : VfId
  tag : Nat
  ctx : CtxId
  stage : Nat
  perm : Bool
  write : Bool
  who : Nat
  window : Option Nat
  page : Nat
  part : Nat
  core : CoreId
  inRing : Bool
deriving DecidableEq, Repr

/-- A saved context (R384 Table 7); `image` says that its save area holds it, as it does not before the first slice. -/
structure SavedCtx where
  image : Bool
  teams : List SavedTeam
  blocks : Tbl BlockId Block
  cores : Tbl CoreId Core
  bars : Tbl BarId Bar
deriving DecidableEq, Repr

/-- A context (R23, R398); `shdnew` is the SHDCTL that it was created with and starts with (R152). -/
structure Ctx where
  pasid : Nat
  s1root : Nat
  shdctl : BitVec 2
  shdnew : BitVec 2
  sup : Bool
  vdiv : Nat
  mfail : Nat
  clamp : BitVec 8
  started : Bool
  ending : Bool
  endTags : List (FnId × W32)
  prio : Nat
  saved : Option SavedCtx
  susp : List Susp
  snaps : List Snap
  resumes : List Resume
deriving DecidableEq, Repr

/-- A window grant (R411). -/
structure Grant where
  giver : Nat
  taker : Nat
  write : Bool
  from_ : Nat
  into : Nat
deriving DecidableEq, Repr

/-! ## Host interface and packages -/

/-- An event record (R418). -/
structure Event where
  tag : W32
  status : Nat
  kind : Nat
  time : Nat
  cause : Nat
  tinfo : W32
  addr : W64
deriving DecidableEq, Repr

/-- What a command taken waits for: page replies (R71), the accesses that an invalidation's entries served (R406), the other open commands
of its package before runner restarts (R422), or the end of a self-test of some unit paths (R424). -/
inductive PendKind where
  | start
  | inval
  | restart
  | test (paths : List Nat)
deriving DecidableEq, Repr

/-- A command taken that waits before it completes, with the partitions that it names (R415). -/
structure Pending where
  cmd : Cmd
  parts : List Nat
  waits : List Nat
  refused : Bool
  kind : PendKind
deriving DecidableEq, Repr

/-- A function's rings and coalescing (R420, R429), the doorbells not yet served (R415: arrival number and tail), the command
that waits on page replies, and whether the command ring is to be disabled when its open command has completed (R429). -/
structure Fn where
  crBase : Nat
  crSize : Nat
  crTail : Nat
  crHead : Nat
  erBase : Nat
  erSize : Nat
  erHead : Nat
  erTail : Nat
  prBase : Nat
  prHead : Nat
  prTail : Nat
  count : Nat
  time : Nat
  vector : Nat
  fresh : Nat
  oldest : Option Nat
  irqs : Nat
  waiting : List Event
  dropped : Nat
  prWait : List PageReq
  bells : List (Nat × Nat)
  pending : Option Pending
  crOff : Bool
deriving DecidableEq, Repr

/-- A package's firmware, the image that runner runs among it, error counters and self-test marks (R422 to R431). -/
structure Pkg where
  ready : Bool
  rom : Bool
  image : List Byte
  flash : Option (List Byte)
  floor : Nat
  raise : Bool
  recover : Bool
  errs : List Nat
  failed : List Nat
  keysUsed : Nat
  limited : Bool
  down : Bool
  downNoted : Bool
  frames : Nat
  booted : Bool
deriving DecidableEq, Repr

/-- The group of threads that issues (R107): its core, its threads in ascending tidx, and whether it is a released
rendezvous set (R121). -/
structure Group where
  core : CoreId
  ids : List ThreadId
  rdv : Bool
deriving DecidableEq, Repr

/-- What a shadow unit computes for an element: sign, exponent field and the top three fraction bits, in the result's format (R150). -/
structure Shadow where
  neg : Bool
  exp : Nat
  top : Nat
deriving DecidableEq, Repr

/-- A hardware error still to strike: the shadow unit of a thread computes other fields for its next checked result (R150), a matrix command
fails its checksum in a row or column (R305), or an uncorrectable error stands in a byte of memory as an L2 slice of its home holds it, in a
scratchpad, in a cell of a tile, or in a frame of an instruction store (R304, R382). -/
inductive Upset where
  | shadow (t : ThreadId) (reg elem : Nat) (sh : Shadow)
  | checksum (m : Nat) (col : Bool) (idx : Nat)
  | l2 (slice key : Nat)
  | pad (c : CoreId) (off : Nat)
  | cell (c : CoreId) (tile n : Nat)
  | code (c : CoreId) (slot : Nat)
deriving DecidableEq, Repr

/-- What nature does to the machine: an error placed, a unit made defective for self-test to find (R425), a corrected error counted for
a partition (counter 0, 2 or 4; R379) or for a package's shared resources (counters 2 to 7; R431), or a fatal fault of a partition
(R392), with the counter of R431 that it raises when a stage-2 table, token map or gate table took it (11, 12 or 13; R412). -/
inductive Strike where
  | upset (u : Upset)
  | poison (key : Nat)
  | defect (pkg path : Nat)
  | corrected (part n : Nat)
  | shared (pkg n : Nat)
  | fatal (part pkg : Nat) (table : Option Nat)
deriving DecidableEq, Repr

/-- What the outside world does (R414, R421, R429): a step it causes, a write to its own memory, a write of the host to a package's memory,
by which it places pages and the entries of its stage-2 tables, or a hardware error. -/
inductive Input where
  | act (i : Instr)
  | strike (e : Strike)
  | hostWrite (pkg addr : Nat) (bytes : List Byte)
  | podWrite (pkg hpa : Nat) (bytes : List Byte)
deriving DecidableEq, Repr

/-- The machine; the pod has `rows` x `cols` packages (R18). `words` are the two words at which the gathered group stands. -/
structure State where
  rows : Nat
  cols : Nat
  tick : Nat
  cycle : Nat
  seq : Nat
  clkw : Nat
  gathered : Group
  words : W32 × W32
  inputs : List Input
  mem : List Host.Cell
  hostMem : List Host.Cell
  poison : List Nat
  upsets : List Upset
  defects : List (Nat × Nat)
  threads : Tbl ThreadId Thread
  teams : Tbl TeamId Team
  blocks : Tbl BlockId Block
  cores : Tbl CoreId Core
  bars : Tbl BarId Bar
  accs : List Access
  flights : List Flight
  races : Tbl Nat Stage
  weirs : Tbl Nat Stage
  joins : List Join
  fills : List Fill
  l2 : List L2Line
  tlb : List TlbEntry
  s2tlb : List TlbEntry
  pages : List PageReq
  qsets : Tbl QSetId QSet
  gates : Tbl Nat Gate
  gateReqs : List GateReq
  grants : List Grant
  ctxs : Tbl CtxId Ctx
  vfs : Tbl VfId Vf
  parts : Tbl Nat Part
  fns : Tbl FnId Fn
  pkgs : Tbl Nat Pkg
deriving DecidableEq, Repr

/-! ## Reset values -/

/-- A register at context start (R312). -/
def Reg.zero : Reg := ⟨0, 0, false⟩

/-- A core with no context (R263, R282, R359; POOLB values: log entry 4). -/
def Core.reset : Core :=
  { poolb0 := 0, poolb1 := 0, poolb2 := 0, scratch := [], empty := [], ctag := BitVec.allOnes 64, errs := [],
    copies := [], tiles := [], mq := [], launch := [], gens := [], overlays := [], tokmap := [], l1 := [] }

/-- A barrier nothing has arrived at (log entry 6). -/
def Bar.reset : Bar := ⟨0, 0, 0⟩

/-- A function whose rings are not placed (R429; log entry 9). -/
def Fn.reset : Fn :=
  { crBase := 0, crSize := 0, crTail := 0, crHead := 0, erBase := 0, erSize := 0, erHead := 0, erTail := 0,
    prBase := 0, prHead := 0, prTail := 0, count := 1, time := 0, vector := 0, fresh := 0, oldest := none, irqs := 0,
    waiting := [], dropped := 0, prWait := [], bells := [], pending := none, crOff := false }

/-- A package at power-on: firmware not started (R422; log entry 10). -/
def Pkg.reset : Pkg :=
  { ready := false, rom := false, image := [], flash := none, floor := 0, raise := false, recover := false,
    errs := List.replicate 32 0, failed := [], keysUsed := 0, limited := false, down := false, downNoted := false,
    frames := 0, booted := false }

/-- The pod right after reset: package (0, 0) is powered and its firmware has not started (R422); no partition, VF,
context, block or thread exists; every memory, queue and table is empty. -/
def State.reset : State :=
  { rows := 16, cols := 16, tick := 0, cycle := 0, seq := 0, clkw := 0, gathered := ⟨⟨0, 0⟩, [], false⟩, words := (0, 0), inputs := [], mem := [], hostMem := [],
    poison := [], upsets := [], defects := [], threads := [], teams := [], blocks := [], cores := [], bars := [],
    accs := [], flights := [], races := [], weirs := [], joins := [], fills := [], l2 := [], tlb := [], s2tlb := [],
    pages := [], qsets := [], gates := [], gateReqs := [], grants := [], ctxs := [], vfs := [], parts := [], fns := [],
    pkgs := [(0, Pkg.reset)] }

end Sys2Proof.Machine
end

