-- ==== Sys2Proof/Machine/Base.lean ====
section
/-! DEFINITION. Tables, memories and the named reads and writes of the state's parts. -/
namespace Sys2Proof.Machine

/-- The outcomes of a step of this machine. -/
abbrev Out := Host.Outcome State Fault Refusal

/-! ## Tables -/

/-- The row of a key. -/
def tget {κ α : Type} [DecidableEq κ] : Tbl κ α → κ → Option α
  | [], _ => none
  | (k, v) :: t, q => if k = q then some v else tget t q

/-- The table with a key's row set. -/
def tset {κ α : Type} [DecidableEq κ] : Tbl κ α → κ → α → Tbl κ α
  | [], q, v => [(q, v)]
  | (k, u) :: t, q, v => if k = q then (k, v) :: t else (k, u) :: tset t q v

/-- The table with a key's row changed, when it has one. -/
def tupd {κ α : Type} [DecidableEq κ] (t : Tbl κ α) (q : κ) (f : α → α) : Tbl κ α :=
  t.map fun r => if r.1 = q then (r.1, f r.2) else r

/-- The table without a key's row. -/
def tdel {κ α : Type} [DecidableEq κ] (t : Tbl κ α) (q : κ) : Tbl κ α := t.filter fun r => r.1 ≠ q

/-- Every row changed. -/
def tmap {κ α : Type} (t : Tbl κ α) (f : κ → α → α) : Tbl κ α := t.map fun r => (r.1, f r.1 r.2)

/-- The first row that meets a condition. -/
def tfind {κ α : Type} (t : Tbl κ α) (p : κ → α → Bool) : Option (κ × α) := t.find? fun r => p r.1 r.2

/-! ## Memory: sorted cells, none of them blank (INVENTORY, Memory and ordering) -/

/-- The byte at an address; an unlisted address reads blank (log entry 3). -/
def memGet : List Host.Cell → Nat → Byte
  | [], _ => Config.blank
  | (k, v) :: m, a => if k = a then v else memGet m a

/-- The memory with one byte written, in canonical form. -/
def memSet : List Host.Cell → Nat → Byte → List Host.Cell
  | [], a, b => if b = Config.blank then [] else [(a, b)]
  | (k, v) :: m, a, b =>
    if a < k then (if b = Config.blank then (k, v) :: m else (a, b) :: (k, v) :: m)
    else if a = k then (if b = Config.blank then m else (a, b) :: m)
    else (k, v) :: memSet m a b

/-- Canonical form: addresses strictly rise from `lo`, and no cell is blank. -/
def memWfFrom : Nat → List Host.Cell → Bool
  | _, [] => true
  | lo, (k, v) :: m => decide (lo ≤ k) && decide (v ≠ Config.blank) && memWfFrom (k + 1) m

/-- Canonical form of a memory. -/
def Memory.wf (m : List Host.Cell) : Bool := memWfFrom 0 m

/-- n bytes from an address. -/
def memBytes (m : List Host.Cell) (a n : Nat) : List Byte := (List.range n).map fun i => memGet m (a + i)

/-- The little-endian value of n bytes (R5). -/
def memRead (m : List Host.Cell) (a n : Nat) : Nat := bytesToNat (memBytes m a n)

/-- Bytes written from an address on. -/
def memPut : List Host.Cell → Nat → List Byte → List Host.Cell
  | m, _, [] => m
  | m, a, b :: bs => memPut (memSet m a b) (a + 1) bs

/-- The low n bytes of a value written little-endian (R5). -/
def memWrite (m : List Host.Cell) (a n v : Nat) : List Host.Cell := memPut m a (natToBytes n v)

/-! ## Parts of the state -/

/-- The record of a thread. -/
def State.thread (s : State) (t : ThreadId) : Option Thread := tget s.threads t
/-- A thread changed. -/
def State.updThread (s : State) (t : ThreadId) (f : Thread → Thread) : State := { s with threads := tupd s.threads t f }
/-- Every thread changed. -/
def State.mapThreads (s : State) (f : ThreadId → Thread → Thread) : State := { s with threads := tmap s.threads f }
/-- Several threads changed. -/
def State.updThreads (s : State) (ts : List ThreadId) (f : Thread → Thread) : State :=
  s.mapThreads fun i t => if i ∈ ts then f t else t
/-- The record of a team. -/
def State.team (s : State) (t : TeamId) : Option Team := tget s.teams t
/-- A team changed. -/
def State.updTeam (s : State) (t : TeamId) (f : Team → Team) : State := { s with teams := tupd s.teams t f }
/-- The record of a block. -/
def State.block (s : State) (b : BlockId) : Option Block := tget s.blocks b
/-- A block changed. -/
def State.updBlock (s : State) (b : BlockId) (f : Block → Block) : State := { s with blocks := tupd s.blocks b f }
/-- The record of a core; a core that is not listed is at reset. -/
def State.core (s : State) (c : CoreId) : Core := (tget s.cores c).getD Core.reset
/-- A core changed. -/
def State.updCore (s : State) (c : CoreId) (f : Core → Core) : State := { s with cores := tset s.cores c (f (s.core c)) }
/-- The record of a barrier; a barrier that is not listed has no arrivals. -/
def State.bar (s : State) (b : BarId) : Bar := (tget s.bars b).getD Bar.reset
/-- The record of a context. -/
def State.ctx (s : State) (c : CtxId) : Option Ctx := tget s.ctxs c
/-- A context changed. -/
def State.updCtx (s : State) (c : CtxId) (f : Ctx → Ctx) : State := { s with ctxs := tupd s.ctxs c f }
/-- The record of a VF. -/
def State.vf (s : State) (v : VfId) : Option Vf := tget s.vfs v
/-- A VF changed. -/
def State.updVf (s : State) (v : VfId) (f : Vf → Vf) : State := { s with vfs := tupd s.vfs v f }
/-- The record of a partition. -/
def State.part (s : State) (p : Nat) : Option Part := tget s.parts p
/-- A partition changed. -/
def State.updPart (s : State) (p : Nat) (f : Part → Part) : State := { s with parts := tupd s.parts p f }
/-- The record of a function; a function that is not listed is at reset. -/
def State.fn (s : State) (f : FnId) : Fn := (tget s.fns f).getD Fn.reset
/-- A function changed. -/
def State.updFn (s : State) (i : FnId) (f : Fn → Fn) : State := { s with fns := tset s.fns i (f (s.fn i)) }
/-- The record of a package; a package that is not listed is at power-on. -/
def State.pkg (s : State) (p : Nat) : Pkg := (tget s.pkgs p).getD Pkg.reset
/-- A package changed. -/
def State.updPkg (s : State) (p : Nat) (f : Pkg → Pkg) : State := { s with pkgs := tset s.pkgs p (f (s.pkg p)) }
/-- The record of a queue set. -/
def State.qset (s : State) (q : QSetId) : Option QSet := tget s.qsets q
/-- A queue set changed. -/
def State.updQSet (s : State) (q : QSetId) (f : QSet → QSet) : State := { s with qsets := tupd s.qsets q f }
/-- The record of a gate. -/
def State.gate (s : State) (n : Nat) : Option Gate := tget s.gates n
/-- A gate changed. -/
def State.updGate (s : State) (n : Nat) (f : Gate → Gate) : State := { s with gates := tupd s.gates n f }

/-- A fresh number, for accesses, commands and records. -/
def State.fresh (s : State) : State × Nat := ({ s with seq := s.seq + 1 }, s.seq)

/-- Die of a core (R14). -/
def coreDie (c : CoreId) : Nat := c.core / 64
/-- Package quad number of a core (R14). -/
def coreQuad (c : CoreId) : Nat := c.core / 4
/-- The die of a core, with its package. -/
def coreDieId (c : CoreId) : DieId := ⟨c.pkg, coreDie c⟩

/-- The block of a team. -/
def State.blockOf (s : State) (t : TeamId) : Option Block := (s.team t).bind fun tm => s.block tm.block
/-- The context of a team. -/
def State.ctxOf (s : State) (t : TeamId) : Option CtxId := (s.blockOf t).map (·.ctx)
/-- The partition of a VF. -/
def State.partOfVf (s : State) (v : VfId) : Nat := ((s.vf v).map (·.part)).getD 0
/-- The partition of a context. -/
def State.partOfCtx (s : State) (c : CtxId) : Nat := s.partOfVf c.vf
/-- Row, column and package of a coordinate pair (R18). -/
def rowOf (pkg : Nat) : Nat := pkg / 16
def colOf (pkg : Nat) : Nat := pkg % 16
/-- The package lies in the pod's rectangle (R18). -/
def State.hasPkg (s : State) (pkg : Nat) : Bool := rowOf pkg < s.rows && colOf pkg < s.cols

/-- The partition of a number on a package: the one that has a share there. A partition is kept under its number with the package on which
it was first set, 32 times (R23, R394, R395; log entry 22). -/
def State.partOn (s : State) (pkg num : Nat) : Option Nat :=
  (s.parts.find? fun (k, p) => k % 32 = num && p.shares.any (·.pkg = pkg)).map (·.1)
/-- The share of a partition on a package. -/
def State.share (s : State) (p pkg : Nat) : Option Share := (s.part p).bind fun pt => pt.shares.find? (·.pkg = pkg)

/-- The threads of a team with their records, in ascending lane. -/
def State.members (s : State) (t : TeamId) : List (ThreadId × Thread) :=
  (List.range 32).filterMap fun l => (s.thread ⟨t, l⟩).map fun th => (⟨t, l⟩, th)
/-- The live threads of a team. -/
def State.liveIds (s : State) (t : TeamId) : List ThreadId := ((s.members t).filter (·.2.live)).map (·.1)
/-- A set of threads of one team as a mask of team-lane ids (R119). -/
def laneMask (ts : List ThreadId) : Nat := ofBits 32 (fun l => ts.any (·.lane = l))
/-- Mask of the live threads. -/
def State.liveMask (s : State) (t : TeamId) : Nat := laneMask (s.liveIds t)

/-- TIDX of a thread: TNUM x 32 + team-lane id (R16, R374). -/
def State.tidx (s : State) (t : ThreadId) : Nat := ((s.team t.team).map (·.tnum)).getD 0 * 32 + t.lane

/-- Scratchpad size of a core (R195). -/
def Core.spsz (c : Core) : Nat := c.poolb1.toNat - c.poolb0.toNat

/-- The entry of a tile, all zero and without tag when it is not listed (R282). -/
def Core.tile (c : Core) (n : Nat) : Tile := (c.tiles.find? (·.id = n)).getD ⟨n, 0, []⟩
/-- A tile written. -/
def Core.setTile (c : Core) (t : Tile) : Core := { c with tiles := t :: c.tiles.filter (·.id ≠ t.id) }
/-- Cell (i, j) of a tile. -/
def Tile.cell (t : Tile) (i j : Nat) : Nat := ((tget t.cells (16 * i + j)).getD 0).toNat

end Sys2Proof.Machine
end

