-- ==== Sys2Proof/Machine/Mem.lean ====
section
/-! DEFINITION. Homes, grants, the two-stage translation and the bytes behind an address (10_combining R236, R237;
17_partitions R401 to R405, R411; 08_memory R178, R199). -/
namespace Sys2Proof.Machine

/-! ## Canonical addresses (R178) -/

/-- Every byte from a to a + size - 1 lies in the canonical range. -/
def canonical (a : Int) (size : Nat) : Bool :=
  (0 ≤ a && a + size ≤ 2 ^ 56) || (2 ^ 64 - 2 ^ 56 ≤ a && a + size ≤ 2 ^ 64)

/-- The address as TADDR holds it: its low 64 bits (R182). -/
def addr64 (a : Int) : Nat := wrap a 64

/-! ## Homes (R236, R237) -/

/-- The entries of the home set that a region's attribute selects. -/
def Homing.entries (h : Homing) (gpa : Nat) : List HomeEnt :=
  match tget h.regions (gpa / 2 ^ 30) with
  | some p => h.set.filter (·.pkg = p)
  | none => h.set

/-- The home of a guest-physical line under a homing: its entry and channel (R237). -/
def Homing.homeOf (h : Homing) (gpa : Nat) : Option (HomeEnt × Nat) :=
  let x := fld gpa 7 50
  let hash := fld x 0 16 ^^^ fld x 16 16 ^^^ fld x 32 16 ^^^ (fld x 48 2 * 2 ^ 14)
  let es := h.entries gpa
  let e := es.length
  match es[hash % e]? with
  | none => none
  | some k =>
    let chs := bitList k.mask.toNat 32
    (chs[x / e % chs.length]?).map fun c => (k, 32 * k.stack + c)

/-- A guest-physical address after the base replacement of a grant (R411): the partition whose space it lies in, the
address, whether writes are allowed, and the granting partition when a grant applies. -/
structure Reach where
  part : Nat
  gpa : Nat
  wr : Bool
  window : Option Nat
deriving DecidableEq, Repr

/-- The grant rule (R411). -/
def State.reach (s : State) (part gpa : Nat) : Reach :=
  match s.grants.find? (fun g => g.taker = part ∧ g.into / 2 ^ 30 = gpa / 2 ^ 30) with
  | some g => ⟨g.giver, g.from_ + gpa % 2 ^ 30, g.write, some g.giver⟩
  | none => ⟨part, gpa, true, none⟩

/-- Home of a guest-physical address of a partition: the entry of its stack and its channel (R237). -/
def State.homeOf (s : State) (part gpa : Nat) : Option (HomeEnt × Nat) :=
  let r := s.reach part gpa
  (s.part r.part).bind fun p => p.homing.homeOf r.gpa

/-- Home package of a guest-physical address of a partition (R211, R237). -/
def State.homePkg (s : State) (part gpa : Nat) : Option Nat := (s.homeOf part gpa).map (·.1.pkg)

/-- Number of a memory controller, one on each die: the home of a stack (R13, R14, R404). -/
def controller (h : HomeEnt) : Nat := 4 * h.pkg + h.stack / 2

/-- Number of a quad of the pod (R14). -/
def quadUnit (c : CoreId) : Nat := 64 * c.pkg + coreQuad c

/-- By whom and for which context an address is translated: the quad whose TLB serves it, none for the queue controllers and
firmware, which have no TLB. -/
structure View where
  ctx : CtxId
  quad : Option Nat
deriving DecidableEq, Repr

/-- The view of a core's threads and engines. -/
def viewAt (c : CtxId) (core : CoreId) : View := ⟨c, some (quadUnit core)⟩

/-- The view of a queue controller. -/
def viewOf (c : CtxId) : View := ⟨c, none⟩

/-! ## Translation tables (R401 to R404) -/

/-- A translation that found nothing or lacks permission, as its page request names it (R407). -/
structure Miss where
  stage : Nat
  perm : Bool
  write : Bool
  page : Nat
  part : Nat
  window : Option Nat
deriving DecidableEq, Repr

/-- A page found: its 4 KiB frame and whether writes are permitted. -/
structure Found where
  frame : Nat
  wr : Bool
deriving DecidableEq, Repr

/-- Whether an entry counts as a miss at a level (R402). -/
def entryMiss (lvl e : Nat) : Bool :=
  let leaf := e.testBit 1
  !e.testBit 0 || (lvl = 0 && !leaf) || (3 ≤ lvl && leaf) || fld e 4 8 ≠ 0 || fld e 57 7 ≠ 0 ||
    (leaf && fld (fld e 12 45) 0 (9 * lvl) ≠ 0)

/-- A walk from a table at the given levels, highest first: the frame of the 4 KiB page of the address (R401). `rd` reads an
8-byte table entry and may itself miss. -/
def walk (rd : Nat → Except Miss Nat) (missed : Miss) (a : Nat) : List Nat → Nat → Except Miss Found
  | [], _ => .error missed
  | l :: ls, table =>
    match rd (table + 8 * fld a (12 + 9 * l) 9) with
    | .error m => .error m
    | .ok e =>
      if entryMiss l e then .error missed
      else if e.testBit 1 then .ok ⟨fld e 12 45 + fld a 12 (9 * l), e.testBit 2⟩
      else walk rd missed a ls (fld e 12 45 * 2 ^ 12)

/-- The five levels of R401, root first. -/
def levels : List Nat := [4, 3, 2, 1, 0]

/-- Key of a host-physical byte of a package in the pod's memory. -/
def memKey (pkg hpa : Nat) : Nat := pkg * 2 ^ Config.physBits + hpa

/-- The (VF, PASID) of a context, by which stage-1 entries and L1 lines are tagged (R198, R199). -/
def State.space (s : State) (c : CtxId) : VfId × Nat := (c.vf, ((s.ctx c).map (·.pasid)).getD 0)

/-- A cached translation that a TLB still holds at this step (R199, R404; log entry 5). -/
def State.tlbLook (s : State) (tlb : List TlbEntry) (unit : Nat) (sp : Option (VfId × Nat)) (part page : Nat) :
    Option TlbEntry :=
  match tlb.find? (fun e => e.unit = unit ∧ e.space = sp ∧ e.part = part ∧ e.page = page) with
  | some e => if Config.tlbHolds s.tick page then some e else none
  | none => none

/-- The page that a partition's stage 2 gives a guest-physical address at its home, from the controller's TLB or by a walk; none
when it is a miss (R401, R404). -/
def State.page2 (s : State) (part gpa : Nat) (k : HomeEnt) : Option Found :=
  match s.share part k.pkg with
  | none => none
  | some sh =>
    match s.tlbLook s.s2tlb (controller k) none part (gpa / 2 ^ 12) with
    | some e => some ⟨e.frame, e.wr⟩
    | none =>
      match walk (fun a => .ok (memRead s.mem (memKey k.pkg a) 8)) ⟨1, false, false, 0, part, none⟩ (gpa % 2 ^ 57) levels
        sh.s2root with
      | .error _ => none
      | .ok f => if sh.channels.getLsbD (f.frame * 2 ^ 12 / Config.channelSpan) then some f else none

/-- Stage 2 (R401, R404): the key of a guest-physical byte of a partition, at its home package. -/
def State.stage2 (s : State) (part gpa : Nat) (write : Bool) : Except Miss Nat :=
  let r := s.reach part gpa
  let miss : Miss := ⟨1, false, write, r.gpa / 2 ^ 12 * 2 ^ 12, r.part, r.window⟩
  if write && !r.wr then .error { miss with perm := true }
  else
    match s.homeOf part gpa with
    | none => .error miss
    | some (k, _) =>
      match s.page2 r.part r.gpa k with
      | none => .error miss
      | some f =>
        if write && !f.wr then .error { miss with perm := true }
        else .ok (memKey k.pkg (f.frame * 2 ^ 12 + r.gpa % 2 ^ 12))

/-- The page that stage 1 gives a guest-virtual address, from the quad's TLB or by a walk from the context's root, each of whose
entries is read at its guest-physical home through stage 2 (R199, R401, R405). -/
def State.page1 (s : State) (v : View) (va : Nat) (write : Bool) : Except Miss Found :=
  let part := s.partOfCtx v.ctx
  let miss : Miss := ⟨0, false, write, va / 2 ^ 12 * 2 ^ 12, part, none⟩
  match v.quad.bind fun q => s.tlbLook s.tlb q (some (s.space v.ctx)) part (va / 2 ^ 12) with
  | some e => .ok ⟨e.frame, e.wr⟩
  | none =>
    match s.ctx v.ctx with
    | none => .error miss
    | some cx =>
      let rd := fun a =>
        match s.stage2 part a false with
        | .error m => .error m
        | .ok k => .ok (memRead s.mem k 8)
      walk rd miss (va % 2 ^ 57) levels cx.s1root

/-- Stage 1 (R199, R401, R405): the guest-physical address of a guest-virtual byte of a context. -/
def State.stage1 (s : State) (v : View) (va : Nat) (write : Bool) : Except Miss Nat :=
  match s.page1 v va write with
  | .error m => .error m
  | .ok f =>
    if write && !f.wr then .error ⟨0, true, write, va / 2 ^ 12 * 2 ^ 12, s.partOfCtx v.ctx, none⟩
    else .ok (f.frame * 2 ^ 12 + va % 2 ^ 12)

/-- A translated byte: its guest-physical address, memory key and home package. -/
structure Place where
  gpa : Nat
  key : Nat
  home : Nat
deriving DecidableEq, Repr

/-- Both stages for a global or frame address (R199). -/
def State.translate (s : State) (v : View) (va : Nat) (write : Bool) : Except Miss Place :=
  match s.stage1 v va write with
  | .error m => .error m
  | .ok gpa =>
    match s.stage2 (s.partOfCtx v.ctx) gpa write with
    | .error m => .error m
    | .ok k => .ok ⟨gpa, k, k / 2 ^ Config.physBits⟩

/-- A translation enters the TLB of a unit, which holds so many. -/
def tlbPut (tlb : List TlbEntry) (e : TlbEntry) (room : Nat) : List TlbEntry :=
  let rest := tlb.filter fun x => !(x.unit = e.unit && x.space = e.space && x.part = e.part && x.page = e.page)
  let mine := (rest.filter (·.unit = e.unit)).take (room - 1)
  e :: rest.filter fun x => x.unit ≠ e.unit || mine.contains x

/-- The translations of an address enter the TLBs when an access is performed, each with the permission of its page (R199,
R402, R404). -/
def State.noteTlb (s : State) (v : View) (va : Nat) : State :=
  match s.page1 v va false with
  | .error _ => s
  | .ok f1 =>
    let part := s.partOfCtx v.ctx
    let gpa := f1.frame * 2 ^ 12 + va % 2 ^ 12
    let r := s.reach part gpa
    let s1 : State := match v.quad with
      | some q => { s with tlb := tlbPut s.tlb ⟨q, some (s.space v.ctx), part, va / 2 ^ 12, f1.frame, f1.wr⟩ Config.tlbEntries }
      | none => s
    match s.homeOf part gpa with
    | none => s1
    | some (k, _) =>
      match s.page2 r.part r.gpa k with
      | none => s1
      | some f2 =>
        { s1 with
          s2tlb := tlbPut s.s2tlb ⟨controller k, none, r.part, r.gpa / 2 ^ 12, f2.frame, f2.wr⟩ Config.stage2TlbEntries }

/-- The bytes behind a range of guest-virtual addresses, each page translated; for reads that runner, the hoist and the
queue machinery make. -/
def State.readVa (s : State) (v : View) (va : Nat) : Nat → Except Miss (List Byte)
  | 0 => .ok []
  | n + 1 =>
    match s.readVa v va n with
    | .error m => .error m
    | .ok bs =>
      match s.translate v (va + n) false with
      | .error m => .error m
      | .ok p => .ok (bs ++ [memGet s.mem p.key])

/-- The bytes behind a range of guest-virtual addresses, line by line, each line translated to its own home (R237). -/
def State.readLines (s : State) (v : View) (va : Nat) : Nat → Except Miss (List Byte)
  | 0 => .ok []
  | n + 1 =>
    match s.readLines v va n with
    | .error m => .error m
    | .ok bs =>
      match s.translate v (va + 128 * n) false with
      | .error m => .error m
      | .ok p => .ok (bs ++ memBytes s.mem p.key 128)

/-- Bytes written behind guest-virtual addresses; bytes of a page that does not translate are dropped. -/
def State.writeVa (s : State) (v : View) (va : Nat) : List Byte → State
  | [] => s
  | b :: bs =>
    match s.translate v va true with
    | .error _ => s.writeVa v (va + 1) bs
    | .ok p => ({ s with mem := memSet s.mem p.key b }).writeVa v (va + 1) bs

/-- The first address of a range, page by page, that does not translate for the access. -/
def State.missVa (s : State) (v : View) (va n : Nat) (write : Bool) : Option Nat :=
  let pages := rangeFrom (va / 4096) ((va + n + 4095) / 4096 - va / 4096)
  (pages.map fun p => max va (p * 4096)).find? fun a =>
    match s.translate v a write with
    | .error _ => true
    | .ok _ => false

/-- Bytes written to guest-physical addresses of a partition; bytes of a page that does not translate are dropped. -/
def State.writeGpa (s : State) (part gpa : Nat) : List Byte → State
  | [] => s
  | b :: bs =>
    match s.stage2 part gpa true with
    | .error _ => s.writeGpa part (gpa + 1) bs
    | .ok k => ({ s with mem := memSet s.mem k b }).writeGpa part (gpa + 1) bs

/-- The value of n bytes at a guest-physical address of a partition, if its first byte translates. -/
def State.readGpa (s : State) (part gpa n : Nat) : Except Miss Nat :=
  match s.stage2 part gpa false with
  | .error m => .error m
  | .ok k => .ok (memRead s.mem k n)

end Sys2Proof.Machine
end

