-- ==== Sys2Proof/Machine/Events.lean ====
section
/-! DEFINITION. Event rings, page-request rings and error counters (18_host R418 to R420, R429; 17_partitions R407, R408;
16_system R379). Ring indices run freely in the state and count entries; a register holds them modulo the ring's size. -/
namespace Sys2Proof.Machine

/-- Key of a byte of the memory of the host that serves a package. -/
def hostKey (pkg addr : Nat) : Nat := pkg * 2 ^ 64 + addr

/-- Bytes written to host memory. -/
def State.hostPut (s : State) (pkg addr : Nat) (bs : List Byte) : State :=
  { s with hostMem := memPut s.hostMem (hostKey pkg addr) bs }

/-- Value of n bytes of host memory. -/
def State.hostRead (s : State) (pkg addr n : Nat) : Nat := memRead s.hostMem (hostKey pkg addr) n

/-- The 32 bytes of an event record (R418, Table 4). -/
def Event.bytes (e : Event) : List Byte :=
  natToBytes 4 e.tag.toNat ++ natToBytes 2 e.status ++ natToBytes 2 e.kind ++ natToBytes 8 e.time ++
    natToBytes 1 e.cause ++ natToBytes 3 0 ++ natToBytes 4 e.tinfo.toNat ++ natToBytes 8 e.addr.toNat

/-- A ring has a free entry: it is enabled and holds fewer records than its size (R419, R429). -/
def Fn.erFree (f : Fn) : Bool := f.erSize ≠ 0 && f.erTail - f.erHead < 2 ^ f.erSize

/-- One record written to the ring, with the interrupt accounting of R420. -/
def State.putEvent (s : State) (i : FnId) (e : Event) : State :=
  let f := s.fn i
  let s := s.hostPut i.pkg (f.erBase + 32 * (f.erTail % 2 ^ f.erSize)) e.bytes
  let fresh := f.fresh + 1
  let raise := f.count ≤ fresh || f.time = 0
  s.updFn i fun f =>
    if raise then { f with erTail := f.erTail + 1, irqs := f.irqs + 1, fresh := 0, oldest := none }
    else { f with erTail := f.erTail + 1, fresh := fresh, oldest := some (f.oldest.getD s.clkw) }

/-- A record written when an entry is free, else held in order, else dropped and counted (R419). -/
def State.postEvent (s : State) (i : FnId) (e : Event) : State :=
  let f := s.fn i
  if f.waiting.isEmpty && f.erFree && f.dropped = 0 then s.putEvent i e
  else if f.waiting.length < Config.heldRecords then s.updFn i fun f => { f with waiting := f.waiting ++ [e] }
  else s.updFn i fun f => { f with dropped := f.dropped + 1 }

/-- Held records enter free entries; the KIND 4 record of the dropped ones goes before them (R419). -/
def State.flushEvents (s : State) (i : FnId) : Nat → State
  | 0 => s
  | n + 1 =>
    let f := s.fn i
    if !f.erFree then s
    else if f.dropped ≠ 0 then
      let s := s.updFn i fun f => { f with dropped := 0 }
      (s.putEvent i ⟨0, min f.dropped 65535, 4, s.clkw, 0, 0, 0⟩).flushEvents i n
    else
      match f.waiting with
      | [] => s
      | e :: es => ((s.updFn i fun f => { f with waiting := es }).putEvent i e).flushEvents i n

/-- The function of a VF and the PF of a package. -/
def vfFn (v : VfId) : FnId := ⟨v.pkg, some v.vf⟩
def pfFn (pkg : Nat) : FnId := ⟨pkg, none⟩

/-- A command ring whose size the host has set to 0 is disabled: it is empty from then on (R429). -/
def Fn.ringOff (f : Fn) : Fn := { f with crSize := 0, crHead := 0, crTail := 0, bells := [], crOff := false }

/-- Completion record of a command (R415, R418); a ring that waits for it to be disabled is disabled (R429). -/
def State.complete (s : State) (f : FnId) (tag : W32) (status result : Nat) : State :=
  (s.postEvent f ⟨tag, status, 0, s.clkw, 0, 0, BitVec.ofNat 64 result⟩).updFn f fun r => if r.crOff then r.ringOff else r

/-! ## Error counters -/

/-- An entry of a counter list raised by one, stopping at 2^64 - 1 (R379, R431). -/
def bump (l : List Nat) (n : Nat) : List Nat := l.set n (min ((l.getD n 0) + 1) (2 ^ 64 - 1))

/-- Counter n of a VF raised (R379). -/
def State.countVf (s : State) (v : VfId) (n : Nat) : State := s.updVf v fun f => { f with errs := bump f.errs n }

/-- Counter n of a partition's error: for the VF that holds the slice, else for every VF bound to it (R379). -/
def State.countPart (s : State) (p n : Nat) : State :=
  match (s.part p).bind (·.running) with
  | some c => s.countVf c.vf n
  | none => { s with vfs := tmap s.vfs fun _ f => if f.part = p then { f with errs := bump f.errs n } else f }

/-- Counter n of the shared resources of a package raised (R431). -/
def State.countPkg (s : State) (pkg n : Nat) : State := s.updPkg pkg fun p => { p with errs := bump p.errs n }

/-! ## Page requests (R407, R408) -/

/-- The 32 bytes of a page-request record (R407, Table 4). -/
def State.pageReqBytes (s : State) (r : PageReq) : List Byte :=
  let kind := r.stage + 2 * b2n r.perm + 4 * b2n r.write + 8 * r.who + 256 * b2n r.window.isSome
  let pasid := if r.stage = 0 then ((s.ctx r.ctx).map (·.pasid)).getD 0 else r.window.getD 0 % 32
  natToBytes 4 r.tag ++ natToBytes 4 kind ++ natToBytes 4 pasid ++ natToBytes 4 0 ++ natToBytes 8 r.page ++
    natToBytes 8 (r.core.core + 256 * r.core.pkg)

/-- A request written to the ring when it has room, else waiting in the device (R407, R429). -/
def State.putPageReq (s : State) (r : PageReq) : State :=
  let f := s.fn (vfFn r.vf)
  if f.prTail - f.prHead < Config.pageRing && f.prWait.isEmpty then
    let s := s.hostPut r.vf.pkg (f.prBase + 32 * (f.prTail % Config.pageRing)) (s.pageReqBytes r)
    s.updFn (vfFn r.vf) fun f => { f with prTail := f.prTail + 1 }
  else s.updFn (vfFn r.vf) fun f => { f with prWait := f.prWait ++ [r] }

/-- Waiting requests enter the ring as the host makes room (R407). -/
def State.flushPages (s : State) (i : FnId) : Nat → State
  | 0 => s
  | n + 1 =>
    let f := s.fn i
    match f.prWait with
    | [] => s
    | r :: rs =>
      if f.prTail - f.prHead < Config.pageRing then
        let s := s.hostPut i.pkg (f.prBase + 32 * (f.prTail % Config.pageRing)) (s.pageReqBytes r)
        (s.updFn i fun f => { f with prTail := f.prTail + 1, prWait := rs }).flushPages i n
      else s

/-- Raise a page request for a context's miss, merged with an outstanding one for the same page (R201, R408). Answers its
request number. `who`: 0 team, 1 copy engine, 2 matrix engine, 3 hoist, 4 queue controller. -/
def State.pageRequest (s : State) (c : CtxId) (core : CoreId) (who : Nat) (m : Miss) : State × Nat :=
  let same := fun r : PageReq =>
    r.vf = c.vf && r.stage = m.stage && r.page = m.page && (m.stage = 1 && r.part = m.part || m.stage = 0 && r.ctx = c)
  match s.pages.find? same with
  | some r => (s, r.tag)
  | none =>
    let (s, tag) := s.fresh
    let r : PageReq :=
      { vf := c.vf, tag := tag, ctx := c, stage := m.stage, perm := m.perm, write := m.write, who := who,
        window := m.window, page := m.page, part := m.part, core := core, inRing := true }
    (({ s with pages := s.pages ++ [r] }).putPageReq r, tag)

end Sys2Proof.Machine
end

