-- ==== Sys2Proof/Machine/Errors.lean ====
section
/-! DEFINITION. Hardware errors: where an uncorrectable error stands, and what clears it (16_system R379, R382, R392; 12_matrix R304;
17_partitions R412). Memory's own errors are the keys of `poison`; errors elsewhere stand in `upsets`. -/
namespace Sys2Proof.Machine

/-! ## Where an error stands -/

/-- An L2 slice's error in a byte of a range of memory keys. -/
def Upset.onKey (key n : Nat) : Upset → Bool
  | .l2 _ k => key ≤ k && k < key + n
  | _ => false

/-- The same in one slice. -/
def Upset.onSlice (slice key n : Nat) : Upset → Bool
  | .l2 l k => l = slice && key ≤ k && k < key + n
  | _ => false

/-- A pool's error in a byte of a range of a core's scratchpad. -/
def Upset.onPad (c : CoreId) (off n : Nat) : Upset → Bool
  | .pad d k => d = c && off ≤ k && k < off + n
  | _ => false

/-- An error in a cell of a tile. -/
def Upset.onTile (c : CoreId) (tile : Nat) (cells : Nat → Bool) : Upset → Bool
  | .cell d t n => d = c && t = tile && cells n
  | _ => false

/-- An error in a frame of a core's instruction store. -/
def Upset.onCode (c : CoreId) (slots : List Nat) : Upset → Bool
  | .code d k => d = c && slots.contains k
  | _ => false

/-- An error in a core's scratchpad or accumulators. -/
def Upset.onCore (cs : CoreId → Bool) : Upset → Bool
  | .pad d _ => cs d
  | .cell d _ _ => cs d
  | _ => false

/-- The L2 slice that caches a partition's guest-physical line: of the slices that its home partition owns on the die of the home
stack, in ascending order, the one of line number modulo their count; none when it owns none there (R15, R396). -/
def State.sliceOf (s : State) (part gpa : Nat) : Option Nat :=
  let r := s.reach part gpa
  match s.homeOf part gpa with
  | none => none
  | some (k, _) =>
    let own := (rangeFrom (16 * (k.stack / 2)) 16).filter fun i => ((s.share r.part k.pkg).any fun sh => sh.slices.getLsbD i)
    own[r.gpa / 128 % own.length]?

/-- Source of the error of a range of a partition's memory, at its guest-physical address and its key (R382): 0 memory, 1 L2, none
for sound bytes. -/
def State.badMem (s : State) (part gpa key n : Nat) : Option Nat :=
  if (rangeFrom key n).any s.poison.contains then some 0
  else if s.upsets.any (Upset.onKey key n) && (s.sliceOf part gpa).any fun i => s.upsets.any (Upset.onSlice i key n) then some 1
  else none

/-- A range of a scratchpad holds an error (source 2). -/
def State.badPad (s : State) (c : CoreId) (off n : Nat) : Bool := s.upsets.any (Upset.onPad c off n)

/-- Cells of a tile hold an error (source 3). -/
def State.badTile (s : State) (c : CoreId) (tile : Nat) (cells : Nat → Bool) : Bool := s.upsets.any (Upset.onTile c tile cells)

/-- The frame of an overlay that holds a word has an error (source 4; R358). -/
def State.badCode (s : State) (c : CoreId) (o : Overlay) (off : Nat) : Bool :=
  s.upsets.any (Upset.onCode c (o.slots[off / 1024]?.toList))

/-- The counter of a VF that an uncorrectable error of a source raises (R379, Table 5). -/
def errCounter (src : Nat) : Nat :=
  match src with
  | 0 => 1
  | 1 => 3
  | _ => 5

/-- An uncorrectable error of a source counted for the VF of a context that met it at a guest-physical address of its partition:
memory and L2 slices behind a window are another partition's, and are counted for its VFs (R379, R412). -/
def State.countBad (s : State) (c : CtxId) (gpa src : Nat) : State :=
  let r := s.reach (s.partOfCtx c) gpa
  if src ≤ 1 && r.window.isSome then s.countPart r.part (errCounter src) else s.countVf c.vf (errCounter src)

/-- Bytes read for a context by its queue controller: an uncorrectable error among them is counted, and the read goes on with the bytes that stand
there (R379; log entry 46). -/
def State.controllerReads (s : State) (c : CtxId) (gpa key n : Nat) : State :=
  match s.badMem (s.partOfCtx c) gpa key n with
  | some src => s.countBad c gpa src
  | none => s

/-! ## What clears it: a write of the place -/

/-- Errors of some places gone. -/
def State.heal (s : State) (gone : Upset → Bool) : State := { s with upsets := s.upsets.filter fun u => !gone u }

/-- Bytes placed in pod memory from outside its cores: what stood there, errors included, is gone. -/
def State.memPlace (s : State) (key : Nat) (bs : List Byte) : State :=
  { s.heal (Upset.onKey key bs.length) with
    mem := memPut s.mem key bs, poison := s.poison.filter fun p => !(key ≤ p && p < key + bs.length) }

end Sys2Proof.Machine
end

