-- ==== Sys2Proof/Machine/Cache.lean ====
section
/-! DEFINITION. Memory and the cores' L1 (08_memory R193, R194, R197 to R200; 09_ordering R212, R231). A line's clean bytes read as
memory holds them; its dirty bytes are held there and nowhere else. What an L2 slice caches is named in the State; its bytes stand with
those of memory (log entry 101). -/
namespace Sys2Proof.Machine

/-! ## Memory -/

/-- Bytes written at memory keys; a written byte holds no uncorrectable error any more. -/
def State.memStore (s : State) (key n v : Nat) : State :=
  { s.heal (Upset.onKey key n) with mem := memWrite s.mem key n v, poison := s.poison.filter fun k => !(key ≤ k && k < key + n) }

/-! ## The L2 slices (R15, R193, R194, R198, R199, R396) -/

/-- Lines that a slice holds: 2 MiB (R12). -/
def l2Lines : Nat := 16384

/-- The slice of the pod that caches a partition's guest-physical line, and the name under which it holds it. -/
def State.l2Home (s : State) (part gpa key : Nat) : Option L2Line :=
  let r := s.reach part gpa
  (s.sliceOf part gpa).map fun i =>
    ⟨64 * (key / 2 ^ Config.physBits) + i, r.part, r.gpa / 128 * 128, key / 128 * 128, false⟩

/-- Two lines of the slices are the same one. -/
def L2Line.same (a b : L2Line) : Bool := a.unit = b.unit && a.part = b.part && a.gpa = b.gpa

/-- A line leaves its slice. One that memory has not the latest bytes of takes an error of the slice with it into memory; of another the
error leaves with the slice's copy (log entry 101). -/
def State.l2Drop (s : State) (l : L2Line) : State :=
  let bad := (rangeFrom l.key 128).filter fun k => s.upsets.any (Upset.onSlice (l.unit % 64) k 1)
  let s := if l.dirty then { s with poison := s.poison ++ bad.filter fun k => !s.poison.contains k } else s
  { s.heal (Upset.onSlice (l.unit % 64) l.key 128) with l2 := s.l2.filter fun x => !(x.same l) }

/-- The lines of the slices that meet a condition leave. -/
def State.l2DropAll (s : State) (p : L2Line → Bool) : State := (s.l2.filter p).foldl (fun s l => s.l2Drop l) s

/-- A line enters its slice under a policy: at the most recent position, under streaming at the least recent; the slice's least recent line
leaves a full one. -/
def State.l2Fill (s : State) (cp : Nat) (l : L2Line) : State :=
  let mine := s.l2.filter (·.unit = l.unit)
  let s := match if mine.length < l2Lines then none else mine.getLast? with
    | some o => s.l2Drop o
    | none => s
  if cp = 1 then { s with l2 := s.l2 ++ [l] } else { s with l2 := l :: s.l2 }

/-- An access that reaches a line's L2 slice under a policy: a line that is there is used in place and moves to the most recent position;
else the policies that allocate in L2 place it (R198). `write` says that the slice takes bytes that memory has not. -/
def State.l2Use (s : State) (part gpa key cp : Nat) (write : Bool) : State :=
  match s.l2Home part gpa key with
  | none => s
  | some l =>
    match s.l2.find? (·.same l) with
    | some x => { s with l2 := { x with dirty := x.dirty || write } :: s.l2.filter fun y => !(y.same l) }
    | none => if cp < 2 then s.l2Fill cp { l with dirty := write } else s

/-! ## Lines -/

/-- Ways of the L1: each 4 KiB of its region is one (R198). -/
def Core.ways (c : Core) : Nat := (c.poolb2.toNat - c.poolb1.toNat) / 4096

/-- The line holds a virtual line of a (VF, PASID). -/
def L1Line.tagged (l : L1Line) (sp : VfId × Nat) (line : Nat) : Bool := l.vf = sp.1 && l.pasid = sp.2 && l.line = line

/-- Two lines of one core are the same one. -/
def L1Line.same (a b : L1Line) : Bool := a.vf = b.vf && a.pasid = b.pasid && a.line = b.line

/-- Set of a line: address bits [11:7] (R198). -/
def L1Line.set (l : L1Line) : Nat := l.line % 32

/-- The line that a core's L1 holds for a context's address. -/
def State.l1Line (s : State) (core : CoreId) (c : CtxId) (va : Nat) : Option L1Line :=
  if (s.core core).l1.isEmpty then none else (s.core core).l1.find? (·.tagged (s.space c) (va / 128))

/-- A line of a core changed. -/
def Core.updLine (k : Core) (l : L1Line) (f : L1Line → L1Line) : Core := { k with l1 := k.l1.map fun x => if x.same l then f x else x }

/-- A byte of a line as the L1 holds it. -/
def State.lineByte (s : State) (l : L1Line) (off : Nat) : Byte :=
  match l.dirty.find? (·.off = off) with
  | some d => d.byte
  | none => (l.copy.map fun c => c.2.getD off 0).getD (memGet s.mem (l.key + off))

/-- A line's dirty bytes written back (R194, R212). -/
def State.writeBack (s : State) (l : L1Line) : State :=
  let s := if l.dirty.isEmpty then s else s.l2Use l.part l.gpa l.key 3 true
  l.dirty.foldl (fun s d => s.memStore (l.key + d.off) 1 d.byte.toNat) s

/-- A line is written back and stays, clean. -/
def State.cleanLine (s : State) (core : CoreId) (l : L1Line) : State :=
  (s.writeBack l).updCore core fun k => k.updLine l fun x => { x with dirty := [] }

/-- Lines of a core written back and dropped. -/
def State.dropLines (s : State) (core : CoreId) (p : L1Line → Bool) : State :=
  if (s.core core).l1.any p then
    let ls := (s.core core).l1.filter p
    (ls.foldl (fun s l => s.writeBack l) s).updCore core fun k => { k with l1 := k.l1.filter fun l => !p l }
  else s

/-- Lines of every core written back and dropped. -/
def State.dropAllLines (s : State) (p : CoreId → L1Line → Bool) : State :=
  s.cores.foldl (fun s (c, _) => s.dropLines c (p c)) s

/-! ## Allocation (R198, R200) -/

/-- The protected lines of a set, of which the oldest loses its protection beyond half of the ways. -/
def unprotect (ways : Nat) (l1 : List L1Line) (set : Nat) : List L1Line :=
  let ps := l1.filter fun l => l.set = set && l.prot
  if ways < 2 * ps.length then
    match ps.getLast? with
    | some o => l1.map fun l => if l.same o then { l with prot := false } else l
    | none => l1
  else l1

/-- The line of a full set that leaves: the least recent unprotected one, else the least recent. -/
def victim (mine : List L1Line) : Option L1Line :=
  match (mine.filter fun l => !l.prot).getLast? with
  | some l => some l
  | none => mine.getLast?

/-- A line enters a core's L1 under a policy: streaming at the least recent position, else at the most recent; answers the line
that leaves. -/
def Core.allocate (k : Core) (cp : Nat) (l : L1Line) : Core × Option L1Line :=
  let l := { l with prot := cp = 2 }
  let l1 := unprotect k.ways (l :: k.l1) l.set
  let mine := (l1.drop 1).filter (·.set = l.set)
  let out := if mine.length < k.ways then none else victim mine
  let kept := match out with
    | some o => l1.filter fun x => !(x.same o)
    | none => l1
  ({ k with l1 := if cp = 1 then kept.drop 1 ++ kept.take 1 else kept }, out)

/-- A hit moves its line to the most recent position (log entry 76). -/
def Core.touch (k : Core) (l : L1Line) : Core := { k with l1 := k.l1.filter (·.same l) ++ k.l1.filter fun x => !(x.same l) }

/-- A line is filled: it must not be held already under its own tag. What the quad holds of it under another tag leaves first
(R200); a no-allocate access, and a core whose L1 has no way, fill nothing. -/
def State.fillLine (s : State) (core : CoreId) (cp : Nat) (l : L1Line) : State :=
  if cp = 3 || (s.core core).ways = 0 then s
  else
    let s := s.dropAllLines fun c x => quadUnit c = quadUnit core && x.key = l.key && !(x.same l)
    let (k, out) := (s.core core).allocate cp l
    let s := s.updCore core fun _ => k
    match out with
    | some o => s.writeBack o
    | none => s

/-- The clean line of a translated address. -/
def State.newLine (s : State) (c : CtxId) (va : Nat) (p : Place) (copy : Option (Nat × List Byte)) : L1Line :=
  { vf := c.vf, pasid := (s.space c).2, line := va / 128, part := s.partOfCtx c, gpa := p.gpa / 128 * 128,
    key := p.key / 128 * 128, prot := false, dirty := [], copy := copy }

/-- An access that allocates nothing reaches memory behind what its quad holds of the line under other tags: that is written back, so that
no synonym exposes two values (R200; log entry 101). -/
def State.cleanSynonyms (s : State) (core : CoreId) (l : L1Line) : State :=
  s.cores.foldl (fun s (c, k) =>
    if quadUnit c = quadUnit core then
      (k.l1.filter fun x => x.key = l.key && !(x.same l) && !x.dirty.isEmpty).foldl (fun s x => s.cleanLine c x) s
    else s) s

/-- An access finds or fills the L1 line of its address, under its policy; one that misses there reaches the line's L2 slice. -/
def State.useLine (s : State) (core : CoreId) (c : CtxId) (va cp : Nat) (p : Place) : State :=
  match s.l1Line core c va with
  | some l => s.updCore core fun k => k.touch l
  | none =>
    let l := s.newLine c va p none
    let s := s.l2Use (s.partOfCtx c) p.gpa p.key cp false
    if cp = 3 || (s.core core).ways = 0 then s.cleanSynonyms core l else s.fillLine core cp l

/-! ## Stores (R212, R231) -/

/-- The bytes of a store become dirty bytes of a line; the stores that they overwrite there stay named. -/
def L1Line.write (l : L1Line) (off n v : Nat) (w : Writer) : L1Line :=
  let under := fun o : Nat => ((l.dirty.find? (·.off = o)).elim [] (·.by_)).filter (· ≠ w)
  { l with dirty := (l.dirty.filter fun d => !(off ≤ d.off && d.off < off + n)) ++
      (List.range n).map fun i => ⟨off + i, BitVec.ofNat 8 (v / 2 ^ (8 * i)), w :: under (off + i)⟩ }

/-- What a core's L1 holds of bytes that have been written to memory by its own threads: dirty bytes there are no longer the latest,
and read-only copies of the line leave (R212, R231). -/
def State.passL1 (s : State) (core : CoreId) (key n : Nat) : State :=
  if (s.core core).l1.isEmpty then s
  else s.updCore core fun k =>
    { k with l1 := (k.l1.filter fun l => !(l.copy.isSome && l.key = key / 128 * 128)).map fun l =>
        { l with dirty := l.dirty.filter fun d => !(key ≤ l.key + d.off && l.key + d.off < key + n) } }

/-- The lines at a key that a core holds dirty are written back: an atomic or an engine reads memory after it (R213, R214). -/
def State.exposeKey (s : State) (core : CoreId) (key : Nat) : State :=
  ((s.core core).l1.filter fun l => l.key = key / 128 * 128 && !l.dirty.isEmpty).foldl (fun s l => s.cleanLine core l) s

/-- Numbers of the stores of some threads whose bytes stand in a core's L1 only. -/
def State.dirtySeqs (s : State) (core : CoreId) (p : ThreadId → Bool) : List Nat :=
  ((s.core core).l1.flatMap fun l => l.dirty.flatMap fun d => (d.by_.filter fun w => w.owners.any p).map (·.seq)).eraseDups

/-- Stores of some threads that stand in an L1 only are written to memory: a wider release or fence covers them (R212, R217). -/
def State.expose (s : State) (core : CoreId) (p : Writer → Bool) : State :=
  ((s.core core).l1.filter fun l => l.dirty.any fun d => d.by_.any p).foldl (fun s l => s.cleanLine core l) s

/-- The same in every core. -/
def State.exposeAll (s : State) (p : Writer → Bool) : State := s.cores.foldl (fun s (c, _) => s.expose c p) s

/-- An acquire at partition scope: no later load of the core is served from a read-only copy of a remote line (R217, R232). -/
def State.acquire (s : State) (core : CoreId) : State :=
  if (s.core core).l1.any (·.copy.isSome) then s.updCore core fun k => { k with l1 := k.l1.filter (·.copy.isNone) } else s

end Sys2Proof.Machine
end

