-- ==== Sys2Proof/Machine/Hoist.lean ====
section
/-! DEFINITION. Overlays, tokens and the instruction store (02_formats R50; 03_assembly R67 to R70; 15_overlays R358 to R363). -/
namespace Sys2Proof.Machine

/-- Image address and entry number of an entry reference (R70). -/
def erefImage (e : Nat) : Nat := e / 4096 * 4096
def erefEntry (e : Nat) : Nat := e % 4096

/-- First slot of an overlay (R358). -/
def Overlay.first (o : Overlay) : Nat := o.slots.headD 0

/-- Generation of a slot (R359). -/
def Core.gen (c : Core) (slot : Nat) : Nat := (tget c.gens slot).getD 0

/-- Token of an overlay: first slot and its generation (R50). -/
def Core.tokenOf (c : Core) (o : Overlay) : Nat := o.first * 1024 + c.gen o.first

/-- The overlay at a first slot; a faulty one has no slot any more (R359, R366). -/
def Core.overlayAt (c : Core) (first : Nat) : Option Overlay := c.overlays.find? fun o => o.state ≠ .faulty ∧ o.first = first

/-- The overlay for which a token is current (R359). -/
def Core.current (c : Core) (tok : Nat) : Option Overlay :=
  if c.gen (tok / 1024) = tok % 1024 then c.overlayAt (tok / 1024) else none

/-- The filling or resident overlay tagged (VF, PASID, image) (R359, R366). -/
def Core.tagged (c : Core) (v : VfId) (pasid image : Nat) : Option Overlay :=
  c.overlays.find? fun o => o.state ≠ .faulty ∧ o.vf = v ∧ o.pasid = pasid ∧ o.image = image

/-- An overlay of a core changed. -/
def Core.updOverlay (c : Core) (first : Nat) (f : Overlay → Overlay) : Core :=
  { c with overlays := c.overlays.map fun o => if o.state ≠ .faulty ∧ o.first = first then f o else o }

/-- An overlay leaves the store: its frames are free and its first slot's generation advances (R359, R362). -/
def Core.dropOverlay (c : Core) (first : Nat) : Core :=
  { c with overlays := c.overlays.filter (fun o => o.state = .faulty ∨ o.first ≠ first)
           gens := tset c.gens first ((c.gen first + 1) % 1024) }

/-- The faulty overlay of a tag forgotten: a fill of the image starts. -/
def Core.clearFaulty (c : Core) (v : VfId) (pasid image : Nat) : Core :=
  { c with overlays := c.overlays.filter fun o => !(o.state = .faulty && o.vf = v && o.pasid = pasid && o.image = image) }

/-- An overlay becomes faulty: its frames are free and its first slot's generation advances (R359, R366). -/
def Core.spoilOverlay (c : Core) (first : Nat) : Core :=
  match c.overlayAt first with
  | none => c
  | some o =>
    let k := (c.dropOverlay first).clearFaulty o.vf o.pasid o.image
    { k with overlays := k.overlays ++ [{ o with state := .faulty, slots := [], body := [], pins := 0, refs := 0, counts := [] }] }

/-- Free frames of the 64 (R358). -/
def Core.freeSlots (c : Core) : List Nat := (List.range 64).filter fun k => !(c.overlays.any fun o => o.slots.contains k)

/-- PASID of a context. -/
def State.pasid (s : State) (c : CtxId) : Nat := ((s.ctx c).map (·.pasid)).getD 0

/-- The context holds its partition's slice (R24). -/
def State.ctxRuns (s : State) (c : CtxId) : Bool := (s.part (s.partOfCtx c)).any fun p => p.running = some c

/-- A thread of a context on a core stands in an overlay: its PC token is current for it, or it is parked in the target of a fill that is
this overlay, also when the fill has ended while its team is stopped (R361). -/
def State.standsIn (s : State) (c : CoreId) (o : Overlay) (x : CtxId) (t : Thread) : Bool :=
  t.live &&
    (match t.park with
     | .fill f image _ =>
       (match s.fills.find? (·.key = f) with
        | some x => x.slot = some o.first
        | none => o.image = image && o.vf = x.vf && o.pasid = s.pasid x)
     | _ => t.pc.tok.toNat = (s.core c).tokenOf o)

/-- A live thread is in the overlay of a core: a resident one, or one of a running context's teams suspended from that core (R361). -/
def State.inOverlay (s : State) (c : CoreId) (o : Overlay) : Bool :=
  (s.threads.any fun (i, t) => i.team.core = c && (s.ctxOf i.team).any fun x => s.standsIn c o x t) ||
    s.ctxs.any fun (x, k) => s.ctxRuns x && k.susp.any fun p =>
      p.saved.id.core = c && p.saved.threads.any fun y => s.standsIn c o x y.2

/-- Evictable overlays (R361). -/
def State.evictable (s : State) (c : CoreId) (o : Overlay) : Bool :=
  o.state = .resident && o.pins = 0 && !s.inOverlay c o

/-- The order of eviction (R362): references 0 first, then oldest stamp, then lowest first slot. -/
def evictBefore (a b : Overlay) : Bool :=
  let ka := b2n (a.refs ≠ 0)
  let kb := b2n (b.refs ≠ 0)
  if ka ≠ kb then ka < kb else if a.stamp ≠ b.stamp then a.stamp < b.stamp else a.first ≤ b.first

/-- Insertion by an order. -/
def insertBy {α : Type} (le : α → α → Bool) (x : α) : List α → List α
  | [] => [x]
  | y :: ys => if le x y then x :: y :: ys else y :: insertBy le x ys

/-- Sorting by an order. -/
def sortBy {α : Type} (le : α → α → Bool) : List α → List α
  | [] => []
  | x :: xs => insertBy le x (sortBy le xs)

/-- Evict in order until F frames are free (R362). -/
def evictUntil (c : Core) (f : Nat) : List Overlay → Core
  | [] => c
  | o :: os => if f ≤ c.freeSlots.length then c else evictUntil (c.dropOverlay o.first) f os

/-- The frames of a fill that needs F of them, after eviction; none when even that leaves too few (R362). -/
def State.allocate (s : State) (cid : CoreId) (f : Nat) : Option (Core × List Nat) :=
  let c := s.core cid
  let ev := sortBy evictBefore (c.overlays.filter (s.evictable cid))
  let most := c.freeSlots.length + (ev.map (·.slots.length)).foldl (· + ·) 0
  if most < f then none
  else
    let c' := evictUntil c f ev
    some (c', c'.freeSlots.take f)

/-! ## The image header (R67 to R69) -/

/-- CRC-32 of IEEE 802.3: one bit of one byte, reflected. -/
def crcBit : Nat → Nat → Nat
  | 0, c => c
  | n + 1, c => crcBit n (if c % 2 = 1 then c / 2 ^^^ 0xEDB88320 else c / 2)

/-- CRC-32 of IEEE 802.3 over bytes. -/
def crc32 (bs : List Byte) : Nat := (bs.foldl (fun c b => crcBit 8 (c ^^^ b.toNat)) 0xFFFFFFFF) ^^^ 0xFFFFFFFF

/-- A header that passes R69, except for BODYCRC: L, the entry table, and BODYCRC. -/
structure Header where
  len : Nat
  entries : List Nat
  crc : Nat
deriving DecidableEq, Repr

/-- The checks of R69 on the first 0x400 bytes of an image, as one number. -/
def headerOf (h : Nat) : Option Header :=
  let l := fld h (8 * 0x08) 32
  let f := fld h (8 * 0x0C) 32
  let e := fld h (8 * 0x10) 32
  let table := (List.range e).map fun i => fld h (8 * (0x40 + 4 * i)) 32
  if fld h 0 32 = 0x4F4E5131 ∧ fld h 32 16 = 1 ∧ fld h 48 16 = 0 ∧ 1 ≤ l ∧ l ≤ 16384 ∧ f = (l + 1023) / 1024 ∧ 1 ≤ e ∧
      e ≤ 64 ∧ fld h (8 * 0x18) 320 = 0 ∧ table.all (· < l) ∧ fld h (8 * (0x40 + 4 * e)) (8 * (0x3C0 - 4 * e)) = 0
  then some ⟨l, table, fld h (8 * 0x14) 32⟩
  else none

/-- The 0x400 bytes of an image before its body, translated for a context (R67). -/
def State.readHeader (s : State) (v : View) (image : Nat) : Except Miss Nat := (s.readLines v image 8).map bytesToNat

/-- The first line of a range of guest-virtual lines that holds an uncorrectable error: its guest-physical address and the source. -/
def State.badLines (s : State) (v : View) (va n : Nat) : Option (Nat × Nat) :=
  if s.poison.isEmpty && s.upsets.isEmpty then none
  else (List.range n).findSome? fun k => match s.translate v (va + 128 * k) false with
    | .ok p => (s.badMem (s.partOfCtx v.ctx) p.gpa p.key 128).map fun src => (p.gpa, src)
    | .error _ => none

/-- The error count for a range of virtual addresses that the queue controller reads (R379; log entry 46). -/
def State.noteLines (s : State) (c : CtxId) (va n : Nat) : State :=
  match s.badLines (viewOf c) (va / 128 * 128) ((va % 128 + n + 127) / 128) with
  | some (gpa, src) => s.countBad c gpa src
  | none => s

/-! ## Resolution (R360) -/

/-- The token map's entry of a token (R360, Table 1). -/
def Core.mapEntry (c : Core) (tok : Nat) : Option MapEntry :=
  c.tokmap.find? fun e => e.slot = tok / 1024 ∧ e.gen = tok % 1024

/-- What a token resolves to for a context. -/
inductive Resolved where
  | overlay (o : Overlay)
  | image (i : Nat)
  | illegal
deriving DecidableEq, Repr

/-- R360: a current token gives its overlay, a stale one its image, or the overlay that now holds the image. -/
def State.resolve (s : State) (core : CoreId) (x : CtxId) (tok : Nat) : Resolved :=
  let c := s.core core
  match c.current tok with
  | some o => if o.vf = x.vf ∧ o.pasid = s.pasid x then .overlay o else .illegal
  | none =>
    match c.mapEntry tok with
    | none => .illegal
    | some e =>
      if e.vf = x.vf ∧ e.pasid = s.pasid x then
        match c.tagged x.vf (s.pasid x) e.image with
        | some o => .overlay o
        | none => .image e.image
      else .illegal

/-- The fill that an overlay, or an image without one yet, is waiting for. -/
def State.fillOf (s : State) (core : CoreId) (x : CtxId) (image : Nat) : Option Fill :=
  s.fills.find? fun f => f.core = core ∧ f.ctx.vf = x.vf ∧ s.pasid f.ctx = s.pasid x ∧ f.image = image ∧
    (f.slot.isSome ∨ f.ovld.isNone)

/-- A demand fill of an image for a thread, joined to one already running (R366, R369). Answers its key. -/
def State.demandFill (s : State) (id : ThreadId) (x : CtxId) (image : Nat) : State × Nat :=
  match s.fillOf id.team.core x image with
  | some f =>
    let join := fun y : Fill => if y.key = f.key && y.slot.isNone then { y with issuers := y.issuers ++ [id] } else y
    ({ s with fills := s.fills.map join }, f.key)
  | none =>
    let (s, k) := s.fresh
    ({ s with fills := s.fills ++ [⟨k, id.team.core, x, image, [id], none, none, [], false, 0⟩] }, k)

/-- A token of an image of a tenant, the one issued last; 0 when the core has issued none (log entry 102). -/
def Core.tokenFor (c : Core) (v : VfId) (pasid image : Nat) : Nat :=
  ((c.tokmap.find? fun e => e.vf = v && e.pasid = pasid && e.image = image).map fun e => e.slot * 1024 + e.gen).getD 0

/-- The use stamp of an overlay set to the current cycle (R363). -/
def State.stampOverlay (s : State) (core : CoreId) (o : Overlay) : State :=
  s.updCore core fun c => c.updOverlay o.first fun o => { o with stamp := s.cycle }

/-- Length of the overlay that a thread stands in, 0 when its token is stale. -/
def State.ovLen (s : State) (t : ThreadId) (pc : Pc) : Nat :=
  (((s.core t.team.core).current pc.tok.toNat).map (·.len)).getD 0

end Sys2Proof.Machine
end

