-- ==== Sys2Proof/Decode.lean ====
section
/-! DEFINITION. The decoder and the encoder, both written from the base word of R32, the second words of R39 to R41 and
the opcode map of R56 and R57. A word that the map does not assign is rejected by name (R58). -/
namespace Sys2Proof

/-- The four formats (R31). -/
inductive Format where
  | l1 | l2r | l2i | m
deriving DecidableEq, Repr

/-- The fields of an instruction, by format. -/
inductive Fields where
  | l1 (f : L1)
  | l2r (f : L2R)
  | l2i (f : L2I)
  | m (f : LM)
deriving DecidableEq, Repr

/-- Why words are no instruction: the major or minor is unassigned (R58), or the second word is missing (R43). -/
inductive DecodeErr where
  | unassignedMajor
  | unassignedMinor
  | missingWord
deriving DecidableEq, Repr

/-- S, MAJ and MIN of an instruction, with its fields. -/
structure Parts where
  s : Bool
  maj : BitVec 6
  min : BitVec 3
  fields : Fields
deriving DecidableEq, Repr

/-- The format of a major, if it is assigned (Tables 9 and 10). -/
def formatOf (s : Bool) (maj : Nat) : Option Format :=
  match s, maj with
  | false, 0x00 => some .l1
  | false, 0x07 => some .l1
  | false, 0x11 => some .l1
  | false, 0x22 => some .l1
  | false, 0x23 => some .l1
  | false, 0x01 => some .l2r
  | false, 0x03 => some .l2r
  | false, 0x04 => some .l2r
  | false, 0x05 => some .l2r
  | false, 0x06 => some .l2r
  | false, 0x09 => some .l2r
  | false, 0x0B => some .l2r
  | false, 0x12 => some .l2r
  | false, 0x13 => some .l2r
  | false, 0x20 => some .l2r
  | false, 0x21 => some .l2r
  | false, 0x24 => some .l2r
  | false, 0x25 => some .l2r
  | false, 0x02 => some .l2i
  | false, 0x08 => some .l2i
  | false, 0x0A => some .l2i
  | false, 0x10 => some .l2i
  | false, 0x26 => some .l2i
  | false, 0x30 => some .m
  | false, 0x31 => some .m
  | false, 0x32 => some .m
  | false, 0x33 => some .m
  | true, 0x02 => some .l1
  | true, 0x00 => some .l2r
  | true, 0x03 => some .l2r
  | true, 0x08 => some .l2r
  | true, 0x09 => some .l2r
  | true, 0x0A => some .l2r
  | true, 0x0C => some .l2r
  | true, 0x0D => some .l2r
  | true, 0x0F => some .l2r
  | true, 0x10 => some .l2r
  | true, 0x11 => some .l2r
  | true, 0x01 => some .l2i
  | true, 0x0E => some .l2i
  | true, 0x04 => some .m
  | _, _ => none

/-- How many minors of a major are assigned, from 0 (Tables 9 and 10). -/
def minorsOf (s : Bool) (maj : Nat) : Nat :=
  match s, maj with
  | false, 0x00 => 8
  | false, 0x01 => 8
  | false, 0x02 => 8
  | false, 0x03 => 5
  | false, 0x04 => 6
  | false, 0x05 => 4
  | false, 0x06 => 6
  | false, 0x07 => 8
  | false, 0x08 => 4
  | false, 0x09 => 8
  | false, 0x0A => 8
  | false, 0x0B => 8
  | false, 0x10 => 3
  | false, 0x11 => 8
  | false, 0x12 => 7
  | false, 0x13 => 4
  | false, 0x20 => 6
  | false, 0x21 => 6
  | false, 0x22 => 8
  | false, 0x23 => 4
  | false, 0x24 => 5
  | false, 0x25 => 6
  | false, 0x26 => 2
  | false, 0x30 => 7
  | false, 0x31 => 8
  | false, 0x32 => 8
  | false, 0x33 => 4
  | true, 0x00 => 8
  | true, 0x01 => 8
  | true, 0x02 => 4
  | true, 0x03 => 6
  | true, 0x04 => 3
  | true, 0x08 => 6
  | true, 0x09 => 4
  | true, 0x0A => 8
  | true, 0x0C => 7
  | true, 0x0D => 7
  | true, 0x0E => 6
  | true, 0x0F => 6
  | true, 0x10 => 6
  | true, 0x11 => 6
  | _, _ => 0

/-- The L1 rows of a major, minors 0 onwards (Tables 9 and 10). -/
noncomputable def rowsL1 (s : Bool) (maj : Nat) : List (L1 → Instr) :=
  match s, maj with
  | false, 0x00 => [.add, .sub, .and, .or, .xor, .shl, .shr, .sar]
  | false, 0x07 => [.mov, .not, .neg, .abs, .popc, .clz, .ctz, .brev]
  | false, 0x11 => [.brx, .callx, .ret, .exit, .conv, .yield, .nop, .bkpt]
  | false, 0x22 => [.fclass, .frint, .fsat, .rcp, .rsq, .sqrt, .ex2, .lg2]
  | false, 0x23 => [.sin, .cos, .tanh, .tagget]
  | true, 0x02 => [.umov, .ulane, .ucnt, .ulead]
  | _, _ => []

/-- The L2R rows of a major, minors 0 onwards (Tables 9 and 10). -/
noncomputable def rowsL2R (s : Bool) (maj : Nat) : List (L2R → Instr) :=
  match s, maj with
  | false, 0x01 => [.addReg, .subReg, .andReg, .orReg, .xorReg, .shlReg, .shrReg, .sarReg]
  | false, 0x03 => [.mul, .mulhs, .mulhu, .mad, .madw]
  | false, 0x04 => [.min, .max, .minu, .maxu, .sel, .leax]
  | false, 0x05 => [.div, .divu, .rem, .remu]
  | false, 0x06 => [.bfx, .bfxu, .bfi, .bsel, .rotl, .andn]
  | false, 0x09 => [.cmpEq, .cmpNe, .cmpLt, .cmpGe, .cmpLtu, .cmpGeu, .cmpTst, .cmpTstz]
  | false, 0x0B => [.pand, .por, .pxor, .pandn, .pmov, .prd, .pwr, .pset]
  | false, 0x12 => [.peek, .flip, .allof, .anyof, .pmask, .peers, .leadp]
  | false, 0x13 => [.tsum, .tmax, .tmin, .tscan]
  | false, 0x20 => [.fadd, .fsub, .fmul, .fmin, .fmax, .ffma]
  | false, 0x21 => [.fcmpEq, .fcmpNe, .fcmpLt, .fcmpLe, .fcmpUno, .fcmpOrd]
  | false, 0x24 => [.cvt, .cvti, .cvtf, .pack, .unpk]
  | false, 0x25 => [.dot2, .dot4, .dot8, .dot4f, .dot8f, .scl]
  | true, 0x00 => [.uadd, .usub, .uand, .uor, .uxor, .ushl, .ushr, .umul]
  | true, 0x03 => [.ucmpEq, .ucmpNe, .ucmpLt, .ucmpGe, .ucmpLtu, .ucmpGeu]
  | true, 0x08 => [.cpy, .cpy2, .cpyg, .cpys, .cpyx, .cpyf]
  | true, 0x09 => [.twait, .twany, .tfirst, .tclr]
  | true, 0x0A => [.mma, .mmam, .mmas, .accz, .accld, .accst, .mwalk, .mstat]
  | true, 0x0C => [.tspawn, .grid, .qpush, .qpop, .qsteal, .qcap, .qbind]
  | true, 0x0D => [.jadd, .jwait, .jrd, .rgive, .rclaim, .snap, .qfence]
  | true, 0x0F => [.gopen, .gclose, .gsig, .gwait, .gadd, .gpoll]
  | true, 0x10 => [.ovld, .ovwait, .ovpin, .ovunpin, .ovrel, .callo]
  | true, 0x11 => [.trap, .srd, .swr, .clkw, .clkr, .errd]
  | _, _ => []

/-- The L2I rows of a major, minors 0 onwards (Tables 9 and 10). -/
noncomputable def rowsL2I (s : Bool) (maj : Nat) : List (L2I → Instr) :=
  match s, maj with
  | false, 0x02 => [.addLit, .subLit, .andLit, .orLit, .xorLit, .shlLit, .shrLit, .sarLit]
  | false, 0x08 => [.movl, .lea, .sext, .zext]
  | false, 0x0A => [.cmpiEq, .cmpiNe, .cmpiLt, .cmpiGe, .cmpiLtu, .cmpiGeu, .cmpiTst, .cmpiTstz]
  | false, 0x10 => [.bra, .call, .rep]
  | false, 0x26 => [.tagset, .tagchk]
  | true, 0x01 => [.uaddLit, .usubLit, .uandLit, .uorLit, .uxorLit, .ushlLit, .ushrLit, .umulLit]
  | true, 0x0E => [.bar, .bara, .barw, .fence, .xfence, .waitc]
  | _, _ => []

/-- The M rows of a major, minors 0 onwards (Tables 9 and 10). -/
noncomputable def rowsM (s : Bool) (maj : Nat) : List (LM → Instr) :=
  match s, maj with
  | false, 0x30 => [.ldb, .ldbu, .ldh, .ldhu, .ldw, .ldt, .ldfe]
  | false, 0x31 => [.stb, .sth, .stw, .stfe, .ste, .putsig, .pref, .cflush]
  | false, 0x32 => [.atadd, .atand, .ator, .atxor, .atmax, .atmin, .atmaxu, .atminu]
  | false, 0x33 => [.atswp, .atld, .atfadd, .atcas]
  | true, 0x04 => [.uldw, .uldt, .ustw]
  | _, _ => []

/-- Base-word fields other than S, MAJ and MIN (R32). -/
def fieldsL1 (w : W32) : L1 :=
  { g := w.extractLsb' 20 5, gn := (w.extractLsb' 19 1) = 1#1, w := w.extractLsb' 17 2, d := w.extractLsb' 10 7,
    a := w.extractLsb' 3 7 }

/-- The fields of an L2R instruction (R39). -/
def fieldsL2R (w x : W32) : L2R :=
  { toL1 := fieldsL1 w, b := x.extractLsb' 25 7, c := x.extractLsb' 18 7, mod := x.extractLsb' 12 6,
    imm := x.extractLsb' 0 12 }

/-- The fields of an L2I instruction (R40). -/
def fieldsL2I (w x : W32) : L2I := { toL1 := fieldsL1 w, lit := x }

/-- The fields of an M instruction (R41). -/
def fieldsLM (w x : W32) : LM :=
  { toL1 := fieldsL1 w, strm := x.extractLsb' 28 4, space := x.extractLsb' 25 3, ix := x.extractLsb' 18 7,
    sc := x.extractLsb' 16 2, cp := x.extractLsb' 14 2, scope := x.extractLsb' 11 3, off := x.extractLsb' 0 11 }

/-- The instruction with the given S, MAJ, MIN and fields, if the opcode map assigns it. -/
noncomputable def assemble (p : Parts) : Option Instr :=
  match p.fields with
  | .l1 f => (rowsL1 p.s p.maj.toNat)[p.min.toNat]?.map (· f)
  | .l2r f => (rowsL2R p.s p.maj.toNat)[p.min.toNat]?.map (· f)
  | .l2i f => (rowsL2I p.s p.maj.toNat)[p.min.toNat]?.map (· f)
  | .m f => (rowsM p.s p.maj.toNat)[p.min.toNat]?.map (· f)

/-- The fields of a base word and the word after it, under a format; none when the second word is missing. -/
def fieldsOf (fmt : Format) (w : W32) (x : Option W32) : Option Fields :=
  match fmt, x with
  | .l1, _ => some (.l1 (fieldsL1 w))
  | .l2r, some x => some (.l2r (fieldsL2R w x))
  | .l2i, some x => some (.l2i (fieldsL2I w x))
  | .m, some x => some (.m (fieldsLM w x))
  | _, none => none

/-- Set, major and minor of a base word (R32). -/
def setOf (w : W32) : Bool := (w.extractLsb' 31 1) = 1#1
def majOf (w : W32) : BitVec 6 := w.extractLsb' 25 6
def minOf (w : W32) : BitVec 3 := w.extractLsb' 0 3

/-- Whether the opcode map assigns the minor of a word of an assigned major (R56, R57). -/
def minorAssigned (w : W32) : Bool := (minOf w).toNat < minorsOf (setOf w) (majOf w).toNat

/-- S, MAJ, MIN and the fields of a base word and the word after it. An unassigned major or minor is refused on the base
word alone (R58). -/
def decodeParts (w : W32) (x : Option W32) : Except DecodeErr Parts :=
  match formatOf (setOf w) (majOf w).toNat with
  | none => .error .unassignedMajor
  | some fmt =>
    if minorAssigned w then
      match fieldsOf fmt w x with
      | none => .error .missingWord
      | some fl => .ok { s := setOf w, maj := majOf w, min := minOf w, fields := fl }
    else .error .unassignedMinor

/-- Decode a base word, with the word after it when the overlay holds one. -/
noncomputable def decode (w : W32) (x : Option W32) : Except DecodeErr Instr :=
  match decodeParts w x with
  | .error e => .error e
  | .ok p =>
    match assemble p with
    | some i => .ok i
    | none => .error .unassignedMinor

/-- Little-endian word of four bytes (R31). -/
def wordOfBytes (a b c d : Byte) : W32 := d ++ c ++ b ++ a

/-- Decode the instruction at the head of a byte string; answers it with the rest. -/
noncomputable def decodeBytes (bs : List Byte) : Except DecodeErr (Instr × List Byte) :=
  match bs with
  | a :: b :: c :: d :: rest =>
    let w := wordOfBytes a b c d
    match rest with
    | e :: f :: g :: h :: rest' =>
      (decode w (some (wordOfBytes e f g h))).map fun i =>
        (i, if formatOf (setOf w) (majOf w).toNat = some .l1 then rest else rest')
    | _ => (decode w none).map fun i => (i, rest)
  | _ => .error .missingWord

/-! ## The encoder -/

/-- S, MAJ, MIN and fields of an instruction, typed from Tables 9 and 10; none for a step that is no instruction word. -/
def partsOf (i : Instr) : Option Parts :=
  match i with
  | .rendezvousComplete _ => none
  | .yieldReady _ => none
  | .threadRetire _ => none
  | .loadDataReturn _ => none
  | .storePerformed _ => none
  | .heldAccessRelease _ => none
  | .putsigSignal _ => none
  | .requestLeaveCore _ => none
  | .stageArrival _ => none
  | .stageDepart _ => none
  | .homePerform _ => none
  | .replySplit _ => none
  | .atomicValueReturn _ => none
  | .barrierRelease _ => none
  | .pageFault _ => none
  | .faultFrameSave _ => none
  | .deferredTrap _ => none
  | .freshStart _ => none
  | .rollback _ => none
  | .copyAccept _ => none
  | .copyPageFault _ _ => none
  | .copyLineFull _ _ _ => none
  | .copyComplete _ _ => none
  | .matrixStepRetire _ _ => none
  | .pendingLaunchTake _ => none
  | .stealMessage _ _ => none
  | .joinDecrement _ => none
  | .fenceComplete _ => none
  | .gateHomeRequest _ => none
  | .gateReply _ => none
  | .overlayHeaderRead _ => none
  | .overlayFillComplete _ => none
  | .sliceBoundary _ => none
  | .preemptForcedStop _ => none
  | .contextSave _ => none
  | .windowEnd _ => none
  | .bucketRefill _ _ => none
  | .watchdogFire _ => none
  | .eventCoalesceTimeout _ => none
  | .crdoor _ _ => none
  | .crsize _ _ => none
  | .ersize _ _ => none
  | .erhead _ _ => none
  | .prhead _ _ => none
  | .bar0RegisterWrite _ _ _ => none
  | .partSet _ => none
  | .partPause _ => none
  | .partResume _ => none
  | .partReset _ => none
  | .rehome _ => none
  | .vfBind _ => none
  | .vfUnbind _ => none
  | .grant _ => none
  | .revoke _ => none
  | .s2Root _ => none
  | .s2Inval _ => none
  | .gateCreate _ => none
  | .gateConfigure _ => none
  | .gateRecycle _ => none
  | .gateDelete _ => none
  | .migrateQuiesce _ => none
  | .migrateStart _ => none
  | .errread _ => none
  | .ctxCreate _ => none
  | .ctxStart _ => none
  | .ctxEnd _ => none
  | .s1Inval _ => none
  | .qsetCreate _ => none
  | .qsetDelete _ => none
  | .qsubmit _ => none
  | .pageReply _ => none
  | .ringSet _ => none
  | .selftest _ => none
  | .fwUpdate _ => none
  | .fwRecover _ => none
  | .attest _ => none
  | .firmwareBoot _ => none
  | .powerLimit _ _ => none
  | .thermalShutdown _ => none
  | .linkFlitReplay _ _ _ => none
  | .ethernetFrameReceived _ _ => none
  | .add f => some ⟨false, 0x00, 0, .l1 f⟩
  | .sub f => some ⟨false, 0x00, 1, .l1 f⟩
  | .and f => some ⟨false, 0x00, 2, .l1 f⟩
  | .or f => some ⟨false, 0x00, 3, .l1 f⟩
  | .xor f => some ⟨false, 0x00, 4, .l1 f⟩
  | .shl f => some ⟨false, 0x00, 5, .l1 f⟩
  | .shr f => some ⟨false, 0x00, 6, .l1 f⟩
  | .sar f => some ⟨false, 0x00, 7, .l1 f⟩
  | .addReg f => some ⟨false, 0x01, 0, .l2r f⟩
  | .subReg f => some ⟨false, 0x01, 1, .l2r f⟩
  | .andReg f => some ⟨false, 0x01, 2, .l2r f⟩
  | .orReg f => some ⟨false, 0x01, 3, .l2r f⟩
  | .xorReg f => some ⟨false, 0x01, 4, .l2r f⟩
  | .shlReg f => some ⟨false, 0x01, 5, .l2r f⟩
  | .shrReg f => some ⟨false, 0x01, 6, .l2r f⟩
  | .sarReg f => some ⟨false, 0x01, 7, .l2r f⟩
  | .addLit f => some ⟨false, 0x02, 0, .l2i f⟩
  | .subLit f => some ⟨false, 0x02, 1, .l2i f⟩
  | .andLit f => some ⟨false, 0x02, 2, .l2i f⟩
  | .orLit f => some ⟨false, 0x02, 3, .l2i f⟩
  | .xorLit f => some ⟨false, 0x02, 4, .l2i f⟩
  | .shlLit f => some ⟨false, 0x02, 5, .l2i f⟩
  | .shrLit f => some ⟨false, 0x02, 6, .l2i f⟩
  | .sarLit f => some ⟨false, 0x02, 7, .l2i f⟩
  | .mul f => some ⟨false, 0x03, 0, .l2r f⟩
  | .mulhs f => some ⟨false, 0x03, 1, .l2r f⟩
  | .mulhu f => some ⟨false, 0x03, 2, .l2r f⟩
  | .mad f => some ⟨false, 0x03, 3, .l2r f⟩
  | .madw f => some ⟨false, 0x03, 4, .l2r f⟩
  | .min f => some ⟨false, 0x04, 0, .l2r f⟩
  | .max f => some ⟨false, 0x04, 1, .l2r f⟩
  | .minu f => some ⟨false, 0x04, 2, .l2r f⟩
  | .maxu f => some ⟨false, 0x04, 3, .l2r f⟩
  | .sel f => some ⟨false, 0x04, 4, .l2r f⟩
  | .leax f => some ⟨false, 0x04, 5, .l2r f⟩
  | .div f => some ⟨false, 0x05, 0, .l2r f⟩
  | .divu f => some ⟨false, 0x05, 1, .l2r f⟩
  | .rem f => some ⟨false, 0x05, 2, .l2r f⟩
  | .remu f => some ⟨false, 0x05, 3, .l2r f⟩
  | .bfx f => some ⟨false, 0x06, 0, .l2r f⟩
  | .bfxu f => some ⟨false, 0x06, 1, .l2r f⟩
  | .bfi f => some ⟨false, 0x06, 2, .l2r f⟩
  | .bsel f => some ⟨false, 0x06, 3, .l2r f⟩
  | .rotl f => some ⟨false, 0x06, 4, .l2r f⟩
  | .andn f => some ⟨false, 0x06, 5, .l2r f⟩
  | .mov f => some ⟨false, 0x07, 0, .l1 f⟩
  | .not f => some ⟨false, 0x07, 1, .l1 f⟩
  | .neg f => some ⟨false, 0x07, 2, .l1 f⟩
  | .abs f => some ⟨false, 0x07, 3, .l1 f⟩
  | .popc f => some ⟨false, 0x07, 4, .l1 f⟩
  | .clz f => some ⟨false, 0x07, 5, .l1 f⟩
  | .ctz f => some ⟨false, 0x07, 6, .l1 f⟩
  | .brev f => some ⟨false, 0x07, 7, .l1 f⟩
  | .movl f => some ⟨false, 0x08, 0, .l2i f⟩
  | .lea f => some ⟨false, 0x08, 1, .l2i f⟩
  | .sext f => some ⟨false, 0x08, 2, .l2i f⟩
  | .zext f => some ⟨false, 0x08, 3, .l2i f⟩
  | .cmpEq f => some ⟨false, 0x09, 0, .l2r f⟩
  | .cmpNe f => some ⟨false, 0x09, 1, .l2r f⟩
  | .cmpLt f => some ⟨false, 0x09, 2, .l2r f⟩
  | .cmpGe f => some ⟨false, 0x09, 3, .l2r f⟩
  | .cmpLtu f => some ⟨false, 0x09, 4, .l2r f⟩
  | .cmpGeu f => some ⟨false, 0x09, 5, .l2r f⟩
  | .cmpTst f => some ⟨false, 0x09, 6, .l2r f⟩
  | .cmpTstz f => some ⟨false, 0x09, 7, .l2r f⟩
  | .cmpiEq f => some ⟨false, 0x0A, 0, .l2i f⟩
  | .cmpiNe f => some ⟨false, 0x0A, 1, .l2i f⟩
  | .cmpiLt f => some ⟨false, 0x0A, 2, .l2i f⟩
  | .cmpiGe f => some ⟨false, 0x0A, 3, .l2i f⟩
  | .cmpiLtu f => some ⟨false, 0x0A, 4, .l2i f⟩
  | .cmpiGeu f => some ⟨false, 0x0A, 5, .l2i f⟩
  | .cmpiTst f => some ⟨false, 0x0A, 6, .l2i f⟩
  | .cmpiTstz f => some ⟨false, 0x0A, 7, .l2i f⟩
  | .pand f => some ⟨false, 0x0B, 0, .l2r f⟩
  | .por f => some ⟨false, 0x0B, 1, .l2r f⟩
  | .pxor f => some ⟨false, 0x0B, 2, .l2r f⟩
  | .pandn f => some ⟨false, 0x0B, 3, .l2r f⟩
  | .pmov f => some ⟨false, 0x0B, 4, .l2r f⟩
  | .prd f => some ⟨false, 0x0B, 5, .l2r f⟩
  | .pwr f => some ⟨false, 0x0B, 6, .l2r f⟩
  | .pset f => some ⟨false, 0x0B, 7, .l2r f⟩
  | .bra f => some ⟨false, 0x10, 0, .l2i f⟩
  | .call f => some ⟨false, 0x10, 1, .l2i f⟩
  | .rep f => some ⟨false, 0x10, 2, .l2i f⟩
  | .brx f => some ⟨false, 0x11, 0, .l1 f⟩
  | .callx f => some ⟨false, 0x11, 1, .l1 f⟩
  | .ret f => some ⟨false, 0x11, 2, .l1 f⟩
  | .exit f => some ⟨false, 0x11, 3, .l1 f⟩
  | .conv f => some ⟨false, 0x11, 4, .l1 f⟩
  | .yield f => some ⟨false, 0x11, 5, .l1 f⟩
  | .nop f => some ⟨false, 0x11, 6, .l1 f⟩
  | .bkpt f => some ⟨false, 0x11, 7, .l1 f⟩
  | .peek f => some ⟨false, 0x12, 0, .l2r f⟩
  | .flip f => some ⟨false, 0x12, 1, .l2r f⟩
  | .allof f => some ⟨false, 0x12, 2, .l2r f⟩
  | .anyof f => some ⟨false, 0x12, 3, .l2r f⟩
  | .pmask f => some ⟨false, 0x12, 4, .l2r f⟩
  | .peers f => some ⟨false, 0x12, 5, .l2r f⟩
  | .leadp f => some ⟨false, 0x12, 6, .l2r f⟩
  | .tsum f => some ⟨false, 0x13, 0, .l2r f⟩
  | .tmax f => some ⟨false, 0x13, 1, .l2r f⟩
  | .tmin f => some ⟨false, 0x13, 2, .l2r f⟩
  | .tscan f => some ⟨false, 0x13, 3, .l2r f⟩
  | .fadd f => some ⟨false, 0x20, 0, .l2r f⟩
  | .fsub f => some ⟨false, 0x20, 1, .l2r f⟩
  | .fmul f => some ⟨false, 0x20, 2, .l2r f⟩
  | .fmin f => some ⟨false, 0x20, 3, .l2r f⟩
  | .fmax f => some ⟨false, 0x20, 4, .l2r f⟩
  | .ffma f => some ⟨false, 0x20, 5, .l2r f⟩
  | .fcmpEq f => some ⟨false, 0x21, 0, .l2r f⟩
  | .fcmpNe f => some ⟨false, 0x21, 1, .l2r f⟩
  | .fcmpLt f => some ⟨false, 0x21, 2, .l2r f⟩
  | .fcmpLe f => some ⟨false, 0x21, 3, .l2r f⟩
  | .fcmpUno f => some ⟨false, 0x21, 4, .l2r f⟩
  | .fcmpOrd f => some ⟨false, 0x21, 5, .l2r f⟩
  | .fclass f => some ⟨false, 0x22, 0, .l1 f⟩
  | .frint f => some ⟨false, 0x22, 1, .l1 f⟩
  | .fsat f => some ⟨false, 0x22, 2, .l1 f⟩
  | .rcp f => some ⟨false, 0x22, 3, .l1 f⟩
  | .rsq f => some ⟨false, 0x22, 4, .l1 f⟩
  | .sqrt f => some ⟨false, 0x22, 5, .l1 f⟩
  | .ex2 f => some ⟨false, 0x22, 6, .l1 f⟩
  | .lg2 f => some ⟨false, 0x22, 7, .l1 f⟩
  | .sin f => some ⟨false, 0x23, 0, .l1 f⟩
  | .cos f => some ⟨false, 0x23, 1, .l1 f⟩
  | .tanh f => some ⟨false, 0x23, 2, .l1 f⟩
  | .tagget f => some ⟨false, 0x23, 3, .l1 f⟩
  | .cvt f => some ⟨false, 0x24, 0, .l2r f⟩
  | .cvti f => some ⟨false, 0x24, 1, .l2r f⟩
  | .cvtf f => some ⟨false, 0x24, 2, .l2r f⟩
  | .pack f => some ⟨false, 0x24, 3, .l2r f⟩
  | .unpk f => some ⟨false, 0x24, 4, .l2r f⟩
  | .dot2 f => some ⟨false, 0x25, 0, .l2r f⟩
  | .dot4 f => some ⟨false, 0x25, 1, .l2r f⟩
  | .dot8 f => some ⟨false, 0x25, 2, .l2r f⟩
  | .dot4f f => some ⟨false, 0x25, 3, .l2r f⟩
  | .dot8f f => some ⟨false, 0x25, 4, .l2r f⟩
  | .scl f => some ⟨false, 0x25, 5, .l2r f⟩
  | .tagset f => some ⟨false, 0x26, 0, .l2i f⟩
  | .tagchk f => some ⟨false, 0x26, 1, .l2i f⟩
  | .ldb f => some ⟨false, 0x30, 0, .m f⟩
  | .ldbu f => some ⟨false, 0x30, 1, .m f⟩
  | .ldh f => some ⟨false, 0x30, 2, .m f⟩
  | .ldhu f => some ⟨false, 0x30, 3, .m f⟩
  | .ldw f => some ⟨false, 0x30, 4, .m f⟩
  | .ldt f => some ⟨false, 0x30, 5, .m f⟩
  | .ldfe f => some ⟨false, 0x30, 6, .m f⟩
  | .stb f => some ⟨false, 0x31, 0, .m f⟩
  | .sth f => some ⟨false, 0x31, 1, .m f⟩
  | .stw f => some ⟨false, 0x31, 2, .m f⟩
  | .stfe f => some ⟨false, 0x31, 3, .m f⟩
  | .ste f => some ⟨false, 0x31, 4, .m f⟩
  | .putsig f => some ⟨false, 0x31, 5, .m f⟩
  | .pref f => some ⟨false, 0x31, 6, .m f⟩
  | .cflush f => some ⟨false, 0x31, 7, .m f⟩
  | .atadd f => some ⟨false, 0x32, 0, .m f⟩
  | .atand f => some ⟨false, 0x32, 1, .m f⟩
  | .ator f => some ⟨false, 0x32, 2, .m f⟩
  | .atxor f => some ⟨false, 0x32, 3, .m f⟩
  | .atmax f => some ⟨false, 0x32, 4, .m f⟩
  | .atmin f => some ⟨false, 0x32, 5, .m f⟩
  | .atmaxu f => some ⟨false, 0x32, 6, .m f⟩
  | .atminu f => some ⟨false, 0x32, 7, .m f⟩
  | .atswp f => some ⟨false, 0x33, 0, .m f⟩
  | .atld f => some ⟨false, 0x33, 1, .m f⟩
  | .atfadd f => some ⟨false, 0x33, 2, .m f⟩
  | .atcas f => some ⟨false, 0x33, 3, .m f⟩
  | .uadd f => some ⟨true, 0x00, 0, .l2r f⟩
  | .usub f => some ⟨true, 0x00, 1, .l2r f⟩
  | .uand f => some ⟨true, 0x00, 2, .l2r f⟩
  | .uor f => some ⟨true, 0x00, 3, .l2r f⟩
  | .uxor f => some ⟨true, 0x00, 4, .l2r f⟩
  | .ushl f => some ⟨true, 0x00, 5, .l2r f⟩
  | .ushr f => some ⟨true, 0x00, 6, .l2r f⟩
  | .umul f => some ⟨true, 0x00, 7, .l2r f⟩
  | .uaddLit f => some ⟨true, 0x01, 0, .l2i f⟩
  | .usubLit f => some ⟨true, 0x01, 1, .l2i f⟩
  | .uandLit f => some ⟨true, 0x01, 2, .l2i f⟩
  | .uorLit f => some ⟨true, 0x01, 3, .l2i f⟩
  | .uxorLit f => some ⟨true, 0x01, 4, .l2i f⟩
  | .ushlLit f => some ⟨true, 0x01, 5, .l2i f⟩
  | .ushrLit f => some ⟨true, 0x01, 6, .l2i f⟩
  | .umulLit f => some ⟨true, 0x01, 7, .l2i f⟩
  | .umov f => some ⟨true, 0x02, 0, .l1 f⟩
  | .ulane f => some ⟨true, 0x02, 1, .l1 f⟩
  | .ucnt f => some ⟨true, 0x02, 2, .l1 f⟩
  | .ulead f => some ⟨true, 0x02, 3, .l1 f⟩
  | .ucmpEq f => some ⟨true, 0x03, 0, .l2r f⟩
  | .ucmpNe f => some ⟨true, 0x03, 1, .l2r f⟩
  | .ucmpLt f => some ⟨true, 0x03, 2, .l2r f⟩
  | .ucmpGe f => some ⟨true, 0x03, 3, .l2r f⟩
  | .ucmpLtu f => some ⟨true, 0x03, 4, .l2r f⟩
  | .ucmpGeu f => some ⟨true, 0x03, 5, .l2r f⟩
  | .uldw f => some ⟨true, 0x04, 0, .m f⟩
  | .uldt f => some ⟨true, 0x04, 1, .m f⟩
  | .ustw f => some ⟨true, 0x04, 2, .m f⟩
  | .cpy f => some ⟨true, 0x08, 0, .l2r f⟩
  | .cpy2 f => some ⟨true, 0x08, 1, .l2r f⟩
  | .cpyg f => some ⟨true, 0x08, 2, .l2r f⟩
  | .cpys f => some ⟨true, 0x08, 3, .l2r f⟩
  | .cpyx f => some ⟨true, 0x08, 4, .l2r f⟩
  | .cpyf f => some ⟨true, 0x08, 5, .l2r f⟩
  | .twait f => some ⟨true, 0x09, 0, .l2r f⟩
  | .twany f => some ⟨true, 0x09, 1, .l2r f⟩
  | .tfirst f => some ⟨true, 0x09, 2, .l2r f⟩
  | .tclr f => some ⟨true, 0x09, 3, .l2r f⟩
  | .mma f => some ⟨true, 0x0A, 0, .l2r f⟩
  | .mmam f => some ⟨true, 0x0A, 1, .l2r f⟩
  | .mmas f => some ⟨true, 0x0A, 2, .l2r f⟩
  | .accz f => some ⟨true, 0x0A, 3, .l2r f⟩
  | .accld f => some ⟨true, 0x0A, 4, .l2r f⟩
  | .accst f => some ⟨true, 0x0A, 5, .l2r f⟩
  | .mwalk f => some ⟨true, 0x0A, 6, .l2r f⟩
  | .mstat f => some ⟨true, 0x0A, 7, .l2r f⟩
  | .tspawn f => some ⟨true, 0x0C, 0, .l2r f⟩
  | .grid f => some ⟨true, 0x0C, 1, .l2r f⟩
  | .qpush f => some ⟨true, 0x0C, 2, .l2r f⟩
  | .qpop f => some ⟨true, 0x0C, 3, .l2r f⟩
  | .qsteal f => some ⟨true, 0x0C, 4, .l2r f⟩
  | .qcap f => some ⟨true, 0x0C, 5, .l2r f⟩
  | .qbind f => some ⟨true, 0x0C, 6, .l2r f⟩
  | .jadd f => some ⟨true, 0x0D, 0, .l2r f⟩
  | .jwait f => some ⟨true, 0x0D, 1, .l2r f⟩
  | .jrd f => some ⟨true, 0x0D, 2, .l2r f⟩
  | .rgive f => some ⟨true, 0x0D, 3, .l2r f⟩
  | .rclaim f => some ⟨true, 0x0D, 4, .l2r f⟩
  | .snap f => some ⟨true, 0x0D, 5, .l2r f⟩
  | .qfence f => some ⟨true, 0x0D, 6, .l2r f⟩
  | .bar f => some ⟨true, 0x0E, 0, .l2i f⟩
  | .bara f => some ⟨true, 0x0E, 1, .l2i f⟩
  | .barw f => some ⟨true, 0x0E, 2, .l2i f⟩
  | .fence f => some ⟨true, 0x0E, 3, .l2i f⟩
  | .xfence f => some ⟨true, 0x0E, 4, .l2i f⟩
  | .waitc f => some ⟨true, 0x0E, 5, .l2i f⟩
  | .gopen f => some ⟨true, 0x0F, 0, .l2r f⟩
  | .gclose f => some ⟨true, 0x0F, 1, .l2r f⟩
  | .gsig f => some ⟨true, 0x0F, 2, .l2r f⟩
  | .gwait f => some ⟨true, 0x0F, 3, .l2r f⟩
  | .gadd f => some ⟨true, 0x0F, 4, .l2r f⟩
  | .gpoll f => some ⟨true, 0x0F, 5, .l2r f⟩
  | .ovld f => some ⟨true, 0x10, 0, .l2r f⟩
  | .ovwait f => some ⟨true, 0x10, 1, .l2r f⟩
  | .ovpin f => some ⟨true, 0x10, 2, .l2r f⟩
  | .ovunpin f => some ⟨true, 0x10, 3, .l2r f⟩
  | .ovrel f => some ⟨true, 0x10, 4, .l2r f⟩
  | .callo f => some ⟨true, 0x10, 5, .l2r f⟩
  | .trap f => some ⟨true, 0x11, 0, .l2r f⟩
  | .srd f => some ⟨true, 0x11, 1, .l2r f⟩
  | .swr f => some ⟨true, 0x11, 2, .l2r f⟩
  | .clkw f => some ⟨true, 0x11, 3, .l2r f⟩
  | .clkr f => some ⟨true, 0x11, 4, .l2r f⟩
  | .errd f => some ⟨true, 0x11, 5, .l2r f⟩

/-- The base word (R32). -/
def baseWord (s : Bool) (maj : BitVec 6) (min : BitVec 3) (f : L1) : W32 :=
  BitVec.ofBool s ++ maj ++ f.g ++ BitVec.ofBool f.gn ++ f.w ++ f.d ++ f.a ++ min

/-- The register extension word (R39). -/
def extWordR (f : L2R) : W32 := f.b ++ f.c ++ f.mod ++ f.imm

/-- The memory extension word (R41). -/
def extWordM (f : LM) : W32 := f.strm ++ f.space ++ f.ix ++ f.sc ++ f.cp ++ f.scope ++ f.off

/-- The words of an instruction given by its parts. -/
def encodeParts (p : Parts) : List W32 :=
  match p.fields with
  | .l1 f => [baseWord p.s p.maj p.min f]
  | .l2r f => [baseWord p.s p.maj p.min f.toL1, extWordR f]
  | .l2i f => [baseWord p.s p.maj p.min f.toL1, f.lit]
  | .m f => [baseWord p.s p.maj p.min f.toL1, extWordM f]

/-- The words of an instruction; a step that is no instruction word has none. -/
def encode (i : Instr) : List W32 :=
  match partsOf i with
  | some p => encodeParts p
  | none => []

/-- Length in words of an instruction word (R31). -/
def Instr.words (i : Instr) : Nat :=
  match partsOf i with
  | some ⟨_, _, _, .l1 _⟩ => 1
  | some _ => 2
  | none => 0

/-- The instruction the decoder reads from a word whose bits are numbered as the opcode table numbers them: the low 32 bits
are the base word, the next 32 the second word; the bits above `nbits` are 0. -/
noncomputable def decodeTableWord (nbits w : Nat) : Option Instr :=
  let v := w % 2 ^ nbits
  match decode (BitVec.ofNat 32 v) (some (BitVec.ofNat 32 (v / 2 ^ 32))) with
  | .ok i => some i
  | .error _ => none

end Sys2Proof
end

