-- ==== Sys2Proof/Machine/Operands.lean ====
section
/-! DEFINITION. Operand forms (02_formats R33 to R38, R44, R46 to R48, R53): guards, groups, special numbers, the checks of
steps 1, 4 and 5, and the reads and writes of a thread's registers and predicates. -/
namespace Sys2Proof.Machine

/-- What a thread's instruction reads besides the thread's own record: TIDX and ROLE (R35), the length L of the overlay it
stands in (R43), whether vector results are shadow-checked (R152), and the hardware error about to strike its next checked
result (R149). -/
structure Env where
  tidx : Nat
  role : Nat
  len : Nat
  vchk : Bool
  upset : Option (Nat × Nat × Shadow)
deriving DecidableEq, Repr

/-- How an instruction uses an operand field: a source or destination group of w registers; `srcZ` and `dstZ` also take
the number zero at any width (R35). -/
inductive Use where
  | src (w : Nat)
  | dst (w : Nat)
  | srcZ (w : Nat)
  | dstZ (w : Nat)
deriving DecidableEq, Repr

/-- An operand field: its use and the number it holds. -/
structure Opd where
  use : Use
  n : Nat
deriving DecidableEq, Repr

/-- The register fields as numbers. -/
structure Nums where
  d : Nat
  a : Nat
  b : Nat
  c : Nat
deriving DecidableEq, Repr

/-- Registers of the group that a use names. -/
def Use.width : Use → Nat
  | .src w | .dst w | .srcZ w | .dstZ w => w

/-- Step 1 of Table 6 for one operand: special numbers and group alignment (R34, R35). -/
def Opd.legal (o : Opd) : Bool :=
  match o.use with
  | .src 1 => o.n < 120 || o.n = 124 || o.n = 125 || o.n = 126
  | .dst 1 => o.n < 120 || o.n = 124
  | .src w | .dst w => o.n % w = 0 && o.n + w ≤ 120
  | .srcZ w | .dstZ w => o.n = 124 || (o.n % w = 0 && o.n + w ≤ 120)

/-- A predicate operand (R37). -/
def predOk (n : BitVec 7) : Bool := n.toNat < 24

/-- The guard is legal (R33). -/
def guardOk (g : BitVec 5) (gn : Bool) : Bool := g.toNat < 24 || (g.toNat = 31 && !gn)

/-- The group size of W (R34). -/
def gsz (w : BitVec 2) : Nat := 2 ^ w.toNat

/-- The guard of a thread (R33). -/
def Thread.guard (t : Thread) (g : BitVec 5) (gn : Bool) : Bool := g.toNat = 31 || (t.preds.getLsbD g.toNat != gn)

/-- The value of one operand number (R35, Table 2). -/
def Thread.val (e : Env) (t : Thread) (n : Nat) : Nat :=
  if n < 120 then (t.regs.getD n Reg.zero).val.toNat
  else if n = 125 then e.tidx % 2 ^ 32
  else if n = 126 then e.role % 2 ^ 32
  else 0

/-- tag(n) (R5, R35). -/
def Thread.tagOf (t : Thread) (n : Nat) : Nat := if n < 120 then (t.regs.getD n Reg.zero).tag.toNat else 0

/-- read_reg(n, w): register n + j supplies bits [32j + 31 : 32j] (R5, R34). -/
def Thread.readReg (e : Env) (t : Thread) (n : Nat) : Nat → Nat
  | 0 => 0
  | w + 1 => t.readReg e n w + 2 ^ (32 * w) * t.val e (n + w)

/-- One register written: value, tag, and its pending bit cleared (R5, R47, R48). A number that is no general register of
the thread discards the write (R35). -/
def Thread.setReg (t : Thread) (n : Nat) (v : W32) (tag : Nat) : Thread :=
  { t with regs := t.regs.set n ⟨v, BitVec.ofNat 4 tag, false⟩ }

/-- write_reg(n, w, value, tag) (R5). A write to zero is discarded. -/
def Thread.writeReg (t : Thread) (n : Nat) : Nat → Nat → Nat → Thread
  | 0, _, _ => t
  | w + 1, v, tag =>
    if n < 120 then (t.writeReg n w v tag).setReg (n + w) (w32 (v / 2 ^ (32 * w))) tag else t

/-- Predicate n of a thread. -/
def Thread.pred (t : Thread) (n : Nat) : Bool := t.preds.getLsbD n

/-- Predicate n written. -/
def Thread.setPred (t : Thread) (n : Nat) (v : Bool) : Thread :=
  { t with preds := BitVec.ofNat 24 (ofBits 24 fun i => if i = n then v else t.preds.getLsbD i) }

/-- The PC stepped past an instruction of k words (R50). -/
def Thread.step (t : Thread) (k : Nat) : Thread := { t with pc := { t.pc with off := t.pc.off + k } }

/-- The PC moved within the overlay. -/
def Thread.goto (t : Thread) (off : Nat) : Thread := { t with pc := { t.pc with off := off } }

/-- The pending bits of a group set (R48). -/
def Thread.setPend (t : Thread) (n w : Nat) : Thread :=
  (rangeFrom n w).foldl (fun t k => if k < 120 then
    { t with regs := t.regs.set k { (t.regs.getD k Reg.zero) with pend := true } } else t) t

/-- The pending bits of a group cleared (R203, R382). -/
def Thread.clearPend (t : Thread) (n w : Nat) : Thread :=
  (rangeFrom n w).foldl (fun t k => if k < 120 then
    { t with regs := t.regs.set k { (t.regs.getD k Reg.zero) with pend := false } } else t) t

/-- A trap raised by an instruction, resuming at the instruction (R380, R382). -/
def trapR (cause info addr : Nat) : Raise := ⟨cause, info, addr, none, false⟩

/-- Step 4 of Table 6: the number in the first field whose group passes the allocation (R38, R44). -/
def rangeFail (alloc : Nat) : List Opd → Option Nat
  | [] => none
  | o :: os => if o.n < 120 ∧ alloc < o.n + o.use.width then some o.n else rangeFail alloc os

/-- The first pending register of a group of w registers from n. -/
def pendFail (t : Thread) (n w : Nat) : Option Nat :=
  (rangeFrom n w).find? fun k => k < 120 && (t.regs.getD k Reg.zero).pend

/-- Step 5 of Table 6: the first pending register read or written, in the order of the fields (R44, R48). -/
def hazardFail (t : Thread) : List Opd → Option Nat
  | [] => none
  | o :: os =>
    match pendFail t o.n o.use.width with
    | some k => some k
    | none => hazardFail t os

/-- Steps 4 and 5 of Table 6 over the operands. -/
def regCheck (t : Thread) (os : List Opd) : Option Raise :=
  match rangeFail t.regs.length os with
  | some n => some (trapR 0x02 n 0)
  | none =>
    match hazardFail t os with
    | some n => some (trapR 0x03 n 0)
    | none => none

/-- A lane instruction of one thread: its guard, its step-1 verdict, its length in words, its register fields with the
step each takes per repetition under REP (0: unchanged, R53), its register operands in the order of R44, and its effect
on a guard-true thread whose steps 1 to 5 passed. The effect does not move the PC. -/
structure LaneDef where
  g : BitVec 5
  gn : Bool
  ok : Bool
  words : Nat
  nums : Nums
  adv : Nums
  opds : Nums → List Opd
  sem : Env → Nums → Thread → Except Raise Thread

/-- Step 1 of Table 6 (R44): guard, width and fields, and the operand numbers. -/
def LaneDef.legal (i : LaneDef) : Bool := guardOk i.g i.gn && i.ok && (i.opds i.nums).all Opd.legal

/-- The operand numbers of repetition k (R53): a field that names a general register grows by k times its step. -/
def LaneDef.numsAt (i : LaneDef) (k : Nat) : Nums :=
  let adv := fun n s => if n < 120 then n + k * s else n
  { d := adv i.nums.d i.adv.d, a := adv i.nums.a i.adv.a, b := adv i.nums.b i.adv.b, c := adv i.nums.c i.adv.c }

/-- Steps 3 to 7 of Table 6 for one thread, then the step past the instruction's words. A guarded-off thread only steps
(R33). -/
def LaneDef.run (i : LaneDef) (e : Env) (t : Thread) : Except Raise Thread :=
  if t.guard i.g i.gn then
    match regCheck t (i.opds i.nums) with
    | some r => .error r
    | none =>
      match i.sem e i.nums t with
      | .ok t' => .ok (t'.step i.words)
      | .error r => .error r
  else .ok (t.step i.words)

end Sys2Proof.Machine
end

