-- ==== Sys2Proof/Machine/Ops.lean ====
section
/-! DEFINITION. The shared operations: taking a trap and leaving it (16_system R380 to R383), the ends of tasks and teams
(13_tasks R316, R333; 16_system R381, R387, R390, R391), entering an overlay (15_overlays R366, R369, R370), arriving at a
rendezvous (05_control R118 to R122), and the frames of lane and uniform instructions (02_formats R44, R45). -/
namespace Sys2Proof.Machine

/-! ## Registers that identify a thread (R374) -/

/-- The TEAM register of a thread. -/
def State.teamReg (s : State) (t : ThreadId) : Nat :=
  t.lane + 32 * ((s.team t.team).map (·.tnum)).getD 0 + 1024 * t.team.slot

/-- The CTX register of a context. -/
def State.ctxReg (s : State) (c : CtxId) : Nat :=
  c.vf.vf + 1024 * c.cidx + 2 ^ 18 * b2n (((s.ctx c).map (·.sup)).getD false) + 2 ^ 19 * (s.partOfCtx c % 32)

/-- The state of a thread at a start at ENTRY (R312), with the given allocation. -/
def startThread (alloc : Nat) : Thread :=
  { live := true, pc := ⟨0, 0⟩, regs := List.replicate alloc Reg.zero, preds := 0, ldn := 0, stn := 0, cpn := 0, mxn := 0,
    fflags := 0, fmode := 0, cause := 0, inh := false, defer := false, tinfo := 0, taddr := 0, tlinkLo := 0,
    tlinkHi := 0, park := .ready, fences := [], deferred := [], heldWait := false, since := 0 }

/-! ## What a team has outstanding -/

/-- Threads of a team among the owners of an access. -/
def Access.ofTeam (a : Access) (t : TeamId) : Bool := a.owners.any (·.team = t)

/-- Accesses of a team that have issued and not completed. -/
def State.teamAccs (s : State) (t : TeamId) : List Access := s.accs.filter (·.ofTeam t)

/-- Copies that threads of a team have issued and that have not completed. -/
def State.teamCopies (s : State) (t : TeamId) : List Copy :=
  (s.core t.core).copies.filter fun c => c.issuers.any (·.team = t)

/-- Matrix commands of a team that have not retired, in acceptance order. -/
def State.teamMats (s : State) (t : TeamId) : List MatCmd := (s.core t.core).mq.filter (·.team = t)

/-- Gate requests and launch entries of a team. -/
def State.teamGates (s : State) (t : TeamId) : List GateReq := s.gateReqs.filter fun r => r.owners.any (·.team = t)
def State.teamLaunch (s : State) (t : TeamId) : List Launch := (s.core t.core).launch.filter fun l => l.team = t || l.owners.any (·.team = t)

/-- The held writes of a team: those of its store buffer, and those of another team of its core that issued them together with threads of it
(R45, R387; log entry 33). -/
def State.heldOf (s : State) (t : TeamId) : List Access :=
  ((s.team t).map (·.held)).getD [] ++ (s.teams.filter fun x => x.1 ≠ t && x.1.core = t.core).flatMap fun x =>
    x.2.held.filter fun a => a.owners.any (·.team = t)

/-- The team holds a write that an operation of some of its threads in a stream would wait for: one of theirs in that stream, or one of an
earlier engine operation (R227, R229, R387). -/
def State.heldFor (s : State) (t : TeamId) (ids : List ThreadId) (strm : Nat) : Bool :=
  (s.heldOf t).any fun a => a.kind = .engine || (a.strm = strm && a.owners.any ids.contains)

/-- Nothing of the team is outstanding: a commit may take place (R388). -/
def State.quiet (s : State) (t : TeamId) : Bool :=
  (s.teamAccs t).isEmpty && (s.teamCopies t).isEmpty && (s.teamMats t).isEmpty && (s.teamLaunch t).isEmpty

/-- The team runs a guarded task (R387). -/
def Team.guarded (t : Team) : Bool := t.task.any fun k => k.body.frame.getLsbD 3

/-- The team holds a write, or has written a line or tile since its last commit (R388). -/
def Team.dirty (t : Team) : Bool := !t.held.isEmpty || !t.wlines.isEmpty || !t.wtiles.isEmpty

/-- Counters lowered in the threads an access serves. -/
def State.lowerStn (s : State) (ts : List ThreadId) : State := s.updThreads ts fun t => { t with stn := t.stn - 1 }
def State.lowerLdn (s : State) (ts : List ThreadId) : State := s.updThreads ts fun t => { t with ldn := t.ldn - 1 }

/-! ## Ends of tasks and teams -/

/-- The held writes of a team dropped, and STN lowered for each that its thread's STN counts (R381, R390). -/
def State.dropHeld (s : State) (t : TeamId) : State :=
  match s.team t with
  | none => s
  | some tm =>
    let s := (tm.held.filter fun a => a.kind ≠ .payload && a.kind ≠ .engine).foldl (fun s a => s.lowerStn a.owners) s
    s.updTeam t fun tm => { tm with held := [], wlines := [], wtiles := [], commitDue := false, irrevocable := false }

/-- The team's task ends (R316): the release, which also covers the stores that stand in the L1 only, and the join decrement are left to
the queue controller. `dec` says that the join counter is decremented, which a JWAIT does not do: nothing of its team is outstanding, and
it releases at once. The record completes with the decrement (R338). -/
def State.endTask (s : State) (t : TeamId) (dec : Bool) : State :=
  match s.team t, s.ctxOf t with
  | some tm, some c =>
    match tm.task with
    | none => s
    | some k =>
      let (s, key) := s.fresh
      let s := s.updTeam t fun tm => { tm with task := none, frame := 0, targ := 0, snap := none }
      if dec then
        { s with joins := s.joins ++
            [⟨key, c, false, (s.teamAccs t).map (·.seq) ++ s.dirtySeqs t.core (·.team = t), k.body.join.toNat, [],
              k.q.map fun q => (q, k.no)⟩] }
      else s.expose t.core fun d => d.owners.any (·.team = t)
  | _, _ => s

/-- KIND 1 record of a team whose task ended by trap or was killed (R381, R390, R418). -/
def State.trapEvent (s : State) (id : ThreadId) (cause addr : Nat) : State :=
  match s.ctxOf id.team with
  | none => s
  | some c => s.postEvent (vfFn c.vf)
      ⟨w32 (s.ctxReg c), 0, 1, s.clkw, cause, w32 (s.teamReg id), BitVec.ofNat 64 addr⟩

/-- The team's task is ended by trap or killed (R381): it issues nothing more and its held stores are discarded; FRESH_START ends the task
when nothing of the team is outstanding. -/
def State.killTeam (s : State) (id : ThreadId) (r : Raise) : State :=
  (s.dropHeld id.team).updTeam id.team fun tm => { tm with stop := .fresh id r }

/-- The record of a task ended by trap, and counter 9 (R381). -/
def State.reportKill (s : State) (id : ThreadId) (r : Raise) : State :=
  let s := s.trapEvent id r.cause r.addr
  match s.ctxOf id.team with
  | some c => s.countVf c.vf 9
  | none => s

/-- The blocks of the gang that a team belongs to; none outside a gang (R313). -/
def State.gangBlocks (s : State) (t : TeamId) : List BlockId :=
  match s.blockOf t with
  | none => []
  | some b => if b.gang = 0 then [] else (s.blocks.filter fun (_, b') => b'.ctx = b.ctx && b'.gang = b.gang).map (·.1)

/-- The teams of the gang that a team belongs to; none outside a gang (R313). -/
def State.gangTeams (s : State) (t : TeamId) : List TeamId :=
  let bs := s.gangBlocks t
  if bs.isEmpty then [] else (s.teams.filter fun (_, tm) => bs.contains tm.block).map (·.1)

/-- A team that a fault has stopped and that is not handled yet (R381, R390). -/
def Team.struck (t : Team) : Bool :=
  match t.stop with
  | .rolling _ _ | .fresh _ _ => true
  | _ => false

/-- Suspended teams of some blocks that run a task and have left their slots (R201). -/
def Susp.inGang (bs : List BlockId) (p : Susp) : Bool :=
  !p.kept && bs.contains p.saved.team.block && p.saved.team.task.isSome && !p.saved.team.struck

/-- The suspended teams of a gang that have left their slots are stopped with it: the gang's handling takes up their frames (R391). -/
def State.strikeSusps (s : State) (t : TeamId) (roll : Bool) (r : Raise) : State :=
  let bs := s.gangBlocks t
  let who := fun v : SavedTeam => (⟨v.id, ((v.threads.find? fun x => x.2.live).map (·.1)).getD 0⟩ : ThreadId)
  let strike := fun p : Susp => if p.inGang bs then
      { p with saved := { p.saved with team := { p.saved.team with
          stop := if roll then .rolling (who p.saved) r else .fresh (who p.saved) r } } } else p
  match s.ctxOf t with
  | none => s
  | some c => s.updCtx c fun x => { x with
      resumes := x.resumes.filter fun r => r.fromSnap || !(x.susp.any fun p => p.key = r.key && p.inGang bs)
      susp := x.susp.map strike }

/-- A fault of a gang member (R391): every team of the gang that runs a task is stopped, suspended ones too; guarded ones roll back in place,
and a gang with an unguarded running team is killed as a whole. Teams that a fault has stopped already are left as they are, and a team
without a task is handled alone (log entry 77). Until the gang is handled, a fatal fault, one that is not PEER_LOST, marks the
faulted member. -/
def State.gangFault (s : State) (id : ThreadId) (r : Raise) : State :=
  let s := match s.team id.team with
    | some tm => if r.cause = 0x17 then s else s.updBlock tm.block fun b => { b with lost := true }
    | none => s
  let run := (s.gangTeams id.team).filter fun t => (s.team t).any fun tm => tm.task.isSome && !tm.struck
  let who := fun t : TeamId => if t = id.team then id else ⟨t, ((s.liveIds t).head?.map (·.lane)).getD 0⟩
  let susps := ((((s.ctxOf id.team).bind s.ctx).map (·.susp)).getD []).filter (Susp.inGang (s.gangBlocks id.team))
  let s := if run.contains id.team then s else s.killTeam id r
  if (run.all fun t => (s.team t).any Team.guarded) && susps.all fun p => p.saved.team.guarded then
    (run.foldl (fun s t => s.updTeam t fun tm => { tm with stop := .rolling (who t) r }) s).strikeSusps id.team true r
  else (run.foldl (fun s t => s.killTeam (who t) r) s).strikeSusps id.team false r

/-- A gang none of whose teams waits any more to be handled is handled: its members answer again (R391). -/
def State.gangHandled (s : State) (t : TeamId) : State :=
  let bs := s.gangBlocks t
  if bs.isEmpty || s.teams.any (fun (_, tm) => bs.contains tm.block && tm.struck) then s
  else { s with blocks := tmap s.blocks fun i b => if bs.contains i then { b with lost := false } else b }

/-- A task ended by trap, which in a gang is a fatal fault of the gang (R381, R391). -/
def State.endByTrap (s : State) (id : ThreadId) (r : Raise) : State :=
  if (s.gangTeams id.team).isEmpty then s.killTeam id r else s.gangFault id r

/-- Counts of a shadow divergence (R152, R379), one for each thread that diverges in an issue (log entry 78); a divergence that strikes
is used up. -/
def State.countDivergence (s : State) (id : ThreadId) (r : Raise) : State :=
  match s.ctxOf id.team with
  | none => s
  | some c =>
    if r.cause = 0x20 && !r.defer then
      let s := { s with upsets := s.upsets.filter fun u => match u with
        | .shadow t _ _ _ => t ≠ id
        | _ => true }
      let s := s.updCtx c fun x => { x with vdiv := min (x.vdiv + 1) 0xFFFF }
      s.countVf c.vf 6
    else s

/-- SHADOW_DIVERGENCE, UNCORRECTABLE and PEER_LOST: rollback when guarded, kill when not, the gang as one unit
(R151, R390, R391). -/
def State.recover (s : State) (id : ThreadId) (r : Raise) : State :=
  let s := s.countDivergence id r
  if !(s.gangTeams id.team).isEmpty then s.gangFault id r
  else if (s.team id.team).any Team.guarded then s.updTeam id.team fun tm => { tm with stop := .rolling id r }
  else s.killTeam id r

/-! ## Entering an overlay -/

/-- Every live thread of the team exits because ENTRY cannot be reached (R370). -/
def State.entryFailed (s : State) (id : ThreadId) (cause info addr : Nat) : State :=
  let s := match s.ctxOf id.team with
    | none => s
    | some c => s.postEvent (vfFn c.vf) ⟨w32 (s.ctxReg c), 0, 1, s.clkw, cause, w32 info, BitVec.ofNat 64 addr⟩
  s.updThreads (s.liveIds id.team) fun t => { t with live := false, park := .ready }

/-- A thread reaches an entry or offset of a resident overlay (R369, R370): the thread as it goes on, or the trap to raise;
the trap is answered for handler and ENTRY too, where its meaning is `refusedEntry`'s. -/
def landing (o : Overlay) (tok : Nat) (t : Thread) (k : FillThen) : Except Raise Thread :=
  let at_ := fun off : Nat => ({ t with pc := ⟨BitVec.ofNat 16 tok, off⟩, park := .ready } : Thread)
  match k with
  | .call d e _ =>
    match o.entries[e]? with
    | none => .error (trapR 0x06 e 0)
    | some off =>
      .ok ({ at_ off with regs := (t.writeReg d 2 (pairOf t.pc.tok.toNat (t.pc.off + 2)) 0).regs })
  | .offset _ _ off => if o.len ≤ off then .error (trapR 0x06 off 0) else .ok (at_ off)
  | .handler e | .entry e =>
    match o.entries[e]? with
    | none => .error (trapR 0x06 e 0)
    | some off => .ok (at_ off)

/-- A handler or ENTRY that cannot be reached: the task ends with the trap's own cause, or the team's threads exit (R370). -/
def State.refusedEntry (s : State) (id : ThreadId) (k : FillThen) (r : Raise) : State :=
  match k with
  | .entry _ => if ((s.thread id).any (·.live)) then s.entryFailed id r.cause r.info r.addr else s
  | _ =>
    match s.thread id with
    | some t =>
      (s.updThread id fun t => { t with park := .ready }).endByTrap id ⟨t.cause.toNat, t.tinfo.toNat, t.taddr.toNat, none, t.defer⟩
    | none => s

/-- A thread lands at a handler or ENTRY. -/
def State.landEntry (s : State) (id : ThreadId) (o : Overlay) (k : FillThen) : State :=
  match s.thread id with
  | none => s
  | some t =>
    match landing o ((s.core id.team.core).tokenOf o) t k with
    | .ok t' => (s.updThread id fun _ => t').stampOverlay id.team.core o
    | .error r => s.refusedEntry id k r

/-- A commit is due before the instruction: the team's threads stop until it has taken place (R388). -/
def State.commitFirst (s : State) (t : TeamId) : State := s.updTeam t fun tm => { tm with commitDue := true }

/-- A thread parks in the target of a fill of an image (R361, R366). A held write of its task that the hoist's reads would wait for is
committed first (R227, R387). -/
def State.awaitFill (s : State) (id : ThreadId) (x : CtxId) (image : Nat) (k : FillThen) : State :=
  let s := if s.heldFor id.team [id] 0 then s.commitFirst id.team else s
  let (s, f) := s.demandFill id x image
  s.updThread id fun t => { t with park := .fill f image k }

/-- A thread goes to an image: at once when it is resident, else parked on its fill (R363, R366, R369, R370). `now` is what
happens when it is resident. -/
def State.reachImage (s : State) (id : ThreadId) (image : Nat) (k : FillThen) (now : State → Overlay → State) : State :=
  match s.ctxOf id.team with
  | none => s
  | some x =>
    match (s.core id.team.core).tagged x.vf (s.pasid x) image with
    | some o => if o.state = .resident then now s o else (s.stampOverlay id.team.core o).awaitFill id x image k
    | none => s.awaitFill id x image k

/-- A thread goes to the handler or ENTRY that an entry reference names. -/
def State.reachEntry (s : State) (id : ThreadId) (eref : Nat) (k : Nat → FillThen) : State :=
  s.reachImage id (erefImage eref) (k (erefEntry eref)) fun s o => s.landEntry id o (k (erefEntry eref))

/-! ## Traps -/

/-- A trap's registers written in the thread (R380): TCAUSE, TINFO, TADDR, and TLINK at the resume point. TLINKHI has 14 bits: of the
offset 16,384, at the end of an overlay of full length, it holds 0 (log entry 79). -/
def Thread.enterTrap (t : Thread) (r : Raise) : Thread :=
  let l := r.link.getD t.pc
  { t with cause := BitVec.ofNat 8 r.cause, inh := true, defer := r.defer, tinfo := w32 r.info,
           taddr := BitVec.ofNat 64 r.addr, tlinkLo := l.tok, tlinkHi := BitVec.ofNat 14 l.off, park := .ready }

/-- Causes that no handler takes (R380, R382). -/
def recoveryCause (c : Nat) : Bool := c = 0x17 || c = 0x20 || c = 0x21

/-- Taking a trap (R380): the recovery causes are handled by the recovery rules; without a handler, or in the handler, the
task ends; else the registers are saved and the thread goes to the handler's entry. -/
def State.deliver (s : State) (id : ThreadId) (r : Raise) : State :=
  match s.thread id, s.blockOf id.team with
  | some t, some b =>
    if recoveryCause r.cause then s.recover id r
    else if b.handler = 0 || t.inh then s.endByTrap id r
    else (s.updThread id fun t => t.enterTrap r).reachEntry id b.handler.toNat .handler
  | _, _ => s

/-- Several traps of one issue, in ascending tidx; a team that an earlier one stopped takes no further trap, but its divergences are
counted (R152). -/
def State.raises (s : State) : List (ThreadId × Raise) → State
  | [] => s
  | (id, r) :: rs =>
    let s := if (s.team id.team).any (fun tm => tm.stop = .running) then s.deliver id r else s.countDivergence id r
    s.raises rs

/-- What happens to a thread in an issue: nothing once an earlier trap of the issue has stopped its team (R381). -/
def State.ifRuns (s : State) (t : TeamId) (f : State → State) : State :=
  if (s.team t).any (fun tm => tm.stop = .running) then f s else s

/-- The RET that leaves a handler: its link pair equals TLINK as it stands (R380). -/
def Thread.leaveHandler (t : Thread) (tok off : Nat) : Thread :=
  if t.inh && t.tlinkLo.toNat = tok && t.tlinkHi.toNat = off then { t with inh := false } else t

/-- A thread lands where a CALLO, RET or restore sent it, or traps there (R114, R369, R370). Of a CALLO's group the leader traps; the
others issue again (R45). -/
def State.land (s : State) (id : ThreadId) (o : Overlay) (k : FillThen) : State :=
  match k with
  | .handler _ | .entry _ => s.landEntry id o k
  | _ =>
    match s.thread id with
    | none => s
    | some t =>
      match landing o ((s.core id.team.core).tokenOf o) t k with
      | .ok t' => (s.updThread id fun _ => t').stampOverlay id.team.core o
      | .error r =>
        let s := (s.updThread id fun t => { t with park := .ready }).stampOverlay id.team.core o
        match k with
        | .call _ _ false => s
        | _ => s.deliver id r

/-- A thread goes on at an offset of an image, by way of a demand fill when it is not resident (R370). -/
def State.goTo (s : State) (id : ThreadId) (image tok off : Nat) : State :=
  s.reachImage id image (.offset image tok off) fun s o => s.land id o (.offset image tok off)

/-- A thread whose fill failed with a status code (R366, R369, R370). -/
def State.fillFailed (s : State) (id : ThreadId) (image code : Nat) (k : FillThen) : State :=
  match k with
  | .handler _ | .entry _ => s.refusedEntry id k (trapR 0x15 code image)
  | .offset _ tok off =>
    (s.updThread id fun t => { t with park := .ready }).deliver id
      { trapR 0x15 code image with link := some ⟨BitVec.ofNat 16 tok, off⟩ }
  | .call _ _ _ => (s.updThread id fun t => { t with park := .ready }).deliver id (trapR 0x15 code image)

/-- The gathered threads that are in the state, with their records. -/
def State.group (s : State) : List (ThreadId × Thread) :=
  s.gathered.ids.filterMap fun i => (s.thread i).map fun t => (i, t)

/-- Every gathered thread raises a trap (R44, R45). -/
def State.allRaise (s : State) (r : Raise) : State := s.raises (s.gathered.ids.map fun i => (i, r))

/-- ILLEGAL_ENCODING in every gathered thread (R58). -/
def State.illegal (s : State) : State := s.allRaise (trapR 0x01 0 0)

/-! ## Lane instructions -/

/-- What the thread's instruction reads besides its record. -/
def State.env (s : State) (id : ThreadId) : Env :=
  { tidx := s.tidx id
    role := ((s.team id.team).map (·.role.toNat)).getD 0
    len := ((s.thread id).map fun t => s.ovLen id t.pc).getD 0
    vchk := ((s.ctxOf id.team).bind s.ctx).any fun c => c.shdctl.getLsbD 0
    upset := s.upsets.findSome? fun u => match u with
      | .shadow t r e sh => if t = id then some (r, e, sh) else none
      | _ => none }

/-- Every gathered thread takes the effect of one function on its own record; threads for which it answers a trap keep
their record and raise it (R6, R44). -/
def State.overGroup (s : State) (f : ThreadId → Thread → Except Raise Thread) : State :=
  let s' := s.mapThreads fun i t =>
    if i ∈ s.gathered.ids then
      match f i t with
      | .ok t' => t'
      | .error _ => t
    else t
  s'.raises (s.group.filterMap fun (i, t) =>
    match f i t with
    | .ok _ => none
    | .error r => some (i, r))

/-- A lane instruction: step 1 in every gathered thread, then each thread on its own (R30, R44). -/
def runLane (i : LaneDef) (s : State) : Out :=
  if i.legal then .next (s.overGroup fun id t => i.run (s.env id) t) else .next s.illegal

/-! ## Uniform instructions -/

/-- A uniform instruction's guard, step-1 verdict and register operands. -/
structure UniDef where
  g : BitVec 5
  gn : Bool
  ok : Bool
  words : Nat
  srcs : List Opd
  dsts : List Opd

/-- Step 1 of Table 6. -/
def UniDef.legal (u : UniDef) : Bool := guardOk u.g u.gn && u.ok && u.srcs.all Opd.legal && u.dsts.all Opd.legal

/-- The leader, the guard-true threads, those of them that receive the result, and the traps of the others (R45). -/
structure UniGroup where
  leader : ThreadId
  lt : Thread
  env : Env
  all : List ThreadId
  rcv : List ThreadId
  bad : List (ThreadId × Raise)

/-- What a uniform instruction came to: performed; left at the same PC before it issued, by a stall or a commit; parked at its PC by
its own rule; or trapped in the leader at step 7. -/
inductive UniRes where
  | done (s : State)
  | stay (s : State)
  | parked (s : State)
  | trap (s : State) (r : Raise)

/-- Threads stepped past the instruction's words. -/
def State.stepAll (s : State) (ts : List ThreadId) (k : Nat) : State := s.updThreads ts fun t => t.step k

/-- The traps of a uniform instruction that the leader's step 7 stops: the leader's first trap, and those of the threads whose own
destination failed (R44, R45; log entry 80). -/
def UniGroup.traps (g : UniGroup) (r : Raise) : List (ThreadId × Raise) :=
  if g.bad.any (·.1 = g.leader) then g.bad else (g.leader, r) :: g.bad

/-- The frame of a uniform instruction (R30, R33, R45): step 1 in every thread; guarded-off threads step past; the leader's
source checks, which stop the instruction when they fail; destination checks in every guard-true thread, before step 7: a thread that
fails them traps and receives no result, and when every one fails nothing is performed (R6). `act` performs the effect; when it stays,
the instruction has not issued, and issues again. -/
def runUniform (u : UniDef) (s : State) (act : UniGroup → State → UniRes) : Out :=
  if !u.legal then .next s.illegal
  else
    let g := s.group
    let on := g.filter fun (_, t) => t.guard u.g u.gn
    let off := (g.filter fun (_, t) => !t.guard u.g u.gn).map (·.1)
    let s := s.stepAll off u.words
    match on with
    | [] => .next s
    | (l, lt) :: _ =>
      match regCheck lt u.srcs with
      | some _ => .next (s.raises [(l, (regCheck lt (u.srcs ++ u.dsts)).getD (trapR 0x02 0 0))])
      | none =>
        let bad := on.filterMap fun (i, t) => (regCheck t u.dsts).map fun r => (i, r)
        let rcv := (on.filter fun (_, t) => (regCheck t u.dsts).isNone).map (·.1)
        let ug : UniGroup := ⟨l, lt, s.env l, on.map (·.1), rcv, bad⟩
        if rcv.isEmpty then .next (s.raises bad)
        else
          match act ug s with
          | .done s | .parked s => .next (s.raises bad)
          | .stay s => .next s
          | .trap s r => .next (s.raises (ug.traps r))

/-- A result written with tag RAW in the receiving threads, which step past the instruction (R30, R78). -/
def State.result (s : State) (g : UniGroup) (words d w v : Nat) : State :=
  s.updThreads g.rcv fun t => (t.writeReg d w v 0).step words

/-- The teams that a gathered group's guard-true threads belong to. -/
def UniGroup.teams (g : UniGroup) : List TeamId := (g.all.map (·.team)).eraseDups

/-! ## Rendezvous (R118 to R122) -/

/-- Threads of a team that have arrived at a PC, with what they arrived for. -/
def State.arrivals (s : State) (t : TeamId) (pc : Pc) : List (ThreadId × Arrival) :=
  (s.members t).filterMap fun (i, th) =>
    if th.live && th.pc = pc then
      match th.park with
      | .arrived k => some (i, k)
      | _ => none
    else none

/-- The mask of the members that a set of arrivals names (R118, R119, R333, R341); when every arrival at a cross-lane
instruction is guarded off, no mask is read and the live threads are taken (log entry 18). -/
def memberMask (live : Nat) : List (ThreadId × Arrival) → Nat
  | [] => live
  | (_, .conv) :: _ => live
  | (_, .team) :: _ => live
  | (_, .barrier) :: _ => live
  | (_, .matrix) :: _ => 0xFFFFFFFF
  | (_, .lanes (some m)) :: _ => m.toNat
  | (_, .lanes none) :: rest => memberMask live rest

/-- The members of a complete rendezvous at a PC; none while it is not complete (R121). -/
def State.complete? (s : State) (t : TeamId) (pc : Pc) : Option (List ThreadId) :=
  let a := s.arrivals t pc
  let m := memberMask (s.liveMask t) a
  let ids := a.map (·.1)
  if ids.isEmpty then none
  else if (bitList m 32).all fun l => ids.contains ⟨t, l⟩ then some ((bitList m 32).map fun l => ⟨t, l⟩) else none

/-- The PCs at which threads of a team have arrived. -/
def State.arrivalPcs (s : State) (t : TeamId) : List Pc :=
  ((s.members t).filterMap fun (_, th) => match th.park with
    | .arrived _ => if th.live then some th.pc else none
    | _ => none).eraseDups

/-- The members of the rendezvous that are complete and about to be released (R121). -/
def State.completeIds (s : State) (t : TeamId) : List ThreadId :=
  (s.arrivalPcs t).flatMap fun pc => (s.complete? t pc).getD []

/-- Threads that have arrived at a CONV or a collective; a member at a barrier is waited for without limit (R122). -/
def atCollective : Park → Bool
  | .arrived .barrier => false
  | .arrived _ => true
  | _ => false

/-- The members that keep a rendezvous from ever completing, as a mask: those exited and those parked elsewhere; 0 when it can still
complete (R122). A member of another rendezvous that is complete will leave it. -/
def State.stuckMask (s : State) (t : TeamId) (pc : Pc) : Nat :=
  let a := s.arrivals t pc
  let m := memberMask (s.liveMask t) a
  let named := bitList m 32
  let liveM := s.liveMask t
  let here := fun l => a.any fun x => x.1.lane = l && x.2 ≠ .barrier
  let leaving := s.completeIds t
  let parkedElse := fun l => match s.thread ⟨t, l⟩ with
    | some th => th.live && th.pc ≠ pc && atCollective th.park && !leaving.contains ⟨t, l⟩
    | none => false
  let dead := ofBits 32 fun l => m.testBit l && !liveM.testBit l
  let liveNamed := named.filter fun l => liveM.testBit l
  let allParked := liveNamed.all fun l => here l || parkedElse l
  let elsewhere := ofBits 32 fun l => m.testBit l && parkedElse l
  if dead ≠ 0 then dead + elsewhere
  else if allParked && elsewhere ≠ 0 then elsewhere
  else 0

/-- Every rendezvous of the team that can no longer complete raises ILLEGAL_CONVERGENCE in the threads parked at it (R122). -/
def State.checkRendezvous (s : State) (t : TeamId) : State :=
  let bad := (s.arrivalPcs t).flatMap fun pc =>
    let m := s.stuckMask t pc
    if m = 0 then [] else (s.arrivals t pc).map fun (i, _) => (i, trapR 0x05 m 0)
  (s.updThreads (bad.map (·.1)) fun th => { th with park := .ready }).raises bad

/-- Arrivals released as the rendezvous set of a number (R121). -/
def Thread.release (t : Thread) (n : Nat) : Thread :=
  match t.park with
  | .arrived k => { t with park := .released n k }
  | _ => t

/-- A rendezvous of a team whose every member has arrived becomes a set of its own, which issues as one group (R121). Of several the one
at the PC found first is released. -/
def State.releaseSet (s : State) (t : TeamId) : State :=
  match (s.arrivalPcs t).findSome? fun pc => s.complete? t pc with
  | some ids =>
    let (s, n) := s.fresh
    s.updThreads ids fun th => th.release n
  | none => s

/-- Threads arrive at their PC and park; a rendezvous that they complete becomes a set at once (R120, R121). -/
def State.arrive (s : State) (ts : List (ThreadId × Arrival)) : State :=
  let s := s.mapThreads fun i t => match ts.find? (·.1 = i) with
    | some (_, k) => { t with park := .arrived k }
    | none => t
  ((ts.map (·.1.team)).eraseDups).foldl (fun s t => (s.releaseSet t).checkRendezvous t) s

/-- An instruction of the whole team (R333, R341): gathered threads arrive; a released set acts. -/
def asTeam (s : State) (k : Arrival) (act : State → State) : Out :=
  if s.gathered.rdv then .next (act (s.updThreads s.gathered.ids fun t => { t with park := .ready }))
  else .next (s.arrive (s.gathered.ids.map fun i => (i, k)))

/-! ## Starting afresh (R312, R333) -/

/-- The live threads of a team restart at ENTRY with the state of R312, keeping their allocation. -/
def State.freshStart (s : State) (t : TeamId) : State :=
  match s.blockOf t with
  | none => s
  | some b =>
    let live := s.liveIds t
    let s := s.updThreads live fun th => startThread th.regs.length
    let s := s.updTeam t fun tm => { tm with stop := .running, frame := 0, targ := 0, task := none, commitDue := false, irrevocable := false }
    live.foldl (fun s i => s.reachEntry i b.entry.toNat .entry) s

/-- The team must commit before an irrevocable operation (R388). -/
def State.mustCommit (s : State) (t : TeamId) : Bool := (s.team t).any fun tm => tm.guarded && (tm.dirty || !(s.heldOf t).isEmpty)

/-- The commit that follows an irrevocable operation of a guarded task (R388): no rollback comes before it (R390). -/
def State.commitAfter (s : State) (t : TeamId) : State :=
  if (s.team t).any Team.guarded then s.updTeam t fun tm => { tm with commitDue := true, irrevocable := true } else s

/-- The team must commit before its task ends: it is dirty, or its engines have not completed, whose writes the commit takes in (R388). -/
def State.endCommits (s : State) (t : TeamId) : Bool :=
  s.mustCommit t || ((s.team t).any Team.guarded && !((s.teamCopies t).isEmpty && (s.teamMats t).isEmpty))

/-- The team must commit before a pop, which by the whole team ends its task (R315, R388). -/
def State.popCommits (s : State) (t : TeamId) (team : Bool) : Bool := if team then s.endCommits t else s.mustCommit t

/-- The same for several teams. -/
def State.commitsFirst (s : State) (ts : List TeamId) : State :=
  ts.foldl (fun s t => if s.mustCommit t then s.commitFirst t else s) s
def State.mustCommits (s : State) (ts : List TeamId) : Bool := ts.any s.mustCommit
def State.commitsAfter (s : State) (ts : List TeamId) : State := ts.foldl State.commitAfter s

end Sys2Proof.Machine
end

