-- ==== Sys2Proof/Machine/Integer.lean ====
section
/-! DEFINITION. Integer, address and predicate instructions of the lane set (04_integer R73 to R99). Each instruction has its
lane definition (operand form and effect) and its meaning, one call of `runLane`. -/
namespace Sys2Proof.Machine

/-! ## Operations on exact values (R79, Table 1; R82; R84; R87) -/

/-- x + y. -/
def opAdd (_g x y : Nat) : Nat := x + y
/-- x - y modulo 2^(32g). -/
def opSub (g x y : Nat) : Nat := wrap ((x : Int) - (y : Int)) (32 * g)
/-- x and y. -/
def opAnd (_g x y : Nat) : Nat := x &&& y
/-- x or y. -/
def opOr (_g x y : Nat) : Nat := x ||| y
/-- x xor y. -/
def opXor (_g x y : Nat) : Nat := x ^^^ y
/-- x and not y (R88). -/
def opAndn (g x y : Nat) : Nat := x &&& notW y (32 * g)
/-- x << c, 0 from 32g on. -/
def opShl (g x c : Nat) : Nat := if 32 * g ≤ c then 0 else x * 2 ^ c
/-- x >> c zero-filled, 0 from 32g on. -/
def opShr (g x c : Nat) : Nat := if 32 * g ≤ c then 0 else x / 2 ^ c
/-- signed(x, 32g) >> c, all sign bits from 32g on. -/
def opSar (g x c : Nat) : Nat := wrap (sgn x (32 * g) / (2 ^ min c (32 * g) : Nat)) (32 * g)
/-- x rotated left by c mod 32g places (R91). -/
def opRotl (g x c : Nat) : Nat :=
  let k := c % (32 * g)
  x * 2 ^ k + x / 2 ^ (32 * g - k)
/-- Low half of the product. -/
def opMul (_g x y : Nat) : Nat := x * y
/-- High half of the signed product. -/
def opMulhs (g x y : Nat) : Nat := wrap (sgn x (32 * g) * sgn y (32 * g) / (2 ^ (32 * g) : Nat)) (32 * g)
/-- High half of the unsigned product. -/
def opMulhu (g x y : Nat) : Nat := x * y / 2 ^ (32 * g)
/-- The smaller, signed. -/
def opMin (g x y : Nat) : Nat := if sgn x (32 * g) ≤ sgn y (32 * g) then x else y
/-- The larger, signed. -/
def opMax (g x y : Nat) : Nat := if sgn x (32 * g) ≤ sgn y (32 * g) then y else x
/-- The smaller, unsigned. -/
def opMinu (_g x y : Nat) : Nat := if x ≤ y then x else y
/-- The larger, unsigned. -/
def opMaxu (_g x y : Nat) : Nat := if x ≤ y then y else x
/-- Quotient truncated toward zero; all ones when y = 0 (R87, Table 4). -/
def opDiv (g x y : Nat) : Nat :=
  if y = 0 then 2 ^ (32 * g) - 1 else wrap (Int.tdiv (sgn x (32 * g)) (sgn y (32 * g))) (32 * g)
/-- Unsigned quotient; all ones when y = 0. -/
def opDivu (g x y : Nat) : Nat := if y = 0 then 2 ^ (32 * g) - 1 else x / y
/-- Remainder with the dividend's sign; x when y = 0. -/
def opRem (g x y : Nat) : Nat :=
  if y = 0 then x else wrap (Int.tmod (sgn x (32 * g)) (sgn y (32 * g))) (32 * g)
/-- Unsigned remainder; x when y = 0. -/
def opRemu (_g x y : Nat) : Nat := if y = 0 then x else x % y
/-- not x. -/
def opNot (g x : Nat) : Nat := notW x (32 * g)
/-- (0 - x) mod 2^(32g). -/
def opNeg (g x : Nat) : Nat := wrap (-(x : Int)) (32 * g)
/-- |signed(x)|, the most negative value mapping to itself. -/
def opAbs (g x : Nat) : Nat := wrap (sgn x (32 * g)).natAbs (32 * g)

/-! ## Operand forms -/

/-- The register fields of an L1 instruction. -/
def nums1 (f : L1) : Nums := ⟨f.d.toNat, f.a.toNat, 0, 0⟩
/-- The register fields of an L2R instruction. -/
def numsR (f : L2R) : Nums := ⟨f.d.toNat, f.a.toNat, f.b.toNat, f.c.toNat⟩
/-- W is one of the codes an entry allows (R73). -/
def wIn (f : L1) (ws : List Nat) : Bool := ws.contains f.w.toNat
/-- C, MOD and IMM12 unused (R42). -/
def restZero (f : L2R) : Bool := f.c = 0 && f.mod = 0 && f.imm = 0
/-- Every step of a group instruction under REP (R53). -/
def advAll (g : Nat) : Nums := ⟨g, g, g, g⟩

/-- d := d op a over the wide group (lane 0x00). -/
def bin1 (ws : List Nat) (op : Nat → Nat → Nat → Nat) (f : L1) : LaneDef :=
  let g := gsz f.w
  { g := f.g, gn := f.gn, ok := wIn f ws, words := 1, nums := nums1 f, adv := advAll g,
    opds := fun m => [⟨.src g, m.a⟩, ⟨.dst g, m.d⟩],
    sem := fun e m t => .ok (t.writeReg m.d g (op g (t.readReg e m.d g) (t.readReg e m.a g)) 0) }

/-- d := d shifted by the single register A (lane 0x00, R81). -/
def sh1 (op : Nat → Nat → Nat → Nat) (f : L1) : LaneDef :=
  let g := gsz f.w
  { g := f.g, gn := f.gn, ok := wIn f [0, 1], words := 1, nums := nums1 f, adv := advAll g,
    opds := fun m => [⟨.src 1, m.a⟩, ⟨.dst g, m.d⟩],
    sem := fun e m t => .ok (t.writeReg m.d g (op g (t.readReg e m.d g) (t.readReg e m.a 1)) 0) }

/-- d := a op b over groups (lane 0x01 and its like). -/
def binR (ws : List Nat) (op : Nat → Nat → Nat → Nat) (f : L2R) : LaneDef :=
  let g := gsz f.w
  { g := f.g, gn := f.gn, ok := wIn f.toL1 ws && restZero f, words := 2, nums := numsR f, adv := advAll g,
    opds := fun m => [⟨.src g, m.a⟩, ⟨.src g, m.b⟩, ⟨.dst g, m.d⟩],
    sem := fun e m t => .ok (t.writeReg m.d g (op g (t.readReg e m.a g) (t.readReg e m.b g)) 0) }

/-- d := a shifted by the single register B (lane 0x01, ROTL). -/
def shR (op : Nat → Nat → Nat → Nat) (f : L2R) : LaneDef :=
  let g := gsz f.w
  { g := f.g, gn := f.gn, ok := wIn f.toL1 [0, 1] && restZero f, words := 2, nums := numsR f, adv := advAll g,
    opds := fun m => [⟨.src g, m.a⟩, ⟨.src 1, m.b⟩, ⟨.dst g, m.d⟩],
    sem := fun e m t => .ok (t.writeReg m.d g (op g (t.readReg e m.a g) (t.readReg e m.b 1)) 0) }

/-- d := a op literal, sign-extended to 32g bits (lane 0x02, R80). -/
def binI (ws : List Nat) (op : Nat → Nat → Nat → Nat) (f : L2I) : LaneDef :=
  let g := gsz f.w
  { g := f.g, gn := f.gn, ok := wIn f.toL1 ws, words := 2, nums := nums1 f.toL1, adv := advAll g,
    opds := fun m => [⟨.src g, m.a⟩, ⟨.dst g, m.d⟩],
    sem := fun e m t =>
      .ok (t.writeReg m.d g (op g (t.readReg e m.a g) (wrap (sgn f.lit.toNat 32) (32 * g))) 0) }

/-- d := a shifted by a literal below 32g (lane 0x02, R80). -/
def shI (op : Nat → Nat → Nat → Nat) (f : L2I) : LaneDef :=
  let g := gsz f.w
  { g := f.g, gn := f.gn, ok := wIn f.toL1 [0, 1] && f.lit.toNat < 32 * g, words := 2, nums := nums1 f.toL1,
    adv := advAll g, opds := fun m => [⟨.src g, m.a⟩, ⟨.dst g, m.d⟩],
    sem := fun e m t => .ok (t.writeReg m.d g (op g (t.readReg e m.a g) f.lit.toNat) 0) }

/-- d := op a (lane 0x07). -/
def un1 (ws : List Nat) (op : Nat → Nat → Nat) (f : L1) : LaneDef :=
  let g := gsz f.w
  { g := f.g, gn := f.gn, ok := wIn f ws, words := 1, nums := nums1 f, adv := advAll g,
    opds := fun m => [⟨.src g, m.a⟩, ⟨.dst g, m.d⟩],
    sem := fun e m t => .ok (t.writeReg m.d g (op g (t.readReg e m.a g)) 0) }

/-- Compare conditions (R95, Table 8), by minor. -/
def cond (k g x y : Nat) : Bool :=
  match k with
  | 0 => x = y
  | 1 => x ≠ y
  | 2 => sgn x (32 * g) < sgn y (32 * g)
  | 3 => sgn y (32 * g) ≤ sgn x (32 * g)
  | 4 => x < y
  | 5 => y ≤ x
  | 6 => (x &&& y) ≠ 0
  | _ => (x &&& y) = 0

/-- p[D] := condition of groups A and B (lane 0x09). -/
def cmpR (k : Nat) (f : L2R) : LaneDef :=
  let g := gsz f.w
  { g := f.g, gn := f.gn, ok := wIn f.toL1 [0, 1] && restZero f && predOk f.d, words := 2, nums := numsR f,
    adv := ⟨0, g, g, 0⟩, opds := fun m => [⟨.src g, m.a⟩, ⟨.src g, m.b⟩],
    sem := fun e m t => .ok (t.setPred m.d (cond k g (t.readReg e m.a g) (t.readReg e m.b g))) }

/-- p[D] := condition of group A and the sign-extended literal (lane 0x0A). -/
def cmpI (k : Nat) (f : L2I) : LaneDef :=
  let g := gsz f.w
  { g := f.g, gn := f.gn, ok := wIn f.toL1 [0, 1] && predOk f.d, words := 2, nums := nums1 f.toL1,
    adv := ⟨0, g, 0, 0⟩, opds := fun m => [⟨.src g, m.a⟩],
    sem := fun e m t =>
      .ok (t.setPred m.d (cond k g (t.readReg e m.a g) (wrap (sgn f.lit.toNat 32) (32 * g)))) }

/-- p[D] := p[A] op p[B] (lane 0x0B minors 0 to 3, R97). -/
def predR (op : Bool → Bool → Bool) (f : L2R) : LaneDef :=
  { g := f.g, gn := f.gn, ok := wIn f.toL1 [0] && restZero f && predOk f.d && predOk f.a && predOk f.b, words := 2,
    nums := numsR f, adv := ⟨0, 0, 0, 0⟩, opds := fun _ => [],
    sem := fun _ m t => .ok (t.setPred m.d (op (t.pred m.a) (t.pred m.b))) }

/-- Position and length of a bit field (R89): from IMM12, or from a control register. -/
def fieldPos (f : L2R) (ctl : Nat) : Nat × Nat :=
  if f.mod = 1 then (fld ctl 0 8, fld ctl 8 8) else (fld f.imm.toNat 0 6, fld f.imm.toNat 6 6 + 1)

/-- Step-1 rules of the two forms of a bit-field instruction (R89); `z` is the operand that the immediate form leaves
unused. -/
def fieldOk (f : L2R) (z : BitVec 7) : Bool :=
  (f.mod = 1 && f.imm = 0) ||
  (f.mod = 0 && z = 0 && fld f.imm.toNat 0 6 + fld f.imm.toNat 6 6 + 1 ≤ 32 * gsz f.w)

/-- A field cut at bit N - 1 (R89). -/
def fieldLen (n pos len : Nat) : Nat := if n ≤ pos then 0 else min len (n - pos)

/-- The extracted field (R89). -/
def bfxVal (signed : Bool) (n x pos len : Nat) : Nat :=
  let l := fieldLen n pos len
  let v := fld x pos l
  if l = 0 then 0 else if signed then wrap (sgn v l) n else v

/-- BFX and BFXU (R89). -/
def bfxR (signed : Bool) (f : L2R) : LaneDef :=
  let g := gsz f.w
  { g := f.g, gn := f.gn, ok := wIn f.toL1 [0, 1] && f.c = 0 && fieldOk f f.b, words := 2, nums := numsR f,
    adv := ⟨g, g, if f.mod = 1 then g else 0, 0⟩,
    opds := fun m => [⟨.src g, m.a⟩] ++ (if f.mod = 1 then [⟨.src 1, m.b⟩] else []) ++ [⟨.dst g, m.d⟩],
    sem := fun e m t =>
      let p := fieldPos f (t.readReg e m.b 1)
      .ok (t.writeReg m.d g (bfxVal signed (32 * g) (t.readReg e m.a g) p.1 p.2) 0) }

/-- The inserted field (R89). -/
def bfiVal (n x y pos len : Nat) : Nat :=
  let l := fieldLen n pos len
  if l = 0 then x else setFld x pos l y

/-- BFI (R89). -/
def bfiR (f : L2R) : LaneDef :=
  let g := gsz f.w
  { g := f.g, gn := f.gn, ok := wIn f.toL1 [0, 1] && fieldOk f f.c, words := 2, nums := numsR f,
    adv := ⟨g, g, g, if f.mod = 1 then g else 0⟩,
    opds := fun m => [⟨.src g, m.a⟩, ⟨.src g, m.b⟩] ++ (if f.mod = 1 then [⟨.src 1, m.c⟩] else []) ++ [⟨.dst g, m.d⟩],
    sem := fun e m t =>
      let p := fieldPos f (t.readReg e m.c 1)
      .ok (t.writeReg m.d g (bfiVal (32 * g) (t.readReg e m.a g) (t.readReg e m.b g) p.1 p.2) 0) }

/-- The byte select of R90: source v = (B, A), selector and zero mask. -/
def bselVal (v sel z : Nat) : Nat :=
  bytesToNat ((List.range 4).map fun i =>
    if z.testBit i then 0 else BitVec.ofNat 8 (fld v (8 * fld sel (3 * i) 3) 8))

/-- BSEL (R90). -/
def bselR (f : L2R) : LaneDef :=
  let reg := f.mod.getLsbD 0
  { g := f.g, gn := f.gn,
    ok := wIn f.toL1 [0] && !f.mod.getLsbD 5 && (if reg then f.imm = 0 && f.mod = 1 else f.c = 0), words := 2,
    nums := numsR f, adv := ⟨1, 1, 1, if reg then 1 else 0⟩,
    opds := fun m => [⟨.src 1, m.a⟩, ⟨.src 1, m.b⟩] ++ (if reg then [⟨.src 1, m.c⟩] else []) ++ [⟨.dst 1, m.d⟩],
    sem := fun e m t =>
      let c := t.readReg e m.c 1
      let sel := if reg then fld c 0 12 else f.imm.toNat
      let z := if reg then fld c 12 4 else fld f.mod.toNat 1 4
      .ok (t.writeReg m.d 1 (bselVal (pairOf (t.readReg e m.a 1) (t.readReg e m.b 1)) sel z) 0) }

/-- MAD (R82). -/
def madR (f : L2R) : LaneDef :=
  let g := gsz f.w
  { g := f.g, gn := f.gn, ok := wIn f.toL1 [0, 1] && f.mod = 0 && f.imm = 0, words := 2, nums := numsR f, adv := advAll g,
    opds := fun m => [⟨.src g, m.a⟩, ⟨.src g, m.b⟩, ⟨.src g, m.c⟩, ⟨.dst g, m.d⟩],
    sem := fun e m t =>
      .ok (t.writeReg m.d g (t.readReg e m.a g * t.readReg e m.b g + t.readReg e m.c g) 0) }

/-- The widening multiply-add (R83). -/
def madwVal (signed : Bool) (x y z : Nat) : Nat :=
  if signed then wrap (sgn x 32 * sgn y 32 + (z : Int)) 64 else x * y + z

/-- MADW (R83): D and C are pairs, A and B single; single operands advance by the group size too (R53). -/
def madwR (f : L2R) : LaneDef :=
  { g := f.g, gn := f.gn, ok := wIn f.toL1 [1] && (f.mod = 0 || f.mod = 1) && f.imm = 0, words := 2, nums := numsR f,
    adv := advAll 2, opds := fun m => [⟨.src 1, m.a⟩, ⟨.src 1, m.b⟩, ⟨.src 2, m.c⟩, ⟨.dst 2, m.d⟩],
    sem := fun e m t =>
      .ok (t.writeReg m.d 2 (madwVal (f.mod = 1) (t.readReg e m.a 1) (t.readReg e m.b 1) (t.readReg e m.c 2)) 0) }

/-- SEL (R85). -/
def selR (f : L2R) : LaneDef :=
  let g := gsz f.w
  { g := f.g, gn := f.gn, ok := predOk f.c && f.mod = 0 && f.imm = 0, words := 2, nums := numsR f, adv := ⟨g, g, g, 0⟩,
    opds := fun m => [⟨.src g, m.a⟩, ⟨.src g, m.b⟩, ⟨.dst g, m.d⟩],
    sem := fun e m t => .ok (t.writeReg m.d g (if t.pred m.c then t.readReg e m.a g else t.readReg e m.b g) 0) }

/-- LEAX (R86). -/
def leaxR (f : L2R) : LaneDef :=
  { g := f.g, gn := f.gn, ok := wIn f.toL1 [1] && f.c = 0 && f.mod = 0 && f.imm.toNat < 8, words := 2, nums := numsR f,
    adv := ⟨2, 2, 2, 0⟩, opds := fun m => [⟨.src 2, m.a⟩, ⟨.src 1, m.b⟩, ⟨.dst 2, m.d⟩],
    sem := fun e m t =>
      let b := t.readReg e m.b 1
      let i : Int := if f.imm.getLsbD 2 then b else sgn b 32
      .ok (t.writeReg m.d 2 (wrap ((t.readReg e m.a 2 : Int) + i * (2 ^ fld f.imm.toNat 0 2 : Nat)) 64) 0) }

/-- MOVL (R93). -/
def movlI (f : L2I) : LaneDef :=
  let g := gsz f.w
  { g := f.g, gn := f.gn, ok := wIn f.toL1 [0, 1] && f.a = 0, words := 2, nums := nums1 f.toL1, adv := ⟨g, 0, 0, 0⟩,
    opds := fun m => [⟨.dst g, m.d⟩],
    sem := fun _ m t => .ok (t.writeReg m.d g (wrap (sgn f.lit.toNat 32) (32 * g)) 0) }

/-- LEA (R93). -/
def leaI (f : L2I) : LaneDef :=
  { g := f.g, gn := f.gn, ok := wIn f.toL1 [1], words := 2, nums := nums1 f.toL1, adv := ⟨2, 2, 0, 0⟩,
    opds := fun m => [⟨.src 2, m.a⟩, ⟨.dst 2, m.d⟩],
    sem := fun e m t => .ok (t.writeReg m.d 2 (wrap ((t.readReg e m.a 2 : Int) + sgn f.lit.toNat 32) 64) 0) }

/-- SEXT and ZEXT (R93, R94): A is single. -/
def extI (signed : Bool) (f : L2I) : LaneDef :=
  let g := gsz f.w
  let n := f.lit.toNat
  { g := f.g, gn := f.gn, ok := wIn f.toL1 [0, 1] && 1 ≤ n && n ≤ 32, words := 2, nums := nums1 f.toL1, adv := ⟨g, g, 0, 0⟩,
    opds := fun m => [⟨.src 1, m.a⟩, ⟨.dst g, m.d⟩],
    sem := fun e m t =>
      let v := fld (t.readReg e m.a 1) 0 n
      .ok (t.writeReg m.d g (if signed then wrap (sgn v n) (32 * g) else v) 0) }

/-- PMOV (R97). -/
def pmovR (f : L2R) : LaneDef :=
  { g := f.g, gn := f.gn, ok := wIn f.toL1 [0] && restZero f && f.b = 0 && predOk f.d && predOk f.a, words := 2,
    nums := numsR f, adv := ⟨0, 0, 0, 0⟩, opds := fun _ => [], sem := fun _ m t => .ok (t.setPred m.d (t.pred m.a)) }

/-- PRD (R97). -/
def prdR (f : L2R) : LaneDef :=
  { g := f.g, gn := f.gn, ok := wIn f.toL1 [0] && restZero f && f.a = 0 && f.b = 0, words := 2, nums := numsR f,
    adv := ⟨0, 0, 0, 0⟩, opds := fun m => [⟨.dst 1, m.d⟩],
    sem := fun _ m t => .ok (t.writeReg m.d 1 t.preds.toNat 0) }

/-- PWR (R97): the predicates that B selects take A's bits, all at once. -/
def pwrR (f : L2R) : LaneDef :=
  { g := f.g, gn := f.gn, ok := wIn f.toL1 [0] && restZero f && f.d = 0, words := 2, nums := numsR f,
    adv := ⟨0, 0, 0, 0⟩, opds := fun m => [⟨.src 1, m.a⟩, ⟨.src 1, m.b⟩],
    sem := fun e m t =>
      let a := t.readReg e m.a 1
      let b := t.readReg e m.b 1
      .ok { t with preds := BitVec.ofNat 24 (ofBits 24 fun i => if b.testBit i then a.testBit i else t.pred i) } }

/-- PSET (R97). -/
def psetR (f : L2R) : LaneDef :=
  { g := f.g, gn := f.gn,
    ok := wIn f.toL1 [0] && f.c = 0 && f.mod = 0 && f.a = 0 && f.b = 0 && predOk f.d && f.imm.toNat < 2, words := 2,
    nums := numsR f, adv := ⟨0, 0, 0, 0⟩, opds := fun _ => [], sem := fun _ m t => .ok (t.setPred m.d (f.imm = 1)) }

/-! ## The instructions -/

/-- Lane definition of ADD (R79). -/
def laneAdd (f : L1) : LaneDef := bin1 [0, 1] opAdd f
/-- ADD (R79). -/
def execAdd (f : L1) (s : State) : Out := runLane (laneAdd f) s
/-- Lane definition of SUB (R79). -/
def laneSub (f : L1) : LaneDef := bin1 [0, 1] opSub f
/-- SUB (R79). -/
def execSub (f : L1) (s : State) : Out := runLane (laneSub f) s
/-- Lane definition of AND (R79). -/
def laneAnd (f : L1) : LaneDef := bin1 [0, 1, 2, 3] opAnd f
/-- AND (R79). -/
def execAnd (f : L1) (s : State) : Out := runLane (laneAnd f) s
/-- Lane definition of OR (R79). -/
def laneOr (f : L1) : LaneDef := bin1 [0, 1, 2, 3] opOr f
/-- OR (R79). -/
def execOr (f : L1) (s : State) : Out := runLane (laneOr f) s
/-- Lane definition of XOR (R79). -/
def laneXor (f : L1) : LaneDef := bin1 [0, 1, 2, 3] opXor f
/-- XOR (R79). -/
def execXor (f : L1) (s : State) : Out := runLane (laneXor f) s
/-- Lane definition of SHL (R79). -/
def laneShl (f : L1) : LaneDef := sh1 opShl f
/-- SHL (R79). -/
def execShl (f : L1) (s : State) : Out := runLane (laneShl f) s
/-- Lane definition of SHR (R79). -/
def laneShr (f : L1) : LaneDef := sh1 opShr f
/-- SHR (R79). -/
def execShr (f : L1) (s : State) : Out := runLane (laneShr f) s
/-- Lane definition of SAR (R79). -/
def laneSar (f : L1) : LaneDef := sh1 opSar f
/-- SAR (R79). -/
def execSar (f : L1) (s : State) : Out := runLane (laneSar f) s
/-- Lane definition of ADD_REG (R79). -/
def laneAddReg (f : L2R) : LaneDef := binR [0, 1] opAdd f
/-- ADD_REG (R79). -/
def execAddReg (f : L2R) (s : State) : Out := runLane (laneAddReg f) s
/-- Lane definition of SUB_REG (R79). -/
def laneSubReg (f : L2R) : LaneDef := binR [0, 1] opSub f
/-- SUB_REG (R79). -/
def execSubReg (f : L2R) (s : State) : Out := runLane (laneSubReg f) s
/-- Lane definition of AND_REG (R79). -/
def laneAndReg (f : L2R) : LaneDef := binR [0, 1, 2, 3] opAnd f
/-- AND_REG (R79). -/
def execAndReg (f : L2R) (s : State) : Out := runLane (laneAndReg f) s
/-- Lane definition of OR_REG (R79). -/
def laneOrReg (f : L2R) : LaneDef := binR [0, 1, 2, 3] opOr f
/-- OR_REG (R79). -/
def execOrReg (f : L2R) (s : State) : Out := runLane (laneOrReg f) s
/-- Lane definition of XOR_REG (R79). -/
def laneXorReg (f : L2R) : LaneDef := binR [0, 1, 2, 3] opXor f
/-- XOR_REG (R79). -/
def execXorReg (f : L2R) (s : State) : Out := runLane (laneXorReg f) s
/-- Lane definition of SHL_REG (R79). -/
def laneShlReg (f : L2R) : LaneDef := shR opShl f
/-- SHL_REG (R79). -/
def execShlReg (f : L2R) (s : State) : Out := runLane (laneShlReg f) s
/-- Lane definition of SHR_REG (R79). -/
def laneShrReg (f : L2R) : LaneDef := shR opShr f
/-- SHR_REG (R79). -/
def execShrReg (f : L2R) (s : State) : Out := runLane (laneShrReg f) s
/-- Lane definition of SAR_REG (R79). -/
def laneSarReg (f : L2R) : LaneDef := shR opSar f
/-- SAR_REG (R79). -/
def execSarReg (f : L2R) (s : State) : Out := runLane (laneSarReg f) s
/-- Lane definition of ADD_LIT (R79). -/
def laneAddLit (f : L2I) : LaneDef := binI [0, 1] opAdd f
/-- ADD_LIT (R79). -/
def execAddLit (f : L2I) (s : State) : Out := runLane (laneAddLit f) s
/-- Lane definition of SUB_LIT (R79). -/
def laneSubLit (f : L2I) : LaneDef := binI [0, 1] opSub f
/-- SUB_LIT (R79). -/
def execSubLit (f : L2I) (s : State) : Out := runLane (laneSubLit f) s
/-- Lane definition of AND_LIT (R80). -/
def laneAndLit (f : L2I) : LaneDef := binI [0, 1, 2, 3] opAnd f
/-- AND_LIT (R80). -/
def execAndLit (f : L2I) (s : State) : Out := runLane (laneAndLit f) s
/-- Lane definition of OR_LIT (R80). -/
def laneOrLit (f : L2I) : LaneDef := binI [0, 1, 2, 3] opOr f
/-- OR_LIT (R80). -/
def execOrLit (f : L2I) (s : State) : Out := runLane (laneOrLit f) s
/-- Lane definition of XOR_LIT (R80). -/
def laneXorLit (f : L2I) : LaneDef := binI [0, 1, 2, 3] opXor f
/-- XOR_LIT (R80). -/
def execXorLit (f : L2I) (s : State) : Out := runLane (laneXorLit f) s
/-- Lane definition of SHL_LIT (R80). -/
def laneShlLit (f : L2I) : LaneDef := shI opShl f
/-- SHL_LIT (R80). -/
def execShlLit (f : L2I) (s : State) : Out := runLane (laneShlLit f) s
/-- Lane definition of SHR_LIT (R80). -/
def laneShrLit (f : L2I) : LaneDef := shI opShr f
/-- SHR_LIT (R80). -/
def execShrLit (f : L2I) (s : State) : Out := runLane (laneShrLit f) s
/-- Lane definition of SAR_LIT (R80). -/
def laneSarLit (f : L2I) : LaneDef := shI opSar f
/-- SAR_LIT (R80). -/
def execSarLit (f : L2I) (s : State) : Out := runLane (laneSarLit f) s
/-- Lane definition of MUL (R82). -/
def laneMul (f : L2R) : LaneDef := binR [0, 1] opMul f
/-- MUL (R82). -/
def execMul (f : L2R) (s : State) : Out := runLane (laneMul f) s
/-- Lane definition of MULHS (R82). -/
def laneMulhs (f : L2R) : LaneDef := binR [0, 1] opMulhs f
/-- MULHS (R82). -/
def execMulhs (f : L2R) (s : State) : Out := runLane (laneMulhs f) s
/-- Lane definition of MULHU (R82). -/
def laneMulhu (f : L2R) : LaneDef := binR [0, 1] opMulhu f
/-- MULHU (R82). -/
def execMulhu (f : L2R) (s : State) : Out := runLane (laneMulhu f) s
/-- Lane definition of MAD (R82). -/
def laneMad (f : L2R) : LaneDef := madR f
/-- MAD (R82). -/
def execMad (f : L2R) (s : State) : Out := runLane (laneMad f) s
/-- Lane definition of MADW (R83). -/
def laneMadw (f : L2R) : LaneDef := madwR f
/-- MADW (R83). -/
def execMadw (f : L2R) (s : State) : Out := runLane (laneMadw f) s
/-- Lane definition of MIN (R84). -/
def laneMin (f : L2R) : LaneDef := binR [0, 1] opMin f
/-- MIN (R84). -/
def execMin (f : L2R) (s : State) : Out := runLane (laneMin f) s
/-- Lane definition of MAX (R84). -/
def laneMax (f : L2R) : LaneDef := binR [0, 1] opMax f
/-- MAX (R84). -/
def execMax (f : L2R) (s : State) : Out := runLane (laneMax f) s
/-- Lane definition of MINU (R84). -/
def laneMinu (f : L2R) : LaneDef := binR [0, 1] opMinu f
/-- MINU (R84). -/
def execMinu (f : L2R) (s : State) : Out := runLane (laneMinu f) s
/-- Lane definition of MAXU (R84). -/
def laneMaxu (f : L2R) : LaneDef := binR [0, 1] opMaxu f
/-- MAXU (R84). -/
def execMaxu (f : L2R) (s : State) : Out := runLane (laneMaxu f) s
/-- Lane definition of SEL (R85). -/
def laneSel (f : L2R) : LaneDef := selR f
/-- SEL (R85). -/
def execSel (f : L2R) (s : State) : Out := runLane (laneSel f) s
/-- Lane definition of LEAX (R86). -/
def laneLeax (f : L2R) : LaneDef := leaxR f
/-- LEAX (R86). -/
def execLeax (f : L2R) (s : State) : Out := runLane (laneLeax f) s
/-- Lane definition of DIV (R87). -/
def laneDiv (f : L2R) : LaneDef := binR [0, 1] opDiv f
/-- DIV (R87). -/
def execDiv (f : L2R) (s : State) : Out := runLane (laneDiv f) s
/-- Lane definition of DIVU (R87). -/
def laneDivu (f : L2R) : LaneDef := binR [0, 1] opDivu f
/-- DIVU (R87). -/
def execDivu (f : L2R) (s : State) : Out := runLane (laneDivu f) s
/-- Lane definition of REM (R87). -/
def laneRem (f : L2R) : LaneDef := binR [0, 1] opRem f
/-- REM (R87). -/
def execRem (f : L2R) (s : State) : Out := runLane (laneRem f) s
/-- Lane definition of REMU (R87). -/
def laneRemu (f : L2R) : LaneDef := binR [0, 1] opRemu f
/-- REMU (R87). -/
def execRemu (f : L2R) (s : State) : Out := runLane (laneRemu f) s
/-- Lane definition of BFX (R89). -/
def laneBfx (f : L2R) : LaneDef := bfxR true f
/-- BFX (R89). -/
def execBfx (f : L2R) (s : State) : Out := runLane (laneBfx f) s
/-- Lane definition of BFXU (R89). -/
def laneBfxu (f : L2R) : LaneDef := bfxR false f
/-- BFXU (R89). -/
def execBfxu (f : L2R) (s : State) : Out := runLane (laneBfxu f) s
/-- Lane definition of BFI (R89). -/
def laneBfi (f : L2R) : LaneDef := bfiR f
/-- BFI (R89). -/
def execBfi (f : L2R) (s : State) : Out := runLane (laneBfi f) s
/-- Lane definition of BSEL (R90). -/
def laneBsel (f : L2R) : LaneDef := bselR f
/-- BSEL (R90). -/
def execBsel (f : L2R) (s : State) : Out := runLane (laneBsel f) s
/-- Lane definition of ROTL (R91). -/
def laneRotl (f : L2R) : LaneDef := shR opRotl f
/-- ROTL (R91). -/
def execRotl (f : L2R) (s : State) : Out := runLane (laneRotl f) s
/-- Lane definition of ANDN (R88). -/
def laneAndn (f : L2R) : LaneDef := binR [0, 1, 2, 3] opAndn f
/-- ANDN (R88). -/
def execAndn (f : L2R) (s : State) : Out := runLane (laneAndn f) s
/-- Lane definition of MOV (R92). -/
def laneMov (f : L1) : LaneDef := un1 [0, 1, 2, 3] (fun _ x => x) f
/-- Lane definition of NOT (R92). -/
def laneNot (f : L1) : LaneDef := un1 [0, 1, 2, 3] opNot f
/-- NOT (R92). -/
def execNot (f : L1) (s : State) : Out := runLane (laneNot f) s
/-- Lane definition of NEG (R92). -/
def laneNeg (f : L1) : LaneDef := un1 [0, 1] opNeg f
/-- NEG (R92). -/
def execNeg (f : L1) (s : State) : Out := runLane (laneNeg f) s
/-- Lane definition of ABS (R92). -/
def laneAbs (f : L1) : LaneDef := un1 [0, 1] opAbs f
/-- ABS (R92). -/
def execAbs (f : L1) (s : State) : Out := runLane (laneAbs f) s
/-- Lane definition of POPC (R92). -/
def lanePopc (f : L1) : LaneDef := un1 [0, 1] (fun g x => popc x (32 * g)) f
/-- POPC (R92). -/
def execPopc (f : L1) (s : State) : Out := runLane (lanePopc f) s
/-- Lane definition of CLZ (R92). -/
def laneClz (f : L1) : LaneDef := un1 [0, 1] (fun g x => clz x (32 * g)) f
/-- CLZ (R92). -/
def execClz (f : L1) (s : State) : Out := runLane (laneClz f) s
/-- Lane definition of CTZ (R92). -/
def laneCtz (f : L1) : LaneDef := un1 [0, 1] (fun g x => ctz x (32 * g)) f
/-- CTZ (R92). -/
def execCtz (f : L1) (s : State) : Out := runLane (laneCtz f) s
/-- Lane definition of BREV (R92). -/
def laneBrev (f : L1) : LaneDef := un1 [0, 1] (fun g x => brev x (32 * g)) f
/-- BREV (R92). -/
def execBrev (f : L1) (s : State) : Out := runLane (laneBrev f) s
/-- Lane definition of MOVL (R93). -/
def laneMovl (f : L2I) : LaneDef := movlI f
/-- MOVL (R93). -/
def execMovl (f : L2I) (s : State) : Out := runLane (laneMovl f) s
/-- Lane definition of LEA (R93). -/
def laneLea (f : L2I) : LaneDef := leaI f
/-- LEA (R93). -/
def execLea (f : L2I) (s : State) : Out := runLane (laneLea f) s
/-- Lane definition of SEXT (R94). -/
def laneSext (f : L2I) : LaneDef := extI true f
/-- SEXT (R94). -/
def execSext (f : L2I) (s : State) : Out := runLane (laneSext f) s
/-- Lane definition of ZEXT (R94). -/
def laneZext (f : L2I) : LaneDef := extI false f
/-- ZEXT (R94). -/
def execZext (f : L2I) (s : State) : Out := runLane (laneZext f) s
/-- Lane definition of CMP_EQ (R95). -/
def laneCmpEq (f : L2R) : LaneDef := cmpR 0 f
/-- CMP_EQ (R95). -/
def execCmpEq (f : L2R) (s : State) : Out := runLane (laneCmpEq f) s
/-- Lane definition of CMP_NE (R95). -/
def laneCmpNe (f : L2R) : LaneDef := cmpR 1 f
/-- CMP_NE (R95). -/
def execCmpNe (f : L2R) (s : State) : Out := runLane (laneCmpNe f) s
/-- Lane definition of CMP_LT (R95). -/
def laneCmpLt (f : L2R) : LaneDef := cmpR 2 f
/-- CMP_LT (R95). -/
def execCmpLt (f : L2R) (s : State) : Out := runLane (laneCmpLt f) s
/-- Lane definition of CMP_GE (R95). -/
def laneCmpGe (f : L2R) : LaneDef := cmpR 3 f
/-- CMP_GE (R95). -/
def execCmpGe (f : L2R) (s : State) : Out := runLane (laneCmpGe f) s
/-- Lane definition of CMP_LTU (R95). -/
def laneCmpLtu (f : L2R) : LaneDef := cmpR 4 f
/-- CMP_LTU (R95). -/
def execCmpLtu (f : L2R) (s : State) : Out := runLane (laneCmpLtu f) s
/-- Lane definition of CMP_GEU (R95). -/
def laneCmpGeu (f : L2R) : LaneDef := cmpR 5 f
/-- CMP_GEU (R95). -/
def execCmpGeu (f : L2R) (s : State) : Out := runLane (laneCmpGeu f) s
/-- Lane definition of CMP_TST (R95). -/
def laneCmpTst (f : L2R) : LaneDef := cmpR 6 f
/-- CMP_TST (R95). -/
def execCmpTst (f : L2R) (s : State) : Out := runLane (laneCmpTst f) s
/-- Lane definition of CMP_TSTZ (R95). -/
def laneCmpTstz (f : L2R) : LaneDef := cmpR 7 f
/-- CMP_TSTZ (R95). -/
def execCmpTstz (f : L2R) (s : State) : Out := runLane (laneCmpTstz f) s
/-- Lane definition of CMPI_EQ (R95). -/
def laneCmpiEq (f : L2I) : LaneDef := cmpI 0 f
/-- CMPI_EQ (R95). -/
def execCmpiEq (f : L2I) (s : State) : Out := runLane (laneCmpiEq f) s
/-- Lane definition of CMPI_NE (R95). -/
def laneCmpiNe (f : L2I) : LaneDef := cmpI 1 f
/-- CMPI_NE (R95). -/
def execCmpiNe (f : L2I) (s : State) : Out := runLane (laneCmpiNe f) s
/-- Lane definition of CMPI_LT (R95). -/
def laneCmpiLt (f : L2I) : LaneDef := cmpI 2 f
/-- CMPI_LT (R95). -/
def execCmpiLt (f : L2I) (s : State) : Out := runLane (laneCmpiLt f) s
/-- Lane definition of CMPI_GE (R95). -/
def laneCmpiGe (f : L2I) : LaneDef := cmpI 3 f
/-- CMPI_GE (R95). -/
def execCmpiGe (f : L2I) (s : State) : Out := runLane (laneCmpiGe f) s
/-- Lane definition of CMPI_LTU (R95). -/
def laneCmpiLtu (f : L2I) : LaneDef := cmpI 4 f
/-- CMPI_LTU (R95). -/
def execCmpiLtu (f : L2I) (s : State) : Out := runLane (laneCmpiLtu f) s
/-- Lane definition of CMPI_GEU (R95). -/
def laneCmpiGeu (f : L2I) : LaneDef := cmpI 5 f
/-- CMPI_GEU (R95). -/
def execCmpiGeu (f : L2I) (s : State) : Out := runLane (laneCmpiGeu f) s
/-- Lane definition of CMPI_TST (R95). -/
def laneCmpiTst (f : L2I) : LaneDef := cmpI 6 f
/-- CMPI_TST (R95). -/
def execCmpiTst (f : L2I) (s : State) : Out := runLane (laneCmpiTst f) s
/-- Lane definition of CMPI_TSTZ (R95). -/
def laneCmpiTstz (f : L2I) : LaneDef := cmpI 7 f
/-- CMPI_TSTZ (R95). -/
def execCmpiTstz (f : L2I) (s : State) : Out := runLane (laneCmpiTstz f) s
/-- Lane definition of PAND (R97). -/
def lanePand (f : L2R) : LaneDef := predR (fun a b => a && b) f
/-- PAND (R97). -/
def execPand (f : L2R) (s : State) : Out := runLane (lanePand f) s
/-- Lane definition of POR (R97). -/
def lanePor (f : L2R) : LaneDef := predR (fun a b => a || b) f
/-- POR (R97). -/
def execPor (f : L2R) (s : State) : Out := runLane (lanePor f) s
/-- Lane definition of PXOR (R97). -/
def lanePxor (f : L2R) : LaneDef := predR (fun a b => a != b) f
/-- PXOR (R97). -/
def execPxor (f : L2R) (s : State) : Out := runLane (lanePxor f) s
/-- Lane definition of PANDN (R97). -/
def lanePandn (f : L2R) : LaneDef := predR (fun a b => a && !b) f
/-- PANDN (R97). -/
def execPandn (f : L2R) (s : State) : Out := runLane (lanePandn f) s
/-- Lane definition of PMOV (R97). -/
def lanePmov (f : L2R) : LaneDef := pmovR f
/-- PMOV (R97). -/
def execPmov (f : L2R) (s : State) : Out := runLane (lanePmov f) s
/-- Lane definition of PRD (R97). -/
def lanePrd (f : L2R) : LaneDef := prdR f
/-- PRD (R97). -/
def execPrd (f : L2R) (s : State) : Out := runLane (lanePrd f) s
/-- Lane definition of PWR (R98). -/
def lanePwr (f : L2R) : LaneDef := pwrR f
/-- PWR (R98). -/
def execPwr (f : L2R) (s : State) : Out := runLane (lanePwr f) s
/-- Lane definition of PSET (R97). -/
def lanePset (f : L2R) : LaneDef := psetR f
/-- PSET (R97). -/
def execPset (f : L2R) (s : State) : Out := runLane (lanePset f) s

end Sys2Proof.Machine
end

