-- ==== Sys2Proof/Machine/Flags.lean ====
section
/-! DEFINITION. Number formats, rounding and the sticky flags (06_numbers R132 to R148, 07_element R158). A finite value is
(-1)^neg x m x 2^e with a natural m, so sums and products are exact and one rounding narrows them. -/
namespace Sys2Proof.Machine

/-! ## Flags (R145, R146, Table 7) -/

/-- Sticky flags as the FFLAGS word. -/
def fNV : Nat := 1
def fDZ : Nat := 2
def fOF : Nat := 4
def fUF : Nat := 8
def fNX : Nat := 16
def fSAT : Nat := 32

/-- A result with the flags it raises. -/
structure Res where
  val : Nat
  flags : Nat
deriving DecidableEq, Repr

/-! ## Formats (R135, R136) -/

/-- A floating-point format: width, fraction bits, bias, sign bit present, infinity present, largest finite magnitude,
canonical NaN (0 for a format without NaN), and whether conversions to it always saturate (R142). -/
structure FFmt where
  w : Nat
  m : Nat
  bias : Nat
  sign : Bool
  inf : Bool
  maxEnc : Nat
  nan : Nat
  sat : Bool
deriving DecidableEq, Repr

/-- The layouts of Tables 3 and 4. -/
def f32 : FFmt := ⟨32, 23, 127, true, true, 0x7F7FFFFF, 0x7FC00000, false⟩
def f16 : FFmt := ⟨16, 10, 15, true, true, 0x7BFF, 0x7E00, false⟩
def bf16 : FFmt := ⟨16, 7, 127, true, true, 0x7F7F, 0x7FC0, false⟩
def e4m3 : FFmt := ⟨8, 3, 7, true, false, 0x7E, 0x7F, true⟩
def e5m2 : FFmt := ⟨8, 2, 15, true, true, 0x7B, 0x7E, false⟩
def e2m1 : FFmt := ⟨4, 1, 1, true, false, 0x7, 0, true⟩
def ue5m3 : FFmt := ⟨8, 3, 15, false, false, 0xF7, 0xFF, true⟩

/-- The floating-point format of a tag (R132, Table 1). -/
def fmtOfTag (t : Nat) : Option FFmt :=
  match t with
  | 1 => some f32
  | 2 => some f16
  | 3 => some bf16
  | 4 => some e4m3
  | 5 => some e5m2
  | 6 => some e2m1
  | 11 => some ue5m3
  | _ => none

/-- Width in bits of one element of a tag (R132, R138). -/
def elemBits (t : Nat) : Nat :=
  match t with
  | 2 | 3 => 16
  | 4 | 5 | 7 | 8 | 11 => 8
  | 6 | 9 | 10 => 4
  | _ => 32

/-- Elements per register of a tag. -/
def elems (t : Nat) : Nat := 32 / elemBits t

/-- Element i of a register value (R138). -/
def elem (t v i : Nat) : Nat := fld v (elemBits t * i) (elemBits t)

/-- Whether the elements of an integer tag are signed (R139). -/
def tagSigned (t : Nat) : Bool := t = 7 || t = 9 || t = 12

/-- Value of element i of an integer register (R139). -/
def intElem (t v i : Nat) : Int :=
  if tagSigned t then sgn (elem t v i) (elemBits t) else (elem t v i : Int)

/-- A value of a floating-point format. -/
inductive FV where
  | nan (signalling : Bool)
  | inf (neg : Bool)
  | fin (neg : Bool) (m : Nat) (e : Int)
deriving DecidableEq, Repr

/-- Magnitude bits of an encoding. -/
def magOf (f : FFmt) (x : Nat) : Nat := if f.sign then fld x 0 (f.w - 1) else fld x 0 f.w
/-- Sign bit of an encoding. -/
def negOf (f : FFmt) (x : Nat) : Bool := f.sign && x.testBit (f.w - 1)

/-- The value of an encoding (R135 to R137). -/
def decodeF (f : FFmt) (x : Nat) : FV :=
  let mag := magOf f x
  let neg := negOf f x
  if mag ≤ f.maxEnc then
    let e := mag / 2 ^ f.m
    let m := mag % 2 ^ f.m
    if e = 0 then .fin neg m (1 - (f.bias : Int) - f.m) else .fin neg (2 ^ f.m + m) ((e : Int) - f.bias - f.m)
  else if f.inf && mag % 2 ^ f.m = 0 then .inf neg
  else .nan (f.inf && !mag.testBit (f.m - 1))

/-- An encoding with its sign. -/
def signed (f : FFmt) (neg : Bool) (mag : Nat) : Nat := if neg && f.sign then mag + 2 ^ (f.w - 1) else mag

/-- Infinity, zero and the largest finite value of a sign. -/
def infEnc (f : FFmt) (neg : Bool) : Nat := signed f neg (f.maxEnc + 1)
def zeroEnc (f : FFmt) (neg : Bool) : Nat := signed f neg 0
def maxFin (f : FFmt) (neg : Bool) : Nat := signed f neg f.maxEnc

/-! ## Rounding (R140 to R142) -/

/-- Rounding modes; FMODE.RM codes (R147) are their positions. -/
inductive RMode where
  | rne | rz | ru | rd
deriving DecidableEq, Repr

/-- The mode of a 2-bit code (R140, R147). -/
def rmode (c : Nat) : RMode :=
  match c % 4 with
  | 0 => .rne
  | 1 => .rz
  | 2 => .ru
  | _ => .rd

/-- Whether a magnitude is rounded up, given its integer part and the remainder against one unit `d` (R141). -/
def roundsUp (mode : RMode) (neg : Bool) (n rem d : Nat) : Bool :=
  match mode with
  | .rne => d < 2 * rem || (2 * rem = d && n % 2 = 1)
  | .rz => false
  | .ru => !neg && rem ≠ 0
  | .rd => neg && rem ≠ 0

/-- overflow(s, fmt, mode) (R142, Table 6). -/
def overflowF (f : FFmt) (mode : RMode) (sat neg : Bool) : Res :=
  if sat || f.sat then ⟨maxFin f neg, fOF + fNX + fSAT⟩
  else
    let toInf := match mode with
      | .rne => true
      | .rz => false
      | .ru => !neg
      | .rd => neg
    ⟨if toInf then infEnc f neg else maxFin f neg, fOF + fNX⟩

/-- round_to(x, fmt, mode) for x = (-1)^neg m 2^e, m not 0 (R141, R145). `sticky` says that the exact magnitude lies
strictly above m 2^e and below (m + 1) 2^e. -/
def roundMag (f : FFmt) (mode : RMode) (sat neg sticky : Bool) (m : Nat) (e : Int) : Res :=
  let emin : Int := 1 - (f.bias : Int)
  let ee := max ((Nat.log2 m : Int) + e) emin
  let q := ee - f.m
  -- two extra bits below the quantum hold the remainder exactly, with the sticky bit last
  let up := (e - q).toNat
  let down := (q - e).toNat
  let a := m * 2 ^ up
  let n := a / 2 ^ down
  let rem := 2 * (a % 2 ^ down) + b2n sticky
  let d := 2 * 2 ^ down
  let n' := if roundsUp mode neg n rem d then n + 1 else n
  let enc := (ee - emin).toNat * 2 ^ f.m + n'
  let inexact := rem ≠ 0
  if f.maxEnc < enc then overflowF f mode sat neg
  else ⟨signed f neg enc, (if inexact then fNX else 0) + (if inexact && enc < 2 ^ f.m then fUF else 0)⟩

/-- round_to of a value; a zero keeps its sign, an infinite source of a saturating conversion gives the largest finite
value (R141, R142). -/
def roundF (f : FFmt) (mode : RMode) (sat : Bool) (v : FV) : Res :=
  match v with
  | .nan s => ⟨f.nan, if s then fNV else 0⟩
  | .inf neg => if sat || f.sat then ⟨maxFin f neg, fSAT⟩ else ⟨infEnc f neg, 0⟩
  | .fin neg m e => if m = 0 then ⟨zeroEnc f neg, 0⟩ else roundMag f mode sat neg false m e

/-! ## Exact sums and products (R158) -/

/-- Signed mantissa. -/
def FV.sm (neg : Bool) (m : Nat) : Int := if neg then -(m : Int) else m

/-- The product of two values that are not NaN; none for 0 x infinity. -/
def mulV (a b : FV) : Option FV :=
  match a, b with
  | .fin n m e, .fin n' m' e' => some (.fin (n != n') (m * m') (e + e'))
  | .inf n, .inf n' => some (.inf (n != n'))
  | .inf n, .fin n' m _ => if m = 0 then none else some (.inf (n != n'))
  | .fin n m _, .inf n' => if m = 0 then none else some (.inf (n != n'))
  | .nan s, _ => some (.nan s)
  | _, .nan s => some (.nan s)

/-- The smallest exponent among the finite terms. -/
def minExp : List FV → Int
  | [] => 0
  | .fin _ _ e :: [] => e
  | .fin _ _ e :: ts => min e (minExp ts)
  | _ :: ts => minExp ts

/-- The exact sum of the finite terms, in units of 2^lo. -/
def sumAt (lo : Int) : List FV → Int
  | [] => 0
  | .fin n m e :: ts => FV.sm n (m * 2 ^ (e - lo).toNat) + sumAt lo ts
  | _ :: ts => sumAt lo ts

/-- A term is minus zero. -/
def isNegZero : FV → Bool
  | .fin true 0 _ => true
  | _ => false

/-- A term is a finite value other than zero. -/
def isNonzero : FV → Bool
  | .fin _ m _ => m ≠ 0
  | _ => false

/-- The exact sum of terms that are not NaN, with its zero signed by R158; none when infinities of both signs meet. -/
def sumV (mode : RMode) (ts : List FV) : Option FV :=
  let pos := ts.any (· == .inf false)
  let neg := ts.any (· == .inf true)
  if pos && neg then none
  else if pos then some (.inf false)
  else if neg then some (.inf true)
  else
    let lo := minExp ts
    let s := sumAt lo ts
    if s = 0 then some (.fin (ts.all isNegZero || (mode = .rd && ts.any isNonzero)) 0 0)
    else some (.fin (s < 0) s.natAbs lo)

/-- Rounding of a sum whose terms may be missing because a product was 0 x infinity: those give the canonical NaN and NV
(R158). An infinite sum is exact. -/
def roundSum (f : FFmt) (mode : RMode) (sat : Bool) (ts : List (Option FV)) : Res :=
  if ts.any Option.isNone then ⟨f.nan, fNV⟩
  else
    match sumV mode (ts.filterMap id) with
    | none => ⟨f.nan, fNV⟩
    | some (.inf n) => ⟨infEnc f n, 0⟩
    | some v => roundF f mode sat v

/-- A value is NaN. -/
def isNaN : FV → Bool
  | .nan _ => true
  | _ => false

/-- A value is a signalling NaN. -/
def isSNaN : FV → Bool
  | .nan true => true
  | _ => false

/-- A value is infinite. -/
def isInf : FV → Bool
  | .inf _ => true
  | _ => false

/-- The quiet bit of a format set in an encoding (R136, R143). -/
def quieten (f : FFmt) (x : Nat) : Nat := x ||| 2 ^ (f.m - 1)

/-- A NaN result (R143): canonical, or the first NaN operand with its quiet bit set. -/
def nanResult (f : FFmt) (prop : Bool) (xs : List Nat) : Res :=
  let nv := if xs.any (fun x => isSNaN (decodeF f x)) then fNV else 0
  match xs.find? (fun x => isNaN (decodeF f x)) with
  | some x => ⟨if prop then quieten f x else f.nan, nv⟩
  | none => ⟨f.nan, nv⟩

/-- The sign modifiers of R154: absolute value first, then negation. -/
def modifyF (f : FFmt) (n a : Bool) (x : Nat) : Nat :=
  let mag := magOf f x
  let s := if a then false else negOf f x
  signed f (s != n) mag

/-- Order of two values that are not NaN, with -0 below +0 when `zeros` holds. -/
def ltV (zeros : Bool) (a b : FV) : Bool :=
  match a, b with
  | .inf n, .inf n' => n && !n'
  | .inf n, .fin .. => n
  | .fin .., .inf n' => !n'
  | .fin n m e, .fin n' m' e' =>
    let lo := min e e'
    let x := FV.sm n (m * 2 ^ (e - lo).toNat)
    let y := FV.sm n' (m' * 2 ^ (e' - lo).toNat)
    if m = 0 && m' = 0 then zeros && n && !n' else x < y
  | _, _ => false

/-! ## Conversions to integers (R144) -/

/-- Range of an integer tag (R139). -/
def intRange (t : Nat) : Int × Int :=
  if tagSigned t then (-(2 ^ (elemBits t - 1) : Nat), (2 ^ (elemBits t - 1) : Nat) - 1)
  else (0, (2 ^ elemBits t : Nat) - 1)

/-- A value rounded to an integer of a tag: clamped with NV and SAT outside the range, NX when inexact (R144). -/
def roundInt (t : Nat) (mode : RMode) (v : FV) : Res :=
  let (lo, hi) := intRange t
  let enc := fun x : Int => wrap x (elemBits t)
  match v with
  | .nan _ => ⟨0, fNV⟩
  | .inf n => ⟨enc (if n then lo else hi), fNV + fSAT⟩
  | .fin neg m e =>
    let a := m * 2 ^ e.toNat
    let d := 2 ^ (-e).toNat
    let n := a / d
    let rem := a % d
    let r := if roundsUp mode neg n rem d then n + 1 else n
    let x := FV.sm neg r
    if x < lo then ⟨enc lo, fNV + fSAT⟩
    else if hi < x then ⟨enc hi, fNV + fSAT⟩
    else ⟨enc x, if rem ≠ 0 then fNX else 0⟩

/-- A conversion to a floating-point format (R143, R144, R169): NaN to the target's canonical NaN, or +0 for E2M1; UE5M3
takes no negative value. -/
def convF (f : FFmt) (mode : RMode) (sat : Bool) (v : FV) : Res :=
  match v with
  | .nan s => if f.nan = 0 then ⟨0, fNV⟩ else ⟨f.nan, if s then fNV else 0⟩
  | .inf n => if !f.sign && n then ⟨0, fNV⟩ else roundF f mode sat v
  | .fin n m _ => if !f.sign && n then ⟨0, if m = 0 then 0 else fNV⟩ else roundF f mode sat v

end Sys2Proof.Machine
end

