-- ==== Sys2Proof/Machine/Special.lean ====
section
/-! DEFINITION. The special functions (07_element R165, Tables 5 and 6). Outside the exact cases the value is free within the
bound of Table 5: the part's proposal (`Config.special`) stands when it meets the bound against a fixed-point approximation
of the exact result, and else the nearest value does (log entry 11). -/
namespace Sys2Proof.Machine

/-- The special functions. -/
inductive SpecFn where
  | rcp | rsq | sqrt | ex2 | lg2 | sin | cos | tanh
deriving DecidableEq, Repr

/-- The number under which the free value is asked for. -/
def SpecFn.code : SpecFn → Nat
  | .rcp => 0
  | .rsq => 1
  | .sqrt => 2
  | .ex2 => 3
  | .lg2 => 4
  | .sin => 5
  | .cos => 6
  | .tanh => 7

/-! ## Fixed-point values in units of 2^-512 -/

/-- Fraction bits of the approximations; every approximation is good to far fewer than 2^-300 of error. -/
def fxBits : Nat := 512
/-- 1. -/
def fxOne : Nat := 2 ^ fxBits
/-- The product of two fixed-point values. -/
def fxMul (a b : Nat) : Nat := a * b / fxOne
/-- The quotient of two fixed-point values. -/
def fxDiv (a b : Nat) : Nat := a * fxOne / b

/-- The sum over i of z^(2i+1) / (2i+1), `n` terms from i; `p` is z^(2i+1). -/
def atanhTerms (z2 : Nat) : Nat → Nat → Nat → Nat
  | 0, _, _ => 0
  | n + 1, i, p => p / (2 * i + 1) + atanhTerms z2 n (i + 1) (fxMul p z2)

/-- atanh z for z at most 1/3. -/
def fxAtanh (z : Nat) : Nat := atanhTerms (fxMul z z) 170 0 z

/-- ln 2 = 2 atanh (1/3). -/
def fxLn2 : Nat := 2 * fxAtanh (fxOne / 3)

/-- The alternating sum of z^(2i+1) / (2i+1) for z = 1/k; `p` is k^-(2i+1). -/
def atanTerms (k : Nat) : Nat → Nat → Nat → Int
  | 0, _, _ => 0
  | n + 1, i, p => (p / (2 * i + 1) : Nat) - atanTerms k n (i + 1) (p / (k * k))

/-- pi by Machin's formula. -/
def fxPi : Nat := (16 * atanTerms 5 120 0 (fxOne / 5) - 4 * atanTerms 239 40 0 (fxOne / 239)).toNat

/-- The sum over i of y^i / i!, `n` terms from i; `p` is y^i / i!. -/
def expTerms (y : Nat) : Nat → Nat → Nat → Nat
  | 0, _, _ => 0
  | n + 1, i, p => p + expTerms y n (i + 1) (fxMul p y / (i + 1))

/-- 2^x for x from 0 up to 1. -/
def fxExp2 (x : Nat) : Nat := expTerms (fxMul x fxLn2) 110 0 fxOne

/-- sin or cos by its series: alternating terms of degree i, i + 2, ...; `p` is r^i / i!. -/
def trigTerms (r2 : Nat) : Nat → Nat → Nat → Int
  | 0, _, _ => 0
  | n + 1, i, p => (p : Int) - trigTerms r2 n (i + 2) (fxMul p r2 / ((i + 1) * (i + 2)))

/-- sin and cos of r from 0 to pi/2. -/
def fxSin (r : Nat) : Int := trigTerms (fxMul r r) 60 1 r
def fxCos (r : Nat) : Int := trigTerms (fxMul r r) 60 0 fxOne

/-- An exact result to within one unit: (-1)^neg times a value from m 2^e to (m + 1) 2^e. -/
structure Approx where
  neg : Bool
  m : Nat
  e : Int
deriving DecidableEq, Repr

/-- m 2^e as a fixed-point value, cut below. -/
def toFx (m : Nat) (e : Int) : Nat := m * 2 ^ (e + fxBits).toNat / 2 ^ (-(e + fxBits)).toNat

/-- A fixed-point value that may be negative. -/
def ofFx (x : Int) : Approx := ⟨x < 0, x.natAbs, -(fxBits : Int)⟩

/-- 2^x for a fixed-point x, its integer part kept in the exponent between -2000 and 2000. -/
def approxExp2 (x : Int) : Approx :=
  let i := x / (fxOne : Int)
  let k := max (-2000) (min 2000 i)
  ⟨false, fxExp2 (x - i * fxOne).toNat, k - fxBits⟩

/-- sin (cosine: one quadrant later) of m 2^e. -/
def approxTrig (cosine neg : Bool) (m : Nat) (e : Int) : Approx :=
  let x := toFx m e
  let h := fxPi / 2
  let q := x / h + b2n cosine
  let r := x % h
  let v := match q % 4 with
    | 0 => fxSin r
    | 1 => fxCos r
    | 2 => -fxSin r
    | _ => -fxCos r
  ofFx (if neg && !cosine then -v else v)

/-- tanh of m 2^e, through 2^(2x / ln 2); from 256 on it is one unit below 1. -/
def approxTanh (neg : Bool) (m : Nat) (e : Int) : Approx :=
  if 8 < (Nat.log2 m : Int) + e then ⟨neg, fxOne - 1, -(fxBits : Int)⟩
  else
    let y := fxDiv (2 * toFx m e) fxLn2
    let z := fxExp2 (y % fxOne) * 2 ^ (y / fxOne)
    ⟨neg, fxDiv (z - fxOne) (z + fxOne), -(fxBits : Int)⟩

/-- lg2 of m 2^e. -/
def approxLg2 (m : Nat) (e : Int) : Approx :=
  let k := Nat.log2 m
  let x := m * 2 ^ fxBits / 2 ^ k
  let ln := 2 * fxAtanh (fxDiv (x - fxOne) (x + fxOne))
  ofFx (((k : Int) + e) * fxOne + (fxDiv ln fxLn2 : Nat))

/-- The approximation of a function at a positive or negative finite operand that is not 0. -/
def approx (k : SpecFn) (neg : Bool) (m : Nat) (e : Int) : Approx :=
  match k with
  | .rcp => ⟨neg, fxOne / m, -e - fxBits⟩
  | .rsq =>
    let e2 := e % 2
    ⟨false, Nat.sqrt (2 ^ (2 * fxBits) / (m * 2 ^ e2.toNat)), -((e - e2) / 2) - fxBits⟩
  | .sqrt =>
    let e2 := e % 2
    ⟨false, Nat.sqrt (m * 2 ^ e2.toNat * 2 ^ (2 * fxBits)), (e - e2) / 2 - fxBits⟩
  | .ex2 => approxExp2 (if neg then -(toFx m e : Int) else toFx m e)
  | .lg2 => approxLg2 m e
  | .sin => approxTrig false neg m e
  | .cos => approxTrig true neg m e
  | .tanh => approxTanh neg m e

/-! ## The bound (Table 5) -/

/-- Bound in ulps; none for a function bounded in absolute error alone. -/
def SpecFn.ulps (k : SpecFn) (f : FFmt) : Nat :=
  match k with
  | .rcp => 1
  | .rsq | .ex2 | .tanh | .lg2 => if f.w = 32 then 2 else 1
  | .sqrt | .sin | .cos => 0

/-- Exponent of the absolute bound that also suffices, at an operand from 1/2 to 2 for LG2. -/
def SpecFn.absExp (k : SpecFn) (f : FFmt) (x : FV) : Option Int :=
  match k with
  | .lg2 =>
    if ltV false x (.fin false 1 (-1)) || ltV false (.fin false 1 1) x then none
    else some (if f.w = 32 then -22 else -9)
  | .sin | .cos => some (if f.w = 32 then -21 else if f.m = 10 then -11 else -8)
  | _ => none

/-- The exponent of one ulp at a result (R141, R165). -/
def Approx.ulpExp (f : FFmt) (a : Approx) : Int := max ((Nat.log2 a.m : Int) + a.e) (1 - (f.bias : Int)) - f.m

/-- A finite value lies within n 2^q of the result, one unit of the approximation allowed for. -/
def Approx.near (a : Approx) (n : Nat) (q : Int) (v : FV) : Bool :=
  match v with
  | .fin s m e =>
    let lo := min (min e a.e) q
    let d := FV.sm s (m * 2 ^ (e - lo).toNat) - FV.sm a.neg (a.m * 2 ^ (a.e - lo).toNat)
    d.natAbs ≤ n * 2 ^ (q - lo).toNat + 2 ^ (a.e - lo).toNat
  | _ => false

/-- The result lies beyond the largest finite value. -/
def Approx.tooBig (f : FFmt) (a : Approx) : Bool := ltV false (decodeF f f.maxEnc) (.fin false (a.m + 1) a.e)

/-- A result outside the exact cases: free within the bound, NX set, UF for a result below the normal values, judged on the value that the part
returns: R145 judges the value of R141 before rounding, and no rounding mode is given for these functions (DESIGN CHOICE; log entry 11). -/
def boundedResult (k : SpecFn) (f : FFmt) (x : Nat) : Res :=
  match decodeF f x with
  | .fin neg m e =>
    let a := approx k neg m e
    if a.tooBig f then ⟨infEnc f a.neg, fOF + fNX⟩
    else
      let p := Config.special k.code f.m x % 2 ^ f.w
      let v := decodeF f p
      let ok := a.near (k.ulps f) (a.ulpExp f) v ||
        match k.absExp f (decodeF f x) with
        | some q => a.near 1 q v
        | none => false
      let r := if ok then p else (roundMag f .rne false a.neg true a.m a.e).val
      ⟨r, fNX + if magOf f r < 2 ^ f.m then fUF else 0⟩
  | _ => ⟨f.nan, 0⟩

/-- SQRT of a positive finite value, correctly rounded (Table 5). -/
def sqrtResult (f : FFmt) (mode : RMode) (m : Nat) (e : Int) : Res :=
  let a := approx .sqrt false m e
  let exact := a.m * a.m = m * 2 ^ (e % 2).toNat * 2 ^ (2 * fxBits)
  roundMag f mode false false (!exact) a.m a.e

/-! ## The exact cases (Table 6) -/

/-- m is a power of two. -/
def isPow2 (m : Nat) : Bool := m = 2 ^ Nat.log2 m

/-- 1 in a format. -/
def oneEnc (f : FFmt) : Nat := f.bias * 2 ^ f.m

/-- A power of two, when the format represents it. -/
def pow2Enc (f : FFmt) (neg : Bool) (k : Int) : Option Nat :=
  if 1 - (f.bias : Int) - f.m ≤ k && k ≤ f.bias then some (roundMag f .rne false neg false 1 k).val else none

/-- NaN for an operand below 0, with NV (R143). -/
def invalidRes (f : FFmt) : Res := ⟨f.nan, fNV⟩

/-- A special function of one element (R165). -/
def specialFn (k : SpecFn) (f : FFmt) (mode : RMode) (x : Nat) : Res :=
  match decodeF f x with
  | .nan s => ⟨f.nan, if s then fNV else 0⟩
  | .inf neg =>
    match k with
    | .rcp => ⟨zeroEnc f neg, 0⟩
    | .rsq => if neg then invalidRes f else ⟨zeroEnc f false, 0⟩
    | .sqrt | .lg2 => if neg then invalidRes f else ⟨infEnc f false, 0⟩
    | .ex2 => ⟨if neg then zeroEnc f false else infEnc f false, 0⟩
    | .sin | .cos => invalidRes f
    | .tanh => ⟨signed f neg (oneEnc f), 0⟩
  | .fin neg m e =>
    if m = 0 then
      match k with
      | .rcp | .rsq => ⟨infEnc f neg, fDZ⟩
      | .sqrt | .sin | .tanh => ⟨zeroEnc f neg, 0⟩
      | .lg2 => ⟨infEnc f true, fDZ⟩
      | .ex2 | .cos => ⟨oneEnc f, 0⟩
    else
      match k with
      | .rcp =>
        match if isPow2 m then pow2Enc f neg (-((Nat.log2 m : Int) + e)) else none with
        | some r => ⟨r, 0⟩
        | none => boundedResult k f x
      | .rsq => if neg then invalidRes f else boundedResult k f x
      | .sqrt => if neg then invalidRes f else sqrtResult f mode m e
      | .ex2 =>
        let v := toFx m e
        match if v % fxOne = 0 then pow2Enc f false (FV.sm neg (v / fxOne)) else none with
        | some r => ⟨r, 0⟩
        | none => boundedResult k f x
      | .lg2 =>
        let p := (Nat.log2 m : Int) + e
        if neg then invalidRes f
        else if isPow2 m then
          ⟨if p = 0 then 0 else (roundMag f .rne false (p < 0) false p.natAbs 0).val, 0⟩
        else boundedResult k f x
      | .sin | .cos | .tanh => boundedResult k f x

end Sys2Proof.Machine
end

