-- ==== Sys2Proof/Machine/Element.lean ====
section
/-! DEFINITION. Element-wise arithmetic of the lane set (07_element R153 to R175, 06_numbers R133, R134, R148 to R151). -/
namespace Sys2Proof.Machine

/-! ## Tags, modes and flags -/

/-- The first register, in the order of the groups given, whose tag is not accepted (R44 step 6, R133). Each group is a
number, a width and the tags it may carry. -/
def tagFail (t : Thread) : List (Nat × Nat × List Nat) → Option Nat
  | [] => none
  | (n, w, acc) :: gs =>
    match (rangeFrom n w).find? fun k => !acc.contains (t.tagOf k) with
    | some k => some k
    | none => tagFail t gs

/-- TAG_MISMATCH at a register (R382). -/
def tagTrap (n : Nat) : Raise := trapR 0x04 n 0

/-- A rounding code is assigned (R140, Table 5). -/
def rcOk (c : Nat) : Bool := c = 0 || 4 ≤ c

/-- The mode of a rounding code in a thread (R140, R147). -/
def Thread.mode (t : Thread) (c : Nat) : RMode := rmode (if c = 0 then t.fmode.toNat else c)

/-- Flags added to the thread's sticky flags (R145). -/
def Thread.addFlags (t : Thread) (fl : Nat) : Thread := { t with fflags := t.fflags ||| BitVec.ofNat 6 fl }

/-- Results of the elements of one register, packed (R138), with the union of their flags (R145). -/
def packRes (tag : Nat) (rs : List Res) : Res :=
  rs.foldr (fun r acc => ⟨r.val % 2 ^ elemBits tag + 2 ^ elemBits tag * acc.val, r.flags ||| acc.flags⟩) ⟨0, 0⟩

/-- A group of packed registers as one value with its flags. -/
def groupRes (rs : List Res) : Res := rs.foldr (fun r acc => ⟨r.val + 2 ^ 32 * acc.val, r.flags ||| acc.flags⟩) ⟨0, 0⟩

/-- Element results over a group of g registers of a tag. -/
def overElems (tag g : Nat) (fn : Nat → Nat → Res) : Res :=
  groupRes ((List.range g).map fun j => packRes tag ((List.range (elems tag)).map fun i => fn j i))

/-- Register j of a group read as a 32-bit value. -/
def Thread.reg (e : Env) (t : Thread) (n j : Nat) : Nat := t.val e (n + j)

/-- The comparison of R150 between a full result and the fields that its shadow computed: the signs differ and the result is not
zero, the exponent fields differ by more than one, or equal exponents go with top fraction bits more than one apart. -/
def diverges (f : FFmt) (full : Nat) (sh : Shadow) : Bool :=
  let ef := magOf f full / 2 ^ f.m
  let mf := magOf f full % 2 ^ f.m / 2 ^ (f.m - 3)
  (negOf f full != sh.neg && magOf f full ≠ 0) || ef + 1 < sh.exp || sh.exp + 1 < ef ||
    (ef = sh.exp && (mf + 1 < sh.top || sh.top + 1 < mf))

/-- The shadow check (R149 to R151): the hardware error due in this thread strikes element `i` of register `j` when that
element is compared, that is when neither its sources nor its result is NaN or infinite, and its fields then diverge. -/
def shadowTrap (e : Env) (f : FFmt) (compared : Nat → Nat → Bool) (full : Nat → Nat → Nat) (g n : Nat) : Option Raise :=
  match e.upset with
  | some (j, i, sh) =>
    if e.vchk && j < g && i < n && compared j i && diverges f (full j i) sh then some (trapR 0x20 (j + 8 * i) 0) else none
  | none => none

/-- A value is finite. -/
def isFin : FV → Bool
  | .fin .. => true
  | _ => false

/-! ## Arithmetic (R157 to R160) -/

/-- The smaller or larger operand (R160): `lt` tells that the first is to be kept. -/
def minmax (f : FFmt) (prop isMax : Bool) (a b : Nat) : Res :=
  let va := decodeF f a
  let vb := decodeF f b
  let nv := if isSNaN va || isSNaN vb then fNV else 0
  if isNaN va && isNaN vb then ⟨if prop then quieten f a else f.nan, nv⟩
  else if isNaN va then ⟨b, nv⟩
  else if isNaN vb then ⟨a, nv⟩
  else if isMax then ⟨if ltV true va vb then b else a, 0⟩
  else ⟨if ltV true vb va then b else a, 0⟩

/-- One element of lane major 0x20 (R157 to R160), operands already modified. -/
def arith (k : Nat) (f : FFmt) (mode : RMode) (sat prop : Bool) (a b c : Nat) : Res :=
  let va := decodeF f a
  let vb := decodeF f b
  let vc := decodeF f c
  match k with
  | 0 => if isNaN va || isNaN vb then nanResult f prop [a, b] else roundSum f mode sat [some va, some vb]
  | 1 =>
    if isNaN va || isNaN vb then nanResult f prop [a, b]
    else roundSum f mode sat [some va, some (decodeF f (modifyF f true false b))]
  | 2 => if isNaN va || isNaN vb then nanResult f prop [a, b] else roundSum f mode sat [mulV va vb]
  | 3 => minmax f prop false a b
  | 4 => minmax f prop true a b
  | _ =>
    if isNaN va || isNaN vb then nanResult f prop [a, b, c]
    else
      match mulV va vb with
      | none => ⟨f.nan, fNV⟩
      | some p => if isNaN vc then nanResult f prop [a, b, c] else roundSum f mode sat [some p, some vc]

/-- MOD and IMM12 of lane major 0x20 (R154, Table 1). -/
def arithOk (k : Nat) (f : L2R) : Bool :=
  let mm := k = 3 || k = 4
  !f.mod.getLsbD 5 && (if mm then fld f.mod.toNat 0 3 = 0 && !f.mod.getLsbD 4 else rcOk (fld f.mod.toNat 0 3)) &&
    f.imm.toNat < (if k = 5 then 64 else 16) && (k = 5 || f.c = 0)

/-- FADD, FSUB, FMUL, FMIN, FMAX, FFMA (R157). -/
def arithSem (k : Nat) (f : L2R) (e : Env) (m : Nums) (t : Thread) : Except Raise Thread :=
  let g := gsz f.w
  let tag := t.tagOf m.a
  let acc := if [1, 2, 3].contains tag then [tag] else []
  match tagFail t ([(m.a, g, acc), (m.b, g, acc)] ++ if k = 5 then [(m.c, g, acc)] else []), fmtOfTag tag with
  | some n, _ => .error (tagTrap n)
  | none, none => .error (tagTrap m.a)
  | none, some ff =>
    let md := fun (b : Nat) (n j i : Nat) =>
      modifyF ff (f.imm.getLsbD b) (f.imm.getLsbD (b + 1)) (elem tag (t.reg e n j) i)
    let one := fun j i =>
      arith k ff (t.mode (fld f.mod.toNat 0 3)) (f.mod.getLsbD 4) (f.mod.getLsbD 3) (md 0 m.a j i) (md 2 m.b j i)
        (if k = 5 then md 4 m.c j i else 0)
    let fin := fun x => isFin (decodeF ff x)
    let compared := fun j i => fin (md 0 m.a j i) && fin (md 2 m.b j i) && (k ≠ 5 || fin (md 4 m.c j i)) && fin (one j i).val
    match if k = 3 || k = 4 then none else shadowTrap e ff compared (fun j i => (one j i).val) g (elems tag) with
    | some r => .error r
    | none =>
      let r := overElems tag g one
      .ok ((t.writeReg m.d g r.val tag).addFlags r.flags)

/-- Lane major 0x20. -/
def arithR (k : Nat) (f : L2R) : LaneDef :=
  let g := gsz f.w
  { g := f.g, gn := f.gn, ok := arithOk k f, words := 2, nums := numsR f, adv := ⟨g, g, g, if k = 5 then g else 0⟩,
    opds := fun m => [⟨.src g, m.a⟩, ⟨.src g, m.b⟩] ++ (if k = 5 then [⟨.src g, m.c⟩] else []) ++ [⟨.dst g, m.d⟩],
    sem := arithSem k f }

/-- FCMP conditions (R161, Table 3): the predicate and the flags. -/
def fcond (k : Nat) (a b : FV) : Bool × Nat :=
  let un := isNaN a || isNaN b
  let sn := isSNaN a || isSNaN b
  let eq := !un && !ltV false a b && !ltV false b a
  match k with
  | 0 => (eq, if sn then fNV else 0)
  | 1 => (!eq, if sn then fNV else 0)
  | 2 => (!un && ltV false a b, if un then fNV else 0)
  | 3 => (!un && (ltV false a b || eq), if un then fNV else 0)
  | 4 => (un, if sn then fNV else 0)
  | _ => (!un, if sn then fNV else 0)

/-- FCMP (R161). -/
def fcmpR (k : Nat) (f : L2R) : LaneDef :=
  { g := f.g, gn := f.gn,
    ok := wIn f.toL1 [0] && predOk f.d && f.c = 0 && f.mod = 0 && fld f.imm.toNat 4 2 = 0 && fld f.imm.toNat 7 5 = 0,
    words := 2, nums := numsR f, adv := ⟨0, 1, 1, 0⟩, opds := fun m => [⟨.src 1, m.a⟩, ⟨.src 1, m.b⟩],
    sem := fun e m t =>
      let tag := t.tagOf m.a
      let acc := if [1, 2, 3].contains tag then [tag] else []
      match tagFail t [(m.a, 1, acc), (m.b, 1, acc)], fmtOfTag tag with
      | some n, _ => .error (tagTrap n)
      | none, none => .error (tagTrap m.a)
      | none, some ff =>
        let i := if tag = 1 then 0 else b2n (f.imm.getLsbD 6)
        let a := modifyF ff (f.imm.getLsbD 0) (f.imm.getLsbD 1) (elem tag (t.reg e m.a 0) i)
        let b := modifyF ff (f.imm.getLsbD 2) (f.imm.getLsbD 3) (elem tag (t.reg e m.b 0) i)
        let r := fcond k (decodeF ff a) (decodeF ff b)
        .ok ((t.setPred m.d r.1).addFlags r.2) }

/-! ## Single-operand instructions (R162 to R166) -/

/-- FCLASS (R163, Table 4). -/
def fclass (f : FFmt) (_ : RMode) (x : Nat) : Res :=
  let b := match decodeF f x with
    | .nan true => 8
    | .nan false => 9
    | .inf n => if n then 0 else 7
    | .fin n m _ =>
      if m = 0 then (if n then 3 else 4)
      else if magOf f x < 2 ^ f.m then (if n then 2 else 5)
      else (if n then 1 else 6)
  ⟨2 ^ b, 0⟩

/-- FRINT (R164): it sets NX and no other flag, for a signalling NaN neither (log entry 81). -/
def frint (f : FFmt) (mode : RMode) (x : Nat) : Res :=
  match decodeF f x with
  | .nan _ => ⟨f.nan, 0⟩
  | .inf _ => ⟨x, 0⟩
  | .fin neg m e =>
    let d := 2 ^ (-e).toNat
    let n := m / d
    let rem := m % d
    if 0 ≤ e || rem = 0 then ⟨x, 0⟩
    else
      let r := if roundsUp mode neg n rem d then n + 1 else n
      ⟨if r = 0 then zeroEnc f neg else (roundMag f mode false neg false r 0).val, fNX⟩

/-- FSAT (R164). -/
def fsat (f : FFmt) (_ : RMode) (x : Nat) : Res :=
  match decodeF f x with
  | .nan s => ⟨0, if s then fNV else 0⟩
  | .inf n => if n then ⟨0, fSAT⟩ else ⟨f.bias * 2 ^ f.m, fSAT⟩
  | .fin n m e =>
    if m = 0 then ⟨0, 0⟩
    else if n then ⟨0, fSAT⟩
    else if ltV false (.fin false 1 0) (.fin n m e) then ⟨f.bias * 2 ^ f.m, fSAT⟩
    else ⟨x, 0⟩

/-- Single-operand element instructions: every register of A carries F32, F16x2 or BF16x2 (R133, R156, R162). -/
def unary (op : FFmt → RMode → Nat → Res) (f : L1) : LaneDef :=
  let g := gsz f.w
  { g := f.g, gn := f.gn, ok := true, words := 1, nums := nums1 f, adv := advAll g,
    opds := fun m => [⟨.src g, m.a⟩, ⟨.dst g, m.d⟩],
    sem := fun e m t =>
      let tag := t.tagOf m.a
      let acc := if [1, 2, 3].contains tag then [tag] else []
      match tagFail t [(m.a, g, acc)], fmtOfTag tag with
      | some n, _ => .error (tagTrap n)
      | none, none => .error (tagTrap m.a)
      | none, some ff =>
        let r := overElems tag g fun j i => op ff (rmode t.fmode.toNat) (elem tag (t.reg e m.a j) i)
        .ok ((t.writeReg m.d g r.val tag).addFlags r.flags) }

/-- TAGGET (R166). -/
def taggetL (f : L1) : LaneDef :=
  let g := gsz f.w
  { g := f.g, gn := f.gn, ok := true, words := 1, nums := nums1 f, adv := advAll g,
    opds := fun m => [⟨.src g, m.a⟩, ⟨.dst g, m.d⟩],
    sem := fun _ m t =>
      .ok (t.writeReg m.d g (wordsToNat ((List.range g).map fun j => w32 (t.tagOf (m.a + j)))) 0) }

/-! ## Conversions (R167 to R170) -/

/-- Destination and source tags that IMM12 names (R154). -/
def cvtDst (f : L2R) : Nat := fld f.imm.toNat 0 4
def cvtSrc (f : L2R) : Nat := fld f.imm.toNat 4 4

/-- Registers of the source and destination groups (R168). -/
def cvtGroups (f : L2R) : Nat × Nat :=
  let es := elems (cvtSrc f)
  let ed := elems (cvtDst f)
  let g := gsz f.w
  if ed ≤ es then (g, g * (es / ed)) else (g * (ed / es), g)

/-- A conversion's lane definition: the tag pairs of Table 7, the modifiers of R154, and the conversion of one element. -/
def cvtR (srcs dsts : List Nat) (modOk : Nat → Bool) (conv : Nat → Nat → RMode → Bool → Nat → Res) (f : L2R) : LaneDef :=
  let (gs, gd) := cvtGroups f
  { g := f.g, gn := f.gn,
    ok := srcs.contains (cvtSrc f) && dsts.contains (cvtDst f) && fld f.imm.toNat 8 4 = 0 && f.b = 0 && f.c = 0 &&
      modOk f.mod.toNat && gs ≤ 8 && gd ≤ 8,
    words := 2, nums := numsR f, adv := ⟨gd, gs, 0, 0⟩, opds := fun m => [⟨.src gs, m.a⟩, ⟨.dst gd, m.d⟩],
    sem := fun e m t =>
      match tagFail t [(m.a, gs, [cvtSrc f])] with
      | some n => .error (tagTrap n)
      | none =>
        let src := t.readReg e m.a gs
        let r := overElems (cvtDst f) gd fun j i =>
          let k := j * elems (cvtDst f) + i
          conv (cvtSrc f) (cvtDst f) (t.mode (fld f.mod.toNat 0 3)) (f.mod.getLsbD 3)
            (fld src (elemBits (cvtSrc f) * k) (elemBits (cvtSrc f)))
        .ok ((t.writeReg m.d gd r.val (cvtDst f)).addFlags r.flags) }

/-- CVT of one element (R169); a conversion to the same format keeps all but NaN. -/
def cvtElem (src dst : Nat) (mode : RMode) (sat : Bool) (x : Nat) : Res :=
  match fmtOfTag src, fmtOfTag dst with
  | some fs, some fd =>
    let v := decodeF fs x
    if src = dst && !isNaN v then ⟨x, 0⟩ else convF fd mode sat v
  | _, _ => ⟨0, 0⟩

/-- CVTI of one element (R144, R169). -/
def cvtiElem (src dst : Nat) (mode : RMode) (_ : Bool) (x : Nat) : Res :=
  match fmtOfTag src with
  | some fs => roundInt dst mode (decodeF fs x)
  | none => ⟨0, 0⟩

/-- The value of an integer as a finite value. -/
def intFV (x : Int) : FV := .fin (x < 0) x.natAbs 0

/-- CVTF of one element (R169). -/
def cvtfElem (src dst : Nat) (mode : RMode) (sat : Bool) (x : Nat) : Res :=
  match fmtOfTag dst with
  | some fd => convF fd mode sat (intFV (intElem src x 0))
  | none => ⟨0, 0⟩

/-- PACK of one element (R170). -/
def packElem (src dst : Nat) (_ : RMode) (sat : Bool) (x : Nat) : Res :=
  let v := intElem src x 0
  let (lo, hi) := intRange dst
  if sat && v < lo then ⟨wrap lo (elemBits dst), fSAT⟩
  else if sat && hi < v then ⟨wrap hi (elemBits dst), fSAT⟩
  else ⟨wrap v (elemBits dst), 0⟩

/-- UNPK of one element (R170). -/
def unpkElem (src _dst : Nat) (_ : RMode) (_ : Bool) (x : Nat) : Res := ⟨wrap (intElem src x 0) 32, 0⟩

/-- The floating-point and integer tags of Table 7. -/
def fpTags : List Nat := [1, 2, 3, 4, 5, 6, 11]
def intTags : List Nat := [12, 7, 8, 9, 10]

/-! ## Dot products and scaling (R171 to R173) -/

/-- A floating-point dot product's special cases and rounding (R158, R172). Of several special cases the first of these decides: a NaN
in A or B, a product 0 x infinity, a NaN in C, infinities of both signs; NV beside them comes from signalling NaNs alone (log
entry 82). -/
def dotF (mode : RMode) (sat prop : Bool) (abs : List (FV × FV)) (c : Nat) : Res :=
  let vc := decodeF f32 c
  let nv := if abs.any (fun p => isSNaN p.1 || isSNaN p.2) || isSNaN vc then fNV else 0
  if abs.any fun p => isNaN p.1 || isNaN p.2 then ⟨f32.nan, nv⟩
  else
    let ps := abs.map fun p => mulV p.1 p.2
    if ps.any Option.isNone then ⟨f32.nan, fNV⟩
    else if isNaN vc then ⟨if prop then quieten f32 c else f32.nan, nv⟩
    else roundSum f32 mode sat (ps ++ [some vc])

/-- DOT2, DOT4F and DOT8F: the tags A and B may carry, whether they must be equal. -/
def dotFR (tags : List Nat) (same : Bool) (f : L2R) : LaneDef :=
  { g := f.g, gn := f.gn, ok := wIn f.toL1 [0] && rcOk (fld f.mod.toNat 0 3) && !f.mod.getLsbD 5 && f.imm = 0, words := 2,
    nums := numsR f, adv := advAll 1, opds := fun m => [⟨.src 1, m.a⟩, ⟨.src 1, m.b⟩, ⟨.src 1, m.c⟩, ⟨.dst 1, m.d⟩],
    sem := fun e m t =>
      let ta := t.tagOf m.a
      let tb := t.tagOf m.b
      match tagFail t [(m.a, 1, tags), (m.b, 1, if same then [ta] else tags), (m.c, 1, [1])], fmtOfTag ta, fmtOfTag tb with
      | some n, _, _ => .error (tagTrap n)
      | none, some fa, some fb =>
        let abs := (List.range (elems ta)).map fun i =>
          (decodeF fa (elem ta (t.reg e m.a 0) i), decodeF fb (elem tb (t.reg e m.b 0) i))
        let c := t.reg e m.c 0
        let r := dotF (t.mode (fld f.mod.toNat 0 3)) (f.mod.getLsbD 3) (f.mod.getLsbD 4) abs c
        let cmp := abs.all (fun p => isFin p.1 && isFin p.2) && isFin (decodeF f32 c) && isFin (decodeF f32 r.val)
        match shadowTrap e f32 (fun _ _ => cmp) (fun _ _ => r.val) 1 1 with
        | some tr => .error tr
        | none => .ok ((t.writeReg m.d 1 r.val 1).addFlags r.flags)
      | none, _, _ => .error (tagTrap m.a) }

/-- DOT4 and DOT8 (R172). -/
def dotIR (tags : List Nat) (f : L2R) : LaneDef :=
  { g := f.g, gn := f.gn, ok := wIn f.toL1 [0] && (f.mod = 0 || f.mod = 8) && f.imm = 0, words := 2,
    nums := numsR f, adv := advAll 1, opds := fun m => [⟨.src 1, m.a⟩, ⟨.src 1, m.b⟩, ⟨.src 1, m.c⟩, ⟨.dst 1, m.d⟩],
    sem := fun e m t =>
      let ta := t.tagOf m.a
      let tb := t.tagOf m.b
      match tagFail t [(m.a, 1, tags), (m.b, 1, tags), (m.c, 1, [12])] with
      | some n => .error (tagTrap n)
      | none =>
        let x := (List.range (elems ta)).foldl
          (fun acc i => acc + intElem ta (t.reg e m.a 0) i * intElem tb (t.reg e m.b 0) i) (sgn (t.reg e m.c 0) 32)
        let clamp := f.mod = 8 && (x < -(2 ^ 31 : Nat) || ((2 ^ 31 : Nat) : Int) ≤ x)
        let v := if clamp then (if x < 0 then 2 ^ 31 else 2 ^ 31 - 1) else wrap x 32
        .ok ((t.writeReg m.d 1 v 12).addFlags (if clamp then fSAT else 0)) }

/-- SCL (R173): a NaN scale gives the canonical NaN, with NV only for a signalling A or C (R143); then a NaN in A, then a zero scale times an
infinite A, whatever C holds (log entry 82). -/
def sclVal (mode : RMode) (sat prop : Bool) (a c : Nat) (si sj : FV) : Res :=
  let va := decodeF f32 a
  let vc := decodeF f32 c
  if isNaN si || isNaN sj then ⟨f32.nan, if isSNaN va || isSNaN vc then fNV else 0⟩
  else if isNaN va then nanResult f32 prop [a, c]
  else
    match (mulV va si).bind fun p => mulV p sj with
    | none => ⟨f32.nan, fNV⟩
    | some p => if isNaN vc then nanResult f32 prop [a, c] else roundSum f32 mode sat [some p, some vc]

/-- SCL's lane definition. -/
def sclR (f : L2R) : LaneDef :=
  { g := f.g, gn := f.gn,
    ok := wIn f.toL1 [0] && rcOk (fld f.mod.toNat 0 3) && !f.mod.getLsbD 5 && f.imm.toNat < 32, words := 2,
    nums := numsR f, adv := advAll 1, opds := fun m => [⟨.src 1, m.a⟩, ⟨.src 1, m.b⟩, ⟨.src 1, m.c⟩, ⟨.dst 1, m.d⟩],
    sem := fun e m t =>
      match tagFail t [(m.a, 1, [1]), (m.b, 1, [11]), (m.c, 1, [1])] with
      | some n => .error (tagTrap n)
      | none =>
        let b := t.reg e m.b 0
        let si := decodeF ue5m3 (elem 11 b (fld f.imm.toNat 0 2))
        let sj := if f.imm.getLsbD 4 then .fin false 1 0 else decodeF ue5m3 (elem 11 b (fld f.imm.toNat 2 2))
        let a := t.reg e m.a 0
        let c := t.reg e m.c 0
        let r := sclVal (t.mode (fld f.mod.toNat 0 3)) (f.mod.getLsbD 3) (f.mod.getLsbD 4) a c si sj
        let cmp := isFin (decodeF f32 a) && isFin si && isFin sj && isFin (decodeF f32 c) && isFin (decodeF f32 r.val)
        match shadowTrap e f32 (fun _ _ => cmp) (fun _ _ => r.val) 1 1 with
        | some tr => .error tr
        | none => .ok ((t.writeReg m.d 1 r.val 1).addFlags r.flags) }

/-! ## Tag instructions (R174, R175) -/

/-- TAGSET (R174). -/
def tagsetI (f : L2I) : LaneDef :=
  let g := gsz f.w
  { g := f.g, gn := f.gn, ok := f.lit.toNat < 13, words := 2, nums := nums1 f.toL1, adv := advAll g,
    opds := fun m => [⟨.src g, m.a⟩, ⟨.dst g, m.d⟩],
    sem := fun e m t => .ok (t.writeReg m.d g (t.readReg e m.a g) f.lit.toNat) }

/-- TAGCHK (R175). -/
def tagchkI (f : L2I) : LaneDef :=
  let g := gsz f.w
  { g := f.g, gn := f.gn, ok := f.lit.toNat < 13 && predOk f.d, words := 2, nums := nums1 f.toL1, adv := ⟨0, g, 0, 0⟩,
    opds := fun m => [⟨.src g, m.a⟩],
    sem := fun _ m t => .ok (t.setPred m.d ((rangeFrom m.a g).all fun k => t.tagOf k = f.lit.toNat)) }

/-! ## The instructions -/

/-- Lane definition of FADD (R157). -/
def laneFadd (f : L2R) : LaneDef := arithR 0 f
/-- FADD (R157). -/
def execFadd (f : L2R) (s : State) : Out := runLane (laneFadd f) s
/-- Lane definition of FSUB (R157). -/
def laneFsub (f : L2R) : LaneDef := arithR 1 f
/-- FSUB (R157). -/
def execFsub (f : L2R) (s : State) : Out := runLane (laneFsub f) s
/-- Lane definition of FMUL (R157). -/
def laneFmul (f : L2R) : LaneDef := arithR 2 f
/-- FMUL (R157). -/
def execFmul (f : L2R) (s : State) : Out := runLane (laneFmul f) s
/-- Lane definition of FMIN (R160). -/
def laneFmin (f : L2R) : LaneDef := arithR 3 f
/-- FMIN (R160). -/
def execFmin (f : L2R) (s : State) : Out := runLane (laneFmin f) s
/-- Lane definition of FMAX (R160). -/
def laneFmax (f : L2R) : LaneDef := arithR 4 f
/-- FMAX (R160). -/
def execFmax (f : L2R) (s : State) : Out := runLane (laneFmax f) s
/-- Lane definition of FFMA (R157). -/
def laneFfma (f : L2R) : LaneDef := arithR 5 f
/-- FFMA (R157). -/
def execFfma (f : L2R) (s : State) : Out := runLane (laneFfma f) s
/-- Lane definition of FCMP_EQ (R161). -/
def laneFcmpEq (f : L2R) : LaneDef := fcmpR 0 f
/-- FCMP_EQ (R161). -/
def execFcmpEq (f : L2R) (s : State) : Out := runLane (laneFcmpEq f) s
/-- Lane definition of FCMP_NE (R161). -/
def laneFcmpNe (f : L2R) : LaneDef := fcmpR 1 f
/-- FCMP_NE (R161). -/
def execFcmpNe (f : L2R) (s : State) : Out := runLane (laneFcmpNe f) s
/-- Lane definition of FCMP_LT (R161). -/
def laneFcmpLt (f : L2R) : LaneDef := fcmpR 2 f
/-- FCMP_LT (R161). -/
def execFcmpLt (f : L2R) (s : State) : Out := runLane (laneFcmpLt f) s
/-- Lane definition of FCMP_LE (R161). -/
def laneFcmpLe (f : L2R) : LaneDef := fcmpR 3 f
/-- FCMP_LE (R161). -/
def execFcmpLe (f : L2R) (s : State) : Out := runLane (laneFcmpLe f) s
/-- Lane definition of FCMP_UNO (R161). -/
def laneFcmpUno (f : L2R) : LaneDef := fcmpR 4 f
/-- FCMP_UNO (R161). -/
def execFcmpUno (f : L2R) (s : State) : Out := runLane (laneFcmpUno f) s
/-- Lane definition of FCMP_ORD (R161). -/
def laneFcmpOrd (f : L2R) : LaneDef := fcmpR 5 f
/-- FCMP_ORD (R161). -/
def execFcmpOrd (f : L2R) (s : State) : Out := runLane (laneFcmpOrd f) s
/-- Lane definition of FCLASS (R163). -/
def laneFclass (f : L1) : LaneDef := unary fclass f
/-- FCLASS (R163). -/
def execFclass (f : L1) (s : State) : Out := runLane (laneFclass f) s
/-- Lane definition of FRINT (R164). -/
def laneFrint (f : L1) : LaneDef := unary frint f
/-- FRINT (R164). -/
def execFrint (f : L1) (s : State) : Out := runLane (laneFrint f) s
/-- Lane definition of FSAT (R164). -/
def laneFsat (f : L1) : LaneDef := unary fsat f
/-- FSAT (R164). -/
def execFsat (f : L1) (s : State) : Out := runLane (laneFsat f) s
/-- Lane definition of RCP (R165). -/
def laneRcp (f : L1) : LaneDef := unary (specialFn .rcp) f
/-- RCP (R165). -/
def execRcp (f : L1) (s : State) : Out := runLane (laneRcp f) s
/-- Lane definition of RSQ (R165). -/
def laneRsq (f : L1) : LaneDef := unary (specialFn .rsq) f
/-- RSQ (R165). -/
def execRsq (f : L1) (s : State) : Out := runLane (laneRsq f) s
/-- Lane definition of SQRT (R165). -/
def laneSqrt (f : L1) : LaneDef := unary (specialFn .sqrt) f
/-- SQRT (R165). -/
def execSqrt (f : L1) (s : State) : Out := runLane (laneSqrt f) s
/-- Lane definition of EX2 (R165). -/
def laneEx2 (f : L1) : LaneDef := unary (specialFn .ex2) f
/-- EX2 (R165). -/
def execEx2 (f : L1) (s : State) : Out := runLane (laneEx2 f) s
/-- Lane definition of LG2 (R165). -/
def laneLg2 (f : L1) : LaneDef := unary (specialFn .lg2) f
/-- LG2 (R165). -/
def execLg2 (f : L1) (s : State) : Out := runLane (laneLg2 f) s
/-- Lane definition of SIN (R165). -/
def laneSin (f : L1) : LaneDef := unary (specialFn .sin) f
/-- SIN (R165). -/
def execSin (f : L1) (s : State) : Out := runLane (laneSin f) s
/-- Lane definition of COS (R165). -/
def laneCos (f : L1) : LaneDef := unary (specialFn .cos) f
/-- COS (R165). -/
def execCos (f : L1) (s : State) : Out := runLane (laneCos f) s
/-- Lane definition of TANH (R165). -/
def laneTanh (f : L1) : LaneDef := unary (specialFn .tanh) f
/-- TANH (R165). -/
def execTanh (f : L1) (s : State) : Out := runLane (laneTanh f) s
/-- Lane definition of TAGGET (R166). -/
def laneTagget (f : L1) : LaneDef := taggetL f
/-- TAGGET (R166). -/
def execTagget (f : L1) (s : State) : Out := runLane (laneTagget f) s
/-- Lane definition of CVT (R169). -/
def laneCvt (f : L2R) : LaneDef := cvtR fpTags fpTags (fun m => rcOk (fld m 0 3) && m < 16) cvtElem f
/-- CVT (R169). -/
def execCvt (f : L2R) (s : State) : Out := runLane (laneCvt f) s
/-- Lane definition of CVTI (R169). -/
def laneCvti (f : L2R) : LaneDef := cvtR fpTags intTags (fun m => rcOk (fld m 0 3) && m < 8) cvtiElem f
/-- CVTI (R169). -/
def execCvti (f : L2R) (s : State) : Out := runLane (laneCvti f) s
/-- Lane definition of CVTF (R169). -/
def laneCvtf (f : L2R) : LaneDef := cvtR intTags fpTags (fun m => rcOk (fld m 0 3) && m < 16) cvtfElem f
/-- CVTF (R169). -/
def execCvtf (f : L2R) (s : State) : Out := runLane (laneCvtf f) s
/-- Lane definition of PACK (R170). -/
def lanePack (f : L2R) : LaneDef := cvtR [12] [7, 8, 9, 10] (fun m => m = 0 || m = 8) packElem f
/-- PACK (R170). -/
def execPack (f : L2R) (s : State) : Out := runLane (lanePack f) s
/-- Lane definition of UNPK (R170). -/
def laneUnpk (f : L2R) : LaneDef := cvtR [7, 8, 9, 10] [12] (fun m => m = 0) unpkElem f
/-- UNPK (R170). -/
def execUnpk (f : L2R) (s : State) : Out := runLane (laneUnpk f) s
/-- Lane definition of DOT2 (R172). -/
def laneDot2 (f : L2R) : LaneDef := dotFR [2, 3] true f
/-- DOT2 (R172). -/
def execDot2 (f : L2R) (s : State) : Out := runLane (laneDot2 f) s
/-- Lane definition of DOT4 (R172). -/
def laneDot4 (f : L2R) : LaneDef := dotIR [7, 8] f
/-- DOT4 (R172). -/
def execDot4 (f : L2R) (s : State) : Out := runLane (laneDot4 f) s
/-- Lane definition of DOT8 (R172). -/
def laneDot8 (f : L2R) : LaneDef := dotIR [9, 10] f
/-- DOT8 (R172). -/
def execDot8 (f : L2R) (s : State) : Out := runLane (laneDot8 f) s
/-- Lane definition of DOT4F (R172). -/
def laneDot4f (f : L2R) : LaneDef := dotFR [4, 5] false f
/-- DOT4F (R172). -/
def execDot4f (f : L2R) (s : State) : Out := runLane (laneDot4f f) s
/-- Lane definition of DOT8F (R172). -/
def laneDot8f (f : L2R) : LaneDef := dotFR [6] true f
/-- DOT8F (R172). -/
def execDot8f (f : L2R) (s : State) : Out := runLane (laneDot8f f) s
/-- Lane definition of SCL (R173). -/
def laneScl (f : L2R) : LaneDef := sclR f
/-- SCL (R173). -/
def execScl (f : L2R) (s : State) : Out := runLane (laneScl f) s
/-- Lane definition of TAGSET (R174). -/
def laneTagset (f : L2I) : LaneDef := tagsetI f
/-- TAGSET (R174). -/
def execTagset (f : L2I) (s : State) : Out := runLane (laneTagset f) s
/-- Lane definition of TAGCHK (R175). -/
def laneTagchk (f : L2I) : LaneDef := tagchkI f
/-- TAGCHK (R175). -/
def execTagchk (f : L2I) (s : State) : Out := runLane (laneTagchk f) s

end Sys2Proof.Machine
end

