-- ==== Sys2Proof/Machine/CrossLane.lean ====
section
/-! DEFINITION. Cross-lane instructions (05_control R119 to R121, R125 to R130). -/
namespace Sys2Proof.Machine

/-- A cross-lane instruction: guard, step-1 verdict, register operands other than the mask, the mask register, and the
effect. The effect is given the active members with their records and answers what each of them becomes; a trap is
raised in every active member and nothing is written (R127, R128). -/
structure CrossDef where
  g : BitVec 5
  gn : Bool
  ok : Bool
  opds : List Opd
  mask : Nat
  act : (ThreadId → Env) → List (ThreadId × Thread) → Except Raise (ThreadId → Thread → Thread)

/-- Step 1 of Table 6 of 02_formats. -/
def CrossDef.legal (i : CrossDef) : Bool :=
  guardOk i.g i.gn && i.ok && i.opds.all Opd.legal && (Opd.legal ⟨.src 1, i.mask⟩)

/-- Steps 4 and 5 with the mask read (R44 order: A, B, C, D; B is the mask). -/
def CrossDef.check (i : CrossDef) (t : Thread) : Option Raise :=
  match i.opds with
  | [] => regCheck t [⟨.src 1, i.mask⟩]
  | o :: os =>
    match o.use with
    | .src _ | .srcZ _ => regCheck t (o :: ⟨.src 1, i.mask⟩ :: os)
    | .dst _ | .dstZ _ => regCheck t (⟨.src 1, i.mask⟩ :: o :: os)

/-- The masks that guard-true arrivals read. -/
def arrivalMasks (as : List (ThreadId × Arrival)) : List W32 :=
  as.filterMap fun (_, k) => match k with
    | .lanes (some m) => some m
    | _ => none

/-- Arrival of threads of one team at a cross-lane instruction at one PC (R120): masks that differ trap every arrival there,
a guarded-off one with the mask of the earliest guard-true arrival. -/
def State.arriveLanes (s : State) (t : TeamId) (pc : Pc) (new : List (ThreadId × Arrival)) : State :=
  let every := s.arrivals t pc ++ new
  match arrivalMasks every with
  | [] => s.arrive new
  | m :: ms =>
    if ms.all (· = m) then s.arrive new
    else
      let s := s.updThreads (every.map (·.1)) fun t => { t with park := .ready }
      s.raises (every.map fun (i, k) => (i, trapR 0x05 (match k with
        | .lanes (some x) => x.toNat
        | _ => m.toNat) 0))

/-- Threads arrive at a cross-lane instruction: a guard-true thread whose operands fail, or whose mask leaves it out, traps
at once (R44, R120). -/
def State.arriveCross (s : State) (i : CrossDef) : State :=
  let judged := s.group.map fun (id, t) =>
    if t.guard i.g i.gn then
      match i.check t with
      | some r => (id, t.pc, Except.error r)
      | none =>
        let m := t.readReg (s.env id) i.mask 1
        if m.testBit id.lane then (id, t.pc, Except.ok (Arrival.lanes (some (w32 m))))
        else (id, t.pc, Except.error (trapR 0x05 m 0))
    else (id, t.pc, Except.ok (Arrival.lanes none))
  let s := s.raises (judged.filterMap fun (id, _, r) => match r with
    | .error r => some (id, r)
    | .ok _ => none)
  let teams := (judged.map fun (id, _, _) => id.team).eraseDups
  teams.foldl (fun s t =>
    let new := judged.filterMap fun (id, _, r) => match r with
      | .ok k => if id.team = t then some (id, k) else none
      | .error _ => none
    match judged.find? fun (id, _, _) => id.team = t with
    | some (_, pc, _) => if new.isEmpty then s else s.arriveLanes t pc new
    | none => s) s

/-- A cross-lane instruction: gathered threads arrive; a released set performs it once over all its members, which step past
it together (R121). -/
def runCross (i : CrossDef) (s : State) : Out :=
  if !i.legal then .next s.illegal
  else if s.gathered.rdv then
    let active := s.group.filter fun (_, t) => t.guard i.g i.gn
    match i.act s.env active with
    | .error r =>
      let off := (s.group.filter fun (_, t) => !t.guard i.g i.gn).map (·.1)
      .next ((s.stepAll off 2).raises (active.map fun (id, _) => (id, r)))
    | .ok f =>
      let ids := active.map (·.1)
      .next ((s.mapThreads fun id t => if id ∈ ids then f id t else t).stepAll s.gathered.ids 2)
  else .next (s.arriveCross i)

/-! ## PEEK and FLIP (R126) -/

/-- The lane that an active member reads from, before the fallback to its own. -/
def sourceLane (f : L2R) (flip : Bool) (l k : Nat) : Nat :=
  if flip then l ^^^ k else if f.mod.getLsbD 1 then (l + k) % 32 else k

/-- PEEK and FLIP. -/
def peekDef (flip : Bool) (f : L2R) : CrossDef :=
  let g := gsz f.w
  let imm := f.mod.getLsbD 0
  { g := f.g, gn := f.gn,
    ok := wIn f.toL1 [0, 1] && fld f.mod.toNat 2 4 = 0 && (!flip || !f.mod.getLsbD 1) &&
      (if imm then f.c = 0 && f.imm.toNat < 32 else f.imm = 0),
    opds := [⟨.src g, f.a.toNat⟩] ++ (if imm then [] else [⟨.src 1, f.c.toNat⟩]) ++ [⟨.dst g, f.d.toNat⟩],
    mask := f.b.toNat,
    act := fun env active => .ok fun id t =>
      let k := if imm then f.imm.toNat else t.readReg (env id) f.c.toNat 1 % 32
      let s := sourceLane f flip id.lane k
      let (sid, st) := (active.find? fun (i, _) => i.lane = s).getD (id, t)
      (List.range g).foldl (fun t' j =>
        t'.writeReg (f.d.toNat + j) 1 (st.val (env sid) (f.a.toNat + j)) (st.tagOf (f.a.toNat + j))) t }

/-! ## Votes and peers (R127) -/

/-- C, MOD and IMM12 are 0 and W is 0b00. -/
def plain (f : L2R) : Bool := wIn f.toL1 [0] && restZero f

/-- ALLOF and ANYOF: predicate D in every active lane. -/
def voteDef (all : Bool) (f : L2R) : CrossDef :=
  { g := f.g, gn := f.gn, ok := plain f && predOk f.d && predOk f.a, opds := [], mask := f.b.toNat,
    act := fun _ active =>
      let q := fun (x : ThreadId × Thread) => x.2.pred f.a.toNat
      let v := if all then active.all q else active.any q
      .ok fun _ t => t.setPred f.d.toNat v }

/-- PMASK. -/
def pmaskDef (f : L2R) : CrossDef :=
  { g := f.g, gn := f.gn, ok := plain f && predOk f.a, opds := [⟨.dst 1, f.d.toNat⟩], mask := f.b.toNat,
    act := fun _ active =>
      let m := laneMask ((active.filter fun (_, t) => t.pred f.a.toNat).map (·.1))
      .ok fun _ t => t.writeReg f.d.toNat 1 m 0 }

/-- PEERS. -/
def peersDef (f : L2R) : CrossDef :=
  let g := gsz f.w
  { g := f.g, gn := f.gn, ok := wIn f.toL1 [0, 1] && restZero f,
    opds := [⟨.src g, f.a.toNat⟩, ⟨.dst 1, f.d.toNat⟩], mask := f.b.toNat,
    act := fun env active => .ok fun id t =>
      let own := t.readReg (env id) f.a.toNat g
      let m := laneMask ((active.filter fun (i, u) => u.readReg (env i) f.a.toNat g = own).map (·.1))
      t.writeReg f.d.toNat 1 m 0 }

/-- LEADP: active members stand in ascending lane order. -/
def leadpDef (f : L2R) : CrossDef :=
  { g := f.g, gn := f.gn, ok := plain f && predOk f.d && f.a = 0, opds := [], mask := f.b.toNat,
    act := fun _ active =>
      let first := (active.head?).map (·.1)
      .ok fun id t => t.setPred f.d.toNat (some id = first) }

/-! ## Reductions (R128 to R130) -/

/-- One rounded F32 addition of a reduction (R129). -/
def addF32 (a b : Nat) : Res := arith 0 f32 .rne false false a b 0

/-- One addition of a reduction in its common tag. -/
def addTag (tag a b : Nat) : Res := if tag = 1 then addF32 a b else ⟨(a + b) % 2 ^ 32, 0⟩

/-- A tree node: absent, or its value and the flags raised below it. -/
def joinNodes (tag : Nat) : Option Res → Option Res → Option Res
  | some a, some b =>
    let r := addTag tag a.val b.val
    some ⟨r.val, r.flags ||| a.flags ||| b.flags⟩
  | some a, none => some a
  | none, b => b

/-- One level of the tree: neighbours joined. -/
def treeLevel (tag : Nat) : List (Option Res) → List (Option Res)
  | a :: b :: rest => joinNodes tag a b :: treeLevel tag rest
  | l => l

/-- The five levels over 32 leaves (R129). -/
def treeSum (tag : Nat) (leaves : List (Option Res)) : Res :=
  match treeLevel tag (treeLevel tag (treeLevel tag (treeLevel tag (treeLevel tag leaves)))) with
  | some r :: _ => r
  | _ => ⟨0, 0⟩

/-- The largest or smallest F32 value, NaN ignored (R130). -/
def extremeF (isMax : Bool) (xs : List Nat) : Res :=
  let nv := if xs.any (fun x => isSNaN (decodeF f32 x)) then fNV else 0
  match xs.filter (fun x => !isNaN (decodeF f32 x)) with
  | [] => ⟨f32.nan, nv⟩
  | y :: ys =>
    ⟨ys.foldl (fun a b =>
      let lt := ltV true (decodeF f32 a) (decodeF f32 b)
      if isMax then (if lt then b else a) else (if lt then a else if a = b then a else b)) y, nv⟩

/-- The largest or smallest 32-bit integer. -/
def extremeI (isMax unsigned : Bool) : List Nat → Nat
  | [] => 0
  | y :: ys => ys.foldl (fun a b =>
      let lt : Bool := if unsigned then a < b else sgn a 32 < sgn b 32
      if isMax then (if lt then b else a) else (if lt then a else b)) y

/-- The scan value of a member over the values before it, in ascending lane order (R128, R129). -/
def scanSum (tag : Nat) : List Nat → Res
  | [] => ⟨0, 0⟩
  | y :: ys => ys.foldl (fun acc b =>
      let r := addTag tag acc.val b
      ⟨r.val, r.flags ||| acc.flags⟩) ⟨y, 0⟩

/-- TSUM, TMAX, TMIN, TSCAN, by minor (R128). -/
def reduceDef (k : Nat) (f : L2R) : CrossDef :=
  let unsigned := f.mod.getLsbD 0
  { g := f.g, gn := f.gn,
    ok := wIn f.toL1 [0] && f.c = 0 && f.imm = 0 && fld f.mod.toNat 2 4 = 0 && (k = 1 || k = 2 || !unsigned) &&
      (k = 3 || !f.mod.getLsbD 1),
    opds := [⟨.src 1, f.a.toNat⟩, ⟨.dst 1, f.d.toNat⟩], mask := f.b.toNat,
    act := fun env active =>
      let tags := active.map fun (_, t) => t.tagOf f.a.toNat
      let tag := tags.headD 0
      if !(tags.all (· = tag)) || !([0, 1, 12].contains tag) || (tag = 1 && unsigned) then
        .error (trapR 0x04 f.a.toNat 0)
      else
        let v := fun (x : ThreadId × Thread) => x.2.readReg (env x.1) f.a.toNat 1
        let one : Res := match k with
          | 0 => treeSum tag ((List.range 32).map fun l =>
              (active.find? fun (i, _) => i.lane = l).map fun x => ⟨v x, 0⟩)
          | _ =>
            if tag = 1 then extremeF (k = 1) (active.map v) else ⟨extremeI (k = 1) unsigned (active.map v), 0⟩
        .ok fun id t =>
          let r := if k = 3 then
              scanSum tag ((active.filter fun (i, _) => i.lane < id.lane || (i.lane = id.lane && !f.mod.getLsbD 1)).map v)
            else one
          (t.writeReg f.d.toNat 1 r.val tag).addFlags r.flags }

/-! ## The instructions -/

/-- PEEK (R126). -/
def execPeek (f : L2R) (s : State) : Out := runCross (peekDef false f) s
/-- FLIP (R126). -/
def execFlip (f : L2R) (s : State) : Out := runCross (peekDef true f) s
/-- ALLOF (R127). -/
def execAllof (f : L2R) (s : State) : Out := runCross (voteDef true f) s
/-- ANYOF (R127). -/
def execAnyof (f : L2R) (s : State) : Out := runCross (voteDef false f) s
/-- PMASK (R127). -/
def execPmask (f : L2R) (s : State) : Out := runCross (pmaskDef f) s
/-- PEERS (R127). -/
def execPeers (f : L2R) (s : State) : Out := runCross (peersDef f) s
/-- LEADP (R127). -/
def execLeadp (f : L2R) (s : State) : Out := runCross (leadpDef f) s
/-- TSUM (R128). -/
def execTsum (f : L2R) (s : State) : Out := runCross (reduceDef 0 f) s
/-- TMAX (R128). -/
def execTmax (f : L2R) (s : State) : Out := runCross (reduceDef 1 f) s
/-- TMIN (R128). -/
def execTmin (f : L2R) (s : State) : Out := runCross (reduceDef 2 f) s
/-- TSCAN (R128). -/
def execTscan (f : L2R) (s : State) : Out := runCross (reduceDef 3 f) s

end Sys2Proof.Machine
end

