-- ==== Sys2Proof/Machine/Combine.lean ====
section
/-! DEFINITION. The combining operations on values (10_combining R247, Table 1, R251, R255). -/
namespace Sys2Proof.Machine

/-- The smaller or larger of two values of n bits. -/
def pickBy (less : Bool) (x y : Nat) : Nat := if less then x else y

/-- New word value for one contribution with operands x (CAS: compare value x, new value y) (Table 1). `size` in bytes. -/
def netNew (op : NetOp) (size old x y : Nat) : Nat :=
  let n := 8 * size
  match op with
  | .add => (old + x) % 2 ^ n
  | .and => old &&& x
  | .or => old ||| x
  | .xor => old ^^^ x
  | .max => pickBy (sgn old n < sgn x n) x old
  | .min => pickBy (sgn x n < sgn old n) x old
  | .maxu => pickBy (old < x) x old
  | .minu => pickBy (x < old) x old
  | .swp => x
  | .ld => old
  | .fadd => (addF32 old x).val
  | .cas => if old = x then y else old
  | .arrive | .read | .jadd | .jrd => old
  | .write => x

/-- Operands of several contributions combined into the one a stage forwards (Table 1, R251). -/
def netFold (op : NetOp) (size : Nat) : List Nat → Nat
  | [] => 0
  | x :: xs =>
    match op with
    | .swp => (x :: xs).getLastD x
    | .ld => 0
    | _ => xs.foldl (fun acc y => netNew op size acc y 0) x

/-- Value given to the contribution that follows those with operands `before`, from the reply v (Table 1, R251). -/
def netGive (op : NetOp) (size v : Nat) (before : List Nat) : Nat :=
  match before with
  | [] => v
  | _ =>
    match op with
    | .swp => before.getLastD v
    | .ld | .cas => v
    | _ => netNew op size v (netFold op size before) 0

/-- Operations that may merge (R242): all of Table 1 but CAS, and barrier arrivals among themselves (R342); no load, store or counter
access does. -/
def netMerges (op : NetOp) : Bool :=
  match op with
  | .cas | .read | .write | .jadd | .jrd => false
  | _ => true

/-- Operations that only read. -/
def netReads (op : NetOp) : Bool := op = .read || op = .jrd

end Sys2Proof.Machine
end

