-- ==== Sys2Proof/Machine/Access.lean ====
section
/-! DEFINITION. Accesses: forming and checking an address (08_memory R177 to R182), issuing, the order in which accesses are
performed (08_memory R206; 09_ordering R214 to R226), performing loads and stores, held writes and commits (16_system R387 to
R389), and page faults (08_memory R201 to R203). -/
namespace Sys2Proof.Machine

/-! ## Scopes (R22) -/

/-- Code of a scope after clamping, with the CLAMPST bit of a guest context set when it is clamped (R22, R374). -/
def State.clamp (s : State) (c : CtxId) (core : CoreId) (scope : Nat) : State × Nat :=
  match s.ctx c with
  | none => (s, scope)
  | some cx =>
    if cx.sup then (s, scope)
    else
      let quads := ((s.share (s.partOfCtx c) core.pkg).map (·.quads.toNat)).getD 0
      let narrows := scope = 7 || (scope = 5 && quads ≠ 2 ^ 64 - 1) ||
        (scope = 4 && fld quads (16 * coreDie core) 16 ≠ 2 ^ 16 - 1)
      if narrows then
        (s.updCtx c fun x => { x with clamp := x.clamp ||| BitVec.ofNat 8 (2 ^ scope) }, if scope = 7 then 6 else scope)
      else (s, scope)

/-! ## Addresses (R41, R177) -/

/-- Base and index fields of an M-format instruction (R41); `idx` says that IX is an index. -/
def memFieldsOk (f : LM) (idx : Bool) : Bool :=
  f.space.toNat < 4 && (!idx || f.ix.toNat < 120 || f.ix = 124 || f.ix = 125)

/-- Base operand (R41). -/
def memBase (f : LM) : Opd := ⟨.src (if f.space = 0 then 2 else 1), f.a.toNat⟩

/-- Index operand, when IX names one. -/
def memIndex (f : LM) : List Opd := [⟨.src 1, f.ix.toNat⟩]

/-- The exact effective address (R177). -/
def memAddr (f : LM) (idx : Bool) (e : Env) (t : Thread) (frame : Nat) : Int :=
  let i := if idx && f.ix ≠ 124 then sgn (t.readReg e f.ix.toNat 1) 32 else 0
  let disp := i * (2 ^ f.sc.toNat : Nat) + sgn f.off.toNat 11
  match f.space.toNat with
  | 0 => (t.readReg e f.a.toNat 2 : Int) + disp
  | 3 => (frame : Int) + sgn (t.readReg e f.a.toNat 1) 32 + disp
  | _ => (t.readReg e f.a.toNat 1 : Int) + disp

/-- Frame pointer of a thread's task (R177, R315). -/
def State.frameOf (s : State) (id : ThreadId) : Nat := ((s.team id.team).map (·.frame.toNat)).getD 0

/-- The core and the block at a gang position of a thread's gang (R180, R313). -/
def State.gangPeer (s : State) (id : ThreadId) (m : Nat) : Option BlockId :=
  match s.blockOf id.team with
  | none => none
  | some b =>
    if b.gang = 0 then none
    else (tfind s.blocks fun _ b' => b'.ctx = b.ctx && b'.gang = b.gang && b'.gpos = m).map (·.1)

/-- A block that has taken a fatal fault, until its gang is handled (R181, R391). -/
def State.blockLost (s : State) (b : BlockId) : Bool := (s.block b).any (·.lost)

/-- The scratchpad byte that a local address names, with the bounds of R180; the trap otherwise. -/
def State.localPlace (s : State) (id : ThreadId) (space : Nat) (a : Int) (size : Nat) : Except Raise Loc :=
  let av := trapR 0x10 0 (addr64 a)
  if space = 1 then
    if 0 ≤ a && a + size ≤ ((s.core id.team.core).spsz : Int) then .ok (.pad id.team.core a.toNat) else .error av
  else if a < 0 || 2 ^ 23 ≤ a then .error av
  else
    match s.gangPeer id (fld a.toNat 21 2) with
    | none => .error av
    | some b =>
      let off := fld a.toNat 0 21
      if (s.core b.core).spsz < off + size then .error av else .ok (.pad b.core off)

/-- The address checks of R178 to R181 in their order: bounds, alignment, lost peer. -/
def State.place (s : State) (id : ThreadId) (space : Nat) (a : Int) (size : Nat) (aligned : Bool) :
    Except Raise (Option Loc) :=
  let mis := aligned && a % size ≠ 0
  if space = 0 || space = 3 then
    if !canonical a size then .error (trapR 0x12 0 (addr64 a))
    else if mis then .error (trapR 0x11 0 (addr64 a))
    else .ok none
  else
    match s.localPlace id space a size with
    | .error r => .error r
    | .ok l =>
      if mis then .error (trapR 0x11 0 (addr64 a))
      else
        let m := fld a.toNat 21 2
        if space = 2 && (s.gangPeer id m).any s.blockLost then .error (trapR 0x17 m (addr64 a)) else .ok (some l)

/-! ## Locations and homes of accesses (R211) -/

/-- The access goes through translation. -/
def Access.global (a : Access) : Bool := a.space = 0 || a.space = 3

/-- How the core of an access translates. -/
def Access.view (a : Access) : View := viewAt a.ctx a.core

/-- Where an access lies, when its address translates: a byte of scratchpad, or a guest-physical byte of the partition that holds it
(R211, R411). -/
def State.locOf (s : State) (a : Access) : Option Loc :=
  match a.loc with
  | some l => some l
  | none =>
    match s.stage1 a.view a.addr false with
    | .ok gpa =>
      let r := s.reach (s.partOfCtx a.ctx) gpa
      some (.glob r.part r.gpa)
    | .error _ => none

/-- Home package of a location. -/
def State.homeOfLoc (s : State) : Loc → Option Nat
  | .pad c _ => some c.pkg
  | .glob p gpa => (s.part p).bind fun x => (x.homing.homeOf gpa).map (·.1.pkg)

/-- Home package of an access, when it is known. -/
def State.homeOfAcc (s : State) (a : Access) : Option Nat := (s.locOf a).bind s.homeOfLoc

/-- Two ranges of one space overlap. -/
def rangesMeet (a n b m : Nat) : Bool := a < b + m && b < a + n

/-- The locations of two accesses overlap (R214). -/
def State.overlap (s : State) (a b : Access) : Bool :=
  match s.locOf a, s.locOf b with
  | some (.pad c x), some (.pad d y) => c = d && rangesMeet x a.size y b.size
  | some (.glob p x), some (.glob q y) => p = q && rangesMeet x a.size y b.size
  | none, _ | _, none => a.global && b.global && a.ctx = b.ctx && rangesMeet a.addr a.size b.addr b.size
  | _, _ => false

/-! ## The order of performance -/

/-- The two accesses serve a common thread. -/
def Access.share (a b : Access) : Bool := a.owners.any b.owners.contains

/-- An access that is neither performed nor refused: a refused one is never performed, and nothing waits for it (R203, R206). -/
def Access.pendingStill (a : Access) : Bool := a.got.isNone && a.state ≠ .refused

/-- An access that is a read or write of a location, in the order of streams and homes. -/
def Access.plain (a : Access) : Bool := a.kind ≠ .jadd && a.kind ≠ .jrd && a.kind ≠ .probe

/-- The access asks to write: stores, every atomic, a counter's addition and the writes of engines need WR (R402). -/
def Access.writes (a : Access) : Bool :=
  match a.kind with
  | .store | .payload | .signal | .jadd | .atomic _ | .engine => true
  | .probe => a.data ≠ 0
  | _ => false

/-- Window length of a partition on a package, 0 when windowed visibility is off (R230). -/
def State.windowLen (s : State) (c : CtxId) (pkg : Nat) : Nat := ((s.share (s.partOfCtx c) pkg).map (·.window)).getD 0

/-- The L1 line that a load hits: a read-only copy serves only in the window it was filled in (R198, R231). -/
def State.hitLine (s : State) (a : Access) : Option L1Line :=
  match s.l1Line a.core a.ctx a.addr with
  | none => none
  | some l =>
    let len := s.windowLen a.ctx a.core.pkg
    match l.copy with
    | some (w, _) => if len ≠ 0 && w = s.clkw / len then some l else none
    | none => some l

/-- The miss of an access that goes through translation (R205); a load that hits its core's L1 needs none (R199). -/
def State.accessMiss (s : State) (a : Access) : Option Miss :=
  if !a.global || (a.kind = .load && a.cp ≠ 3 && (s.hitLine a).isSome) then none
  else
    match s.translate a.view a.addr a.writes with
    | .error m => some m
    | .ok _ => none

/-- The access goes through the network to its home: an atomic of memory, a counter access, and every remote-home access (R239, R330). -/
def State.travels (s : State) (a : Access) : Bool :=
  a.global && a.kind ≠ .probe && a.kind ≠ .cflush &&
    (match a.kind with
     | .atomic _ | .signal | .jadd | .jrd => true
     | _ => (s.homeOfAcc a).any (· ≠ a.core.pkg))

/-- A thread's earlier access b keeps its later access a from being performed without any fence: overlap (R214), one stream
at home (R215), one remote home (R218), the release of a JADD or a barrier arrival (R332, R343), the acquire of a JRD (R332), a signal's
payload (R226). One on its way to a home keeps back no later request to that home, which follows it on its path (R240, R242). An
access whose home is not known yet keeps back all that may have to follow it (R206). -/
def State.precedes (s : State) (b a : Access) : Bool :=
  let here := a.core.pkg
  let ha := s.homeOfAcc a
  let hb := s.homeOfAcc b
  let localA := ha.all (· = here)
  let localB := hb.all (· = here)
  let remote := match ha, hb with
    | some x, some y => x = y && x ≠ here
    | none, some y => y ≠ here
    | some x, none => x ≠ here
    | none, none => true
  let sentBefore := b.state = .sent && s.travels a && ha = hb
  a.kind = .jadd || a.kind = .atomic .arrive || b.kind = .jrd ||
    (a.plain && b.plain && !sentBefore && (s.overlap a b || (a.strm = b.strm && localA && localB) || remote)) ||
    (a.kind = .signal && b.kind = .payload && b.seq + 1 = a.seq)

/-- An earlier access that a later one of its thread must follow has not passed both translation stages: one of its stream, or at
its address, whatever the homes (R206). One on its way to its home passes stage 2 there, where an access that goes after it on the same path
meets it. -/
def State.untranslated (s : State) (b a : Access) : Bool :=
  a.plain && b.plain && (a.strm = b.strm || s.overlap a b) &&
    (if b.state = .sent then !(s.travels a && s.homeOfAcc a = s.homeOfAcc b) else (s.accessMiss b).isSome)

/-- The access is held by a fence of one of the threads it serves (R221). -/
def State.heldByFence (s : State) (a : Access) : Bool :=
  a.owners.any fun t => (s.thread t).any fun th =>
    th.fences.any fun f => f.seq < a.seq && f.y.getLsbD a.strm

/-- A fence of a thread that both serve separates an earlier access from a later one (R206, R221). -/
def State.fenceBetween (s : State) (b a : Access) : Bool :=
  a.owners.any fun t => b.owners.contains t && (s.thread t).any fun th =>
    th.fences.any fun f => b.seq < f.seq && f.seq < a.seq && f.x.getLsbD b.strm && f.y.getLsbD a.strm &&
      (6 ≤ f.scope || (s.homeOfAcc b).all (· = b.core.pkg))

/-- Accesses that have issued and are not performed yet, wherever their team is. -/
def State.unperformed (s : State) : List Nat :=
  (s.accs.filter Access.pendingStill).map (·.seq) ++
    s.ctxs.flatMap fun (_, x) =>
      x.susp.flatMap (fun p => (p.saved.elems.filter Access.pendingStill).map (·.seq)) ++
        (x.saved.map fun v => v.teams.flatMap fun t => (t.elems.filter Access.pendingStill).map (·.seq)).getD []

/-- A held write of the thread's guarded task that the access must follow has not passed both translation stages (R206, R387). -/
def State.heldMiss (s : State) (a : Access) : Bool :=
  a.plain && ((a.owners.map (·.team)).eraseDups.any fun t => (s.heldOf t).any fun h =>
    h.seq < a.seq && h.share a && (h.strm = a.strm || s.overlap h a) && (s.accessMiss h).isSome)

/-- An access of a common thread that a later one must follow is not performed yet (R202, R206, R214 to R226). -/
def State.keepsBack (s : State) (b a : Access) : Bool :=
  b.seq < a.seq && b.pendingStill && b.share a &&
    (s.precedes b a || s.untranslated b a || (a.replay && b.replay && b.state ≠ .sent))

/-- Every access that this one must follow has been performed, and no fence holds it (R206, R214 to R226); the elements of a restored
team are performed in the order in which each thread issued them (R202). -/
def State.mayPerform (s : State) (a : Access) : Bool :=
  !s.heldByFence a && !s.heldMiss a && a.after.all (fun n => !(s.unperformed.contains n)) &&
    s.accs.all fun b => !s.keepsBack b a

/-- A fence's earlier accesses in X are performed; remote-home ones count only at partition and pod scope (R221). -/
def State.fenceDone (s : State) (t : ThreadId) (f : Fence) : Bool :=
  s.accs.all fun b => !(b.seq < f.seq && b.pendingStill && b.owners.contains t && f.x.getLsbD b.strm && b.kind ≠ .probe &&
    (6 ≤ f.scope || (s.homeOfAcc b).all (· = b.core.pkg)))

/-! ## Issuing -/

/-- The parts of an access that its instruction fixes. -/
def newAccess (s : State) (id : ThreadId) (kind : AccKind) (space : Nat) (a : Int) (size : Nat) (loc : Option Loc) : Access :=
  { seq := 0, kind := kind, owners := [id], ctx := (s.ctxOf id.team).getD ⟨⟨0, 0⟩, 0⟩, core := id.team.core, space := space,
    addr := addr64 a, size := size, data := 0, data2 := 0, dst := 124, g := 0, tag := 0, sext := false, strm := 0, scope := 0,
    cp := 0, loc := loc, held := false, replay := false, state := .waiting, reqs := [], got := none, word := 0, rcv := [],
    born := s.clkw, after := none, base := s.words.1, extw := s.words.2 }

/-- An access enters the outstanding accesses with the next number; one that serves several teams keeps a number for the part of each. -/
def State.addAccess (s : State) (a : Access) : State :=
  let parts := ((a.owners.map (·.team)).eraseDups).length
  { s with seq := s.seq + max 1 parts, accs := s.accs ++ [{ a with seq := s.seq }] }

/-- An access of the outstanding ones changed. -/
def State.updAccess (s : State) (seq : Nat) (f : Access → Access) : State :=
  { s with accs := s.accs.map fun a => if a.seq = seq then f a else a }

/-- An outstanding access. -/
def State.access (s : State) (seq : Nat) : Option Access := s.accs.find? (·.seq = seq)

/-- An access leaves the outstanding ones. -/
def State.dropAccess (s : State) (seq : Nat) : State := { s with accs := s.accs.filter (·.seq ≠ seq) }

/-- LDN raised and the destination group pending in each thread (R48, R49). -/
def State.startLoad (s : State) (ts : List ThreadId) (d g : Nat) : State :=
  s.updThreads ts fun t => { (t.setPend d g) with ldn := t.ldn + 1 }

/-- STN raised in each thread (R49). -/
def State.startStore (s : State) (ts : List ThreadId) : State := s.updThreads ts fun t => { t with stn := t.stn + 1 }

/-- Free 64-byte entries of a core's store buffer (R387). -/
def State.storeRoom (s : State) (c : CoreId) : Nat :=
  let used := (s.teams.filter fun (i, _) => i.core = c).foldl (fun n (_, tm) => n + tm.held.length) 0
  (Config.poolBytes - (s.core c).poolb2.toNat) / 64 - used

/-- A write of a guarded task enters the store buffer (R387). -/
def State.holdAccess (s : State) (t : TeamId) (a : Access) : State :=
  let (s, n) := s.fresh
  s.updTeam t fun tm => { tm with held := tm.held ++ [{ a with seq := n, held := true }] }

/-- What issuing one thread's access came to: issued, trapped, or left at the same PC (parked, or waiting for a commit). -/
inductive IssueRes where
  | ok (s : State)
  | trap (r : Raise)
  | wait (s : State)

/-- The threads of a group issue one after another in ascending tidx; each goes on alone (R44, R49). -/
def issueEach (words : Nat) (g : BitVec 5) (gn : Bool) (opds : List Opd) (act : ThreadId → Thread → State → IssueRes) :
    List ThreadId → State × List (ThreadId × Raise) → State × List (ThreadId × Raise)
  | [], acc => acc
  | id :: ids, (s, rs) =>
    match s.thread id with
    | none => issueEach words g gn opds act ids (s, rs)
    | some t =>
      if t.guard g gn then
        match regCheck t opds with
        | some r => issueEach words g gn opds act ids (s, rs ++ [(id, r)])
        | none =>
          match act id t s with
          | .ok s => issueEach words g gn opds act ids (s.updThread id fun t => t.step words, rs)
          | .trap r => issueEach words g gn opds act ids (s, rs ++ [(id, r)])
          | .wait s => issueEach words g gn opds act ids (s, rs)
      else issueEach words g gn opds act ids (s.updThread id fun t => t.step words, rs)

/-- A lane memory instruction's guard, step-1 verdict and register operands. -/
structure MemDef where
  g : BitVec 5
  gn : Bool
  ok : Bool
  opds : List Opd

/-- Step 1 of Table 6 of 02_formats. -/
def MemDef.legal (m : MemDef) : Bool := guardOk m.g m.gn && m.ok && m.opds.all Opd.legal

/-- A lane memory instruction: step 1 in every gathered thread, then each thread on its own; traps are taken at the end. -/
def runMem (m : MemDef) (act : ThreadId → Thread → State → IssueRes) (s : State) : Out :=
  if !m.legal then .next s.illegal
  else
    let (s, rs) := issueEach 2 m.g m.gn m.opds act s.gathered.ids (s, [])
    .next (s.raises rs)

/-- A thread that waits for room in a counter. -/
def State.waitRoom (s : State) (id : ThreadId) (ldn stn : Bool) : State :=
  s.updThread id fun t => { t with park := .room ldn stn false false }

/-! ## Scratchpads and full/empty lines (R189 to R191) -/

/-- Guarded teams among the owners record a written line (R387). -/
def State.noteLine (s : State) (owners : List ThreadId) (c : CoreId) (off : Nat) : State :=
  { s with teams := tmap s.teams fun i tm =>
      if tm.guarded && owners.any (·.team = i) && !tm.wlines.contains (c, off / 128) then
        { tm with wlines := tm.wlines ++ [(c, off / 128)] }
      else tm }

/-- Bytes written to a scratchpad; a written byte holds no error any more. -/
def State.padWrite (s : State) (c : CoreId) (off n v : Nat) : State :=
  (s.heal (Upset.onPad c off n)).updCore c fun k => { k with scratch := memWrite k.scratch off n v }

/-- A loaded value as its register form (R183, Table 1). -/
def Access.value (a : Access) (v : Nat) : Nat := if a.sext then wrap (sgn v (8 * a.size)) 32 else v

/-- The threads that receive an access's value: for a counter access those named by `rcv` (R332), else all it serves. -/
def Access.takers (a : Access) : List ThreadId :=
  match a.kind with
  | .jadd | .jrd => a.rcv
  | _ => a.owners

/-- A load's data written to every thread it serves, and LDN lowered (R185, R188). -/
def State.finishLoad (s : State) (a : Access) (v : Nat) : State :=
  s.updThreads a.takers fun t => { (t.writeReg a.dst a.g (a.value v) a.tag.toNat) with ldn := t.ldn - 1 }

/-- The scratchpad place of the LDFE that a thread is parked at on a line. -/
def Thread.ldfeOn (t : Thread) (c : CoreId) (line : Nat) : Option (Access × Nat) :=
  match t.park with
  | .ldfe a =>
    match a.loc with
    | some (.pad c' off) => if c' = c ∧ off / 128 = line then some (a, off) else none
    | _ => none
  | _ => none

/-- A line turns full: every LDFE parked on it reads in the same action and its thread goes on (R190); one that reads an
uncorrectable error writes nothing, and its thread is told (R382). -/
def State.lineFull (s : State) (c : CoreId) (line : Nat) : State :=
  let s := s.updCore c fun k => { k with empty := k.empty.filter (· ≠ line) }
  let pad := (s.core c).scratch
  let lost := s.threads.filterMap fun (_, t) => (t.ldfeOn c line).bind fun (a, off) => if s.badPad c off a.size then some a.ctx.vf else none
  let s := lost.foldl (fun s v => s.countVf v (errCounter 2)) s
  s.mapThreads fun _ t =>
    match t.ldfeOn c line with
    | none => t
    | some (a, off) =>
      if s.badPad c off a.size then { (t.step 2) with park := .ready, deferred := t.deferred ++ [⟨0x21, 2, a.addr, none, true⟩] }
      else { ((t.writeReg a.dst a.g (memRead pad off a.size) a.tag.toNat).step 2) with park := .ready }

/-! ## Memory -/

/-- The lines that a core's L1 holds of an address as read-only copies leave when a thread of the core stores there or performs an
atomic (R231). -/
def State.dropCopies (s : State) (c : CtxId) (core : CoreId) (va : Nat) : State :=
  match s.l1Line core c va with
  | some l =>
    if l.copy.isSome then s.updCore core fun k => { k with l1 := k.l1.filter fun x => !(x.copy.isSome && x.key = l.key) } else s
  | none => s

/-- The team's held writes that a load sees, oldest first (R214, R387): all of the team's but the thread's own later ones. -/
def State.forwards (s : State) (a : Access) : List Access :=
  a.owners.head?.elim [] fun id =>
    sortBy (fun a b => a.seq ≤ b.seq) ((s.heldOf id.team).filter fun h => !(a.seq < h.seq && h.share a))

/-- The bytes that held writes leave at their guest-physical places, oldest write first: a store its data, an atomic the new
value of its word (R214, R387). -/
def State.heldCells (s : State) : List Access → Tbl (Nat × Nat) Byte → Tbl (Nat × Nat) Byte
  | [], cells => cells
  | h :: hs, cells =>
    match s.locOf h with
    | some (.glob q y) =>
      let under := match s.translate h.view h.addr false with
        | .ok p => memBytes s.mem p.key h.size
        | .error _ => []
      let old := bytesToNat ((List.range h.size).map fun i => (tget cells (q, y + i)).getD (under.getD i 0))
      let v := match h.kind with
        | .atomic op => netNew op h.size old h.data h.data2
        | _ => h.data
      s.heldCells hs ((List.range h.size).foldl (fun cells i => tset cells (q, y + i) (BitVec.ofNat 8 (v / 2 ^ (8 * i)))) cells)
    | _ => s.heldCells hs cells

/-- The bytes that a global load reads: memory under the held writes it sees. -/
def State.globalBytes (s : State) (a : Access) (base : List Byte) : Nat :=
  let cells := s.heldCells (s.forwards a) []
  bytesToNat ((List.range a.size).map fun i =>
    match s.locOf { a with addr := a.addr + i, size := 1 } with
    | some (.glob p x) => (tget cells (p, x)).getD (base.getD i 0)
    | _ => base.getD i 0)

/-- An uncorrectable error that an access met is counted, where its VF's partition owns the resource (R379). -/
def State.countRead (s : State) (a : Access) (src : Nat) : State :=
  match s.stage1 a.view a.addr false with
  | .ok gpa => s.countBad a.ctx gpa src
  | .error _ => s.countBad a.ctx 0 src

/-- The trap of a thread whose data has an uncorrectable error (R382): pending bits cleared, nothing written; the error is
counted (R379). -/
def State.poisoned (s : State) (a : Access) (src : Nat) : State :=
  (s.countRead a src).updThreads a.takers fun t =>
    { (t.clearPend a.dst a.g) with
      ldn := t.ldn - 1, deferred := t.deferred ++ [⟨0x21, src, a.addr, none, true⟩] }

/-- The bytes of a read at a line that the L1 holds, and the source of an error in those of them that memory holds. -/
def State.lineRead (s : State) (l : L1Line) (off n : Nat) : List Byte × Option Nat :=
  let clean := l.copy.isNone && (rangeFrom off n).any fun i => !(l.dirty.any (·.off = i))
  ((rangeFrom off n).map (s.lineByte l), if clean then s.badMem l.part (l.gpa + off) (l.key + off) n else none)

/-- A global load performed at its core's package: from the L1 line it hits, which needs no translation unless it allocates
nothing, or from memory, filling a line, when what its quad holds dirty of it under another tag has been written back (R198 to R200, R212). Its bytes and an error's source; or the miss of its translation. A
remote-home address that no copy serves is read at its home (R239). -/
def State.readLocal (s : State) (a : Access) : Except Miss (State × List Byte × Option Nat) :=
  match s.hitLine a with
  | some l =>
    match if a.cp = 3 then s.accessMiss a else none with
    | some m => .error m
    | none =>
      let (bs, bad) := s.lineRead l (a.addr % 128) a.size
      .ok (s.updCore a.core fun k => k.touch l, bs, bad)
  | none =>
    match s.translate a.view a.addr false with
    | .error m => .error m
    | .ok p =>
      let s' := (s.noteTlb a.view a.addr).useLine a.core a.ctx a.addr a.cp p
      .ok (s', memBytes s'.mem p.key a.size, s'.badMem (s'.partOfCtx a.ctx) p.gpa p.key a.size)

/-- A load performed: its value, or the source of the uncorrectable error in its data; or the miss of its translation. -/
def State.loadValue (s : State) (a : Access) : Except Miss (State × Except Nat Nat) :=
  match a.loc with
  | some (.pad c off) =>
    .ok (s, if s.badPad c off a.size then .error 2 else .ok (memRead (s.core c).scratch off a.size))
  | _ =>
    match s.readLocal a with
    | .error m => .error m
    | .ok (t, bs, bad) =>
      match bad with
      | some src => .ok (t, .error src)
      | none => .ok (t, .ok (s.globalBytes a bs))

/-- A local-home store performed where Table 1 says: at team, block and core scope in its core's L1, when that holds or takes the
line; else in memory (R198, R212). A PUTSIG's payload goes to memory at every scope, for whoever reads the signal sees it (R226; log
entry 76). -/
def State.writeLocal (s : State) (a : Access) (p : Place) : State :=
  let s := s.noteTlb a.view a.addr
  let s := s.useLine a.core a.ctx a.addr a.cp p
  match if a.scope < 3 && a.kind ≠ .payload then s.l1Line a.core a.ctx a.addr else none with
  | some l => s.updCore a.core fun k => k.updLine l fun x => x.write (a.addr % 128) a.size a.data ⟨a.seq, a.owners, a.strm⟩
  | none => ((s.l2Use (s.partOfCtx a.ctx) p.gpa p.key a.cp true).memStore p.key a.size a.data).passL1 a.core p.key a.size

/-- A store performed at its core's package (R212, R387); the miss of its translation otherwise. -/
def State.storeValue (s : State) (a : Access) : Except Miss State :=
  match a.loc with
  | some (.pad c off) => .ok ((s.padWrite c off a.size a.data).noteLine a.owners c off)
  | _ =>
    match s.translate a.view a.addr true with
    | .error m => .error m
    | .ok p => .ok (s.writeLocal a p)

/-- What a fence at quad scope or wider covers of a thread's stores is written to memory when the fence is satisfied (R212, R221). -/
def State.exposeFence (s : State) (t : ThreadId) (f : Fence) : State :=
  if f.scope < 3 then s else s.expose t.team.core fun d => d.owners.contains t && d.seq < f.seq && f.x.getLsbD d.strm

/-! ## Page faults (R201) -/

/-- A team stops because an access faulted (R201 step 2). -/
def State.stopFaulting (s : State) (t : TeamId) : State :=
  s.updTeam t fun tm => match tm.stop with
    | .running | .replaying | .sliced _ => { tm with stop := .faulting }
    | _ => tm

/-- The parts of a uniform access that several teams keep, each its threads' own (R386; log entry 84): the given team its whole effect, the
others, which follow it, their threads' counters and values. -/
def Access.parts (a : Access) (t : TeamId) : List Access :=
  match ((a.owners.map (·.team)).eraseDups).filter (· ≠ t) with
  | [] => [a]
  | ts => ((t :: ts).zipIdx).map fun (t, i) =>
      let own := fun l : List ThreadId => l.filter (·.team = t)
      let b := { a with seq := a.seq + i, owners := own a.owners, rcv := own a.rcv }
      if i = 0 then b
      else
        match a.kind with
        | .store => { b with size := 0, after := some a.seq }
        | .jadd => { b with data := 0, after := some a.seq }
        | _ => b

/-- The later accesses of a team that R206 orders after a faulted or withheld one are withheld (R201): those of its stream, at its
address, separated from it by a fence that covers both, behind it in a replay, or that must follow it by another rule; in ascending number.
What other teams have in such an access stays with them. -/
def markWithheld (s : State) (t : TeamId) : List Access → State
  | [] => s
  | a :: as =>
    let behind := s.accs.any fun b => b.seq < a.seq && (b.state = .faulted || b.state = .withheld) && b.share a &&
      (s.precedes b a || s.untranslated b a || s.fenceBetween b a || (a.replay && b.replay))
    let hold := fun b : Access => if b.seq = a.seq then
        (a.parts t).map fun p => if p.seq = a.seq then { p with state := .withheld } else p
      else [b]
    let s := if a.ofTeam t && a.state = .waiting && a.got.isNone && behind then { s with accs := s.accs.flatMap hold } else s
    markWithheld s t as

/-- A request without the contributions that a fault holds back; they become requests of their own on replay (R252). -/
def State.trimReq (s : State) (r : Req) : Req :=
  let on := r.leaves.filter fun l => (s.access l.1).any fun a => a.state ≠ .faulted && a.state ≠ .withheld
  { r with leaves := on, x := netFold r.op r.size (on.map (·.2.1)) }

/-- The requests at their cores without held contributions; one with none left is gone. -/
def State.trimFlights (s : State) : State :=
  let trim := fun f : Flight => if f.at_ = .core then { f with req := s.trimReq f.req } else f
  { s with flights := (s.flights.map trim).filter fun f => !f.req.leaves.isEmpty }

/-- An access is marked faulted, those behind it withheld, and its teams stop (R201 steps 1 and 2). -/
def State.faultAccess (s : State) (a : Access) : State :=
  let first := (a.owners.head?.map (·.team)).getD ⟨a.core, 0⟩
  let s := { s with accs := s.accs.flatMap fun b => if b.seq = a.seq then { a with state := .faulted }.parts first else [b] }
  (((a.owners.map (·.team)).eraseDups).foldl (fun s t => (markWithheld s t s.accs).stopFaulting t) s).trimFlights

/-- An instruction's own translation misses: a faulted element without an effect stands for it, and the instruction issues
afresh on resume (R455). -/
def State.probeFault (s : State) (owners : List ThreadId) (va : Nat) (write : Bool) : State :=
  match owners with
  | [] => s
  | id :: _ =>
    let n := s.seq
    let s := s.addAccess { newAccess s id .probe 0 va 1 none with owners := owners, data := b2n write }
    match s.access n with
    | some a => s.faultAccess a
    | none => s

/-! ## Commits (R388, R389) -/

/-- What an access asks of its home. -/
def Access.netOp (a : Access) : NetOp :=
  match a.kind with
  | .atomic op => op
  | .load => .read
  | .store | .payload | .engine => .write
  | .jadd => .jadd
  | .jrd => .jrd
  | _ => .add

/-- The request of an access and of those that combine with it, in the order given (R241). Its location and home are settled when it
leaves the core. -/
def State.requestOf (s : State) (rid grp : Nat) (a : Access) (as : List Access) : Req :=
  { rid := rid, grp := grp, gpa := 0, op := a.netOp, loc := a.loc.getD (.glob 0 0), size := a.size,
    x := netFold a.netOp a.size ((a :: as).map (·.data)), y := a.data2, src := a.core.pkg, home := 0,
    leaves := (a :: as).map fun a => (a.seq, a.data, a.data2), part := s.partOfCtx a.ctx, ctx := a.ctx, waits := [] }

/-- A request formed at a core from the contributions of accesses (R241). -/
def State.addFlight (s : State) (grp : Nat) (as : List Access) : State :=
  match as with
  | [] => s
  | a :: as =>
    let (s, rid) := s.fresh
    { s with flights := s.flights ++ [⟨s.requestOf rid grp a as, .core, 0, 0, false⟩] }

/-- A held write that the commit does not perform at once becomes an ordinary outstanding access: one that takes the path to its home, one
behind an earlier write, one that does not translate. -/
def State.unhold (s : State) (a : Access) : State :=
  let a := { a with held := false }
  let s := { s with accs := s.accs ++ [a] }
  match a.kind with
  | .atomic _ => s.addFlight a.seq [a]
  | _ => s

/-- Performs held writes in the order in which they were held, each in its own stream (R239, R388). -/
def performHeld (s : State) : List Access → State
  | [] => s
  | a :: as =>
    if s.travels a || !s.mayPerform a then performHeld (s.unhold a) as
    else
      match s.storeValue a with
      | .error _ => performHeld (s.unhold a) as
      | .ok s => performHeld (if a.kind = .payload || a.kind = .engine then s else s.lowerStn a.owners) as

/-- The scratchpad lines and tiles that a team has written, as they stand. -/
def State.writtenLines (s : State) (tm : Team) : List ((CoreId × Nat) × List Byte) :=
  tm.wlines.map fun (c, l) => ((c, l), memBytes (s.core c).scratch (128 * l) 128)

/-- The saved form of a team (R385). -/
def State.saveTeam (s : State) (t : TeamId) (tm : Team) (elems : List Access) : SavedTeam :=
  { id := t, team := tm, threads := (s.members t).map fun (i, th) => (i.lane, th), elems := elems }

/-- A saved team whose held writes are performed with the save: STN is 0 in its threads (R385, R388). A recovery trap that is pending at a
commit is handled by the rollback that follows, once: the snapshot does not hold it (log entry 48). -/
def SavedTeam.settled (v : SavedTeam) : SavedTeam :=
  { v with threads := v.threads.map fun x =>
      (x.1, { x.2 with stn := 0, deferred := x.2.deferred.filter fun r => !recoveryCause r.cause }) }

end Sys2Proof.Machine
end

