-- ==== Sys2Proof/Machine/Memory.lean ====
section
/-! DEFINITION. Loads, stores, uniform accesses, PUTSIG, prefetch and flush (08_memory R183 to R194; 09_ordering R225, R226),
and the steps in which accesses are performed. -/
namespace Sys2Proof.Machine

/-! ## Issuing loads and stores -/

/-- The scope field of an access after clamping (R22). -/
def State.accScope (s : State) (id : ThreadId) (f : LM) : State × Nat :=
  match s.ctxOf id.team with
  | some c => s.clamp c id.team.core f.scope.toNat
  | none => (s, f.scope.toNat)

/-- The access of an M-format instruction by one thread at a checked address. -/
def memAccess (s : State) (id : ThreadId) (f : LM) (scope : Nat) (kind : AccKind) (a : Int) (size : Nat) (loc : Option Loc) :
    Access :=
  { newAccess s id kind f.space.toNat a size loc with strm := f.strm.toNat, scope := scope, cp := f.cp.toNat }

/-- A lane load of `size` bytes into `g` registers with a tag (R185). -/
def issueLoad (f : LM) (idx : Bool) (size g tag : Nat) (sext : Bool) (id : ThreadId) (t : Thread) (s : State) : IssueRes :=
  let a := memAddr f idx (s.env id) t (s.frameOf id)
  match s.place id f.space.toNat a size true with
  | .error r => .trap r
  | .ok loc =>
    if 63 ≤ t.ldn then .wait (s.waitRoom id true false)
    else
      let (s, sc) := s.accScope id f
      let acc := { memAccess s id f sc .load a size loc with
        dst := f.d.toNat, g := g, tag := BitVec.ofNat 4 tag, sext := sext }
      .ok ((s.addAccess acc).startLoad [id] f.d.toNat g)

/-- Form of a lane load (R183, R184): `idx` is false for LDT, whose IX is the tag. -/
def loadMem (f : LM) (ws : List Nat) (ok idx : Bool) (g : Nat) : MemDef :=
  { g := f.g, gn := f.gn, ok := wIn f.toL1 ws && memFieldsOk f idx && ok,
    opds := [memBase f] ++ (if idx then memIndex f else []) ++ [⟨.dst g, f.d.toNat⟩] }

/-- Form of LDT (R184): SC is 0 and IX a tag. -/
def ldtMem (f : LM) : MemDef := loadMem f [0, 1, 2, 3] (f.ix.toNat < 13 && f.sc = 0) false (gsz f.w)

/-- A lane load (R183, R184). -/
def runLoad (m : MemDef) (f : LM) (idx : Bool) (size g tag : Nat) (sext : Bool) (s : State) : Out :=
  runMem m (issueLoad f idx size g tag sext) s

/-- LDB (R183). -/
def execLdb (f : LM) (s : State) : Out := runLoad (loadMem f [0] true true 1) f true 1 1 0 true s
/-- LDBU (R183). -/
def execLdbu (f : LM) (s : State) : Out := runLoad (loadMem f [0] true true 1) f true 1 1 0 false s
/-- LDH (R183). -/
def execLdh (f : LM) (s : State) : Out := runLoad (loadMem f [0] true true 1) f true 2 1 0 true s
/-- LDHU (R183). -/
def execLdhu (f : LM) (s : State) : Out := runLoad (loadMem f [0] true true 1) f true 2 1 0 false s
/-- LDW (R183). -/
def execLdw (f : LM) (s : State) : Out :=
  runLoad (loadMem f [0, 1, 2, 3] true true (gsz f.w)) f true (4 * gsz f.w) (gsz f.w) 0 false s
/-- LDT (R183, R184): IX is the tag written, SC is 0. -/
def execLdt (f : LM) (s : State) : Out :=
  runLoad (ldtMem f) f false (4 * gsz f.w) (gsz f.w) f.ix.toNat false s

/-- LDFE in one thread (R190): on a full line the value is fixed at issue; on an empty one the thread parks. A read that
the order of accesses does not allow yet waits at the instruction. -/
def issueLdfe (f : LM) (id : ThreadId) (t : Thread) (s : State) : IssueRes :=
  let g := gsz f.w
  let a := memAddr f true (s.env id) t (s.frameOf id)
  match s.place id f.space.toNat a (4 * g) true with
  | .error r => .trap r
  | .ok loc =>
    if 63 ≤ t.ldn then .wait (s.waitRoom id true false)
    else
      let (s, sc) := s.accScope id f
      let acc := { memAccess s id f sc .load a (4 * g) loc with seq := s.seq, dst := f.d.toNat, g := g }
      match loc with
      | some (.pad c off) =>
        if !s.mayPerform acc then .wait (s.updThread id fun t => { t with park := .ordered (.access acc) })
        else if (s.core c).empty.contains (off / 128) then .wait (s.updThread id fun t => { t with park := .ldfe acc })
        else
          let v := memRead (s.core c).scratch off (4 * g)
          let bad : W32 := if s.badPad c off (4 * g) then 3 else 0
          .ok ((s.addAccess { acc with got := some v, word := bad }).startLoad [id] f.d.toNat g)
      | _ => .trap (trapR 0x10 0 (addr64 a))

/-- SPACE 1 or 2 (R183, R186). -/
def localSpace (f : LM) : Bool := f.space = 1 || f.space = 2

/-- LDFE (R190). -/
def execLdfe (f : LM) (s : State) : Out := runMem (loadMem f [0, 1, 2, 3] (localSpace f) true (gsz f.w)) (issueLdfe f) s

/-- A store enters the outstanding accesses, or the store buffer when its task is guarded (R187, R387, R388). -/
def State.putStore (s : State) (id : ThreadId) (t : Thread) (owners : List ThreadId) (acc : Access) : IssueRes :=
  if acc.global && (s.team id.team).any Team.guarded then
    if 63 ≤ t.stn then .wait (s.commitFirst id.team)
    else if s.storeRoom id.team.core = 0 then
      .wait (if !(s.heldOf id.team).isEmpty then s.commitFirst id.team else s.waitRoom id false true)
    else .ok ((s.holdAccess id.team acc).startStore owners)
  else if 63 ≤ t.stn then .wait (s.waitRoom id false true)
  else .ok ((s.addAccess acc).startStore owners)

/-- A lane store in one thread (R186, R187); its data is read at issue. -/
def issueStore (f : LM) (kind : AccKind) (size : Nat) (id : ThreadId) (t : Thread) (s : State) : IssueRes :=
  let a := memAddr f true (s.env id) t (s.frameOf id)
  match s.place id f.space.toNat a size true with
  | .error r => .trap r
  | .ok loc =>
    let (s, sc) := s.accScope id f
    let data := t.readReg (s.env id) f.d.toNat (gsz f.w) % 2 ^ (8 * size)
    s.putStore id t [id] { memAccess s id f sc kind a size loc with data := data }

/-- Form of a lane store (R186). -/
def storeMem (f : LM) (ws : List Nat) (ok : Bool) : MemDef :=
  { g := f.g, gn := f.gn, ok := wIn f.toL1 ws && memFieldsOk f true && ok,
    opds := [memBase f] ++ memIndex f ++ [⟨.src (gsz f.w), f.d.toNat⟩] }

/-- STB (R186). -/
def execStb (f : LM) (s : State) : Out := runMem (storeMem f [0] true) (issueStore f .store 1) s
/-- STH (R186). -/
def execSth (f : LM) (s : State) : Out := runMem (storeMem f [0] true) (issueStore f .store 2) s
/-- STW (R186). -/
def execStw (f : LM) (s : State) : Out := runMem (storeMem f [0, 1, 2, 3] true) (issueStore f .store (4 * gsz f.w)) s
/-- STFE (R186, R191). -/
def execStfe (f : LM) (s : State) : Out :=
  runMem (storeMem f [0, 1, 2, 3] (localSpace f)) (issueStore f .stfe (4 * gsz f.w)) s

/-- The line of a location. -/
def lineLoc : Loc → Loc
  | .pad c off => .pad c (off / 128 * 128)
  | .glob p gpa => .glob p (gpa / 128 * 128)

/-- STE in one thread: the bounds apply to the address alone (R186). -/
def issueSte (f : LM) (id : ThreadId) (t : Thread) (s : State) : IssueRes :=
  let a := memAddr f true (s.env id) t (s.frameOf id)
  match s.place id f.space.toNat a 1 false with
  | .error r => .trap r
  | .ok loc =>
    if 63 ≤ t.stn then .wait (s.waitRoom id false true)
    else
      let (s, sc) := s.accScope id f
      .ok ((s.addAccess (memAccess s id f sc .ste a 128 (loc.map lineLoc))).startStore [id])

/-- Form of an instruction on the line of an address, without data (R186, R193, R194). -/
def lineMem (f : LM) (ok : Bool) : MemDef :=
  { g := f.g, gn := f.gn, ok := wIn f.toL1 [0] && memFieldsOk f true && ok && f.d = 0, opds := [memBase f] ++ memIndex f }

/-- STE (R186, R191). -/
def execSte (f : LM) (s : State) : Out := runMem (lineMem f (localSpace f)) (issueSte f) s

/-- SPACE 0 or 3. -/
def globalSpace (f : LM) : Bool := f.space = 0 || f.space = 3

/-- A read-only copy of a remote line fills, in windowed visibility (R231). -/
def State.fillCopy (s : State) (c : CtxId) (core : CoreId) (va cp : Nat) (p : Place) : State :=
  let len := s.windowLen c core.pkg
  if len = 0 then s
  else
    let l := s.newLine c va p (some (s.clkw / len, memBytes s.mem (p.key / 128 * 128) 128))
    (s.dropLines core fun x => x.same l).fillLine core cp l

/-- A local-home line placed in its L2 slice and in a core's L1 under a policy (R193): the keep policy, which allocates in L1 only, is read
as normal for the slice (log entry 101). -/
def State.prefLine (s : State) (core : CoreId) (c : CtxId) (va cp : Nat) (p : Place) : State :=
  (s.useLine core c va cp p).l2Use (s.partOfCtx c) p.gpa p.key (if cp = 1 then 1 else 0) false

/-- PREF in one thread (R193): the line is placed in its L2 slice and, under its policy, in the core's L1. A non-canonical address, a miss at either stage and
a remote home outside windowed visibility drop it. -/
def issuePref (f : LM) (id : ThreadId) (t : Thread) (s : State) : IssueRes :=
  let a := memAddr f true (s.env id) t (s.frameOf id)
  if !canonical a 1 then .ok s
  else
    let c := (s.ctxOf id.team).getD ⟨⟨0, 0⟩, 0⟩
    let core := id.team.core
    let v := viewAt c core
    match s.translate v (addr64 a) false with
    | .error _ => .ok s
    | .ok p =>
      let s := s.noteTlb v (addr64 a)
      .ok (if p.home ≠ core.pkg then s.fillCopy c core (addr64 a) f.cp.toNat p
        else if f.cp = 3 then s.l2Use (s.partOfCtx c) p.gpa p.key 0 false
        else s.prefLine core c (addr64 a) f.cp.toNat p)

/-- PREF (R193): it never traps at step 7 and changes no value a program reads. -/
def execPref (f : LM) (s : State) : Out :=
  runMem (lineMem f (globalSpace f)) (issuePref f) s

/-- A held write of a thread's guarded task that a store of its own would follow: in its stream or at its bytes (R214, R215, R387). -/
def State.heldBefore (s : State) (id : ThreadId) (a : Access) : Bool :=
  (s.heldOf id.team).any fun h => h.owners.contains id && (h.strm = a.strm || s.overlap h a)

/-- CFLUSH in one thread: ordered as a store of its line, no counter; in a guarded task it waits for the commit of the held writes that it
must follow (R194, R387). -/
def issueCflush (f : LM) (id : ThreadId) (t : Thread) (s : State) : IssueRes :=
  let a := memAddr f true (s.env id) t (s.frameOf id)
  match s.place id f.space.toNat a 1 false with
  | .error r => .trap r
  | .ok _ =>
    let (s', sc) := s.accScope id f
    let acc := memAccess s id f sc .cflush (a / 128 * 128) 128 none
    if s.heldBefore id acc then .wait (s.commitFirst id.team) else .ok (s'.addAccess acc)

/-- CFLUSH (R194). -/
def execCflush (f : LM) (s : State) : Out :=
  runMem (lineMem f (globalSpace f)) (issueCflush f) s

/-! ## PUTSIG (R225, R226) -/

/-- Both accesses of a PUTSIG are local-home (R387). -/
def State.putsigLocal (s : State) (p sg : Access) : Bool :=
  s.homeOfAcc p = some p.core.pkg && s.homeOfAcc sg = some p.core.pkg

/-- PUTSIG in one thread: payload, then signal, checked in that order; held as two writes in a guarded task when local-home,
irrevocable when remote-home (R226, R387, R388). -/
def issuePutsig (f : LM) (id : ThreadId) (t : Thread) (s : State) : IssueRes :=
  let g := gsz f.w
  let a := (t.readReg (s.env id) f.a.toNat 2 : Int) + sgn f.off.toNat 11
  let sa : Int := t.readReg (s.env id) f.ix.toNat 2
  match s.place id 0 a (4 * g) true, s.place id 0 sa 4 true with
  | .error r, _ => .trap r
  | _, .error r => .trap r
  | .ok _, .ok _ =>
    let (s, sc) := s.accScope id f
    let p := { memAccess s id f sc .payload a (4 * g) none with data := t.readReg (s.env id) f.d.toNat g }
    let sg := { memAccess s id f sc .signal sa 4 none with data := 1 }
    if (s.team id.team).any Team.guarded then
      if s.putsigLocal p sg then
        if 63 ≤ t.stn then .wait (s.commitFirst id.team)
        else if s.storeRoom id.team.core < 2 then
          .wait (if !(s.heldOf id.team).isEmpty then s.commitFirst id.team else s.waitRoom id false true)
        else .ok (((s.holdAccess id.team p).holdAccess id.team { sg with kind := .atomic .add }).startStore [id])
      else if s.mustCommit id.team then .wait (s.commitFirst id.team)
      else if 63 ≤ t.stn then .wait (s.waitRoom id false true)
      else .ok ((((s.addAccess p).addAccess sg).startStore [id]).commitAfter id.team)
    else if 63 ≤ t.stn then .wait (s.waitRoom id false true)
    else .ok (((s.addAccess p).addAccess sg).startStore [id])

/-- Form of PUTSIG (R225). -/
def putsigMem (f : LM) : MemDef :=
  { g := f.g, gn := f.gn, ok := f.space = 0 && f.sc = 0,
    opds := [⟨.src 2, f.a.toNat⟩, ⟨.src 2, f.ix.toNat⟩, ⟨.src (gsz f.w), f.d.toNat⟩] }

/-- PUTSIG (R225). -/
def execPutsig (f : LM) (s : State) : Out := runMem (putsigMem f) (issuePutsig f) s

/-! ## Uniform loads and stores (R188) -/

/-- Every thread of a group has room in the counter it raises (R49). -/
def State.roomAll (s : State) (ts : List ThreadId) (ctr : Thread → Nat) : Bool :=
  ts.all fun i => (s.thread i).all fun t => ctr t < 63

/-- A group waits whole, before it issues, for room in a counter (R49). -/
def State.groupStalls (s : State) (ts : List ThreadId) (ldn stn cpn : Bool) : UniRes :=
  .stay (s.updThreads ts fun t => { t with park := .whole ldn stn cpn false })

/-- A group parks by its instruction's own rule. -/
def State.groupWaits (s : State) (ts : List ThreadId) (p : Park) : UniRes :=
  .parked (s.updThreads ts fun t => { t with park := p })

/-- Form of ULDW and ULDT (R188). -/
def uloadUni (f : LM) (ok idx : Bool) : UniDef :=
  { g := f.g, gn := f.gn, ok := memFieldsOk f idx && ok, words := 2,
    srcs := memBase f :: (if idx then memIndex f else []), dsts := [⟨.dst (gsz f.w), f.d.toNat⟩] }

/-- Form of ULDT (R184, R188). -/
def uldtUni (f : LM) : UniDef := uloadUni f (f.ix.toNat < 13 && f.sc = 0) false

/-- ULDW and ULDT: one read for the group (R188). -/
def runUload (u : UniDef) (f : LM) (idx : Bool) (tag : Nat) (s : State) : Out :=
  let w := gsz f.w
  runUniform u s fun g s =>
      let a := memAddr f idx g.env g.lt (s.frameOf g.leader)
      match s.place g.leader f.space.toNat a (4 * w) true with
      | .error r => .trap s r
      | .ok loc =>
        if !s.roomAll g.rcv (·.ldn) then s.groupStalls g.all true false false
        else
          let (s, sc) := s.accScope g.leader f
          let acc := { memAccess s g.leader f sc .load a (4 * w) loc with
            owners := g.rcv, dst := f.d.toNat, g := w, tag := BitVec.ofNat 4 tag }
          .done (((s.addAccess acc).startLoad g.rcv f.d.toNat w).stepAll g.rcv 2)

/-- ULDW (R188). -/
def execUldw (f : LM) (s : State) : Out := runUload (uloadUni f true true) f true 0 s
/-- ULDT (R184, R188). -/
def execUldt (f : LM) (s : State) : Out := runUload (uldtUni f) f false f.ix.toNat s

/-- Form of USTW (R188). -/
def ustwUni (f : LM) : UniDef :=
  { g := f.g, gn := f.gn, ok := memFieldsOk f true, words := 2,
    srcs := [memBase f] ++ memIndex f ++ [⟨.src (gsz f.w), f.d.toNat⟩], dsts := [] }

/-- The thread for whose task a write of a group is held: the first of a guarded team, else its leader (R387; log entry 33). -/
def State.holder (s : State) (g : UniGroup) : ThreadId := (g.all.find? fun i => (s.team i.team).any Team.guarded).getD g.leader

/-- USTW: one write of the leader's data for the group (R188). -/
def execUstw (f : LM) (s : State) : Out :=
  let w := gsz f.w
  runUniform (ustwUni f) s fun g s =>
      let a := memAddr f true g.env g.lt (s.frameOf g.leader)
      match s.place g.leader f.space.toNat a (4 * w) true with
      | .error r => .trap s r
      | .ok loc =>
        let id := s.holder g
        if !s.roomAll g.all (·.stn) then
          if globalSpace f && (s.team id.team).any Team.guarded then .stay (s.commitFirst id.team) else s.groupStalls g.all false true false
        else
          let (s, sc) := s.accScope g.leader f
          let acc := { memAccess s g.leader f sc .store a (4 * w) loc with
            owners := g.all, data := g.lt.readReg g.env f.d.toNat w }
          match s.putStore id { g.lt with stn := 0 } g.all acc with
          | .ok s => .done (s.stepAll g.all 2)
          | .wait s => .stay s
          | .trap r => .trap s r

/-! ## Accesses performed -/

/-- The SPACE 2 access goes to the core of a gang member that has taken a fatal fault since it issued (R181). -/
def State.lostPeer (s : State) (a : Access) : Bool :=
  a.space = 2 && (a.owners.head?.bind fun i => s.gangPeer i (fld a.addr 21 2)).any s.blockLost

/-- An access to a lost peer ends without its effect, and its threads raise PEER_LOST (R181, R382). -/
def State.endLost (s : State) (a : Access) : State :=
  let s := if a.dst ≠ 124 || a.kind = .load then
      s.updThreads a.takers fun t => { (t.clearPend a.dst a.g) with ldn := t.ldn - 1 }
    else s.lowerStn a.owners
  (s.updThreads a.owners fun t => { t with deferred := t.deferred ++ [⟨0x17, fld a.addr 21 2, a.addr, none, true⟩] }).dropAccess a.seq

/-- No earlier access of its threads to its bytes is still to be performed: a load may be served by a read-only copy (R214, R231). -/
def State.mayHit (s : State) (a : Access) : Bool :=
  s.accs.all fun b => !(b.seq < a.seq && b.pendingStill && b.share a && s.overlap a b)

/-- A load is performed at its core's package: its address is local-home, or a read-only copy serves it (R212, R231). -/
def State.readsHere (s : State) (a : Access) : Bool := !s.travels a || ((s.hitLine a).any (·.copy.isSome) && s.mayHit a)

/-- The value of a load that has its data: a reply from its home under the held writes of the task that the load sees (R214, R387). -/
def State.replied (s : State) (a : Access) (v : Nat) : Nat :=
  if a.global && a.state = .sent then s.globalBytes a (natToBytes a.size v) else v

/-- LOAD_DATA_RETURN (R185, R188): a load that may be performed here reads, or the reply from its home is back, and its data reaches its
threads. -/
def execLoadDataReturn (a : Nat) (s : State) : Out :=
  match s.access a with
  | none => .next s
  | some x =>
    if x.kind ≠ .load || (x.state ≠ .waiting && x.state ≠ .sent) then .next s
    else
      match x.got with
      | some v => .next ((if x.word = 0 then s.finishLoad x (s.replied x v) else s.poisoned x (x.word.toNat - 1)).dropAccess a)
      | none =>
        if x.state = .sent || !s.mayPerform x || !s.readsHere x then .next s
        else if s.lostPeer x then .next (s.endLost x)
        else
          match s.loadValue x with
          | .error _ => .next s
          | .ok (s, .ok v) => .next ((s.finishLoad x v).dropAccess a)
          | .ok (s, .error src) => .next ((s.poisoned x src).dropAccess a)

/-- The line of a CFLUSH is written back from its core's L1 and invalidated there, and at package scope or wider also in its L2 slice
(R194). -/
def State.flushLine (s : State) (a : Access) : State :=
  let s := match s.l1Line a.core a.ctx a.addr with
    | some l => s.dropLines a.core (·.same l)
    | none => s
  if a.scope < 5 then s
  else
    match s.translate a.view a.addr false with
    | .error _ => s
    | .ok p =>
      match s.l2Home (s.partOfCtx a.ctx) p.gpa p.key with
      | some l => s.l2DropAll (·.same l)
      | none => s

/-- A store whose write is done: STN falls; a payload leaves its STN to the signal, an engine's held write has none. -/
def State.storeDone (s : State) (x : Access) : State :=
  (match x.kind with
   | .payload | .engine => s
   | _ => s.lowerStn x.owners).dropAccess x.seq

/-- A write of a guarded task that a page fault took out of the store buffer is held again when it translates (R202, R387). -/
def State.holdAgain (s : State) (x : Access) : State :=
  match x.owners with
  | [] => s
  | id :: _ =>
    if x.state ≠ .waiting || !s.mayPerform x || (s.accessMiss x).isSome then s
    else (s.dropAccess x.seq).updTeam id.team fun tm => { tm with
      held := (tm.held.filter (·.seq < x.seq)) ++ x :: tm.held.filter fun h => x.seq < h.seq }

/-- STORE_PERFORMED (R187, R191, R194, R212, R226): a store that may be performed here writes, or the acknowledgement from its home is
back, and STN falls; a flush has no counter. -/
def execStorePerformed (a : Nat) (s : State) : Out :=
  match s.access a with
  | none => .next s
  | some x =>
    match x.kind, x.got with
    | .store, some _ | .payload, some _ | .engine, some _ => .next (s.storeDone x)
    | _, _ =>
      if x.held then .next (s.holdAgain x)
      else if x.state ≠ .waiting || !s.mayPerform x || s.travels x then .next s
      else if s.lostPeer x then .next (s.endLost x)
      else
        match x.kind, x.loc with
        | .store, _ | .payload, _ | .engine, _ =>
          match s.storeValue x with
          | .error _ => .next s
          | .ok s => .next (s.storeDone x)
        | .stfe, some (.pad c off) =>
          let s := (s.padWrite c off x.size x.data).noteLine x.owners c off
          .next ((s.lineFull c (off / 128)).storeDone x)
        | .ste, some (.pad c off) =>
          let mark := fun k : Core => if k.empty.contains (off / 128) then k else { k with empty := k.empty ++ [off / 128] }
          .next ((s.updCore c mark).storeDone x)
        | .cflush, _ => .next ((s.flushLine x).dropAccess a)
        | .probe, _ => if (s.accessMiss x).isSome then .next s else .next (s.dropAccess a)
        | _, _ => .next s

end Sys2Proof.Machine
end

