-- ==== Sys2Proof/Machine/Atomics.lean ====
section
/-! DEFINITION. Atomics and the Millrace network (10_combining R238 to R258): forming requests at a core, the race and weir
stages with their queues and ponds, the home, and the reply. -/
namespace Sys2Proof.Machine

/-! ## The atomic instructions (R253 to R257) -/

/-- The operand group that IX names (R253, Table 2). -/
def atOperand (op : NetOp) (f : LM) : List Opd :=
  match op with
  | .ld => []
  | .cas => [⟨.src (2 * gsz f.w), f.ix.toNat⟩]
  | _ => [⟨.src (gsz f.w), f.ix.toNat⟩]

/-- Step 1 of an atomic (R257). -/
def atOk (op : NetOp) (f : LM) : Bool :=
  f.space.toNat < 4 && f.sc = 0 && wIn f.toL1 (if op = .fadd then [0] else [0, 1]) &&
    (if op = .ld then f.ix = 124 else f.ix ≠ 124 && f.ix ≠ 126 && (op ≠ .cas || f.ix.toNat < 120))

/-- The request goes past the core and back with a value, or is remote: irrevocable in a guarded task (R388). An atomic
whose home is not known counts as remote. -/
def State.irrevocableAt (s : State) (a : Access) : Bool :=
  a.dst ≠ 124 || (a.global && s.homeOfAcc a ≠ some a.core.pkg)

/-- An atomic in one thread (R254, R387, R388). -/
def issueAtomic (op : NetOp) (f : LM) (id : ThreadId) (t : Thread) (s : State) : IssueRes :=
  let g := gsz f.w
  let e := s.env id
  if op = .fadd && t.tagOf f.ix.toNat ≠ 1 then .trap (trapR 0x04 f.ix.toNat 0)
  else
    let a := memAddr f false e t (s.frameOf id)
    match s.place id f.space.toNat a (4 * g) true with
    | .error r => .trap r
    | .ok loc =>
      let (s, sc) := s.accScope id f
      let ret := f.d ≠ 124
      let acc := { memAccess s id f sc (.atomic op) a (4 * g) loc with
        data := if op = .ld then 0 else t.readReg e f.ix.toNat g
        data2 := if op = .cas then t.readReg e (f.ix.toNat + g) g else 0
        dst := f.d.toNat, g := g, tag := if op = .fadd then 1 else 0 }
      let full := if ret then 63 ≤ t.ldn else 63 ≤ t.stn
      let put := fun s : State =>
        let s := if acc.global then s.dropCopies acc.ctx acc.core acc.addr else s
        if ret then (s.addAccess acc).startLoad [id] f.d.toNat g else (s.addAccess acc).startStore [id]
      if (s.team id.team).any Team.guarded && s.irrevocableAt acc then
        if s.mustCommit id.team then .wait (s.commitFirst id.team)
        else if full then .wait (s.waitRoom id ret (!ret))
        else .ok ((put s).commitAfter id.team)
      else if !ret && acc.global && (s.team id.team).any Team.guarded then s.putStore id t [id] acc
      else if full then .wait (s.waitRoom id ret (!ret))
      else .ok (put s)

/-- The new accesses of one issue as requests of one group: threads with equal addresses form one request, except for CAS
(R241). -/
def State.combineLanes (s : State) (op : NetOp) (grp : Nat) : Nat → List Access → State
  | 0, _ => s
  | _, [] => s
  | n + 1, a :: as =>
    let same := fun b : Access => op ≠ .cas && b.addr = a.addr && b.space = a.space && b.loc = a.loc
    (s.addFlight grp (a :: as.filter same)).combineLanes op grp n (as.filter fun b => !same b)

/-- Form of a lane atomic (R253, R257). -/
def atMem (op : NetOp) (f : LM) : MemDef :=
  { g := f.g, gn := f.gn, ok := atOk op f, opds := [memBase f] ++ atOperand op f ++ [⟨.dstZ (gsz f.w), f.d.toNat⟩] }

/-- A lane atomic (R241, R254). -/
def runAtomic (op : NetOp) (f : LM) (s : State) : Out :=
  let start := s.seq
  match runMem (atMem op f) (issueAtomic op f) s with
  | .next t =>
    let new := t.accs.filter fun a => start ≤ a.seq && (match a.kind with
      | .atomic _ => true
      | _ => false)
    .next (t.combineLanes op start 32 new)
  | o => o

/-- ATADD (R253). -/
def execAtadd (f : LM) (s : State) : Out := runAtomic .add f s
/-- ATAND (R253). -/
def execAtand (f : LM) (s : State) : Out := runAtomic .and f s
/-- ATOR (R253). -/
def execAtor (f : LM) (s : State) : Out := runAtomic .or f s
/-- ATXOR (R253). -/
def execAtxor (f : LM) (s : State) : Out := runAtomic .xor f s
/-- ATMAX (R253). -/
def execAtmax (f : LM) (s : State) : Out := runAtomic .max f s
/-- ATMIN (R253). -/
def execAtmin (f : LM) (s : State) : Out := runAtomic .min f s
/-- ATMAXU (R253). -/
def execAtmaxu (f : LM) (s : State) : Out := runAtomic .maxu f s
/-- ATMINU (R253). -/
def execAtminu (f : LM) (s : State) : Out := runAtomic .minu f s
/-- ATSWP (R253). -/
def execAtswp (f : LM) (s : State) : Out := runAtomic .swp f s
/-- ATLD (R256). -/
def execAtld (f : LM) (s : State) : Out := runAtomic .ld f s
/-- ATFADD (R251, R256). -/
def execAtfadd (f : LM) (s : State) : Out := runAtomic .fadd f s
/-- ATCAS (R255). -/
def execAtcas (f : LM) (s : State) : Out := runAtomic .cas f s

/-! ## Contributions -/

/-- A barrier word's state as one number: count, phase, expected count (R342). -/
def barPack (count phase expect : Nat) : Nat := count + 2 ^ 32 * phase + 2 ^ 64 * expect

/-- One arrival at a barrier word (R342): the count rises, and a full phase takes the expected number away. -/
def barArrive (v : Nat) : Nat :=
  let count := (fld v 0 32 + 1) % 2 ^ 32
  let expect := fld v 64 32
  let need := if expect = 0 then 1 else expect
  if need ≤ count then barPack (count - need) ((fld v 32 32 + 1) % 2 ^ 32) expect else barPack count (fld v 32 32) expect

/-- Several arrivals one by one. -/
def barArrives : Nat → Nat → Nat
  | 0, v => v
  | n + 1, v => barArrives n (barArrive v)

/-- Operand that a stage forwards for its contributions; arrivals are counted. -/
def forwarded (op : NetOp) (size : Nat) (xs : List Nat) : Nat :=
  if op = .arrive then xs.foldl (· + ·) 0 else netFold op size xs

/-- Value for the contribution behind `before`. -/
def given (op : NetOp) (size v : Nat) (before : List Nat) : Nat :=
  if op = .arrive then barArrives (before.foldl (· + ·) 0) v else netGive op size v before

/-- The values of the contributions of a list, each behind those before it. -/
def givenAll (op : NetOp) (size v : Nat) : List Nat → List Nat → List Nat
  | _, [] => []
  | before, x :: xs => given op size v before :: givenAll op size v (before ++ [x]) xs

/-! ## Leaving the core (R241) -/

/-- A request as it stands in flight. -/
def State.flight (s : State) (rid : Nat) : Option Flight := s.flights.find? (·.req.rid = rid)

/-- A flight removed. -/
def State.dropFlight (s : State) (rid : Nat) : State := { s with flights := s.flights.filter (·.req.rid ≠ rid) }

/-- A flight set on its way behind the others. -/
def State.send (s : State) (f : Flight) : State := { s with flights := s.flights ++ [f] }

/-- The port that leads from a package to a row or column peer (R18). -/
def linkPort (here there : Nat) : Option Nat :=
  let r := rowOf here
  let c := colOf here
  let r' := rowOf there
  let c' := colOf there
  if r = r' && c ≠ c' then some (if c' < c then c' else c' - 1)
  else if c = c' && r ≠ r' then some (if r' < r then 15 + r' else 14 + r')
  else none

/-- A request crosses from a package to another over a port that is not idle, or stays on its package (R18, R20). -/
def State.linked (s : State) (here there : Nat) : Bool := here = there || (s.hasPkg there && (linkPort here there).isSome)

/-- Race stage on the path from a package to a home (R20). -/
def racePkg (src home : Nat) : Nat := 16 * rowOf src + colOf home

/-- Values handed to the accesses of a request. -/
def State.deliverLeaves (s : State) (r : Req) (v : Nat) : State :=
  let vs := givenAll r.op r.size v [] (r.leaves.map fun l => l.2.1)
  (r.leaves.zip vs).foldl (fun s (l, v) => s.updAccess l.1 fun a => { a with got := some v }) s

/-- A request that would read an uncorrectable error is performed for none of its contributions, and each is marked with the
error's source (R382). -/
def State.spoilLeaves (s : State) (r : Req) (src : Nat) : State :=
  r.leaves.foldl (fun s l => s.updAccess l.1 fun a => { a with word := w32 (src + 1) }) s

/-- The accesses of a request's contributions. -/
def State.leafAccs (s : State) (r : Req) : List Access := r.leaves.filterMap fun l => s.access l.1

/-- A request performed at a scratchpad (R238, R258); one to a peer that has been lost is performed for none of its threads (R181). -/
def State.performPad (s : State) (r : Req) (c : CoreId) (off : Nat) : State :=
  let old := memRead (s.core c).scratch off r.size
  let owners := (s.leafAccs r).flatMap (·.owners)
  if (s.leafAccs r).any s.lostPeer then (s.leafAccs r).foldl (fun s a => s.endLost a) s
  else if s.badPad c off r.size then (s.spoilLeaves r 2).deliverLeaves r 0
  else
    let s := if r.op = .ld then s else
      (s.padWrite c off r.size (netNew r.op r.size old r.x r.y)).noteLine owners c off
    s.deliverLeaves r old

/-- Every contribution of a request may be performed, and the earlier requests of its issue have left (R241). -/
def State.mayLeave (s : State) (r : Req) : Bool :=
  (r.leaves.all fun l => (s.access l.1).any fun a => a.state = .waiting && s.mayPerform a) &&
    ((s.flights.filter fun f => f.at_ = .core && f.req.grp = r.grp).head?.all (·.req.rid = r.rid))

/-- What a release at partition scope covers of its threads' stores in the L1 is written to memory (R217, R332, R343). -/
def State.exposeBefore (s : State) (a : Access) : State :=
  s.expose a.core fun d => d.seq < a.seq && d.owners.any a.owners.contains

/-- A request leaves for its race stage, or is performed at its scratchpad; it stays when its address does not translate. What its core's
L1 holds dirty of the line goes to memory before it (R214). -/
def State.leaveCore (s : State) (r : Req) : State :=
  match r.loc with
  | .pad c off => (s.performPad r c off).dropFlight r.rid
  | .glob _ _ =>
    match (s.leafAccs r).head? with
    | none => s.dropFlight r.rid
    | some a =>
      match s.translate a.view a.addr a.writes with
      | .error _ => s
      | .ok p =>
        let part := s.partOfCtx a.ctx
        let real := s.reach part p.gpa
        let s := (s.noteTlb a.view a.addr).exposeKey a.core p.key
        let s := if a.kind = .jadd || a.kind = .atomic .arrive then s.exposeBefore a else s
        let s := r.leaves.foldl (fun s l => s.updAccess l.1 fun a => { a with state := .sent }) s
        (s.dropFlight r.rid).send
          ⟨{ r with loc := .glob real.part real.gpa, gpa := p.gpa, home := p.home, part := part }, .toRace, colOf r.src, 0, false⟩

/-- An access on its own becomes a request and leaves its core. -/
def State.launchAccess (s : State) (x : Access) : State :=
  let (s, rid) := s.fresh
  s.leaveCore (s.requestOf rid x.seq x [])

/-- An access that no request carries yet goes to its remote home on its own: a load, a store or a counter access (R239). -/
def State.goesAlone (s : State) (x : Access) : Bool :=
  x.state = .waiting && x.got.isNone && s.travels x && s.mayPerform x &&
    (match x.kind, s.translate x.view x.addr x.writes with
     | .load, .ok _ | .store, .ok _ | .payload, .ok _ | .engine, .ok _ | .jadd, .ok _ | .jrd, .ok _ => true
     | _, _ => false)

/-- REQUEST_LEAVE_CORE (R239, R241). -/
def execRequestLeaveCore (r : Nat) (s : State) : Out :=
  match s.flight r with
  | some f => if f.at_ = .core && s.mayLeave f.req then .next (s.leaveCore f.req) else .next s
  | none =>
    match s.access r with
    | some x => if s.goesAlone x then .next (s.launchAccess x) else .next s
    | none => .next s

/-- PUTSIG_SIGNAL (R226): once its payload is performed, the signal's addition is sent as a no-return request. -/
def execPutsigSignal (a : Nat) (s : State) : Out :=
  match s.access a with
  | none => .next s
  | some x =>
    if x.kind ≠ .signal || x.state ≠ .waiting || x.got.isSome || !s.mayPerform x || (s.accessMiss x).isSome then .next s
    else .next (s.launchAccess x)

/-! ## Stages (R240 to R245) -/

/-- The stage of a package in one of the two tables. -/
def stageOf (t : Tbl Nat Stage) (pkg : Nat) : Stage := (tget t pkg).getD ⟨[], []⟩

/-- A stage changed; an empty one is not listed. -/
def setStage (t : Tbl Nat Stage) (pkg : Nat) (st : Stage) : Tbl Nat Stage :=
  if st.queue.isEmpty && st.pond.isEmpty then tdel t pkg else tset t pkg st

/-- Pond entries of a stage that are free (R244). -/
def Stage.room (st : Stage) : Nat := Config.pondEntries - st.pond.length - (st.queue.filter (·.pond)).length

/-- A waiting request may absorb an arrival on a port, `behind` standing behind it in the stage (R242). Requests for one word stand in one
output queue. -/
def absorbs (st : Stage) (q : QEntry) (behind : List QEntry) (x : Req) (port : Nat) : Bool :=
  q.req.op = x.op && netMerges x.op && q.req.size = x.size && q.req.loc = x.loc && q.kids.length < 8 &&
    (q.pond || 0 < st.room) && behind.all fun b => !(b.out = q.out && b.ports.contains port)

/-- The arrival absorbed by the eligible entry nearest the head; none when no entry is eligible (R242, R245). -/
def absorb (st : Stage) (x : Req) (port : Nat) : List QEntry → Option (List QEntry)
  | [] => none
  | q :: qs =>
    if absorbs st q qs x port then
      some ({ q with kids := q.kids ++ [(x.rid, x.x)], ports := q.ports ++ [port], pond := true,
                     kidReqs := q.kidReqs ++ [x] } :: qs)
    else (absorb st x port qs).map (q :: ·)

/-- An arrival at a stage: absorbed, or a request of its own at the tail of its output queue (R240, R242). -/
def Stage.arrive (st : Stage) (x : Req) (port out : Nat) : Stage :=
  match absorb st x port st.queue with
  | some q => { st with queue := q }
  | none => { st with queue := st.queue ++ [⟨x, out, [(x.rid, x.x)], [port], false, [x]⟩] }

/-- Output queue of a weir stage for a request: its L2 slice, or, where the partition owns none on the home's die, the memory
controller, numbered from 64 on (R240, R396). -/
def State.weirOut (s : State) (r : Req) : Nat :=
  match s.sliceOf r.part r.gpa with
  | some i => i
  | none => 64 + ((s.homeOf r.part r.gpa).map fun h => h.1.stack / 2).getD 0

/-- The flight is the first that its sender has sent to the stage (R240). -/
def State.firstOnPort (s : State) (f : Flight) (pkg : Nat) : Bool :=
  (s.flights.find? fun g => g.at_ = f.at_ && g.port = f.port &&
    (if f.at_ = .toRace then racePkg g.req.src g.req.home else g.req.home) = pkg).any fun g => g.req.rid = f.req.rid

/-- STAGE_ARRIVAL (R240, R242, R244, R245). -/
def execStageArrival (r : Nat) (s : State) : Out :=
  match s.flight r with
  | none => .next s
  | some f =>
    match f.at_ with
    | .toRace =>
      let p := racePkg f.req.src f.req.home
      if s.linked f.req.src p && s.firstOnPort f p then
        let s := s.dropFlight r
        .next { s with races := setStage s.races p ((stageOf s.races p).arrive f.req f.port f.req.home) }
      else .next s
    | .toWeir =>
      let p := f.req.home
      if s.linked (racePkg f.req.src p) p && s.firstOnPort f p then
        let s := s.dropFlight r
        .next { s with weirs := setStage s.weirs p ((stageOf s.weirs p).arrive f.req f.port (s.weirOut f.req)) }
      else .next s
    | _ => .next s

/-- An entry may depart: it heads its output queue, and nothing ahead of it came on one of its ports (R240, R242, R249). -/
def departs (rid : Nat) : List QEntry → List QEntry → Option QEntry
  | _, [] => none
  | ahead, q :: qs =>
    if q.req.rid = rid then
      if ahead.any fun b => b.out = q.out || b.ports.any q.ports.contains then none else some q
    else departs rid (ahead ++ [q]) qs

/-- The request that a queue entry sends on: the combined operand, and every contribution's leaves (R246, R247). -/
def QEntry.forward (q : QEntry) : Req :=
  { q.req with x := forwarded q.req.op q.req.size (q.kids.map (·.2)), leaves := q.kidReqs.flatMap (·.leaves) }

/-- A stage after the departure of an entry: a merged one leaves its split record in the pond (R244). -/
def Stage.depart (st : Stage) (q : QEntry) : Stage :=
  { queue := st.queue.filter (·.req.rid ≠ q.req.rid)
    pond := if q.kids.length < 2 then st.pond
      else st.pond ++ [⟨q.req.rid, q.req.op, q.req.size, q.kids, q.kidReqs⟩] }

/-- STAGE_DEPART (R242, R244). -/
def execStageDepart (r : Nat) (s : State) : Out :=
  match s.races.find? fun (_, st) => (departs r [] st.queue).isSome with
  | some (p, st) =>
    match departs r [] st.queue with
    | some q => .next ({ s with races := setStage s.races p (st.depart q) }.send ⟨q.forward, .toWeir, rowOf p, 0, false⟩)
    | none => .next s
  | none =>
    match s.weirs.find? fun (_, st) => (departs r [] st.queue).isSome with
    | some (p, st) =>
      match departs r [] st.queue with
      | some q => .next ({ s with weirs := setStage s.weirs p (st.depart q) }.send ⟨q.forward, .toHome, 0, 0, false⟩)
      | none => .next s
    | none => .next s

/-! ## The reply (R247, R252) -/

/-- An access waits as a request of its own, when it is an atomic. -/
def State.ownFlight (s : State) (a : Access) : State :=
  match a.kind with
  | .atomic _ => s.addFlight a.seq [a]
  | _ => s

/-- A faulted contribution's access waits again, an atomic as a request of its own (R252). -/
def State.faultLeaves (s : State) (r : Req) : State :=
  (s.leafAccs r).foldl (fun s a => (s.updAccess a.seq fun a => { a with state := .waiting }).ownFlight a) s

/-- The replies of the contributions that a stage split off. -/
def splitReplies (f : Flight) (sp : Split) : List Flight :=
  let vs := givenAll sp.op sp.size f.value [] (sp.kids.map (·.2))
  (sp.kidReqs.zip vs).map fun (k, v) => ⟨k, f.at_, 0, v, f.faulted⟩

/-- The replies that go on from a stage: the split of its record, which frees the entry, or the reply itself. -/
def replies (st : Stage) (f : Flight) : Stage × List Flight :=
  match st.pond.find? (·.rid = f.req.rid) with
  | some sp => ({ st with pond := st.pond.filter (·.rid ≠ f.req.rid) }, splitReplies f sp)
  | none => (st, [f])

/-- REPLY_SPLIT (R247, R252): at the weir stage, then at the race stage, from where the values reach the cores. -/
def execReplySplit (r : Nat) (s : State) : Out :=
  match s.flight r with
  | none => .next s
  | some f =>
    match f.at_ with
    | .backWeir =>
      let (st, fs) := replies (stageOf s.weirs f.req.home) f
      let s := { s.dropFlight r with weirs := setStage s.weirs f.req.home st }
      .next (fs.foldl (fun s g => s.send { g with at_ := .backRace }) s)
    | .backRace =>
      let p := racePkg f.req.src f.req.home
      let (st, fs) := replies (stageOf s.races p) f
      let s := { s.dropFlight r with races := setStage s.races p st }
      .next (fs.foldl (fun s g => if g.faulted then s.faultLeaves g.req else s.deliverLeaves g.req g.value) s)
    | _ => .next s

/-- An atomic whose value is back: the thread's register written and LDN lowered, or STN lowered (R254). -/
def State.returnAtomic (s : State) (a : Access) (v : Nat) : State :=
  (if a.dst = 124 then s.lowerStn a.owners
   else if a.word = 0 then s.finishLoad a v
   else s.poisoned a (a.word.toNat - 1)).dropAccess a.seq

end Sys2Proof.Machine
end

