-- ==== Sys2Proof/Machine/Faults.lean ====
section
/-! DEFINITION. Page faults of teams: suspension, the fault frame, replies, resume and replay (08_memory R201 to R206;
17_partitions R409), fresh starts (13_tasks R333; 16_system R381) and deferred traps (16_system R383). -/
namespace Sys2Proof.Machine

/-! ## Suspended teams -/

/-- Owners of a team renamed to another team. -/
def renameIds (o n : TeamId) (l : List ThreadId) : List ThreadId := l.map fun i => if i.team = o then ⟨n, i.lane⟩ else i

/-- The work of engines and gates that a team has in flight, and the stores that stand in its core's L1, follow the team when it moves
(R202, R212, R354). -/
def State.renameTeam (s : State) (o n : TeamId) : State :=
  let gate := fun r : GateReq => { r with owners := renameIds o n r.owners }
  let fill := fun f : Fill => { f with issuers := renameIds o n f.issuers }
  let s := { s with gateReqs := s.gateReqs.map gate, fills := s.fills.map fill }
  let copy := fun c : Copy => { c with issuers := renameIds o n c.issuers }
  let mat := fun m : MatCmd => { m with team := if m.team = o then n else m.team, issuers := renameIds o n m.issuers }
  let launch := fun l : Launch => { l with team := if l.team = o then n else l.team, owners := renameIds o n l.owners }
  let writer := fun w : Writer => { w with owners := renameIds o n w.owners }
  let dirty := fun d : Dirty => { d with by_ := d.by_.map writer }
  let line := fun l : L1Line => { l with dirty := l.dirty.map dirty }
  s.updCore o.core fun k => { k with
    copies := k.copies.map copy, mq := k.mq.map mat, launch := k.launch.map launch, l1 := k.l1.map line }

/-- The header reads that a suspended team's OVLDs wait for are given up for its threads: the OVLD issues afresh on resume (R366). -/
def State.dropOvld (s : State) (t : TeamId) : State :=
  let stay := fun f : Fill => match f.ovld with
    | none => some f
    | some (ids, d) =>
      let ids := ids.filter (·.team ≠ t)
      if ids.isEmpty then none else some { f with ovld := some (ids, d), issuers := f.issuers.filter (·.team ≠ t) }
  { s with fills := s.fills.filterMap stay }

/-- The name under which a suspended team's work in flight is kept: no slot of the core has such a number (R17). -/
def heldTeam (core : CoreId) (key : Nat) : TeamId := ⟨core, 64 + key⟩

/-- A thread's counter changed where it stands, in its slot or in its fault frame. -/
def State.settleThreads (s : State) (ids : List ThreadId) (f : Thread → Thread) : State :=
  let s := s.updThreads ids f
  if ids.all (·.team.slot < 64) then s
  else { s with ctxs := tmap s.ctxs fun _ x => { x with susp := x.susp.map fun p =>
    { p with saved := { p.saved with threads := p.saved.threads.map fun (l, t) =>
        (l, if ids.any (fun i => i.team.slot = 64 + p.key && i.lane = l) then f t else t) } } } }

/-- CPN and MXN lowered in the threads that issued a copy or matrix command (R269, R302). -/
def State.lowerCpn (s : State) (ids : List ThreadId) : State := s.settleThreads ids fun t => { t with cpn := t.cpn - 1 }
def State.lowerMxn (s : State) (ids : List ThreadId) : State := s.settleThreads ids fun t => { t with mxn := t.mxn - 1 }

/-- What a parked thread waits for after a restore: a barrier wait or a gate reply stays, everything else issues its
instruction afresh (R123, R191, R224, R343, R367, R384). -/
def resumePark : Park → Park
  | .bar b p => .bar b p
  | .barWord a p => .barWord a p
  | .gate r => .gate r
  | _ => .ready

/-- A saved thread as it goes on. -/
def Thread.restored (t : Thread) : Thread := { t with park := resumePark t.park }

/-- Threads that were on their way into a handler, to ENTRY or to a resolved PC start that way again (R370). -/
def State.rejoin (s : State) (t : TeamId) (saved : SavedTeam) : State :=
  match s.blockOf t with
  | none => s
  | some b => saved.threads.foldl (fun s (l, th) =>
      match th.park with
      | .fill _ _ (.handler _) => s.reachEntry ⟨t, l⟩ b.handler.toNat .handler
      | .fill _ _ (.entry _) => s.reachEntry ⟨t, l⟩ b.entry.toNat .entry
      | .fill _ _ (.offset i tok off) => s.goTo ⟨t, l⟩ i tok off
      | _ => s) s

/-- A saved team takes a slot: threads, team state and unperformed elements come back, which each thread replays in its order of issue
(R202, R385). A barrier arrival issues afresh once its word translates (R455). -/
def State.restoreTeam (s : State) (t : TeamId) (saved : SavedTeam) (stop : TeamStop) : State :=
  let block := ((s.team t).map (·.block)).getD saved.team.block
  let s := { s with teams := tset s.teams t { saved.team with block := block, stop := stop } }
  let others := s.threads.filter fun (i, _) => i.team ≠ t
  let back : Tbl ThreadId Thread := saved.threads.map fun (l, th) => (⟨t, l⟩, th.restored)
  let s := { s with threads := others ++ back }
  let elems := saved.elems.map fun a =>
    { a with
      kind := if a.kind = .atomic .arrive then AccKind.probe else a.kind
      owners := renameIds saved.id t a.owners
      rcv := renameIds saved.id t a.rcv
      core := t.core
      replay := true
      reqs := []
      state := if a.state = .refused then AccState.refused else AccState.waiting }
  let s := { s with accs := s.accs ++ elems }
  let s := (elems.filter (·.state = .waiting)).foldl (fun s a => s.ownFlight a) s
  s.rejoin t saved

/-- Faulted and withheld matrix commands of a team are replayed, in the order of acceptance (R303). -/
def State.wakeMats (s : State) (t : TeamId) : State :=
  let wake := fun m : MatCmd => if m.team = t && (m.state = .faulted || m.state = .withheld) then
      { m with state := .waiting, waits := [], replay := true } else m
  s.updCore t.core fun k => { k with mq := k.mq.map wake }

/-- Held accesses of a team are tried again: faulted ones that wait on no page request, and, when none is left faulted, the withheld
ones. -/
def State.retryAccs (s : State) (t : TeamId) : State :=
  let mine := s.accs.filter (·.ofTeam t)
  let held := mine.any fun a => a.state = .faulted && !a.reqs.isEmpty
  let go := mine.filter fun a => (a.state = .faulted && a.reqs.isEmpty) || (a.state = .withheld && !held)
  go.foldl (fun s a => (s.updAccess a.seq fun a => { a with state := .waiting }).ownFlight a) s

/-- Faulted accesses and matrix commands of a team that is stopped for good are tried again; what stands for a faulted instruction
without an effect is dropped (R381, R390). -/
def State.unfault (s : State) (t : TeamId) : State :=
  let stay := s.accs.filter fun a : Access => !(a.ofTeam t && a.kind = .probe)
  (({ s with accs := stay }).retryAccs t).wakeMats t

/-- A suspended team resumes in a slot (R202, R204). -/
def State.resumeSusp (s : State) (t : TeamId) (c : CtxId) (p : Susp) : State :=
  let s := s.updCtx c fun x => { x with
    susp := x.susp.filter (·.key ≠ p.key)
    resumes := x.resumes.filter fun r => r.fromSnap || r.key ≠ p.key }
  ((s.restoreTeam t p.saved .replaying).renameTeam (heldTeam t.core p.key) t).wakeMats t

/-- A suspended team whose every request has its reply: restored in place when its slot was kept, else a resume record goes
to its die's list (R202, R204). -/
def State.suspReady (s : State) (c : CtxId) (p : Susp) : State :=
  if !p.waits.isEmpty || p.queued || p.saved.team.struck then s
  else if p.kept then
    (if s.ctxRuns c && (s.team p.saved.id).any (·.stop = .kept) then s.resumeSusp p.saved.id c p else s)
  else s.updCtx c fun x => { x with
    susp := x.susp.map (fun q => if q.key = p.key then { q with queued := true } else q)
    resumes := x.resumes ++ [⟨p.key, [coreDieId p.saved.id.core], false⟩] }

/-! ## PAGE_FAULT and FAULT_FRAME_SAVE (R201) -/

/-- The requests of flights that carry a contribution of an access. -/
def State.flightOf (s : State) (seq : Nat) : Option Flight := s.flights.find? fun f => f.req.leaves.any (·.1 = seq)

/-- The access belongs to a team that is still to be stopped or is stopping for a fault. -/
def State.mayStop (s : State) (a : Access) : Bool :=
  a.owners.any fun i => (s.team i.team).any fun tm => match tm.stop with
    | .running | .replaying | .faulting | .sliced _ => true
    | _ => false

/-- Page requests of a team's faulted elements (R201 step 5). -/
def requestAll (s : State) : List Access → State × List Nat
  | [] => (s, [])
  | a :: as =>
    match if a.state = .faulted then s.accessMiss a else none with
    | none => requestAll s as
    | some m =>
      let (s, tag) := s.pageRequest a.ctx a.core 0 m
      let s := s.updAccess a.seq fun a => { a with reqs := [tag] }
      let (s, tags) := requestAll s as
      (s, if tags.contains tag then tags else tag :: tags)

/-- Accesses of one place are marked faulted; a team that stops for another reason keeps them, and they wait on their page request
(log entry 19). -/
def State.faultAll (s : State) (l : List Access) : State :=
  let s := l.foldl (fun s a => s.faultAccess a) s
  (requestAll s (s.accs.filter fun b => b.state = .faulted && b.reqs.isEmpty && l.any (·.seq = b.seq) && !s.mayStop b)).1

/-- A held write of a running team that does not translate leaves the store buffer for a faulted access (R206, R387). -/
def State.heldFault (s : State) (a : Nat) : State :=
  match s.teams.findSome? fun (t, tm) => (tm.held.find? (·.seq = a)).bind fun h => if tm.stop = .running then some (t, h) else none with
  | none => s
  | some (t, h) =>
    if (s.accessMiss h).isNone then s
    else
      let s := s.updTeam t fun tm => { tm with held := tm.held.filter (·.seq ≠ a) }
      ({ s with accs := s.accs ++ [h] }).faultAll [h]

/-- PAGE_FAULT (R201, R252): an access that may be performed, or a held write, does not translate; an atomic faults with the whole of its
request. -/
def execPageFault (a : Nat) (s : State) : Out :=
  match s.access a with
  | none => .next (s.heldFault a)
  | some x =>
    if x.state ≠ .waiting || x.got.isSome || x.kind = .cflush || !s.mayPerform x || (s.accessMiss x).isNone then .next s
    else
      match s.flightOf a with
      | some f => .next (s.faultAll (s.leafAccs f.req))
      | none => .next (s.faultAll [x])

/-- The slot's 32 threads start afresh at ENTRY, as at context start (R201 step 6, R312). -/
def State.startSlot (s : State) (t : TeamId) : State :=
  match s.team t, s.blockOf t with
  | some tm, some b =>
    let fresh : Team := { tm with
      frame := 0, targ := 0, task := none, unchk := 0, mnv := false, mof := false, msat := false, held := [], wlines := [],
      wtiles := [], snap := none, stop := .running, commitDue := false, irrevocable := false }
    let ids : List ThreadId := (List.range 32).map fun l => ⟨t, l⟩
    let others := s.threads.filter fun (i, _) => i.team ≠ t
    let s := { s with teams := tset s.teams t fresh,
                      threads := others ++ ids.map fun i => (i, startThread b.nregs) }
    ids.foldl (fun s i => s.reachEntry i b.entry.toNat .entry) s
  | _, _ => s

/-! ## Replies (R202, R203, R409) -/

/-- Elements held on a request: refused ones stay unperformed. -/
def answerElems (tag : Nat) (refuse : Bool) (l : List Access) : List Access :=
  l.map fun a => if a.reqs.contains tag then
    { a with reqs := a.reqs.filter (· ≠ tag), state := if refuse then .refused else a.state } else a

/-- A reply for the suspended teams of a context. -/
def State.answerSusp (s : State) (c : CtxId) (tag : Nat) (refuse : Bool) : State :=
  let hit := fun p : Susp => p.waits.contains tag
  let keys := (((s.ctx c).map (·.susp)).getD []).filter hit |>.map (·.key)
  let answer := fun p : Susp => if hit p then
      { p with waits := p.waits.filter (· ≠ tag),
               saved := { p.saved with elems := answerElems tag refuse p.saved.elems } } else p
  let s := s.updCtx c fun x => { x with susp := x.susp.map answer }
  (((s.ctx c).map (·.susp)).getD []).foldl (fun s p => if keys.contains p.key then s.suspReady c p else s) s

/-- A refused element ends without its effect: a load clears its pending bits, counters fall (R203). -/
def State.endRefused (s : State) (a : Access) : State :=
  let s := match a.kind with
    | .load | .jrd => s.updThreads a.takers fun t => { (t.clearPend a.dst a.g) with ldn := t.ldn - 1 }
    | .atomic .arrive | .probe | .payload | .cflush | .engine => s
    | .atomic _ | .jadd =>
      if a.dst = 124 then s.lowerStn a.owners
      else s.updThreads a.takers fun t => { (t.clearPend a.dst a.g) with ldn := t.ldn - 1 }
    | .store | .stfe | .ste | .signal => s.lowerStn a.owners
  s.dropAccess a.seq

/-- A reply for accesses that wait outside a fault frame: granted ones are tried again, refused ones end. -/
def State.answerAccs (s : State) (tag : Nat) (refuse : Bool) : State :=
  let hit := s.accs.filter fun a => a.reqs.contains tag
  let s := if refuse then hit.foldl (fun s a => s.endRefused a) s else { s with accs := answerElems tag false s.accs }
  ((hit.flatMap fun a => a.owners.map (·.team)).eraseDups).foldl (fun s t => s.retryAccs t) s

/-- A matrix command leaves its queue, and MXN falls in its members (R302). -/
def State.matRetire (s : State) (core : CoreId) (m : MatCmd) : State :=
  (s.updCore core fun c => { c with mq := c.mq.filter (·.key ≠ m.key) }).lowerMxn m.issuers

/-- A refused element of a team: its number, its threads and its address. -/
structure Refused where
  seq : Nat
  owners : List ThreadId
  addr : Nat

/-- The refused elements of a team, accesses and matrix commands, in the order of issue (R203, R303). -/
def State.refusedOf (s : State) (t : TeamId) : List Refused :=
  sortBy (fun a b => a.seq ≤ b.seq) (((s.teamAccs t).map fun a => ⟨a.seq, a.owners, a.addr⟩) ++
    ((s.teamMats t).map fun m => ⟨m.seq, m.issuers, m.lost⟩))

/-- Threads with a refused element raise ACCESS_VIOLATION before their next instruction, once each, with the address of the first that
each issued (R203). -/
def violations (s : State) : List Refused → List ThreadId → State
  | [], _ => s
  | a :: as, told =>
    let new := a.owners.filter fun i => !told.contains i
    let s := s.updThreads new fun t => { t with deferred := t.deferred ++ [⟨0x10, 0, a.addr, none, true⟩] }
    violations s as (told ++ new)

/-- The replay of a team is over when only refused elements and matrix commands are left (R202, R203, R303): they end without effect, and
its threads issue again. -/
def State.endReplay (s : State) (t : TeamId) : State :=
  if (s.teamAccs t).all (·.state = .refused) && (s.teamMats t).all (·.state = .refused) then
    let told := violations s (s.refusedOf t) []
    let done := (s.teamAccs t).foldl (fun s a => s.endRefused a) told
    ((s.teamMats t).foldl (fun s m => s.matRetire t.core m) done).updTeam t fun tm => { tm with stop := .running }
  else s

/-! ## Fresh starts and deferred traps -/

/-- Every counter of a team's threads is 0 (R333). -/
def State.countersZero (s : State) (t : TeamId) : Bool :=
  (s.members t).all fun (_, th) => th.ldn = 0 && th.stn = 0 && th.cpn = 0 && th.mxn = 0

/-- The gate requests of a team lose its threads: they are performed, and their replies are discarded (R381); where the leader is among
them, the other threads issue the instruction again by themselves (R45). -/
def State.orphanGates (s : State) (t : TeamId) : State :=
  let f := fun r : GateReq =>
    { r with owners := r.owners.filter (·.team ≠ t), lead := r.lead && r.owners.head?.all (·.team ≠ t) }
  { s with gateReqs := s.gateReqs.map f }

/-- A fault frame of a team that keeps its slot (R204). -/
def State.keeps (s : State) (t : TeamId) : Bool := ((s.ctxOf t).bind s.ctx).any fun x => x.susp.any fun p => p.kept && p.saved.id = t

/-- A team that its gang's fault has stopped while its slot waited for page replies takes its elements back, to be completed as those of any
stopped team (R381, R391). -/
def State.unkeep (s : State) (t : TeamId) : State :=
  match s.ctxOf t with
  | none => s
  | some c =>
    match (((s.ctx c).map (·.susp)).getD []).find? fun p => p.kept && p.saved.id = t with
    | none => s
    | some p =>
      let back := p.saved.elems.map fun a => { a with reqs := [], state := if a.state = .refused then AccState.refused else .faulted }
      let s := { s.updCtx c fun x => { x with susp := x.susp.filter (·.key ≠ p.key) } with accs := s.accs ++ back }
      let s := s.renameTeam (heldTeam t.core p.key) t
      (back.filter (·.state = .refused)).foldl (fun s a => s.endRefused a) s

/-- The task of a suspended team that its gang's end has killed: its frame is dropped, its task ends and its record is sent (R381, R391). -/
def State.killSusp (s : State) (c : CtxId) (p : Susp) : State :=
  match p.saved.team.stop with
  | .fresh id r =>
    let core := p.saved.id.core
    let held := heldTeam core p.key
    let s := ((s.teamMats held).foldl (fun s m => s.matRetire core m) s).orphanGates held
    let (s, key) := s.fresh
    let joins := p.saved.team.task.toList.map fun k : Task =>
      (⟨key, c, false, s.dirtySeqs core (·.team = held), k.body.join.toNat, [], k.q.map fun q => (q, k.no)⟩ : Join)
    let s := { s.updCtx c fun x => { x with susp := x.susp.filter (·.key ≠ p.key) } with joins := s.joins ++ joins }
    s.reportKill id r
  | _ => s

/-- The suspended teams of a context that their gang's end has killed. -/
def State.killSusps (s : State) (t : TeamId) : State :=
  match s.ctxOf t with
  | none => s
  | some c => (((s.ctx c).map (·.susp)).getD []).foldl (fun s p => s.killSusp c p) s

/-- FRESH_START (R333, R381, R391): a team whose task ended by trap starts again once nothing of it is outstanding; its record is sent,
counter 9 rises, and the end is the task's end under R316. Writes that its engines held until now are discarded, and replies of gate
requests that its threads waited for. -/
def execFreshStart (t : TeamId) (s : State) : Out :=
  match s.team t with
  | none => .next s
  | some tm =>
    match tm.stop with
    | .fresh id r =>
      if !s.quiet t then .next (s.unfault t)
      else if s.keeps t then .next (s.unkeep t)
      else
        let s := ((s.orphanGates t).dropHeld t).reportKill id r
        .next ((((s.endTask t true).freshStart t).killSusps t).gangHandled t)
    | _ => .next s

/-- Parks at which a deferred trap can be taken: the thread stands before an instruction it would issue afresh, or waits at an EXIT
(R383; log entry 83). -/
def atBoundary : Park → Bool
  | .ready | .yielding | .exiting | .arrived _ | .released _ _ | .waitc _ | .window _ _ | .ldfe _ | .ordered _ | .room .. | .whole ..
  | .launch | .copy .. | .tags .. | .team _ => true
  | _ => false

/-- The trap is that of the barrier word at which the thread waits: its page was refused (R203, R455). -/
def wordRefused (r : Raise) : Park → Bool
  | .barWord a _ => r.cause = 0x10 && r.addr = a + 4
  | _ => false

/-- A rendezvous set that a member leaves for a trap: the others stand at their instruction as they arrived (R383; log entry 85). -/
def State.dissolve (s : State) (t : TeamId) (p : Park) : State :=
  match p with
  | .released n k => s.mapThreads fun i th =>
      if i.team = t && th.park = .released n k then { th with park := .arrived k } else th
  | _ => s

/-- The deferred trap to take next: recovery causes first, then in the order in which they arose (R383). -/
def nextDeferred (l : List Raise) : Option Raise :=
  match l.find? fun r => recoveryCause r.cause with
  | some r => some r
  | none => l.head?

/-- DEFERRED_TRAP (R203, R304, R307, R382, R383). A recovery cause waits for a commit that an irrevocable operation has made due, so that
the rollback does not undo the operation (R390; log entry 48). -/
def execDeferredTrap (t : ThreadId) (s : State) : Out :=
  match s.thread t with
  | none => .next s
  | some th =>
    let runs := fun r : Raise => (s.team t.team).any fun tm => tm.stop = .running && !(recoveryCause r.cause && tm.irrevocable)
    match nextDeferred th.deferred with
    | none => .next s
    | some r =>
      if th.live && runs r && (atBoundary th.park || wordRefused r th.park) then
        let s := (s.dissolve t.team th.park).updThread t fun th => { th with deferred := th.deferred.erase r, park := .ready }
        .next (s.deliver t { r with defer := true })
      else .next s

end Sys2Proof.Machine
end

