-- ==== Sys2Proof/Machine/Queues.lean ====
section
/-! DEFINITION. Queue handles, the order of a shard, deliveries and pops (13_tasks R315 to R321, R327, R328, R334, R336;
08_memory R202, R204; 16_system R390). -/
namespace Sys2Proof.Machine

/-! ## Handles (R319, R320) -/

/-- Rights bits of a handle, from bit 16 on. -/
def rightEnq : Nat := 1
def rightDeq : Nat := 2
def rightSteal : Nat := 4

/-- A handle over a queue set with its check for the holder's VF (R319, Table 2). -/
def makeHandle (part : Nat) (v : VfId) (idx rights gen : Nat) : Nat :=
  idx + 2 ^ 16 * rights + 2 ^ 32 * gen + 2 ^ 48 * (Config.handleSeal part idx rights gen v.pkg v.vf).toNat

/-- The handle is valid for a VF (R319). -/
def State.handleValid (s : State) (v : VfId) (h : Nat) : Bool :=
  let part := s.partOfVf v
  match s.qset ⟨part, fld h 0 10⟩ with
  | none => false
  | some q => h = makeHandle part v (fld h 0 10) (fld h 16 3) q.gen

/-- The trap of a handle that is not valid or lacks a right (R320). -/
def State.handleBad (s : State) (v : VfId) (h right : Nat) : Option Raise :=
  if !s.handleValid v h then some (trapR 0x13 1 0)
  else if right ≠ 0 && fld h 16 3 &&& right = 0 then some (trapR 0x13 2 0)
  else none

/-- The queue set that a handle names for a VF. -/
def State.handleSet (s : State) (v : VfId) (h : Nat) : QSetId := ⟨s.partOfVf v, fld h 0 10⟩

/-- The handle bound to a window of a thread's block, 0 when it is unbound (R312, R328). -/
def State.windowOf (s : State) (id : ThreadId) (w : Nat) : Nat :=
  ((s.blockOf id.team).map fun b => (b.windows.getD w 0).toNat).getD 0

/-- The context of a thread. -/
def State.ctxId (s : State) (id : ThreadId) : CtxId := (s.ctxOf id.team).getD ⟨⟨0, 0⟩, 0⟩

/-- The trap of a pop or push through a window: an unbound one holds no valid handle (R320). -/
def State.windowBad (s : State) (id : ThreadId) (w right : Nat) : Option Raise :=
  if s.windowOf id w = 0 then some (trapR 0x13 1 0) else s.handleBad (s.ctxId id).vf (s.windowOf id w) right

/-! ## Shards (R318) -/

/-- The dies of a package on which a partition has a shard, ascending. -/
def State.shardDies (s : State) (part pkg : Nat) : List DieId :=
  match s.share part pkg with
  | none => []
  | some sh => ((List.range 4).filter fun d => fld sh.quads.toNat (16 * d) 16 ≠ 0).map fun d => ⟨pkg, d⟩

/-- A record as 32 bytes, low bytes first (R72). -/
def Rec.num (r : Rec) : Nat := r.entry.toNat + 2 ^ 64 * r.frame.toNat + 2 ^ 128 * r.join.toNat + 2 ^ 192 * r.arg.toNat

/-- The record in 32 bytes. -/
def recOf (v : Nat) : Rec :=
  ⟨BitVec.ofNat 64 v, BitVec.ofNat 64 (v / 2 ^ 64), BitVec.ofNat 64 (v / 2 ^ 128), BitVec.ofNat 64 (v / 2 ^ 192)⟩

/-- Kind, guarded bit and priority of a record (R72). -/
def Rec.kind (r : Rec) : Nat := fld r.frame.toNat 0 3
def Rec.level (r : Rec) : Nat := fld r.frame.toNat 4 2
/-- Frame pointer of a record: FRAME with bits [5:0] cleared (R315). -/
def Rec.framePtr (r : Rec) : W64 := BitVec.ofNat 64 (r.frame.toNat / 64 * 64)

/-- Occupied ring entries of a shard (R318, R321). -/
def QSet.ringUsed (q : QSet) (d : DieId) : Nat :=
  (q.recs.filter fun r => r.die = d && r.state = .queued && r.ring).length

/-- The shard has a free ring entry for n records more. -/
def QSet.ringRoom (q : QSet) (d : DieId) (n : Nat) : Bool := q.ringUsed d + n ≤ 2 ^ q.ringLog

/-- Grid slices on the distributor of a die (R321, R336). -/
def State.slicesOn (s : State) (d : DieId) : Nat :=
  s.qsets.foldl (fun n (_, q) => n + (q.slices.filter fun x => x.die = d).length) 0

/-- What a pop can take. -/
inductive Taken where
  | whole (r : QRec)
  | index (x : Slice)
  | cont (k : Cont)
deriving DecidableEq, Repr

/-- What stands on a die of a set: records and indices. -/
def QSet.holds (q : QSet) (d : DieId) : Nat :=
  (q.recs.filter fun r => r.die = d && r.state = .queued).length +
    (q.slices.filter fun x => x.die = d).foldl (fun n x => n + x.left) 0

/-- Something a pop can take, with its place in its level: level, acceptance number, place in its grid. -/
structure Cand where
  level : Nat
  no : Nat
  sub : Nat
  what : Taken
deriving DecidableEq, Repr

/-- The place of the last index of a slice. -/
def Slice.last (x : Slice) : Nat := x.next + x.stride * (x.left - 1)

/-- What stands in a shard, of what a pop may take. A steal from the pop's own die leaves the last index of a slice (R327). -/
def QSet.cands (q : QSet) (d : DieId) (tail own : Bool) (takes : Cont → Bool) : List Cand :=
  ((q.recs.filter fun r => r.die = d && r.state = .queued).map fun r => ⟨r.level, r.no, r.sub, .whole r⟩) ++
    ((q.slices.filter fun x => x.die = d && (if tail && own then 1 < x.left else 0 < x.left)).map fun x =>
      ⟨x.level, x.no, if tail then x.last else x.next, .index x⟩) ++
    ((q.conts.filter fun k => k.die = d && takes k).map fun k => ⟨k.level, k.no, 0, .cont k⟩)

/-- Order of a pop: the highest level first, then acceptance order; of a steal: the reverse (R318, R327). -/
def Cand.before (tail : Bool) (a b : Cand) : Bool :=
  let first := if a.level ≠ b.level then b.level < a.level
    else if a.no ≠ b.no then a.no < b.no else a.sub < b.sub
  first != tail

/-- The first candidate in the order. -/
def pickCand (tail : Bool) : List Cand → Option Cand
  | [] => none
  | c :: cs =>
    match pickCand tail cs with
    | none => some c
    | some d => some (if c.before tail d then c else d)

/-- The record of an index of a grid (R336). -/
def Slice.index (x : Slice) (sub : Nat) : Rec :=
  { x.body with
    frame := BitVec.ofNat 64 (x.body.frame.toNat / 8 * 8)
    arg := BitVec.ofNat 64 (pairOf ((x.first + sub) % 2 ^ 32) x.count) }

/-- A record leaves the set for a pop: it is running until its task ends, or done at once for a data pop (R315, R338). -/
def QSet.take (q : QSet) (tail : Bool) (st : RecState) : Taken → QSet
  | .whole r => { q with recs := q.recs.map fun y => if y.no = r.no ∧ y.sub = r.sub then { y with state := st } else y }
  | .index x =>
    let sub := if tail then x.last else x.next
    let x' : Slice := { x with next := if tail then x.next else x.next + x.stride, left := x.left - 1 }
    let r : QRec := ⟨x.no, sub, x.die, x.level, x.index sub, st, x.pusher, true, false⟩
    { q with
      slices := (q.slices.map fun y => if y = x then x' else y).filter fun y => y.left ≠ 0
      recs := q.recs ++ [r] }
  | .cont k => { q with conts := q.conts.filter (· ≠ k) }

/-- The bytes that a pop delivers. -/
def Taken.body (tail : Bool) : Taken → Rec
  | .whole r => r.body
  | .index x => x.index (if tail then x.last else x.next)
  | .cont _ => ⟨0, 0, 0, 0⟩

/-- The delivery lowers O (R321). -/
def Taken.counted : Taken → Bool
  | .whole r => r.counted
  | .index _ => true
  | .cont _ => false

/-! ## Resume records (R202, R204, R390) -/

/-- Register allocation of a team. -/
def State.allocOf (s : State) (t : TeamId) : Nat := ((s.members t).head?.map fun m => m.2.regs.length).getD 0

/-- Live team-lane ids of a saved team as a mask. -/
def SavedTeam.live (v : SavedTeam) : Nat := ofBits 32 fun l => v.threads.any fun x => x.1 = l && x.2.live

/-- Allocation of a saved team. -/
def SavedTeam.alloc (v : SavedTeam) : Nat := (v.threads.head?.map fun x => x.2.regs.length).getD 0

/-- The team has the descriptor, the live set and the room that a snapshot asks for (R390). -/
def State.snapFits (s : State) (c : CtxId) (n : Snap) (t : TeamId) : Bool :=
  let desc := (s.block n.saved.team.block).map (·.descVa)
  (s.blockOf t).any (fun b => b.ctx = c && some b.descVa = desc) && s.liveMask t = n.saved.live &&
    n.saved.alloc ≤ s.allocOf t

/-- Two cores of one quad (R14). -/
def sameQuad (a b : CoreId) : Bool := a.pkg = b.pkg && coreQuad a = coreQuad b

/-- The team may take the snapshot: outside the quad, else in the quad, else the same team, among the teams of the dies on whose lists the
record stands (R390). -/
def State.maySnap (s : State) (c : CtxId) (n : Snap) (dies : List DieId) (t : TeamId) : Bool :=
  let fit := (s.teams.filter fun (i, _) => dies.contains (coreDieId i.core) && s.snapFits c n i).map (·.1)
  let out := fit.filter fun i => !sameQuad i.core n.saved.id.core
  let near := fit.filter fun i => i ≠ n.saved.id
  s.snapFits c n t &&
    (if !out.isEmpty then out.contains t else if !near.isEmpty then near.contains t else true)

/-- The team may take a resume record. -/
def State.mayResume (s : State) (c : CtxId) (t : TeamId) (r : Resume) : Bool :=
  r.dies.contains (coreDieId t.core) &&
    (match s.ctx c with
     | none => false
     | some x =>
       if r.fromSnap then (x.snaps.find? (·.key = r.key)).any fun n => s.maySnap c n r.dies t
       else (x.susp.find? (·.key = r.key)).any fun p =>
         (s.team t).any fun tm => tm.block = p.saved.team.block && t.slot % 4 = p.saved.id.slot % 4)

/-- The image of a token of a core, current or stale (R360). -/
def Core.imageOf (c : Core) (tok : Nat) : Option Nat :=
  match c.current tok with
  | some o => some o.image
  | none => (c.mapEntry tok).map (·.image)

/-- A snapshot's lines and tiles written into a core (R390 step 4). -/
def State.putSnap (s : State) (core : CoreId) (n : Snap) : State :=
  let s := s.heal fun u => (n.lines.any fun x => u.onPad core (128 * x.1.2) 128) || n.tiles.any fun t => u.onTile core t.id fun _ => true
  let s := n.lines.foldl (fun s ((_, l), bs) => s.updCore core fun k => { k with scratch := memPut k.scratch (128 * l) bs }) s
  s.updCore core fun k => n.tiles.foldl (fun k t => k.setTile t) k

/-- A team takes a snapshot back and continues at the saved PCs, in the images that its saving core's tokens named (R390). -/
def State.resumeSnap (s : State) (t : TeamId) (c : CtxId) (n : Snap) : State :=
  let s := s.updCtx c fun x => { x with resumes := x.resumes.filter fun r => !(r.fromSnap && r.key = n.key) }
  let s := (s.expose n.saved.id.core fun d => d.owners.any (·.team = heldTeam n.saved.id.core n.key)).putSnap t.core n
  let s := (s.restoreTeam t n.saved .running).updTeam t fun tm => { tm with snap := some n.key }
  let s := s.renameTeam (heldTeam n.saved.id.core n.key) t
  if t.core = n.saved.id.core then s
  else (s.liveIds t).foldl (fun s i =>
    match s.thread i with
    | none => s
    | some th =>
      match (s.core n.saved.id.core).imageOf th.pc.tok.toNat with
      | none => s
      | some img => s.ifRuns t fun s => s.goTo i img ((s.core t.core).tokenFor c.vf (s.pasid c) img) th.pc.off) s

/-- The oldest resume record that a team may take, taken: the team's task ends and the saved one goes on (R204, R316). -/
def State.takeResume (s : State) (t : TeamId) : Option State :=
  match s.ctxOf t with
  | none => none
  | some c =>
    match s.ctx c with
    | none => none
    | some x =>
      match x.resumes.find? (s.mayResume c t) with
      | none => none
      | some r =>
        if r.fromSnap then (x.snaps.find? (·.key = r.key)).map fun n => (s.endTask t true).resumeSnap t c n
        else (x.susp.find? (·.key = r.key)).map fun p => (s.endTask t true).resumeSusp t c p

/-! ## Continuations (R333, R334) -/

/-- Size of the frame of a JWAIT with n registers (R333). -/
def frameSize (n : Nat) : Nat := 0xA40 + 128 * n

/-- A field of a frame or other memory image held as one number: `len` bytes from byte `off`. -/
def byteFld (v off len : Nat) : Nat := fld v (8 * off) (8 * len)

/-- A thread of a continuation takes back its saved state (R334, Table 5). A TAGS nibble of 13 to 15 in the frame is taken as it stands
(R132; log entry 96). -/
def Thread.fromFrame (t : Thread) (v n l : Nat) : Thread :=
  let reg := fun k => if k < n then
      (⟨w32 (byteFld v (0xA40 + 4 * (n * l + k)) 4), BitVec.ofNat 4 (fld v (8 * (0x240 + 64 * l) + 4 * k) 4), false⟩ : Reg)
    else Reg.zero
  { t with
    regs := (List.range t.regs.length).map reg
    preds := BitVec.ofNat 24 (byteFld v (0x40 + 16 * l) 4)
    fflags := BitVec.ofNat 6 (byteFld v (0x44 + 16 * l) 4)
    fmode := BitVec.ofNat 2 (byteFld v (0x48 + 16 * l) 4)
    park := .ready }

/-- A team starts a task (R315). -/
def State.startTask (s : State) (t : TeamId) (k : Task) : State :=
  s.updTeam t fun tm => { tm with frame := k.body.framePtr, targ := k.body.arg, task := some k, snap := none }

/-- A team takes a continuation whose frame holds v: its state comes back, and it goes on after the JWAIT (R334). The frame names no token:
the PC that a failed fill reports holds the image's latest one (log entry 102). -/
def State.restoreCont (s : State) (t : TeamId) (k : Cont) (v : Nat) : State :=
  let body := recOf (byteFld v 0 32)
  let off := fld (byteFld v 0x28 4) 0 14
  let live := s.liveIds t
  let s := (s.endTask t true).startTask t ⟨body, k.task.map (·.1), (k.task.map (·.2)).getD 0⟩
  let s := s.mapThreads fun i th => if i ∈ live then th.fromFrame v k.n i.lane else th
  let image := erefImage body.entry.toNat
  live.foldl (fun s i => s.ifRuns t fun s => s.goTo i image ((s.core t.core).tokenFor k.ctx.vf (s.pasid k.ctx) image) off) s

/-! ## Pops (R315 to R318, R327) -/

/-- What a pop came to: nothing to take, a record, a team that goes on elsewhere, a frame that does not translate, or a team that must
have nothing outstanding before it goes on elsewhere (R202). -/
inductive PopRes where
  | empty
  | busy
  | given (s : State) (r : Rec)
  | moved (s : State)
  | missed (va : Nat)

/-- A continuation may be taken by a team pop of a team (R317, R334). -/
def State.mayCont (s : State) (t : TeamId) (k : Cont) : Bool :=
  (s.blockOf t).any (fun b => b.ctx = k.ctx && k.desc.all (· = b.descVa)) && s.liveMask t = k.live && k.n ≤ s.allocOf t

/-- A record taken from the set: for a team pop a new task begins, for a data pop it is complete (R315). -/
def State.deliverRec (s : State) (t : TeamId) (team tail : Bool) (q : QSetId) (x : QSet) (cd : Cand) : State × Rec :=
  let s := s.updQSet q fun x => x.take tail (if team then .running else .done) cd.what
  let s := if cd.what.counted then s.updVf x.vf fun v => { v with out := v.out - 1 } else s
  let r := cd.what.body tail
  (if team then (s.endTask t true).startTask t ⟨r, some q, cd.no⟩ else s, r)

/-- A pop that tries shards in turn; a delivery is an acquire (R322). A team that would take a continuation while anything of it is
outstanding waits first: the model's choice (log entry 104). -/
def State.popShards (s : State) (t : TeamId) (team tail : Bool) (q : QSetId) : List DieId → PopRes
  | [] => .empty
  | d :: ds =>
    match s.qset q with
    | none => .empty
    | some x =>
      match pickCand tail (x.cands d tail (d = coreDieId t.core) fun k => team && s.mayCont t k) with
      | none => s.popShards t team tail q ds
      | some cd =>
        match cd.what with
        | .cont k =>
          if !s.quiet t then .busy
          else
            match s.readVa (viewAt k.ctx t.core) k.frame (frameSize k.n) with
            | .error _ => .missed ((s.missVa (viewAt k.ctx t.core) k.frame (frameSize k.n) false).getD k.frame)
            | .ok bs => .moved ((((s.noteLines k.ctx k.frame (frameSize k.n)).updQSet q fun x => x.take tail .running cd.what).acquire t.core).restoreCont t k (bytesToNat bs))
        | _ =>
          let (s, r) := s.deliverRec t team tail q x cd
          .given (s.acquire t.core) r

/-- A pop by a team or by threads of it: a team pop takes from its resume list first (R204), and waits first while anything of the team is
outstanding: the model's choice (log entry 104). -/
def State.pop (s : State) (t : TeamId) (team tail : Bool) (q : QSetId) (dies : List DieId) : PopRes :=
  match if team then s.takeResume t else none with
  | some s' => if s.quiet t then .moved (s'.acquire t.core) else .busy
  | none => s.popShards t team tail q dies

/-- The group is a whole team, every live thread guard-true (R315). -/
def State.isTeamPop (s : State) (g : UniGroup) : Bool := (s.liveIds g.leader.team).all g.all.contains

/-- The other dies of a package that hold a shard, ascending after this die and round again, then this die (R327). -/
def State.stealOrder (s : State) (part : Nat) (d : DieId) : List DieId :=
  let ds := s.shardDies part d.pkg
  ds.filter (fun x => d.die < x.die) ++ ds.filter (fun x => x.die < d.die) ++ [d]

/-! ## Pushes (R321, R324, R325) -/

/-- Push statuses (R321). -/
def accepted : Nat := 0
def overQuota : Nat := 1
def ringFull : Nat := 2

/-- A malformed record is dropped and counted (R317). -/
def State.countDrop (s : State) (q : QSetId) : State := s.updQSet q fun x => { x with drops := x.drops + 1 }

/-- The status that a push of one record would have now. -/
def State.pushStatus (s : State) (q : QSetId) (d : DieId) (n : Nat) (ring : Bool) : Nat :=
  match s.qset q with
  | none => ringFull
  | some x =>
    if ((s.vf x.vf).map (·.quota)).getD 0 < ((s.vf x.vf).map (·.out)).getD 0 + n then overQuota
    else if ring && !x.ringRoom d n then ringFull
    else accepted

/-- A record accepted into a shard (R318, R321). -/
def State.queueRec (s : State) (q : QSetId) (d : DieId) (r : Rec) (pusher : Option Nat) : State :=
  let (s, no) := s.fresh
  let item : QRec := ⟨no, 0, d, r.level, r, .queued, pusher, true, true⟩
  let vf := ((s.qset q).map (·.vf)).getD ⟨0, 0⟩
  (s.updQSet q fun x => { x with recs := x.recs ++ [item] }).updVf vf fun v => { v with out := v.out + 1 }

/-- Number of the task that a team runs, for the record it pushes (R339). -/
def State.taskNo (s : State) (t : TeamId) : Option Nat :=
  (s.team t).bind fun tm => tm.task.bind fun k => k.q.map fun _ => k.no

/-! ## QPOP and QSTEAL (R327) -/

/-- Step 1 of a queue instruction (R323). -/
def qOk (f : L2R) (b c imm : Bool) : Bool := wIn f.toL1 [0] && f.mod = 0 && (b || f.b = 0) && (c || f.c = 0) && (imm || f.imm = 0)

/-- Forms of QPOP and QSTEAL, QCAP and QBIND (R327, R328). -/
def qpopUni (f : L2R) : UniDef :=
  { g := f.g, gn := f.gn, ok := qOk f false true false && predOk f.c, words := 2, srcs := [⟨.src 2, f.a.toNat⟩],
    dsts := [⟨.dst 8, f.d.toNat⟩] }
def qcapUni (f : L2R) : UniDef :=
  { g := f.g, gn := f.gn, ok := qOk f false false true && f.imm.toNat < 8, words := 2, srcs := [⟨.src 2, f.a.toNat⟩],
    dsts := [⟨.dst 2, f.d.toNat⟩] }
def qbindUni (f : L2R) : UniDef :=
  { g := f.g, gn := f.gn, ok := qOk f false false true && f.imm.toNat < 4 && f.d = 0, words := 2,
    srcs := [⟨.srcZ 2, f.a.toNat⟩], dsts := [] }

/-- Threads that stand at their instruction until a hold is over. -/
def State.waitOrder (s : State) (ts : List ThreadId) (h : Hold) : State := s.updThreads ts fun t => { t with park := .ordered h }

/-- QPOP and QSTEAL. -/
def runQpop (steal : Bool) (f : L2R) (s : State) : Out :=
  runUniform (qpopUni f) s
    fun g s =>
      let h := g.lt.readReg g.env f.a.toNat 2
      let v := (s.ctxId g.leader).vf
      let t := g.leader.team
      match s.handleBad v h (if steal then rightSteal else rightDeq) with
      | some r => .trap s r
      | none =>
        let team := s.isTeamPop g
        if s.popCommits t team then .stay (s.commitFirst t)
        else
          let q := s.handleSet v h
          let die := coreDieId t.core
          match s.pop t team steal q (if steal then s.stealOrder q.part die else [die]) with
          | .empty => .done (s.updThreads g.rcv fun t => (t.setPred f.c.toNat false).step 2)
          | .given s r =>
            let s := s.updThreads g.rcv fun t => ((t.writeReg f.d.toNat 8 r.num 0).setPred f.c.toNat true).step 2
            .done (s.commitAfter t)
          | .moved s => .stay (s.commitAfter t)
          | .busy => .parked (s.waitOrder g.all .quiet)
          | .missed va => .stay (s.probeFault g.all va false)

/-- QPOP (R327). -/
def execQpop (f : L2R) (s : State) : Out := runQpop false f s
/-- QSTEAL (R327). -/
def execQsteal (f : L2R) (s : State) : Out := runQpop true f s

/-! ## QCAP and QBIND (R328) -/

/-- QCAP: a handle with the rights that both the old one and IMM12[2:0] hold. -/
def execQcap (f : L2R) (s : State) : Out :=
  runUniform (qcapUni f) s
    fun g s =>
      let h := g.lt.readReg g.env f.a.toNat 2
      let v := (s.ctxId g.leader).vf
      match s.handleBad v h 0 with
      | some r => .trap s r
      | none =>
        .done (s.result g 2 f.d.toNat 2
          (makeHandle (s.partOfVf v) v (fld h 0 10) (fld h 16 3 &&& f.imm.toNat) (fld h 32 16)))

/-- QBIND: the window of the issuing block bound, or unbound when A is zero. -/
def execQbind (f : L2R) (s : State) : Out :=
  runUniform (qbindUni f) s
    fun g s =>
      let h := g.lt.readReg g.env f.a.toNat 2
      let bad := if f.a = 124 then none else s.handleBad (s.ctxId g.leader).vf h 0
      match bad, s.team g.leader.team with
      | some r, _ => .trap s r
      | none, some tm =>
        let h := if f.a = 124 then 0 else h
        let s := s.updBlock tm.block fun b => { b with windows := b.windows.set f.imm.toNat (BitVec.ofNat 64 h) }
        .done (s.stepAll g.all 2)
      | none, none => .stay s

/-! ## Windows (R36, R101, R325) -/

/-- The window that an operand number names. -/
def windowNo (n : BitVec 7) : Option Nat := if 120 ≤ n.toNat ∧ n.toNat < 124 then some (n.toNat - 120) else none

/-- Threads that wait on a window. -/
def State.waitWindow (s : State) (ts : List ThreadId) (w : Nat) (n : WinNeed) : State :=
  s.updThreads ts fun t => { t with park := .window w n }

/-- Forms of UMOV (R100, R101): from a window, and from the leader's group. -/
def umovUni (f : L1) : UniDef :=
  if (windowNo f.a).isSome then
    { g := f.g, gn := f.gn, ok := wIn f [3], words := 1, srcs := [], dsts := [⟨.dst 8, f.d.toNat⟩] }
  else
    { g := f.g, gn := f.gn, ok := true, words := 1, srcs := [⟨.src (gsz f.w), f.a.toNat⟩],
      dsts := [⟨.dst (gsz f.w), f.d.toNat⟩] }

/-- UMOV from a window: one entry for the group (R101); a team pop that parks ends its team's task (R316). -/
def umovWindow (w : Nat) (f : L1) (s : State) : Out :=
  runUniform (umovUni f) s
    fun g s =>
      let t := g.leader.team
      match s.windowBad g.leader w rightDeq with
      | some r => .trap s r
      | none =>
        let team := s.isTeamPop g
        if s.popCommits t team then .stay (s.commitFirst t)
        else
          match s.pop t team false (s.handleSet (s.ctxId g.leader).vf (s.windowOf g.leader w)) [coreDieId t.core] with
          | .empty => .parked ((if team then s.endTask t true else s).waitWindow g.all w .entry)
          | .given s r => .done ((s.result g 1 f.d.toNat 8 r.num).commitAfter t)
          | .moved s => .stay (s.commitAfter t)
          | .busy => .parked (s.waitOrder g.all .quiet)
          | .missed va => .stay (s.probeFault g.all va false)

/-- UMOV (R100, R101): the leader's group, or a popped entry. -/
def execUmov (f : L1) (s : State) : Out :=
  match windowNo f.a with
  | some w => umovWindow w f s
  | none =>
    let w := gsz f.w
    runUniform (umovUni f) s
      fun g s => .done (s.result g 1 f.d.toNat w (g.lt.readReg g.env f.a.toNat w))

/-- n entries of a window taken one after another for one thread, when it holds that many (R55). -/
def State.popMany (s : State) (t : TeamId) (q : QSetId) : Nat → Option (State × List Rec)
  | 0 => some (s, [])
  | n + 1 =>
    match s.popShards t false false q [coreDieId t.core] with
    | .given s r => (s.popMany t q n).map fun (s, rs) => (s, r :: rs)
    | _ => none

/-- A lane MOV from a window in one thread, n times (R36, R55): octets into D, D + 8 and so on. -/
def movPop (w d n : Nat) (id : ThreadId) (s : State) : IssueRes :=
  match s.windowBad id w rightDeq with
  | some r => .trap r
  | none =>
    if s.mustCommit id.team then .wait (s.commitFirst id.team)
    else
      match s.popMany id.team (s.handleSet (s.ctxId id).vf (s.windowOf id w)) n with
      | none => .wait (s.waitWindow [id] w (.pop n))
      | some (s, rs) =>
        let put := fun (t : Thread) => (rs.zipIdx).foldl (fun t (r, k) => t.writeReg (d + 8 * k) 8 r.num 0) t
        .ok ((s.updThread id put).commitAfter id.team)

/-- Earlier accesses of some threads that a release waits for (R217, R322). -/
def State.earlier (s : State) (ids : List ThreadId) : List Nat :=
  (s.accs.filter fun a => a.pendingStill && a.owners.any ids.contains).map (·.seq)

/-- Those, and the stores of the threads that stand in their core's L1 only: what a release at partition scope covers. -/
def State.covered (s : State) (core : CoreId) (ids : List ThreadId) : List Nat := s.earlier ids ++ s.dirtySeqs core ids.contains

/-- Records pushed one after another. -/
def State.pushAll (s : State) (q : QSetId) (d : DieId) (pusher : Option Nat) : List Rec → State
  | [] => s
  | r :: rs =>
    (if 5 ≤ r.kind then s.countDrop q else s.queueRec q d r pusher).pushAll q d pusher rs

/-- The trap of a record's JOIN that is not 0: not canonical, or misaligned (R324). -/
def State.joinBad (s : State) (id : ThreadId) (join : Nat) : Option Raise :=
  if join = 0 then none
  else match s.place id 0 join 16 true with
    | .error r => some r
    | .ok _ => none

/-- A lane MOV to a window in one thread, n times (R325): the push makes QPUSH's checks, waits for the thread's earlier accesses (R322),
which it releases, and for room; a malformed record is dropped. -/
def movPush (w a n : Nat) (id : ThreadId) (t : Thread) (s : State) : IssueRes :=
  let rs := (List.range n).map fun k => recOf (t.readReg (s.env id) (a + 8 * k) 8)
  match s.windowBad id w rightEnq with
  | some r => .trap r
  | none =>
    if rs.any fun r => r.kind ≠ 0 && r.kind < 5 then .trap (trapR 0x13 3 0)
    else
    match rs.findSome? fun r => s.joinBad id r.join.toNat with
    | some r => .trap r
    | none =>
    if s.mustCommit id.team then .wait (s.commitFirst id.team)
    else if !(s.earlier [id]).isEmpty then .wait (s.waitOrder [id] .earlier)
    else
      let q := s.handleSet (s.ctxId id).vf (s.windowOf id w)
      let die := coreDieId id.team.core
      let m := (rs.filter fun r => r.kind = 0).length
      if m ≠ 0 && s.pushStatus q die m true ≠ accepted then .wait (s.waitWindow [id] w (.push m))
      else .ok (((s.expose id.team.core fun d => d.owners.contains id).pushAll q die (s.taskNo id.team) rs).commitAfter id.team)

/-- The threads of a group use a window one after another; behind one that must wait, the later ones wait, but for those whose registers
fail, which trap (R36, R44, R55, R325). -/
def windowEach (words : Nat) (g : BitVec 5) (gn : Bool) (w : Nat) (need : WinNeed) (opds : List Opd)
    (act : ThreadId → Thread → State → IssueRes) : List ThreadId → State × List (ThreadId × Raise) →
    State × List (ThreadId × Raise)
  | [], acc => acc
  | id :: ids, (s, rs) =>
    match s.thread id with
    | none => windowEach words g gn w need opds act ids (s, rs)
    | some t =>
      if t.guard g gn then
        match regCheck t opds with
        | some r => windowEach words g gn w need opds act ids (s, rs ++ [(id, r)])
        | none =>
          match act id t s with
          | .ok s => windowEach words g gn w need opds act ids (s.updThread id fun t => t.step words, rs)
          | .trap r => windowEach words g gn w need opds act ids (s, rs ++ [(id, r)])
          | .wait s =>
            let later := ids.filter fun i => (s.thread i).any fun t => t.guard g gn
            let past := ids.filter fun i => (s.thread i).any fun t => !t.guard g gn
            let wait := later.filter fun i => (s.thread i).any fun t => (regCheck t opds).isNone
            let bad := later.filterMap fun i => (s.thread i).bind fun t => (regCheck t opds).map fun r => (i, r)
            ((s.stepAll past words).waitWindow wait w need, rs ++ bad)
      else windowEach words g gn w need opds act ids (s.updThread id fun t => t.step words, rs)

/-- A lane MOV with a window by the given threads, issued n times by REP or once (R36, R55). `words` are those of the whole sequence. -/
def runMovWindow (words n : Nat) (f : L1) (ids : List ThreadId) (s : State) : State × List (ThreadId × Raise) :=
  match windowNo f.a, windowNo f.d with
  | some w, _ => windowEach words f.g f.gn w (.pop n) ((List.range n).map fun k => ⟨.dst 8, f.d.toNat + 8 * k⟩) (fun id _ s => movPop w f.d.toNat n id s) ids (s, [])
  | none, some w => windowEach words f.g f.gn w (.push n) ((List.range n).map fun k => ⟨.src 8, f.a.toNat + 8 * k⟩) (movPush w f.a.toNat n) ids (s, [])
  | none, none => (s, [])

/-- Step 1 of a MOV with a window: an octet on the other side (R36, Table 3). -/
def movWindowOk (f : L1) : Bool :=
  guardOk f.g f.gn && wIn f [3] &&
    (match windowNo f.a, windowNo f.d with
     | some _, none => Opd.legal ⟨.dst 8, f.d.toNat⟩ && f.d.toNat < 120
     | none, some _ => Opd.legal ⟨.src 8, f.a.toNat⟩ && f.a.toNat < 120
     | _, _ => false)

/-- MOV (R92), with a window as operand a pop or a push (R36, R325). -/
def execMov (f : L1) (s : State) : Out :=
  if (windowNo f.a).isSome || (windowNo f.d).isSome then
    if movWindowOk f then
      let (s, rs) := runMovWindow 1 1 f s.gathered.ids s
      .next (s.raises rs)
    else .next s.illegal
  else runLane (laneMov f) s

/-- Every live thread of a thread's team waits on the same window at the same PC. -/
def State.teamAtWindow (s : State) (id : ThreadId) (t : Thread) : Bool :=
  (s.members id.team).all fun (_, x) => !x.live || (x.park = t.park && x.pc = t.pc)

/-- A thread that waits on a window need wait no longer: the window serves it, or it traps (R36, R101, R106, R325). A team that waits as
one is also served by a continuation or a resume (R204, R334). -/
def State.windowServes (s : State) (id : ThreadId) (t : Thread) (w : Nat) (n : WinNeed) : Bool :=
  let right := match n with
    | .push _ => rightEnq
    | _ => rightDeq
  let die := coreDieId id.team.core
  let q := s.handleSet (s.ctxId id).vf (s.windowOf id w)
  (s.windowBad id w right).isSome || (s.qset q).any fun x =>
    match n with
    | .push k => s.pushStatus q die k true = accepted
    | .pop k => k ≤ x.holds die
    | .entry => x.holds die ≠ 0 || (s.teamAtWindow id t &&
        ((x.conts.any fun k => k.die = die && s.mayCont id.team k) ||
          (s.ctx (s.ctxId id)).any fun c => c.resumes.any (s.mayResume (s.ctxId id) id.team)))

/-! ## STEAL_MESSAGE (R336) -/

/-- A thread waits on a window of the set in a shard's die (R336). -/
def State.waitsOn (s : State) (q : QSetId) (d : DieId) : Bool :=
  s.threads.any fun (i, t) => coreDieId i.team.core = d && t.live &&
    (match t.park with
     | .window w (.entry) | .window w (.pop _) => s.handleSet (s.ctxId i).vf (s.windowOf i w) = q
     | _ => false)

/-- Up to n records moved from the tail of a level of a die, its lowest non-empty one, to another die. -/
def QSet.moveTail (q : QSet) (src dst : DieId) (level : Nat) : Nat → QSet
  | 0 => q
  | n + 1 =>
    match pickCand true (q.cands src true false fun _ => false) with
    | some cd =>
      match cd.what with
      | .whole r =>
        if cd.level ≠ level then q else
        let move := fun y : QRec => if y.no = r.no ∧ y.sub = r.sub then { y with die := dst } else y
        ({ q with recs := q.recs.map move } : QSet).moveTail src dst level n
      | _ => q
    | none => q

/-- A steal from a die: up to 8 indices of the slice at its tail, or up to 8 records. -/
def QSet.steal (q : QSet) (src dst : DieId) : QSet :=
  match pickCand true (q.cands src true false fun _ => false) with
  | none => q
  | some cd =>
    match cd.what with
    | .index x =>
      let k := min 8 x.left
      let keep : Slice := { x with left := x.left - k }
      let mine : Slice := { x with die := dst, next := x.next + x.stride * (x.left - k), left := k }
      { q with slices := ((q.slices.map fun y => if y = x then keep else y).filter fun y => y.left ≠ 0) ++ [mine] }
    | _ => q.moveTail src dst cd.level 8

/-- STEAL_MESSAGE (R336): a pop waits on an empty shard, and its distributor takes from the first other die that holds at
least 2. -/
def execStealMessage (q : QSetId) (d : DieId) (s : State) : Out :=
  match s.qset q with
  | none => .next s
  | some x =>
    if x.holds d ≠ 0 || !s.waitsOn q d then .next s
    else
      match ((s.stealOrder q.part d).filter (· ≠ d)).find? fun e => 2 ≤ x.holds e with
      | none => .next s
      | some e => .next (s.updQSet q fun x => x.steal e d)

end Sys2Proof.Machine
end

