-- ==== Sys2Proof/Machine/Tasks.lean ====
section
/-! DEFINITION. Pushes through the pending-launch queue, join counters, JWAIT, register budgets, SNAP and fences (13_tasks R316,
R321 to R339, R455; 16_system R389). -/
namespace Sys2Proof.Machine

/-! ## Releases -/

/-- The accesses that a release covers have been performed (R217). -/
def State.released (s : State) (need : List Nat) : Bool := !(need.any s.unperformed.contains)

/-! ## Join counters (R329, R330) -/

/-- Work left to the queue controller. -/
def State.addJoin (s : State) (c : CtxId) (frame : Bool) (addr : Nat) : State :=
  let (s, k) := s.fresh
  { s with joins := s.joins ++ [⟨k, c, frame, [], addr, [], none⟩] }

/-- The continuation of a frame queued on the shard that its QSHARD names (R330); `v` holds the frame's first 0x34 bytes. -/
def State.queueCont (s : State) (c : CtxId) (frame v : Nat) : State :=
  let qs := byteFld v 0x30 4
  let q : QSetId := ⟨s.partOfCtx c, fld qs 0 10⟩
  let die : DieId := ⟨fld qs 10 8, fld qs 18 2⟩
  let (s, no) := s.fresh
  let w := (s.qset q).bind fun x => x.waiting.find? fun w => w.frame = frame && w.ctx = c
  let k : Cont :=
    { die := die, level := (recOf v).level, no := no, frame := frame, ctx := c, task := w.bind (·.task), desc := w.map (·.desc),
      live := byteFld v 0x2C 4, n := 8 * fld (byteFld v 0x28 4) 14 4 }
  s.updQSet q fun x => { x with
    conts := x.conts ++ [k], waiting := x.waiting.filter fun w => !(w.frame = frame && w.ctx = c) }

/-- The frames of a WAITER list, most recently registered first: each continuation queued; a frame whose record is not of
kind 2 is dropped and ends the list, and the drop is counted for the set that the frame's own bytes at 0x30 name, as no rule says for which
(R329, R330; DESIGN CHOICE, log entry 86). A frame that does not translate, and those behind it, wait for the
queue controller (R455). A list that comes back to a frame ends there (log entry 86). -/
def queueFrames (c : CtxId) : Nat → Nat → State → State
  | 0, _, s => s
  | fuel + 1, frame, s =>
    if frame = 0 then s
    else
      match s.readVa (viewOf c) frame 0x34 with
      | .error _ => s.addJoin c true frame
      | .ok bs =>
        let s := s.noteLines c frame 0x34
        let v := bytesToNat bs
        if (recOf v).kind ≠ 2 then s.countDrop ⟨s.partOfCtx c, fld (byteFld v 0x30 4) 0 10⟩
        else queueFrames c fuel (byteFld v 0x20 8) (s.queueCont c frame v)

/-- More than the frames that a list without a cycle can have: every frame of kind 2 has a byte in memory that is not 0. -/
def State.frameFuel (s : State) : Nat := s.mem.length + 1

/-- The counter at a guest-physical address and its memory key raised by an addend; the waiting frames are taken when COUNT falls from above 0 to 0 or
below (R330). Answers the old COUNT. -/
def State.counterAdd (s : State) (c : CtxId) (gpa key : Nat) (add : Int) : State × Nat :=
  let old := memRead s.mem key 8
  let new := wrap (sgn old 64 + add) 64
  let s := (s.controllerReads c gpa key 16).memStore key 8 new
  if 0 < sgn old 64 && sgn new 64 ≤ 0 then
    let w := memRead s.mem (key + 8) 8
    (queueFrames c s.frameFuel w (s.memStore (key + 8) 8 0), old)
  else (s, old)

/-- A running record of a set is complete (R316, R338). -/
def State.completeRec (s : State) (r : Option (QSetId × Nat)) : State :=
  match r with
  | none => s
  | some (q, no) => s.updQSet q fun x =>
      match x.recs.find? fun y => y.no = no && y.state = .running with
      | none => x
      | some r =>
        let fin := fun y : QRec => if y = r then { y with state := .done } else y
        { x with recs := x.recs.map fin }

/-- Changes to one piece of the queue controller's work. -/
def State.dropJoin (s : State) (k : Nat) : State := { s with joins := s.joins.filter (·.key ≠ k) }
def State.updJoin (s : State) (k : Nat) (f : Join → Join) : State :=
  { s with joins := s.joins.map fun j => if j.key = k then f j else j }

/-- An earlier operation of the kind on the counter is held (R455). -/
def State.behindHeld (s : State) (j : Join) : Bool :=
  s.joins.any fun i => i.key < j.key && i.frame = j.frame && i.addr = j.addr && i.ctx = j.ctx && !i.waits.isEmpty

/-- An operation of the queue controller whose address does not translate waits on a page request (R455). -/
def State.holdJoin (s : State) (j : Join) (m : Miss) : State :=
  let (s, tag) := s.pageRequest j.ctx ⟨j.ctx.vf.pkg, 0⟩ 4 m
  s.updJoin j.key fun j => { j with waits := [tag] }

/-- JOIN_DECREMENT (R316, R330, R455): the release of an ended task, which widens its stores, its decrement and, in a later step, the completion
of its record (log entry 108), or the continuations of a held list. -/
def execJoinDecrement (j : Nat) (s : State) : Out :=
  match s.joins.find? (·.key = j) with
  | none => .next s
  | some x =>
    if !x.waits.isEmpty || !s.released x.need || s.behindHeld x then .next s
    else if x.frame then
      match s.readVa (viewOf x.ctx) x.addr 0x34 with
      | .error m => .next (s.holdJoin x m)
      | .ok _ => .next (queueFrames x.ctx s.frameFuel x.addr (s.dropJoin j))
    else
      let s := s.exposeAll fun d => x.need.contains d.seq
      if x.addr = 0 then .next ((s.dropJoin j).completeRec x.rec_)
      else
      match s.translate (viewOf x.ctx) x.addr true with
      | .error m => .next (s.holdJoin x m)
      | .ok p => .next ((s.updJoin j fun j => { j with need := [], addr := 0 }).counterAdd x.ctx p.gpa p.key (-1)).1

/-- A KIND 1 record for an operation that a refused page dropped (R455). -/
def State.droppedEvent (s : State) (v : VfId) (addr : Nat) : State :=
  s.postEvent (vfFn v) ⟨0xFFFFFFFF, 0, 1, s.clkw, 0x10, 0, BitVec.ofNat 64 addr⟩

/-- The queue set that held work belongs to: that of its record, or that at which its frame is registered (R333, R338). -/
def State.joinSet (s : State) (j : Join) : Option QSetId :=
  match j.rec_ with
  | some (q, _) => some q
  | none => (s.qsets.find? fun x => x.2.waiting.any fun w => w.frame = j.addr && w.ctx = j.ctx).map (·.1)

/-- A page reply for the queue controller's held work (R455). -/
def State.answerJoins (s : State) (tag : Nat) (refuse : Bool) : State :=
  let hit := s.joins.filter fun j => j.waits.contains tag
  if refuse then
    hit.foldl (fun s j =>
      let q := s.joinSet j
      let s := (s.dropJoin j.key).completeRec j.rec_
      let s := match q with
        | some q => s.countDrop q
        | none => s
      s.droppedEvent j.ctx.vf j.addr) s
  else hit.foldl (fun s j => s.updJoin j.key fun j => { j with waits := [] }) s

/-! ## TSPAWN, GRID, QPUSH (R324, R326) -/

/-- Form of TSPAWN, GRID and QPUSH (R324). -/
def pushUni (f : L2R) : UniDef :=
  { g := f.g, gn := f.gn, ok := qOk f true false false, words := 2,
    srcs := [⟨.src 2, f.a.toNat⟩, ⟨.src 8, f.b.toNat⟩], dsts := [⟨.dst 1, f.d.toNat⟩] }

/-- TSPAWN (minor 0), GRID (1) and QPUSH (2). -/
def runPush (minor : Nat) (f : L2R) (s : State) : Out :=
  runUniform (pushUni f) s
    fun g s =>
      let id := g.leader
      let c := s.ctxId id
      let h := g.lt.readReg g.env f.a.toNat 2
      let r0 := recOf (g.lt.readReg g.env f.b.toNat 8)
      let kindBad := minor ≠ 1 && r0.kind ≠ 0 && r0.kind < 5
      let r := if minor = 1 then { r0 with frame := BitVec.ofNat 64 (setFld r0.frame.toNat 0 3 1) } else r0
      match s.handleBad c.vf h rightEnq with
      | some r => .trap s r
      | none =>
        if kindBad then .trap s (trapR 0x13 3 0)
        else
          match s.joinBad id r.join.toNat with
          | some e => .trap s e
          | none =>
            let n := if minor = 1 then fld r.arg.toNat 32 32 else 1
            let counts := minor ≠ 2 && r.join ≠ 0 && r.kind < 5 && n ≠ 0
            if s.mustCommits g.teams then .stay (s.commitsFirst g.teams)
            else if 4 ≤ (s.core id.team.core).launch.length then s.groupWaits g.all .launch
            else if !s.roomAll g.rcv (·.ldn) then s.groupStalls g.all true false false
            else if counts && (s.missVa (viewAt c id.team.core) r.join.toNat 16 true).isSome then
              .stay (s.probeFault g.all r.join.toNat true)
            else
              let e : Launch :=
                { minor := minor, need := s.covered id.team.core g.all, pusher := s.taskNo id.team, q := s.handleSet c.vf h,
                  body := r, n := n, owners := g.rcv, dst := f.d.toNat, team := id.team, ctx := c, waits := [], elem := false }
              let s := s.updCore id.team.core fun k => { k with launch := k.launch ++ [e] }
              .done (((s.startLoad g.rcv f.d.toNat 1).stepAll g.rcv 2).commitsAfter g.teams)

/-- TSPAWN (R324). -/
def execTspawn (f : L2R) (s : State) : Out := runPush 0 f s
/-- GRID (R324, R336). -/
def execGrid (f : L2R) (s : State) : Out := runPush 1 f s
/-- QPUSH (R324). -/
def execQpush (f : L2R) (s : State) : Out := runPush 2 f s

/-- A distributor that would receive a slice of n indices already holds 256 (R321). -/
def State.slicesFull (s : State) (ds : List DieId) (n : Nat) : Bool := (ds.take n).any fun d => 256 ≤ s.slicesOn d

/-- A grid accepted: one slice for each die that receives an index (R336). -/
def State.queueGrid (s : State) (q : QSetId) (ds : List DieId) (r : Rec) (n : Nat) (pusher : Option Nat) : State :=
  let (s, no) := s.fresh
  let d := ds.length
  let mk := fun (die, k) =>
    (⟨no, die, r.level, r, fld r.arg.toNat 0 32, n, k, (n - k + d - 1) / d, d, pusher⟩ : Slice)
  let new := ((ds.zipIdx).map mk).filter fun x => x.next < n
  let vf := ((s.qset q).map (·.vf)).getD ⟨0, 0⟩
  (s.updQSet q fun x => { x with slices := x.slices ++ new }).updVf vf fun v => { v with out := v.out + n }

/-- The controller's verdict on a launch entry: its status with the state after acceptance or refusal, or the miss of the JOIN counter of
an acceptable push (R324, R455). -/
def State.takeLaunch (s : State) (e : Launch) : Except Miss (State × Nat) :=
  let die := coreDieId e.team.core
  let ds := s.shardDies e.q.part die.pkg
  if e.minor ≠ 1 && 5 ≤ e.body.kind then .ok (s.countDrop e.q, accepted)
  else if e.n = 0 then .ok (s, accepted)
  else
    let st := s.pushStatus e.q die e.n (e.minor ≠ 1)
    let st := if st = accepted && e.minor = 1 && s.slicesFull ds e.n then ringFull else st
    if st ≠ accepted then .ok (s, st)
    else
      let put := fun s : State =>
        if e.minor = 1 then s.queueGrid e.q ds e.body e.n e.pusher else s.queueRec e.q die e.body e.pusher
      if e.minor = 2 || e.body.join = 0 then .ok (put s, accepted)
      else
        match s.translate (viewOf e.ctx) e.body.join.toNat true with
        | .error m => .error m
        | .ok p => .ok (put (s.counterAdd e.ctx p.gpa p.key e.n).1, accepted)

/-- The oldest entry of a core's pending-launch queue leaves. -/
def State.dropLaunch (s : State) (c : CoreId) : State := s.updCore c fun k => { k with launch := k.launch.drop 1 }

/-- The oldest entry of a core's pending-launch queue changed. -/
def State.updLaunch (s : State) (c : CoreId) (f : Launch → Launch) : State :=
  s.updCore c fun k => { k with launch := (k.launch.take 1).map f ++ k.launch.drop 1 }

/-- The JOIN of a core's oldest entry no longer translates: nothing is accepted, the entry waits on a page request, and the miss is a faulted
element of its team, where that runs (R201, R455). -/
def State.holdLaunch (s : State) (c : CoreId) (e : Launch) (m : Miss) : State :=
  let runs := (s.team e.team).any (·.stop = .running)
  let (s, tag) := s.pageRequest e.ctx c (if runs then 0 else 4) m
  let s := s.updLaunch c fun e => { e with waits := [tag], elem := runs }
  if runs then s.probeFault e.owners e.body.join.toNat true else s

/-- What a thread of a refused push has: no status comes, and it is told of the refusal unless its team's element does so (R203, R455). -/
def Launch.refuse (e : Launch) (t : Thread) : Thread :=
  let told : List Raise := if e.elem then [] else [⟨0x10, 0, e.body.join.toNat, none, true⟩]
  { (t.clearPend e.dst 1) with ldn := t.ldn - 1, deferred := t.deferred ++ told }

/-- PENDING_LAUNCH_TAKE (R322, R324, R326, R455): the controller takes a core's oldest entry once its release is done, which widens the
stores that it covers, and writes the status; an entry whose JOIN no longer translates waits. -/
def execPendingLaunchTake (c : CoreId) (s : State) : Out :=
  match (s.core c).launch with
  | [] => .next s
  | e :: _ =>
    if !e.waits.isEmpty || !s.released e.need then .next s
    else
      let s := s.expose c fun d => e.need.contains d.seq
      match s.takeLaunch e with
      | .error m => .next (s.holdLaunch c e m)
      | .ok (s, st) =>
        .next ((s.dropLaunch c).settleThreads e.owners fun t => { (t.writeReg e.dst 1 st 0) with ldn := t.ldn - 1 })

/-- A page reply for launch entries: granted, they are taken again; refused, nothing is accepted, and the threads of the push are told
(R203, R455). -/
def State.answerLaunches (s : State) (tag : Nat) (refuse : Bool) : State :=
  s.cores.foldl (fun s (c, k) =>
    match k.launch.head? with
    | none => s
    | some e =>
      if !e.waits.contains tag then s
      else if refuse then
        (s.dropLaunch c).settleThreads e.owners e.refuse
      else s.updLaunch c fun e => { e with waits := [], elem := false }) s

/-! ## JADD, JRD (R332) -/

/-- Step 1 of major 0x0D (R331). -/
def jOk (f : L2R) (b : Bool) : Bool := wIn f.toL1 [0] && f.mod = 0 && f.c = 0 && (b || f.b = 0)

/-- The counter access of JADD or JRD for a group; `back` when a value returns. -/
def State.counterAccess (s : State) (g : UniGroup) (kind : AccKind) (addr data d : Nat) (back : Bool) : State :=
  let acc := { newAccess s g.leader kind 0 addr 16 none with
    owners := g.all, rcv := g.rcv, data := data, dst := d, g := 2, scope := 6 }
  let s := s.addAccess acc
  (if back then s.startLoad g.rcv d 2 else s.startStore g.rcv).stepAll g.rcv 2

/-- Forms of JADD, and of JRD and QFENCE (R331). -/
def jaddUni (f : L2R) : UniDef :=
  { g := f.g, gn := f.gn, ok := jOk f true && f.imm = 0, words := 2, srcs := [⟨.src 2, f.a.toNat⟩, ⟨.src 2, f.b.toNat⟩],
    dsts := [⟨.dstZ 2, f.d.toNat⟩] }
def jrdUni (f : L2R) : UniDef :=
  { g := f.g, gn := f.gn, ok := jOk f false && f.imm = 0, words := 2, srcs := [⟨.src 2, f.a.toNat⟩],
    dsts := [⟨.dst 2, f.d.toNat⟩] }

/-- JADD (R332). -/
def execJadd (f : L2R) (s : State) : Out :=
  runUniform (jaddUni f) s
    fun g s =>
      let a := g.lt.readReg g.env f.a.toNat 2
      let back := f.d ≠ 124
      match s.place g.leader 0 a 16 true with
      | .error r => .trap s r
      | .ok _ =>
        if s.mustCommits g.teams then .stay (s.commitsFirst g.teams)
        else if !s.roomAll g.rcv (fun t => if back then t.ldn else t.stn) then s.groupStalls g.all back (!back) false
        else
          let s := s.counterAccess g .jadd a (g.lt.readReg g.env f.b.toNat 2) f.d.toNat back
          .done (s.commitsAfter g.teams)

/-- JRD (R332). -/
def execJrd (f : L2R) (s : State) : Out :=
  runUniform (jrdUni f) s
    fun g s =>
      let a := g.lt.readReg g.env f.a.toNat 2
      match s.place g.leader 0 a 16 true with
      | .error r => .trap s r
      | .ok _ =>
        if !s.roomAll g.rcv (·.ldn) then s.groupStalls g.all true false false
        else .done (s.counterAccess g .jrd a 0 f.d.toNat true)

/-- A counter access whose value is back: the old COUNT in its threads, or STN lowered; what the acquire of a JRD orders follows
(R332, R382). -/
def State.returnCounter (s : State) (a : Access) (v : Nat) : State :=
  let s := if a.kind = .jrd then s.acquire a.core else s
  (if a.dst = 124 then s.lowerStn a.takers
   else if a.word = 0 then s.finishLoad a v
   else s.poisoned a (a.word.toNat - 1)).dropAccess a.seq

/-! ## The home (R246, R250, R252, R330) -/

/-- What the issuing cores hold of a line as read-only copies leaves when a write or an atomic is performed there (R231). -/
def State.dropCopiesAt (s : State) (r : Req) (key : Nat) : State :=
  (s.leafAccs r).foldl (fun s a => if (s.core a.core).l1.any (fun l => l.copy.isSome && l.key = key / 128 * 128) then
    s.updCore a.core fun k => { k with l1 := k.l1.filter fun l => !(l.copy.isSome && l.key = key / 128 * 128) } else s) s

/-- A remote load in windowed visibility may leave a read-only copy of its line in its core (R231; log entry 13). -/
def State.copyAt (s : State) (r : Req) (key : Nat) : State :=
  match (s.leafAccs r).head? with
  | some a => if Config.copyServes s.tick then s.fillCopy a.ctx a.core a.addr a.cp ⟨r.gpa, key, r.home⟩ else s
  | none => s

/-- A request performed at the home: the reply's value with the memory after it. Requests with an uncorrectable error are
performed for none of their contributions, whose threads are told (R382). -/
def State.performHome (s : State) (r : Req) (key : Nat) : State × Nat :=
  match if r.op = .write then none else s.badMem r.part r.gpa key r.size with
  | some src => (s.spoilLeaves r src, 0)
  | none =>
    match r.op with
    | .arrive =>
      let v := memRead s.mem key 12
      (s.memStore key 8 (barArrives r.x v % 2 ^ 64), v)
    | .jadd => s.counterAdd r.ctx r.gpa key (sgn r.x 64)
    | .jrd => (s, memRead s.mem key 8)
    | .read => ((s.l2Use r.part r.gpa key 0 false).copyAt r key, memRead s.mem key r.size)
    | op =>
      let s := s.l2Use r.part r.gpa key 0 (op ≠ .ld)
      let old := memRead s.mem key r.size
      ((if op = .ld then s else s.memStore key r.size (netNew op r.size old r.x r.y)).dropCopiesAt r key, old)

/-- A contribution's thread has an earlier access that this one must follow and that a fault has sent back: the home does not perform it
(R206, R218, R249). -/
def State.overtakes (s : State) (r : Req) : Bool :=
  (s.leafAccs r).any fun a => s.accs.any fun b =>
    b.seq < a.seq && b.pendingStill && b.share a && s.precedes { b with state := .waiting } a &&
      (b.state ≠ .sent || s.flights.any fun f => f.faulted && f.req.leaves.any (·.1 = b.seq))

/-- HOME_PERFORM (R246, R250, R252, R330, R342, R402): loads and JRD only read; every other request needs write permission. -/
def execHomePerform (r : Nat) (s : State) : Out :=
  match s.flights.find? fun f => f.at_ = .toHome && (s.flight r).any fun g => g.req.home = f.req.home with
  | none => .next s
  | some f =>
    if f.req.rid ≠ r then .next s
    else
      let back := s.dropFlight r
      if s.overtakes f.req then .next (back.send { f with at_ := .backWeir, faulted := true })
      else
        match s.stage2 f.req.part f.req.gpa (!netReads f.req.op) with
        | .error _ => .next (back.send { f with at_ := .backWeir, faulted := true })
        | .ok key =>
          let (s, v) := back.performHome f.req key
          .next (s.send { f with at_ := .backWeir, value := v })

/-! ## JWAIT (R333) -/

/-- The checks of a JWAIT on its leader, in order (R333). -/
def State.jwaitBad (s : State) (l : ThreadId) (cnt h n : Nat) : Option Raise :=
  let frame := s.frameOf l
  if frame = 0 then some (trapR 0x10 0 0)
  else
    match s.place l 0 cnt 16 true with
    | .error r => some r
    | .ok _ =>
      match s.handleBad (s.ctxId l).vf h rightEnq with
      | some r => some r
      | none =>
        if !canonical frame (frameSize n) then some (trapR 0x12 0 frame)
        else if s.allocOf l.team < n then some (trapR 0x02 n 0)
        else none

/-- The continuation record of a JWAIT: ENTRY the current image, FRAME with kind 2 and the task's priority and guarded bit,
its JOIN and ARG (R333). -/
def contRec (image frame : Nat) (k : Rec) : Rec :=
  { entry := BitVec.ofNat 64 image, frame := BitVec.ofNat 64 (frame + fld k.frame.toNat 3 3 * 8 + 2), join := k.join, arg := k.arg }

/-- The frame that a JWAIT writes (R333, Table 5), LINK aside. RESUME has 14 bits for the offset: that of a JWAIT in the last two words of a full
overlay, 16,384, is written as 0 (DESIGN CHOICE; log entry 79). -/
def State.frameBytes (s : State) (t : TeamId) (r : Rec) (off n qshard : Nat) : List Byte :=
  let lane := fun l => (s.thread ⟨t, l⟩).getD (startThread 0)
  natToBytes 32 r.num ++ natToBytes 8 0 ++ natToBytes 4 (off % 2 ^ 14 + 2 ^ 14 * (n / 8)) ++ natToBytes 4 (s.liveMask t) ++
    natToBytes 4 qshard ++ natToBytes 12 0 ++
    ((List.range 32).flatMap fun l =>
      natToBytes 4 (lane l).preds.toNat ++ natToBytes 4 (lane l).fflags.toNat ++ natToBytes 4 (lane l).fmode.toNat ++
        natToBytes 4 0) ++
    ((List.range 32).flatMap fun l => natToBytes 64
      ((List.range 120).foldl (fun acc k => acc + ((lane l).regs.getD k Reg.zero).tag.toNat * 2 ^ (4 * k)) 0)) ++
    ((List.range 32).flatMap fun l => (List.range n).flatMap fun k =>
      natToBytes 4 ((lane l).regs.getD k Reg.zero).val.toNat)

/-- The image that a thread executes in (R333, R360). -/
def State.imageAt (s : State) (id : ThreadId) (pc : Pc) : Nat := ((s.core id.team.core).imageOf pc.tok.toNat).getD 0

/-- JWAIT's effect once its team waits: the end of the task and its release, the frame, the counter action and the fresh start (R333). -/
def State.jwaitDone (s : State) (l : ThreadId) (pc : Pc) (cntVa cnt h n : Nat) : State :=
  let t := l.team
  let c := s.ctxId l
  let frame := s.frameOf l
  let task := (s.team t).bind (·.task)
  let q := s.handleSet c.vf h
  let body := contRec (s.imageAt l pc) frame ((task.map (·.body)).getD ⟨0, 0, 0, 0⟩)
  let qshard := q.idx + 2 ^ 10 * t.core.pkg + 2 ^ 18 * coreDie t.core
  let bytes := s.frameBytes t body (pc.off + 2) n qshard
  let v := viewAt c t.core
  let s := (s.endTask t false).writeVa v frame bytes
  let w : Waiting := ⟨frame, c, task.bind fun k => k.q.map fun x => (x, k.no), ((s.blockOf t).map (·.descVa)).getD 0⟩
  let s := s.updQSet q fun x => { x with waiting := x.waiting ++ [w] }
  let s := if sgn (memRead s.mem cnt 8) 64 ≤ 0 then s.queueCont c frame (bytesToNat (bytes.take 0x34))
    else
      let link := memRead s.mem (cnt + 8) 8
      (s.writeVa v (frame + 0x20) (natToBytes 8 link)).writeVa v (cntVa + 8) (natToBytes 8 frame)
  (s.acquire t.core).freshStart t

/-- The threads of a team that has met at its instruction wait there as one until a hold is over. -/
def State.waitTeam (s : State) (ids : List ThreadId) (h : Hold) : State := s.updThreads ids fun t => { t with park := .team h }

/-- Nothing of the team is outstanding and every counter is 0 (R333). -/
def State.atRest (s : State) (t : TeamId) : Bool := s.quiet t && s.countersZero t

/-- JWAIT by a whole team (R333, R455). -/
def jwaitAct (f : L2R) (s : State) : State :=
  match s.group with
  | [] => s
  | (l, lt) :: _ =>
    let t := l.team
    let cnt := lt.readReg (s.env l) f.a.toNat 2
    let h := lt.readReg (s.env l) f.b.toNat 2
    let n := f.imm.toNat
    let c := s.ctxId l
    match regCheck lt [⟨.src 2, f.a.toNat⟩, ⟨.src 2, f.b.toNat⟩] with
    | some r => s.raises [(l, r)]
    | none =>
      match s.jwaitBad l cnt h n with
      | some r => s.raises [(l, r)]
      | none =>
        if s.mustCommit t then s.commitFirst t
        else if !s.atRest t then s.waitTeam s.gathered.ids .rest
        else
          match s.missVa (viewAt c t.core) (s.frameOf l) (frameSize n) true with
          | some va => s.probeFault s.gathered.ids va true
          | none =>
            match s.translate (viewAt c t.core) cnt true with
            | .error _ => s.probeFault s.gathered.ids cnt true
            | .ok p => s.jwaitDone l lt.pc cnt p.key h n

/-- Step 1 of JWAIT (R331, Table 4). -/
def jwaitOk (f : L2R) : Bool :=
  let n := f.imm.toNat
  jOk f true && f.g = 31 && !f.gn && f.d = 0 && n % 8 = 0 && n ≤ 120 && Opd.legal ⟨.src 2, f.a.toNat⟩ &&
    Opd.legal ⟨.src 2, f.b.toNat⟩

/-- JWAIT (R331, R333). -/
def execJwait (f : L2R) (s : State) : Out := if jwaitOk f then asTeam s .team (jwaitAct f) else .next s.illegal

/-! ## RGIVE, RCLAIM (R314, R335) -/

/-- An allocation changed: registers beyond it are lost, new ones read 0 with tag RAW (R335). -/
def Thread.resize (t : Thread) (n : Nat) : Thread :=
  { t with regs := t.regs.take n ++ List.replicate (n - t.regs.length) Reg.zero }

/-- A team's allocation and its block's budget changed, and v written to D in the live threads. D must lie within the new
allocation, and must not be pending; a team in which every live thread fails that changes nothing (R335). -/
def State.reallot (s : State) (t : TeamId) (b : BlockId) (alloc budget d v : Nat) : State :=
  let ids := s.liveIds t
  if alloc ≤ d && d < 120 then s.raises (ids.map fun i => (i, trapR 0x02 d 0))
  else
    let bad := ids.filterMap fun i => (s.thread i).bind fun th =>
      (hazardFail (th.resize alloc) [⟨.dst 1, d⟩]).map fun n => (i, trapR 0x03 n 0)
    let good := ids.filter fun i => !(bad.any (·.1 = i))
    if !bad.isEmpty && good.isEmpty then s.raises bad
    else
      let s := (s.updBlock b fun x => { x with budget := budget }).mapThreads fun i th =>
        if i.team = t then th.resize alloc else th
      (s.updThreads good fun th => (th.writeReg d 1 v 0).step 2).raises bad

/-- RGIVE by a whole team. -/
def rgiveAct (f : L2R) (s : State) : State :=
  match s.gathered.ids with
  | [] => s
  | l :: _ =>
    match s.team l.team, s.blockOf l.team with
    | some tm, some b =>
      let n := f.imm.toNat
      let alloc := s.allocOf l.team
      if alloc < n + 8 then s.raises [(l, trapR 0x02 n 0)]
      else s.reallot l.team tm.block (alloc - n) (b.budget + n) f.d.toNat (alloc - n)
    | _, _ => s

/-- RCLAIM by a whole team. -/
def rclaimAct (f : L2R) (s : State) : State :=
  match s.gathered.ids with
  | [] => s
  | l :: _ =>
    match s.team l.team, s.blockOf l.team with
    | some tm, some b =>
      let n := f.imm.toNat
      let alloc := s.allocOf l.team
      if 120 < alloc + n then s.raises [(l, trapR 0x02 n 0)]
      else if b.budget < n then s.reallot l.team tm.block alloc b.budget f.d.toNat 0xFFFFFFFF
      else s.reallot l.team tm.block (alloc + n) (b.budget - n) f.d.toNat (alloc + n)
    | _, _ => s

/-- Step 1 of RGIVE and RCLAIM (R331, Table 4). -/
def allotOk (f : L2R) : Bool :=
  let n := f.imm.toNat
  jOk f false && f.g = 31 && !f.gn && f.a = 0 && 8 ≤ n && n ≤ 112 && n % 8 = 0 && Opd.legal ⟨.dst 1, f.d.toNat⟩

/-- RGIVE (R335). -/
def execRgive (f : L2R) (s : State) : Out := if allotOk f then asTeam s .team (rgiveAct f) else .next s.illegal
/-- RCLAIM (R335). -/
def execRclaim (f : L2R) (s : State) : Out := if allotOk f then asTeam s .team (rclaimAct f) else .next s.illegal

/-! ## SNAP (R389) -/

/-- SNAP by a whole team: a guarded one commits and writes 0, another writes 1. -/
def snapAct (f : L2R) (s : State) : State :=
  match s.gathered.ids with
  | [] => s
  | l :: _ =>
    let t := l.team
    let guarded := (s.team t).any Team.guarded
    let bad := s.group.filterMap fun (i, th) => (regCheck th [⟨.dst 1, f.d.toNat⟩]).map fun r => (i, r)
    let good := s.gathered.ids.filter fun i => !(bad.any (·.1 = i))
    if good.isEmpty then s.raises bad
    else if s.mustCommit t then s.commitFirst t
    else if !s.atRest t then (s.waitTeam good .rest).raises bad
    else
      let s := s.updThreads good fun th => (th.writeReg f.d.toNat 1 (b2n (!guarded)) 0).step 2
      (s.commitAfter t).raises bad

/-- Step 1 of SNAP (R331, Table 4). -/
def snapOk (f : L2R) : Bool := jOk f false && f.g = 31 && !f.gn && f.a = 0 && f.imm = 0 && Opd.legal ⟨.dst 1, f.d.toNat⟩

/-- SNAP (R389). -/
def execSnap (f : L2R) (s : State) : Out := if snapOk f then asTeam s .team (snapAct f) else .next s.illegal

/-! ## Fences (R337, R338) -/

/-- A value that an instruction gives its threads later, pending as for a load (R49, R337): it is fixed, and its return is an access of its
own. -/
def State.laterValue (s : State) (g : UniGroup) (d w v : Nat) : State :=
  let acc := { newAccess s g.leader .load 1 0 (4 * w) (some (.pad g.leader.team.core 0)) with
    owners := g.rcv, dst := d, g := w, got := some v }
  ((s.addAccess acc).startLoad g.rcv d w).stepAll g.rcv 2

/-- QFENCE (R337): it waits for its teams' own launch entries, then appends the fence; its sequence number returns as a load's data. -/
def execQfence (f : L2R) (s : State) : Out :=
  runUniform (jrdUni f) s
    fun g s =>
      let h := g.lt.readReg g.env f.a.toNat 2
      let v := (s.ctxId g.leader).vf
      let t := g.leader.team
      match s.handleBad v h rightEnq with
      | some r => .trap s r
      | none =>
        if g.teams.any fun t => !(s.teamLaunch t).isEmpty then .parked (s.waitOrder g.rcv .launches)
        else if s.mustCommits g.teams then .stay (s.commitsFirst g.teams)
        else if !s.roomAll g.rcv (·.ldn) then s.groupStalls g.all true false false
        else
          let q := s.handleSet v h
          let (s, no) := s.fresh
          let k := ((s.qset q).map (·.fenceSeq)).getD 0 + 1
          let s := s.updQSet q fun x => { x with fenceSeq := k, fences := x.fences ++ [(k, no, s.taskNo t)] }
          .done ((s.laterValue g f.d.toNat 2 k).commitsAfter g.teams)

/-- Every record accepted before a number is complete (R338). -/
def QSet.completeTo (q : QSet) (no : Nat) : Bool :=
  q.recs.all (fun r => no ≤ r.no || r.state = .done) && q.slices.all fun x => no ≤ x.no

/-- FENCE_COMPLETE (R338, R455): the oldest fence of a set completes and its number is logged. -/
def execFenceComplete (q : QSetId) (s : State) : Out :=
  match s.qset q with
  | none => .next s
  | some x =>
    match x.fences with
    | [] => .next s
    | (k, no, _) :: rest =>
      if !x.logWaits.isEmpty || !x.completeTo no then .next s
      else
        match s.stage2 q.part x.fenceLog true with
        | .error m =>
          let (s, tag) := s.pageRequest ⟨x.vf, 0⟩ ⟨x.vf.pkg, 0⟩ 4 m
          .next (s.updQSet q fun x => { x with logWaits := [tag] })
        | .ok key =>
          .next ((s.memStore key 8 k).updQSet q fun x => { x with
            fences := rest, logged := k, lastFenceNo := no, recs := x.recs.filter fun r => no ≤ r.no || r.state ≠ .done })

/-- A page reply for fence log writes: granted, they are tried again; refused, the write is dropped and counted (R455). -/
def State.answerLogs (s : State) (tag : Nat) (refuse : Bool) : State :=
  let hit := s.qsets.filter fun (_, x) => x.logWaits.contains tag
  hit.foldl (fun s (q, x) =>
    if refuse then
      (s.updQSet q fun x => { x with logWaits := [], fences := x.fences.drop 1, drops := x.drops + 1 }).droppedEvent x.vf x.fenceLog
    else s.updQSet q fun x => { x with logWaits := [] }) s

/-! ## Replay (R339) -/

/-- A queue set rebuilt from its last logged fence: the records after it, fences among them, whose pushing task is not itself after it. -/
def QSet.rebuilt (q : QSet) : QSet :=
  let keep := fun (no : Nat) (pusher : Option Nat) => decide (q.lastFenceNo < no) && pusher.all fun p => decide (p ≤ q.lastFenceNo)
  let again := fun r : QRec => { r with state := .queued }
  { q with
    recs := (q.recs.filter fun r => keep r.no r.pusher).map again
    slices := q.slices.filter fun x => keep x.no x.pusher
    fences := q.fences.filter fun (_, no, pusher) => keep no pusher
    conts := [], waiting := [], logWaits := [] }

/-- Records of a set that count toward O. -/
def QSet.outstanding (q : QSet) : Nat :=
  (q.recs.filter fun r => r.counted && r.state = .queued).length + q.slices.foldl (fun n x => n + x.left) 0

/-- The queue sets of a partition rebuilt after its reset, and O counted afresh. -/
def State.rebuildQueues (s : State) (part : Nat) : State :=
  let s := { s with qsets := tmap s.qsets fun q x => if q.part = part then x.rebuilt else x
                    joins := s.joins.filter fun j => s.partOfCtx j.ctx ≠ part }
  { s with vfs := tmap s.vfs fun v f => if f.part = part then
      { f with out := s.qsets.foldl (fun n (_, x) => if x.vf = v then n + x.outstanding else n) 0 } else f }

end Sys2Proof.Machine
end

