-- ==== Sys2Proof/Machine/Barriers.lean ====
section
/-! DEFINITION. Barriers (13_tasks R340 to R343) and the return of atomic and counter values (10_combining R254; 09_ordering
R226; 13_tasks R332). -/
namespace Sys2Proof.Machine

/-- Fields of a barrier's literal word (R340). -/
def barScope (f : L2I) : Nat := fld f.lit.toNat 0 3
def barNo (f : L2I) : Nat := fld f.lit.toNat 3 5
def barCount (f : L2I) : Nat := fld f.lit.toNat 8 24

/-- Step 1 of BAR (minor 0), BARA (1) and BARW (2) (R340, Table 6). -/
def barOk (minor : Nat) (f : L2I) : Bool :=
  let word := 6 ≤ barScope f
  let counts := minor ≠ 2 && 2 ≤ barScope f && barScope f < 6
  guardOk f.g f.gn && wIn f.toL1 [0] && (if word then Opd.legal ⟨.src 2, f.a.toNat⟩ && barNo f = 0 else f.a = 0) &&
    (if counts then barCount f ≠ 0 else barCount f = 0) &&
    (match minor with
     | 0 => f.d = 0
     | 1 => Opd.legal ⟨.dst 1, f.d.toNat⟩
     | _ => Opd.legal ⟨.src 1, f.d.toNat⟩)

/-- The hardware barrier of a scope up to package for a thread (R341), after clamping: a guest's die or package barrier is its partition's
own (R22, R410). Team barriers are those of the team slot, so that a suspended team which resumes on another slot finds the barriers of that
slot: the rules give them no place in a fault frame (DESIGN CHOICE; log entry 109). -/
def State.barId (s : State) (id : ThreadId) (scope no : Nat) : BarId :=
  let c := s.ctxId id
  let guest := !((s.ctx c).any (·.sup))
  let core := id.team.core
  let unit : CoreId := match scope with
    | 3 => ⟨core.pkg, 4 * coreQuad core⟩
    | 4 => ⟨core.pkg, 64 * coreDie core⟩
    | 5 => ⟨core.pkg, 0⟩
    | _ => core
  { scope := scope, team := if scope = 0 then some id.team else none
    block := if scope = 1 then (s.team id.team).map (·.block) else none
    core := unit, part := if guest && (scope = 4 || scope = 5) then some (s.partOfCtx c) else none, id := no }

/-- Teams of a block that have a live thread (R341). -/
def State.liveTeams (s : State) (b : BlockId) : Nat :=
  (s.teams.filter fun (i, tm) => tm.block = b && !(s.liveIds i).isEmpty).length

/-- The phase that a barrier ends when its arrivals have reached the expected number (R341). -/
def Bar.complete (b : Bar) (expect : Nat) : Bar :=
  if b.count ≠ 0 && expect ≤ b.count then { b with count := b.count - expect, phase := b.phase + 1 } else b

/-- Arrivals that a barrier expects. -/
def State.barExpect (s : State) (i : BarId) (b : Bar) : Nat :=
  match i.scope, i.block with
  | 0, _ => 1
  | 1, some k => s.liveTeams k
  | _, _ => b.expect

/-- One arrival at a hardware barrier; the first of a phase fixes the expected number (R341). -/
def State.barArrive (s : State) (i : BarId) (count : Nat) : State :=
  let b := s.bar i
  let b : Bar := { b with count := b.count + 1, expect := if b.count = 0 then count else b.expect }
  { s with bars := tset s.bars i (b.complete (s.barExpect i b)) }

/-- Block barriers whose expected number has fallen to the arrivals, because a team ended (R341). -/
def State.settleBars (s : State) : State :=
  { s with bars := tmap s.bars fun i b => if i.scope = 1 then b.complete (s.barExpect i b) else b }

/-- A phase p that a wait for phase d is over with: p - d modulo 2^32 lies from 1 to 2^31 (R343). -/
def phaseOver (p d : W32) : Bool := 1 ≤ (p - d).toNat && (p - d).toNat ≤ 2 ^ 31

/-- Accesses of the team's live threads that the release of an arrival still waits for (R217, R343). -/
def State.barWaits (s : State) (t : TeamId) (scope : Nat) : Bool :=
  s.accs.any fun a => a.pendingStill && a.kind ≠ .probe && a.ofTeam t &&
    (6 ≤ scope || (s.homeOfAcc a).all (· = a.core.pkg))

/-- The thread from which a barrier's operands are read (R341). -/
def barLeader (f : L2I) (g : List (ThreadId × Thread)) : Option (ThreadId × Thread) :=
  match g.filter fun (_, t) => t.guard f.g f.gn with
  | x :: _ => some x
  | [] => g.head?

/-- What a team's barrier acts for: the threads whose destination is sound, and those of them that receive BARA's result (R44, R45). -/
structure BarGroup where
  ids : List ThreadId
  rcv : List ThreadId

/-- BARA's result in the threads that receive it; every thread steps past. -/
def State.barResult (s : State) (f : L2I) (g : BarGroup) (ph : Nat) : State :=
  (s.updThreads g.rcv fun t => t.writeReg f.d.toNat 1 ph 0).stepAll g.ids 2

/-- The team waits for a phase. -/
def State.barWait (s : State) (g : BarGroup) (p : Park) : State := s.updThreads g.ids fun t => { t with park := p }

/-- A hardware barrier by a whole team. -/
def State.barHard (s : State) (minor : Nat) (f : L2I) (l : ThreadId) (lt : Thread) (g : BarGroup) (scope : Nat) : State :=
  let i := s.barId l scope (barNo f)
  let ph := (s.bar i).phase
  match minor with
  | 0 => ((s.barArrive i (barCount f)).barWait g (.bar i ph)).commitAfter l.team
  | 1 => ((s.barArrive i (barCount f)).barResult f g ph.toNat).commitAfter l.team
  | _ => s.barWait g (.bar i (w32 (lt.readReg (s.env l) f.d.toNat 1)))

/-- An arrival at a barrier word sent, its team waiting for the reply (R342). -/
def State.barSend (s : State) (minor : Nat) (f : L2I) (l : ThreadId) (g : BarGroup) (addr : Nat) : State :=
  let n := s.seq
  let acc := { newAccess s l (.atomic .arrive) 0 addr 16 none with
    owners := g.ids, rcv := g.rcv, data := 1, dst := f.d.toNat, g := minor, scope := 6 }
  let s := s.addAccess acc
  match s.access n with
  | some a => ((s.addFlight n [a]).barWait g (.reply n)).commitAfter l.team
  | none => s

/-- The barrier word that a team names. -/
def State.barAddr (s : State) (f : L2I) (l : ThreadId) (lt : Thread) : Nat := lt.readReg (s.env l) f.a.toNat 2

/-- The trap of a barrier word's address (R342). -/
def State.barBad (s : State) (f : L2I) (l : ThreadId) (lt : Thread) (scope : Nat) : Option Raise :=
  if scope < 6 then none
  else match s.place l 0 (s.barAddr f l lt) 16 true with
    | .error r => some r
    | .ok _ => none

/-- A barrier word by a whole team (R342, R455). -/
def State.barSoft (s : State) (minor : Nat) (f : L2I) (l : ThreadId) (lt : Thread) (g : BarGroup) : State :=
  let addr := s.barAddr f l lt
  if minor = 2 then
    match s.missVa (viewAt (s.ctxId l) l.team.core) addr 16 false with
    | some va => s.probeFault g.ids va false
    | none => s.barWait g (.barWord addr (w32 (lt.readReg (s.env l) f.d.toNat 1)))
  else s.barSend minor f l g addr

/-- What an arrival releases (R217, R343): at quad scope or wider the team's stores that stand in its core's L1. -/
def State.barExpose (s : State) (minor : Nat) (t : TeamId) (scope : Nat) : State :=
  if minor = 2 || scope < 3 then s else s.expose t.core fun d => d.owners.any (·.team = t)

/-- Register operands of a barrier that its leader reads, and BARA's destination (R340). -/
def barSrcs (minor : Nat) (f : L2I) : List Opd :=
  (if 6 ≤ barScope f then [⟨.src 2, f.a.toNat⟩] else []) ++ if minor = 2 then [⟨.src 1, f.d.toNat⟩] else []
def barDsts (minor : Nat) (f : L2I) : List Opd := if minor = 1 then [⟨.dst 1, f.d.toNat⟩] else []

/-- BAR, BARA and BARW by a whole team (R341, R343). Steps 4 and 5 of the leader's sources and of every guard-true thread's destination come
first; threads that fail trap at once, and when every guard-true one does nothing is performed (R6, R44, R45). -/
def barAct (minor : Nat) (f : L2I) (s : State) : State :=
  match barLeader f s.group with
  | none => s
  | some (l, lt) =>
    let on := s.group.filter fun (_, t) => t.guard f.g f.gn
    let bad := on.filterMap fun (i, t) => (regCheck t (barDsts minor f)).map fun r => (i, r)
    let good := s.gathered.ids.filter fun i => !(bad.any (·.1 = i))
    let g : BarGroup := ⟨good, (on.map (·.1)).filter good.contains⟩
    match regCheck lt (barSrcs minor f) with
    | some r => s.raises [(l, if lt.guard f.g f.gn then (regCheck lt (barSrcs minor f ++ barDsts minor f)).getD r else r)]
    | none =>
      if !on.isEmpty && g.rcv.isEmpty then s.raises bad
      else
        let (s', sc) := s.clamp (s.ctxId l) l.team.core (barScope f)
        match s.barBad f l lt sc with
        | some r => s.raises (if bad.any (·.1 = l) then bad else (l, r) :: bad)
        | none =>
          if minor ≠ 2 && s.mustCommit l.team then s.commitFirst l.team
          else if minor ≠ 2 && s.barWaits l.team sc then (s.waitTeam g.ids (.release sc)).raises bad
          else
            let s' := s'.barExpose minor l.team sc
            (if sc < 6 then s'.barHard minor f l lt g sc else s'.barSoft minor f l lt g).raises bad

/-- BAR (R343). -/
def execBar (f : L2I) (s : State) : Out := if barOk 0 f then asTeam s .barrier (barAct 0 f) else .next s.illegal
/-- BARA (R343). -/
def execBara (f : L2I) (s : State) : Out := if barOk 1 f then asTeam s .barrier (barAct 1 f) else .next s.illegal
/-- BARW (R343). -/
def execBarw (f : L2I) (s : State) : Out := if barOk 2 f then asTeam s .barrier (barAct 2 f) else .next s.illegal

/-! ## The waits' ends (R343) -/

/-- The thread waits at a barrier word. -/
def atWord : Park → Bool
  | .barWord _ _ => true
  | _ => false

/-- BARRIER_RELEASE: the threads of a team whose wait is over step past BAR or BARW, which is an acquire; a barrier word that does not
translate is a faulted element of the team (R217, R343, R455). -/
def execBarrierRelease (t : TeamId) (s : State) : Out :=
  let due := (s.members t).filter fun (i, th) => th.live &&
    (match th.park with
     | .bar b d => phaseOver (s.bar b).phase d
     | .barWord a d =>
       (match s.translate (viewAt (s.ctxId i) t.core) (a + 4) false with
        | .ok p => phaseOver (w32 (memRead s.mem p.key 4)) d
        | .error _ => false)
     | _ => false)
  let lost := (s.members t).findSome? fun (i, th) => match th.park with
    | .barWord a _ => (s.missVa (viewAt (s.ctxId i) t.core) (a + 4) 4 false).map fun va => (i, va)
    | _ => none
  match lost, (s.team t).map (·.stop) with
  | some (i, va), some TeamStop.running =>
    if (s.teamAccs t).any (·.kind = .probe) then .next s else .next (s.probeFault [i] va false)
  | _, _ =>
    let s := if due.any fun x => atWord x.2.park then s.acquire t.core else s
    .next (s.updThreads (due.map (·.1)) fun th => { th.step 2 with park := .ready })

/-! ## Values that come back -/

/-- The reply to an arrival at a barrier word: BARA's threads take the phase and go on, BAR's wait for it; of a word with an uncorrectable
error they are told (R342, R343, R382). -/
def State.returnArrive (s : State) (a : Access) (v : Nat) : State :=
  let ph := fld v 32 32
  let s := s.dropAccess a.seq
  let here := a.owners.filter fun i => (s.thread i).any fun t => t.park = .reply a.seq
  if a.word ≠ 0 then
    (s.countRead a (a.word.toNat - 1)).updThreads here fun t =>
      { t with park := .ready, deferred := t.deferred ++ [⟨0x21, a.word.toNat - 1, a.addr, none, true⟩] }
  else if a.g = 0 then s.updThreads here fun t => { t with park := .barWord a.addr (w32 ph) }
  else
    let s := s.updThreads (here.filter a.rcv.contains) fun t => t.writeReg a.dst 1 ph 0
    let s := s.updThreads here fun t => { t with park := .ready }
    s.stepAll here 2

/-- ATOMIC_VALUE_RETURN (R226, R254, R332, R342): the value or the acknowledgement of an atomic or of a counter access reaches its threads. -/
def execAtomicValueReturn (a : Nat) (s : State) : Out :=
  match s.access a with
  | none => .next s
  | some x =>
    match x.kind, x.got with
    | .atomic .arrive, some v => .next (s.returnArrive x v)
    | .atomic _, some v => .next (s.returnAtomic x v)
    | .signal, some _ => .next ((s.lowerStn x.owners).dropAccess a)
    | .jadd, some v | .jrd, some v => .next (s.returnCounter x v)
    | _, _ => .next s

end Sys2Proof.Machine
end

