-- ==== Sys2Proof/Machine/Copy.lean ====
section
/-! DEFINITION. The copy engines: commands, words, faults and tags (11_copy R263 to R275; 09_ordering R227, R229). -/
namespace Sys2Proof.Machine

/-! ## Words of a command (R266) -/

/-- A 32-bit value of the B group. -/
def CopyCmd.arg (c : CopyCmd) (k : Nat) : Nat := c.par.getD k 0

/-- Number of destination words. -/
def CopyCmd.words (c : CopyCmd) : Nat :=
  match c.minor with
  | 1 => c.arg 1 * (c.arg 0 / 4)
  | 2 | 3 => c.arg 0 * (c.arg 1 / 4)
  | _ => c.arg 0 / 4

/-- Offsets of destination and source word k, `x` being the index of its element (R266, Table 3). -/
def CopyCmd.offsets (c : CopyCmd) (k : Nat) (x : Int) : Int × Int :=
  let lin : Int := 4 * k
  match c.minor with
  | 1 =>
    let row := k / (c.arg 0 / 4)
    let col : Int := 4 * (k % (c.arg 0 / 4) : Nat)
    (row * sgn (c.arg 2) 32 + col, row * sgn (c.arg 3) 32 + col)
  | 2 => (lin, x * (c.arg 1 : Nat) + 4 * (k % (c.arg 1 / 4) : Nat))
  | 3 => (x * (c.arg 1 : Nat) + 4 * (k % (c.arg 1 / 4) : Nat), lin)
  | _ => (lin, lin)

/-- Place of a word in its element, and the element's number. -/
def CopyCmd.elem (c : CopyCmd) (k : Nat) : Nat := k / (c.arg 1 / 4)

/-- The block at a gang position of a block's gang (R180, R313). -/
def State.gangAt (s : State) (b : BlockId) (m : Nat) : Option BlockId :=
  match s.block b with
  | none => none
  | some k =>
    if k.gang = 0 then none
    else (tfind s.blocks fun _ k' => k'.ctx = k.ctx && k'.gang = k.gang && k'.gpos = m).map (·.1)

/-- Why a word failed: the cause and the address for the error record, TINFO for a recovery cause, and for an uncorrectable error where
it stood, as guest-physical address and source (R273, R379, R382). -/
structure WordErr where
  cause : Nat
  addr : Nat
  info : Nat
  lost : Option (Nat × Nat)

/-- Where an address of a command lies: a scratchpad byte, or none for a virtual address; else its failure (R178, R180, R181). A range of
a virtual address is checked as a whole. -/
def State.copyLoc (s : State) (c : CopyCmd) (space : Nat) (a : Int) (size : Nat) : Except WordErr (Option (CoreId × Nat)) :=
  let bad := fun cause info => Except.error ⟨cause, addr64 a, info, none⟩
  match space with
  | 1 => if 0 ≤ a && a + size ≤ ((s.core c.block.core).spsz : Int) then .ok (some (c.block.core, a.toNat)) else bad 0x10 c.tag
  | 2 =>
    if a < 0 || 2 ^ 23 ≤ a then bad 0x10 c.tag
    else
      match s.gangAt c.block (fld a.toNat 21 2) with
      | none => bad 0x10 c.tag
      | some b =>
        if s.blockLost b then bad 0x17 (fld a.toNat 21 2)
        else if (s.core b.core).spsz < fld a.toNat 0 21 + size then bad 0x10 c.tag
        else .ok (some (b.core, fld a.toNat 0 21))
  | _ => if canonical a size then .ok none else bad 0x12 c.tag

/-- What the engine's visit to a word came to: done, a translation that misses at an address, or a failure. -/
inductive WordRes (α : Type) where
  | got (v : α)
  | miss (m : Miss) (va : Nat)
  | bad (e : WordErr)

/-- An engine of a core comes to a translated address: the translation enters the TLB, and what the core's L1 holds dirty of the line is
in memory (R212, R227). -/
def State.engineSees (s : State) (c : CtxId) (core : CoreId) (va : Nat) (p : Place) : State :=
  (s.noteTlb (viewAt c core) va).exposeKey core p.key

/-- A word read by the engine (R269, R273). -/
def State.copyRead (s : State) (c : CopyCmd) (space : Nat) (a : Int) : WordRes (State × Nat) :=
  let lost := fun gpa src => WordRes.bad ⟨0x21, addr64 a, 5, some (gpa, src)⟩
  match s.copyLoc c space a 4 with
  | .error e => .bad e
  | .ok (some (core, off)) => if s.badPad core off 4 then lost 0 2 else .got (s, memRead (s.core core).scratch off 4)
  | .ok none =>
    match s.translate (viewAt c.ctx c.block.core) (addr64 a) false with
    | .error m => .miss m (addr64 a)
    | .ok p =>
      let s := s.engineSees c.ctx c.block.core (addr64 a) p
      match s.badMem (s.partOfCtx c.ctx) p.gpa p.key 4 with
      | some src => lost p.gpa src
      | none => .got (s, memRead s.mem p.key 4)

/-- The command has an index list. -/
def CopyCmd.listed (c : CopyCmd) : Bool := c.minor = 2 || c.minor = 3

/-- Address of the index word of word k's element (R266). -/
def CopyCmd.indexAt (c : CopyCmd) (k : Nat) : Int := c.list + (4 * c.elem k : Nat)

/-- The index of word k's element, once it is read; 0 for a command without a list. -/
def Copy.index (x : Copy) (k : Nat) : Option Int :=
  if x.cmd.listed then (tget x.idx (x.cmd.elem k)).map fun v => sgn v 32 else some 0

/-- Where destination word k goes; none while the index that it needs is unread (R266). -/
def Copy.dstAt (x : Copy) (k : Nat) : Option Int :=
  if x.cmd.minor = 3 then (x.index k).map fun i => x.cmd.dst + (x.cmd.offsets k i).1 else some (x.cmd.dst + (x.cmd.offsets k 0).1)

/-- The bounds of an element whose address an index yields (R273). -/
def State.copyElemBad (s : State) (c : CopyCmd) (x : Int) : Option WordErr :=
  let chk := fun space a => match s.copyLoc c space a (c.arg 1) with
    | .error e => some e
    | .ok _ => none
  match c.minor with
  | 2 => chk c.ssp (c.src + x * (c.arg 1 : Nat))
  | 3 => chk c.dsp (c.dst + x * (c.arg 1 : Nat))
  | _ => none

/-! ## Chains (R270) -/

/-- One code of a chain on a value (R270, Table 4). -/
def chainStep (code x sc : Nat) : Nat :=
  match code / 4 with
  | 1 => (addF32 x sc).val
  | 2 => (arith 2 f32 .rne false false x sc 0).val
  | 3 => (minmax f32 false true x sc).val
  | 4 => (minmax f32 false false x sc).val
  | 5 => (x + sc) % 2 ^ 32
  | 6 => x &&& sc
  | 7 => x ^^^ sc
  | 8 => x * 2 ^ (sc % 32) % 2 ^ 32
  | 9 => x / 2 ^ (sc % 32)
  | 10 => x % 2 ^ 31
  | 11 => x ^^^ 2 ^ 31
  | _ => x

/-- The codes of a chain applied in order, up to the first 0. `ext` holds the C group. -/
def chain (ext : Nat) : List Nat → Nat → Nat
  | [], x => x
  | i :: is, x =>
    let code := byteFld ext i 1
    if code = 0 then x else chain ext is (chainStep code x (byteFld ext (16 + 4 * (code % 4)) 4))

/-- Place of the first code that breaks R270. -/
def chainBad (ext : Nat) : Option Nat :=
  let code := fun i => byteFld ext i 1
  let ended := fun i => (List.range i).any fun j => code j = 0
  (List.range 8).find? fun i =>
    if ended i then code i ≠ 0
    else 11 < code i / 4 || ([0, 10, 11].contains (code i / 4) && code i % 4 ≠ 0)

/-! ## What a guarded task's engine writes (R387) -/

/-- A team changed where it stands, in its slot or in its fault frame. -/
def State.settleTeam (s : State) (c : CtxId) (t : TeamId) (f : Team → Team) : State :=
  if t.slot < 64 then s.updTeam t f
  else s.updCtx c fun x => { x with susp := x.susp.map fun p =>
    if 64 + p.key = t.slot then { p with saved := { p.saved with team := f p.saved.team } } else p }

/-- The team of an issuer of an engine operation, in its slot or in its fault frame. -/
def State.teamAt (s : State) (c : CtxId) (i : ThreadId) : Option (TeamId × Team) :=
  if i.team.slot < 64 then (s.team i.team).map fun tm => (i.team, tm)
  else ((s.ctx c).bind fun x => x.susp.find? fun p => 64 + p.key = i.team.slot).map fun p => (i.team, p.saved.team)

/-- The team for whose task an engine operation writes: the first guarded one of its issuers, else its leader's (R227, R387; log entry 33). -/
def State.engineTeam (s : State) (c : CtxId) (issuers : List ThreadId) : Option (TeamId × Team) :=
  let ts := issuers.filterMap (s.teamAt c)
  (ts.find? fun x => x.2.guarded).or ts.head?

/-- The issuers' team is guarded. -/
def State.engineGuarded (s : State) (c : CtxId) (issuers : List ThreadId) : Bool :=
  (s.engineTeam c issuers).any fun x => x.2.guarded

/-- A held write of an engine operation enters the store buffer of its team; one that finds no free entry makes the team commit (R387,
R388; log entry 35). -/
def State.holdEngine (s : State) (c : CtxId) (t : TeamId) (a : Access) : State :=
  let full := s.storeRoom t.core = 0
  let (s, n) := s.fresh
  s.settleTeam c t fun tm => { tm with held := tm.held ++ [{ a with seq := n, held := true }], commitDue := tm.commitDue || full }

/-- An engine operation's parts that its writes carry. -/
structure Engine where
  ctx : CtxId
  core : CoreId
  issuers : List ThreadId
  strm : Nat
  scope : Nat

/-- A word of an engine's output written to memory. -/
def State.engineWrite (s : State) (e : Engine) (a : Int) (v : Nat) : Except Miss State :=
  match s.translate (viewAt e.ctx e.core) (addr64 a) true with
  | .error m => .error m
  | .ok p => .ok (((s.engineSees e.ctx e.core (addr64 a) p).memStore p.key 4 v).passL1 e.core p.key 4)

/-- One word of an engine's output at a virtual address: held when its task is guarded, else written (R387, R269). -/
def State.engineStore (s : State) (e : Engine) (a : Int) (v : Nat) : Except Miss State :=
  match s.engineTeam e.ctx e.issuers with
  | some (t, tm) =>
    if tm.guarded then
      let acc := { newAccess s ⟨t, 0⟩ .engine 0 a 4 none with
        ctx := e.ctx, core := e.core, data := v, owners := e.issuers, strm := e.strm, scope := e.scope }
      .ok (s.holdEngine e.ctx t acc)
    else s.engineWrite e a v
  | none => s.engineWrite e a v
/-- A guarded team records a scratchpad line that its engine writes (R387). -/
def State.noteEngineLine (s : State) (c : CtxId) (issuers : List ThreadId) (core : CoreId) (off : Nat) : State :=
  match s.engineTeam c issuers with
  | none => s
  | some (t, _) => s.settleTeam c t fun tm =>
      if tm.guarded && !tm.wlines.contains (core, off / 128) then { tm with wlines := tm.wlines ++ [(core, off / 128)] } else tm

/-! ## Performing words -/

/-- A copy of a core changed. -/
def State.updCopy (s : State) (core : CoreId) (tag : Nat) (f : Copy → Copy) : State :=
  s.updCore core fun k => { k with copies := k.copies.map fun x => if x.cmd.tag = tag then f x else x }

/-- The copy on a tag of a core. -/
def State.copyOn (s : State) (core : CoreId) (tag : Nat) : Option Copy := (s.core core).copies.find? (·.cmd.tag = tag)

/-- The word that a copy writes for a source word (R266, R270). -/
def CopyCmd.result (c : CopyCmd) (v : Nat) : Nat := if c.minor = 4 then chain c.ext (List.range 8) v else v

/-- The engine's part of a copy. -/
def Copy.engine (x : Copy) : Engine := ⟨x.cmd.ctx, x.cmd.block.core, x.issuers, x.cmd.strm, x.cmd.scope⟩

/-- Destination word k written (R269). -/
def State.copyWrite (s : State) (x : Copy) (a : Int) (v : Nat) : WordRes State :=
  match s.copyLoc x.cmd x.cmd.dsp a 4 with
  | .error e => .bad e
  | .ok (some (core, off)) => .got ((s.padWrite core off 4 v).noteEngineLine x.cmd.ctx x.issuers core off)
  | .ok none =>
    match s.engineStore x.engine a v with
    | .error m => .miss m (addr64 a)
    | .ok s => .got s

/-- The word still has a word to read: its element's index, or its source. -/
def Copy.unread (x : Copy) (k : Nat) : Bool := (x.index k).isNone || (x.cmd.minor ≠ 5 && (tget x.vals k).isNone)

/-- A line marked empty. -/
def State.lineEmpty (s : State) (c : CoreId) (l : Nat) : State :=
  s.updCore c fun k => if k.empty.contains l then k else { k with empty := k.empty ++ [l] }

/-- Scratchpad lines of the words that a copy writes from an address on. -/
def State.linesFrom (s : State) (c : CopyCmd) (a : Int) (words : Nat) : List (CoreId × Nat) :=
  ((List.range words).filterMap fun k => match s.copyLoc c c.dsp (a + 4 * (k : Nat)) 4 with
    | .ok (some (core, off)) => some (core, off / 128)
    | _ => none).eraseDups

/-- The index of an element comes to a copy. The destination lines of a scatter's element that were not known at acceptance are marked empty
now (R268; log entry 44). -/
def State.indexRead (s : State) (core : CoreId) (x : Copy) (e v : Nat) : State :=
  let s := s.updCopy core x.cmd.tag fun x => { x with idx := tset x.idx e v }
  if x.cmd.minor = 3 then
    let new := (s.linesFrom x.cmd (x.cmd.dst + sgn v 32 * (x.cmd.arg 1 : Nat)) (x.cmd.arg 1 / 4)).filter fun l => !x.lines.contains l
    (new.foldl (fun s (c, l) => s.lineEmpty c l) s).updCopy core x.cmd.tag fun x => { x with lines := x.lines ++ new }
  else s

/-- One visit of the engine to word k: it reads the index of its element, or its source word, or writes its destination word (R228,
R266). -/
def State.copyVisit (s : State) (core : CoreId) (x : Copy) (k : Nat) : WordRes State :=
  let c := x.cmd
  match x.index k with
  | none =>
    match s.copyRead c c.isp (c.indexAt k) with
    | .got (s, v) => .got (s.indexRead core x (c.elem k) v)
    | .miss m va => .miss m va
    | .bad e => .bad e
  | some i =>
    match s.copyElemBad c i with
    | some e => .bad e
    | none =>
      match if c.minor = 5 then some c.ext else tget x.vals k with
      | none =>
        match s.copyRead c c.ssp (c.src + (c.offsets k i).2) with
        | .got (s, v) => .got (s.updCopy core c.tag fun x => { x with vals := tset x.vals k v })
        | .miss m va => .miss m va
        | .bad e => .bad e
      | some v =>
        match s.copyWrite x (c.dst + (c.offsets k i).1) (c.result v) with
        | .got s => .got (s.updCopy core c.tag fun x => { x with todo := x.todo.filter (· ≠ k) })
        | r => r

/-- The visit misses translation: the word is held (R273). -/
def State.copyHeld (s : State) (core : CoreId) (x : Copy) (k : Nat) : Bool :=
  match s.copyVisit core x k with
  | .miss _ _ => true
  | _ => false

/-- A copy ends in error: no further word is performed, and an uncorrectable error is counted (R273, R379). -/
def State.copyFails (s : State) (core : CoreId) (x : Copy) (e : WordErr) : State :=
  let s := match e.lost with
    | some (gpa, src) => s.countBad x.cmd.ctx gpa src
    | none => s
  s.updCopy core x.cmd.tag fun x => { x with todo := [], waits := [], error := some ⟨x.cmd.tag, e.cause, e.addr, e.info⟩ }

/-- Words of a copy visited in a given order; a held word is left. -/
def copyVisits (core : CoreId) (tag : Nat) : List Nat → State → State
  | [], s => s
  | k :: ks, s =>
    match s.copyOn core tag with
    | none => s
    | some x =>
      if x.error.isSome then s
      else
        match s.copyVisit core x k with
        | .got s => copyVisits core tag ks s
        | .miss _ _ => copyVisits core tag ks s
        | .bad e => s.copyFails core x e

/-! ## The memmove rule (R271) -/

/-- The spot of a word for the memmove rule: its scratchpad byte, or its virtual address. -/
def State.copySpot (s : State) (c : CopyCmd) (space : Nat) (a : Int) : Option (Option CoreId × Nat) :=
  match s.copyLoc c space a 4 with
  | .ok (some (core, off)) => some (some core, off)
  | .ok none => some (none, addr64 a)
  | .error _ => none

/-- Destination word k and source word j share an address. -/
def State.wordsMeet (s : State) (c : CopyCmd) (k j : Nat) : Bool :=
  match s.copySpot c c.dsp (c.dst + (c.offsets k 0).1), s.copySpot c c.ssp (c.src + (c.offsets j 0).2) with
  | some d, some e => d.1 = e.1 && rangesMeet d.2 4 e.2 4
  | _, _ => false

/-- Source and destination footprints share an address in one space. -/
def State.copyOverlaps (s : State) (c : CopyCmd) : Bool :=
  (c.minor = 0 || c.minor = 1 || c.minor = 4) && (List.range c.words).any fun k => (List.range c.words).any fun j => s.wordsMeet c k j

/-- A copy under the memmove rule runs in descending order when its destination lies above its source. One whose footprints do not overlap
runs ascending: R271 gives its direction only to keep the memmove rule (DESIGN CHOICE; log entry 105). -/
def State.copyDown (s : State) (x : Copy) : Bool :=
  x.memmove && x.cmd.minor ≠ 1 &&
    (match s.copySpot x.cmd x.cmd.dsp x.cmd.dst, s.copySpot x.cmd x.cmd.ssp x.cmd.src with
     | some d, some e => e.2 < d.2
     | _, _ => false)

/-- The words of a copy in its running order. -/
def State.copyOrder (s : State) (x : Copy) : List Nat :=
  if s.copyDown x then (List.range x.cmd.words).reverse else List.range x.cmd.words

/-- The words that an engine takes next: a free choice among those offered (log entry 14). -/
def pickWords (tick : Nat) (ks : List Nat) : List Nat :=
  let p := ks.filter (Config.pick tick)
  if p.isEmpty then ks else p

/-- The words whose next visit the engine makes now. Without the memmove rule these are any; under it, words to be read come first, and
then writes follow in running order, none over a source word that a page request keeps unread. -/
def State.nextWords (s : State) (core : CoreId) (x : Copy) : List Nat :=
  let todo := (s.copyOrder x).filter x.todo.contains
  if !x.memmove then pickWords s.tick todo
  else
    let free := todo.filter fun k => !s.copyHeld core x k
    let reads := free.filter x.unread
    if !reads.isEmpty then pickWords s.tick reads
    else
      match free.filter fun k => !todo.any fun j => x.unread j && s.wordsMeet x.cmd k j with
      | [] => []
      | k :: ks => k :: ks.takeWhile (Config.pick s.tick)

/-! ## When an engine may act (R227) -/

/-- A fence of a thread in a fault frame or of a resident one holds a stream's later accesses. -/
def Thread.fenced (t : Thread) (seq strm : Nat) : Bool := t.fences.any fun f => f.seq < seq && f.y.getLsbD strm

/-- An earlier access that an engine operation waits for: in its stream, at its scope. -/
def State.engineAfter (s : State) (seq strm scope : Nat) (b : Access) : Bool :=
  b.seq < seq && b.pendingStill && b.strm = strm && b.plain && (6 ≤ scope || (s.homeOfAcc b).all (· = b.core.pkg))

/-- An engine operation's accesses may be performed: its issuers' earlier accesses in its stream are, at its scope, and no earlier fence
of theirs holds its stream. Issuers may stand in a fault frame. -/
def State.engineMay (s : State) (seq strm scope : Nat) (issuers : List ThreadId) : Bool :=
  (s.accs.all fun b => !(s.engineAfter seq strm scope b && b.owners.any issuers.contains)) &&
  (issuers.all fun i => (s.thread i).all fun t => !t.fenced seq strm) &&
  s.ctxs.all fun (_, x) => x.susp.all fun p =>
    let lanes := (issuers.filter fun i => i.team.slot = 64 + p.key).map (·.lane)
    (p.saved.elems.all fun b => !(s.engineAfter seq strm scope b && b.owners.any fun o => lanes.contains o.lane)) &&
      p.saved.threads.all fun (l, t) => !(lanes.contains l && t.fenced seq strm)

/-- An operation at quad scope or wider widens its issuers' earlier stores of its stream that stand in the L1 only (R212, R221, R227). -/
def State.engineOpens (s : State) (e : Engine) (seq : Nat) : State :=
  if e.scope < 3 then s else s.expose e.core fun d => d.seq < seq && d.strm = e.strm && d.owners.any e.issuers.contains

/-! ## Lines and the end of a copy (R269) -/

/-- Word k may still write a scratchpad line. -/
def State.wordOnLine (s : State) (x : Copy) (core : CoreId) (line : Nat) (k : Nat) : Bool :=
  match x.dstAt k with
  | none => true
  | some a =>
    match s.copyLoc x.cmd x.cmd.dsp a 4 with
    | .ok (some (c, off)) => c = core && off / 128 = line
    | _ => false

/-- A line that a copy marked turns full, if it is still empty. -/
def State.fillMarked (s : State) (core : CoreId) (line : Nat) : State :=
  if (s.core core).empty.contains line then s.lineFull core line else s

/-- The lines that a copy has finished writing turn full at once. -/
def State.copyLinesDone (s : State) (core : CoreId) (x : Copy) : State :=
  let done := x.lines.filter fun (c, l) => x.todo.all fun k => !s.wordOnLine x c l k
  let s := s.updCopy core x.cmd.tag fun x => { x with lines := x.lines.filter fun y => !done.contains y }
  done.foldl (fun s (c, l) => s.fillMarked c l) s

/-- A copy completes: the lines it marked are full, its tag is idle with CTAG set and its error recorded, and CPN falls
(R269, R273); an error is counted (R379). -/
def State.copyEnd (s : State) (core : CoreId) (x : Copy) : State :=
  let s := x.lines.foldl (fun s (c, l) => s.fillMarked c l) s
  let s := if x.error.isSome then s.countPart (s.partOfCtx x.cmd.ctx) 10 else s
  let s := s.updCore core fun k => { k with
    copies := k.copies.filter fun y => y.cmd.tag ≠ x.cmd.tag
    ctag := k.ctag ||| BitVec.ofNat 64 (2 ^ x.cmd.tag)
    errs := x.error.toList ++ k.errs.filter (·.tag ≠ x.cmd.tag) }
  s.lowerCpn x.issuers

/-- What a copy's performed words bring about: lines that turn full. The copy itself completes in a later step, in which the engine has learnt
of its last word (log entry 108). -/
def State.copySettle (s : State) (core : CoreId) (tag : Nat) : State :=
  match s.copyOn core tag with
  | none => s
  | some x => s.copyLinesDone core x

/-- The partition of a context owns a copy engine on a package (R394, R397). -/
def State.hasEngine (s : State) (c : CtxId) (pkg : Nat) : Bool := (s.share (s.partOfCtx c) pkg).any fun sh => sh.engines ≠ 0

/-- A copy whose accesses may be performed visits words, chosen from the copy as it stands. -/
def runCopyWords (core : CoreId) (tag : Nat) (ks : State → Copy → List Nat) (s : State) : Out :=
  match s.copyOn core tag with
  | none => .next s
  | some x =>
    if !s.hasEngine x.cmd.ctx core.pkg || !s.engineMay x.seq x.cmd.strm x.cmd.scope x.issuers then .next s
    else
      let s := s.engineOpens x.engine x.seq
      .next ((copyVisits core tag (ks s x) s).copySettle core tag)

/-- COPY_COMPLETE (R269): the engine visits some of the words that are left; a copy with none left completes. Which words it takes is free
(log entry 14). -/
def execCopyComplete (c : CoreId) (tag : Nat) (s : State) : Out :=
  match s.copyOn c tag with
  | none => .next s
  | some x => if x.todo.isEmpty then .next (s.copyEnd c x) else runCopyWords c tag (fun s x => s.nextWords c x) s

/-- The writes that a copy can make now to a line that it marked, in running order. -/
def State.lineWords (s : State) (core : CoreId) (x : Copy) (line : Nat) : List Nat :=
  let todo := (s.copyOrder x).filter x.todo.contains
  let open_ := fun k => !(x.memmove && todo.any fun j => x.unread j && (!s.copyHeld core x j || s.wordsMeet x.cmd k j))
  let mine := todo.filter fun k => !x.unread k && open_ k && x.lines.any fun (c, l) => l = line && s.wordOnLine x c l k
  if x.memmove then mine.takeWhile fun k => (todo.takeWhile (· ≠ k)).all fun j => mine.contains j || s.copyHeld core x j else mine

/-- COPY_LINE_FULL (R269): the writes that a copy still has to make to a line it marked are performed, and a line with none left turns
full. -/
def execCopyLineFull (c : CoreId) (tag line : Nat) (s : State) : Out := runCopyWords c tag (fun s x => s.lineWords c x line) s

/-! ## Page faults of a copy (R273) -/

/-- Page requests for the words of a copy that miss, each with the first address that needs it. -/
def copyRequests (core : CoreId) (x : Copy) : List Nat → State × List (Nat × Nat) → State × List (Nat × Nat)
  | [], acc => acc
  | k :: ks, (s, tags) =>
    match s.copyVisit core x k with
    | .miss m va =>
      let (s, tag) := s.pageRequest x.cmd.ctx core 1 m
      copyRequests core x ks (s, if tags.any (·.1 = tag) then tags else tags ++ [(tag, va)])
    | _ => copyRequests core x ks (s, tags)

/-- COPY_PAGE_FAULT (R273): words of a copy do not translate; page requests are queued for them, and the rest goes on. -/
def execCopyPageFault (c : CoreId) (tag : Nat) (s : State) : Out :=
  match s.copyOn c tag with
  | none => .next s
  | some x =>
    if !s.hasEngine x.cmd.ctx c.pkg || !s.engineMay x.seq x.cmd.strm x.cmd.scope x.issuers then .next s
    else
      let (s, tags) := copyRequests c x ((s.copyOrder x).filter x.todo.contains) (s, x.waits)
      .next (s.updCopy c tag fun x => { x with waits := tags })

/-- A page reply for a copy: granted, the held words can be performed; refused, the copy ends in error at the address that needed the
page. -/
def Copy.answer (tag : Nat) (refuse : Bool) (x : Copy) : Copy :=
  match x.waits.find? (·.1 = tag) with
  | none => x
  | some w =>
    if refuse then { x with waits := [], todo := [], error := some ⟨x.cmd.tag, 0x10, w.2, x.cmd.tag⟩ }
    else { x with waits := x.waits.filter (·.1 ≠ tag) }

/-- A page reply for the copies on the cores. -/
def State.answerCopies (s : State) (tag : Nat) (refuse : Bool) : State :=
  { s with cores := tmap s.cores fun _ k => { k with copies := k.copies.map (Copy.answer tag refuse) } }

/-! ## The commands (R265, R267, R268) -/

/-- Operands of a copy command (R265, Table 2). -/
def copySrcs (minor : Nat) (f : L2R) : List Opd :=
  let a := f.a.toNat
  let b := f.b.toNat
  let c := f.c.toNat
  match minor with
  | 0 => [⟨.src 4, a⟩, ⟨.src 1, b⟩]
  | 1 => [⟨.src 4, a⟩, ⟨.src 4, b⟩]
  | 2 | 3 => [⟨.src 4, a⟩, ⟨.src 2, b⟩, ⟨.src 2, c⟩]
  | 4 => [⟨.src 4, a⟩, ⟨.src 1, b⟩, ⟨.src 8, c⟩]
  | _ => [⟨.src 2, a⟩, ⟨.src 1, b⟩, ⟨.src 1, c⟩]

/-- Step 1 of a copy command. -/
def copyOk (minor : Nat) (f : L2R) : Bool :=
  let m := f.mod.toNat
  wIn f.toL1 [0] && f.d.toNat < 8 && (minor = 2 || minor = 3 || fld m 4 2 = 0) && (minor ≠ 5 || fld m 2 2 = 0) &&
    (2 ≤ minor || f.c = 0)

/-- An operand value as an address of its space (R265, R177). -/
def spaceAddr (frame space v : Nat) : Int := if space = 3 then (frame : Int) + sgn v 64 else v

/-- The command as its leader reads it. -/
def State.copyCmd (s : State) (minor : Nat) (f : L2R) (g : UniGroup) (scope : Nat) : CopyCmd :=
  let m := f.mod.toNat
  let frame := s.frameOf g.leader
  let rd := fun n w => g.lt.readReg g.env n w
  let a := f.a.toNat
  let b := f.b.toNat
  let c := f.c.toNat
  { block := ((s.team g.leader.team).map (·.block)).getD ⟨g.leader.team.core, 0⟩
    minor := minor, tag := fld f.imm.toNat 0 6, strm := fld f.imm.toNat 6 4, cp := fld f.imm.toNat 10 2, scope := scope
    dsp := fld m 0 2, ssp := fld m 2 2, isp := fld m 4 2
    dst := spaceAddr frame (fld m 0 2) (rd a 2)
    src := if minor = 5 then 0 else spaceAddr frame (fld m 2 2) (rd (a + 2) 2)
    list := if minor = 2 || minor = 3 then spaceAddr frame (fld m 4 2) (rd c 2) else 0
    par := match minor with
      | 1 => [rd b 1, rd (b + 1) 1, rd (b + 2) 1, rd (b + 3) 1]
      | 2 | 3 => [rd b 1, rd (b + 1) 1]
      | _ => [rd b 1]
    ext := match minor with
      | 4 => rd c 8
      | 5 => rd c 1
      | _ => 0
    ctx := s.ctxId g.leader }

/-- The ranges that step 2 of R267 checks: space, first address, size. -/
def CopyCmd.ranges (c : CopyCmd) : List (Nat × Int × Nat) :=
  let side := fun (sp : Nat) (a stride : Int) =>
    if c.arg 1 = 0 then [] else [(sp, a, c.arg 0), (sp, a + ((c.arg 1 - 1 : Nat) : Int) * stride, c.arg 0)]
  match c.minor with
  | 1 => side c.dsp c.dst (sgn (c.arg 2) 32) ++ side c.ssp c.src (sgn (c.arg 3) 32)
  | 2 => [(c.isp, c.list, 4 * c.arg 0), (c.dsp, c.dst, c.arg 0 * c.arg 1)]
  | 3 => [(c.isp, c.list, 4 * c.arg 0), (c.ssp, c.src, c.arg 0 * c.arg 1)]
  | 5 => [(c.dsp, c.dst, c.arg 0)]
  | _ => [(c.dsp, c.dst, c.arg 0), (c.ssp, c.src, c.arg 0)]

/-- The values that step 3 of R267 wants to be multiples of 4, in order. -/
def CopyCmd.aligned (c : CopyCmd) : List Int :=
  match c.minor with
  | 1 => [c.dst, c.src, c.arg 0, sgn (c.arg 2) 32, sgn (c.arg 3) 32]
  | 2 | 3 => [c.dst, c.src, c.list]
  | 5 => [c.dst, c.arg 0]
  | _ => [c.dst, c.src, c.arg 0]

/-- The first failing check of R267 on the leader. -/
def State.copyBad (s : State) (id : ThreadId) (c : CopyCmd) : Option Raise :=
  if !s.hasEngine c.ctx id.team.core.pkg then some (trapR 0x13 0 0)
  else
    match c.ranges.findSome? fun (sp, a, n) =>
      if n = 0 then none else match s.place id sp a n false with
        | .error r => some r
        | .ok _ => none with
    | some r => some r
    | none =>
      match c.aligned.find? (· % 4 ≠ 0) with
      | some v => some (trapR 0x11 0 (addr64 v))
      | none =>
        if (c.minor = 2 || c.minor = 3) && !([4, 8, 16, 32, 64, 128].contains (c.arg 1)) then some (trapR 0x11 0 (c.arg 1))
        else if c.minor = 4 then (chainBad c.ext).map fun i => trapR 0x01 i 0
        else none

/-- Scratchpad lines that the destination of a command touches (R268). Of a CPYS these are the lines of the elements whose index can be
read at acceptance; those of the others are marked when their index is read (log entry 44). -/
def State.copyLines (s : State) (c : CopyCmd) : List (CoreId × Nat) :=
  let dst := fun k : Nat =>
    if c.minor = 3 then
      match s.copyRead c c.isp (c.indexAt k) with
      | .got (_, v) => some (c.dst + (c.offsets k (sgn v 32)).1)
      | _ => none
    else some (c.dst + (c.offsets k 0).1)
  ((List.range c.words).filterMap fun k =>
    match (dst k).map fun a => s.copyLoc c c.dsp a 4 with
    | some (.ok (some (core, off))) => some (core, off / 128)
    | _ => none).eraseDups

/-- Acceptance of a copy (R268); one that writes nothing completes at once (R266). -/
def State.copyAccept (s : State) (c : CopyCmd) (issuers : List ThreadId) : State :=
  let core := c.block.core
  let lines := s.copyLines c
  let memmove := s.copyOverlaps c
  let (s, n) := s.fresh
  let x : Copy :=
    { seq := n, cmd := c, issuers := issuers, memmove := memmove, todo := List.range c.words, vals := [], idx := [], waits := [],
      lines := lines, error := none }
  let s := lines.foldl (fun s (c, l) => s.lineEmpty c l) s
  let s := s.updCore core fun k => { k with
    copies := k.copies ++ [x], ctag := k.ctag &&& ~~~(BitVec.ofNat 64 (2 ^ c.tag)), errs := k.errs.filter (·.tag ≠ c.tag) }
  let s := s.updThreads issuers fun t => { t with cpn := t.cpn + 1 }
  if c.words = 0 then s.copyEnd core x else s

/-- The tag is free and the core's copy queue has room (R268). A command stays in the queue of 8 until its copy completes: the rule does not say
when it leaves (DESIGN CHOICE; log entry 105). -/
def State.copyRoom (s : State) (core : CoreId) (tag : Nat) : Bool :=
  (s.copyOn core tag).isNone && (s.core core).copies.length < 8

/-- Form of a copy command (R265). -/
def copyUni (minor : Nat) (f : L2R) : UniDef :=
  { g := f.g, gn := f.gn, ok := copyOk minor f, words := 2, srcs := copySrcs minor f, dsts := [] }

/-- A copy command. -/
def runCopy (minor : Nat) (f : L2R) (s : State) : Out :=
  runUniform (copyUni minor f) s
    fun g s =>
      let (s', scope) := s.clamp (s.ctxId g.leader) g.leader.team.core f.d.toNat
      let c := s.copyCmd minor f g scope
      match s.copyBad g.leader c with
      | some r => .trap s r
      | none =>
        if s.heldFor g.leader.team g.all c.strm then .stay (s.commitFirst g.leader.team)
        else if !s.copyRoom c.block.core c.tag then s.groupWaits g.all (.copy c.tag)
        else if !s.roomAll g.all (·.cpn) then s.groupStalls g.all false false true
        else .done ((s'.copyAccept c g.all).stepAll g.all 2)

/-- CPY (R266). -/
def execCpy (f : L2R) (s : State) : Out := runCopy 0 f s
/-- CPY2 (R266). -/
def execCpy2 (f : L2R) (s : State) : Out := runCopy 1 f s
/-- CPYG (R266). -/
def execCpyg (f : L2R) (s : State) : Out := runCopy 2 f s
/-- CPYS (R266). -/
def execCpys (f : L2R) (s : State) : Out := runCopy 3 f s
/-- CPYX (R266, R270). -/
def execCpyx (f : L2R) (s : State) : Out := runCopy 4 f s
/-- CPYF (R266). -/
def execCpyf (f : L2R) (s : State) : Out := runCopy 5 f s

/-- COPY_ACCEPT (R268): a group parked at a copy goes on once its tag is free and the queue has room, and issues afresh. -/
def execCopyAccept (t : ThreadId) (s : State) : Out :=
  match s.thread t with
  | none => .next s
  | some th =>
    match th.park with
    | .copy tag =>
      if s.copyRoom t.team.core tag then
        .next (s.mapThreads fun i x =>
          if i.team = t.team && x.pc = th.pc && x.park = .copy tag then { x with park := .ready } else x)
      else .next s
    | _ => .next s

/-! ## Tag instructions (R275) -/

/-- A tag with a copy that has not completed (R263). -/
def Core.busy (c : Core) (tag : Nat) : Bool := c.copies.any (·.cmd.tag = tag)

/-- The condition that TWAIT (`any` false) or TWANY (`any` true) parks for. -/
def Core.tagsMet (c : Core) (mask : W64) (any : Bool) : Bool :=
  let ts := bitList mask.toNat 64
  ts.all (fun t => !c.busy t) || (any && ts.any fun t => c.ctag.getLsbD t)

/-- Tags cleared: CTAG 0 and no error record. -/
def Core.clearTags (c : Core) (ts : List Nat) : Core :=
  { c with ctag := BitVec.ofNat 64 (ofBits 64 fun i => c.ctag.getLsbD i && !ts.contains i)
           errs := c.errs.filter fun e => !ts.contains e.tag }

/-- A tag instruction: its mask pair in A, its result in D. -/
def tagUni (f : L2R) (res : Bool) : UniDef :=
  { g := f.g, gn := f.gn, words := 2,
    ok := wIn f.toL1 [0] && f.b = 0 && f.c = 0 && f.imm = 0 && (if res then f.mod.toNat < 2 else f.mod = 0 && f.d = 0),
    srcs := [⟨.src 2, f.a.toNat⟩], dsts := if res then [⟨.dst 1, f.d.toNat⟩] else [] }

/-- TWAIT (R275). -/
def execTwait (f : L2R) (s : State) : Out :=
  runUniform (tagUni f false) s fun g s =>
    let m := g.lt.readReg g.env f.a.toNat 2
    let core := s.core g.leader.team.core
    if !core.tagsMet (BitVec.ofNat 64 m) false then s.groupWaits g.all (.tags (BitVec.ofNat 64 m) false)
    else
      match (bitList m 64).findSome? fun t => core.errs.find? (·.tag = t) with
      | some e => .trap s (trapR e.cause e.info e.addr)
      | none => .done (s.stepAll g.all 2)

/-- The result of TWANY and TFIRST, and the tag they return. -/
def Core.firstDone (c : Core) (m : Nat) : Nat × Option Nat :=
  match (bitList m 64).find? fun t => c.ctag.getLsbD t with
  | some t => (t + (if c.errs.any (·.tag = t) then 128 else 0), some t)
  | none => (64, none)

/-- TWANY and TFIRST act. -/
def tagTake (f : L2R) (g : UniGroup) (m : Nat) (s : State) : UniRes :=
  let cid := g.leader.team.core
  let (v, t) := (s.core cid).firstDone m
  let s := match t with
    | some t => if f.mod = 1 then s.updCore cid fun c => c.clearTags [t] else s
    | none => s
  .done (s.result g 2 f.d.toNat 1 v)

/-- TWANY (R275). -/
def execTwany (f : L2R) (s : State) : Out :=
  runUniform (tagUni f true) s fun g s =>
    let m := g.lt.readReg g.env f.a.toNat 2
    if !(s.core g.leader.team.core).tagsMet (BitVec.ofNat 64 m) true then s.groupWaits g.all (.tags (BitVec.ofNat 64 m) true)
    else tagTake f g m s

/-- TFIRST (R275). -/
def execTfirst (f : L2R) (s : State) : Out :=
  runUniform (tagUni f true) s fun g s => tagTake f g (g.lt.readReg g.env f.a.toNat 2) s

/-- TCLR (R275). -/
def execTclr (f : L2R) (s : State) : Out :=
  runUniform (tagUni f false) s fun g s =>
    let m := g.lt.readReg g.env f.a.toNat 2
    let cid := g.leader.team.core
    let ts := (bitList m 64).filter fun t => !(s.core cid).busy t
    .done ((s.updCore cid fun c => c.clearTags ts).stepAll g.all 2)

end Sys2Proof.Machine
end

