-- ==== Sys2Proof/Machine/Matrix.lean ====
section
/-! DEFINITION. The matrix engine (12_matrix R277 to R307). A command reads its operands piece by piece, takes its tile action when it has
read them, and, an ACCST, writes its cells one by one (log entry 21). -/
namespace Sys2Proof.Machine

/-! ## Pair codes (R278, Table 1) -/

/-- Tag of the elements of A. -/
def pairA (p : Nat) : Nat := [2, 3, 4, 4, 5, 5, 6, 0, 7, 7, 8, 8, 9, 9, 10, 10].getD p 0
/-- Tag of the elements of B. -/
def pairB (p : Nat) : Nat := [2, 3, 4, 5, 4, 5, 6, 0, 7, 8, 7, 8, 9, 10, 9, 10].getD p 0
/-- Depth K of a dense step. -/
def pairK (p : Nat) : Nat := 256 / elemBits (pairA p)
/-- The accumulator tag: 1 F32, 12 INT32. -/
def pairTag (p : Nat) : Nat := if p < 8 then 1 else 12

/-- MOD of a step command (R278); `scl` says that scaling is allowed. -/
def pairOk (mod : Nat) (scl : Bool) : Bool :=
  let p := fld mod 0 4
  p ≠ 7 && (!mod.testBit 4 || (scl && 2 ≤ p && p ≤ 6)) && (!mod.testBit 5 || 8 ≤ p)

/-! ## One step -/

/-- The operands of one tile step (R279 to R281, R288): formats, options, runs and masks. -/
structure Step where
  pair : Nat
  scaled : Bool
  sat : Bool
  sparse : Bool
  asp : Nat
  bsp : Nat
  abase : Int
  astr : Int
  ascl : Int
  bbase : Int
  bstr : Int
  bscl : Int
  rm : Nat
  cm : Nat
  dm : Nat
  tile : Nat
  mdata : Nat
deriving DecidableEq, Repr

/-- Logical depth. -/
def Step.kl (p : Step) : Nat := if p.sparse then 2 * pairK p.pair else pairK p.pair
/-- Scales per row of A (R280). -/
def Step.ng (p : Step) : Nat := p.kl / 32
/-- Computed rows and columns; none when either mask is 0 (R291). -/
def Step.rows (p : Step) : List Nat := if p.cm = 0 then [] else bitList p.rm 16
def Step.cols (p : Step) : List Nat := if p.rm = 0 then [] else bitList p.cm 16

/-- A run of bytes: space, address, length. -/
abbrev Run := Nat × Int × Nat

/-- Runs of a step: row i of A, column j of B, their scales (R279, R280). -/
def Step.rowRun (p : Step) (i : Nat) : Run := (p.asp, p.abase + i * p.astr, 32)
def Step.colRun (p : Step) (j : Nat) : Run := (p.bsp, p.bbase + j * p.bstr, if p.sparse then 64 else 32)
def Step.rowScale (p : Step) (i : Nat) : Run := (p.asp, p.abase + p.ascl + i * p.ng, p.ng)
def Step.colScale (p : Step) (j : Nat) : Run := (p.bsp, p.bbase + p.bscl + j, 1)

/-- Every run that a step reads, in the order of R287. -/
def Step.runs (p : Step) : List Run :=
  p.rows.map p.rowRun ++ p.cols.map p.colRun ++
    (if p.scaled then p.rows.map p.rowScale ++ p.cols.map p.colScale else [])

/-- Values of a step's operands: row, column and scales as little-endian numbers. -/
structure StepVals where
  row : Nat → Nat
  col : Nat → Nat
  rowS : Nat → Nat
  colS : Nat → Nat

/-- The place of the kept element at logical k of row i (R281); none where MMAS keeps none. -/
def Step.kept (p : Step) (i k : Nat) : Option Nat :=
  if p.sparse then
    let q := k / 4
    let nib := fld p.mdata (8 * (i * (p.kl / 8)) + 4 * q) 4
    if k % 4 = nib % 4 then some (2 * q) else if k % 4 = nib / 4 then some (2 * q + 1) else none
  else some k

/-- Encoding of a(i, k), 0 where no element is kept (R288). -/
def Step.aElem (p : Step) (v : StepVals) (i k : Nat) : Nat :=
  let w := elemBits (pairA p.pair)
  match p.kept i k with
  | some c => fld (v.row i) (w * c) w
  | none => 0

/-- Encoding of b(k, j). -/
def Step.bElem (p : Step) (v : StepVals) (k j : Nat) : Nat :=
  let w := elemBits (pairB p.pair)
  fld (v.col j) (w * k) w

/-- The k that contribute (R288). -/
def Step.live (p : Step) : List Nat := (List.range p.kl).filter fun k => p.dm.testBit (k / (p.kl / 16))

/-- A cell's new value, its MSTATUS effects as flags, and whether the checksum can compare it (R288, R289, R306). -/
structure CellRes where
  val : Nat
  nv : Bool
  of_ : Bool
  sat : Bool
  unchk : Bool
deriving DecidableEq, Repr

/-- Infinities of opposite sign meet (R289). -/
def opposed (l : List (Option FV)) : Bool := l.contains (some (.inf false)) && l.contains (some (.inf true))

/-- A cell of a float step (R288, R289). The infinities of a group meet before its scale applies, those of the groups before the column's
scale does. -/
def Step.cellF (p : Step) (v : StepVals) (fa fb : FFmt) (i j : Nat) (old : Nat) : CellRes :=
  let ks := p.live
  let one : FV := .fin false 1 0
  let a := fun k => decodeF fa (p.aElem v i k)
  let b := fun k => decodeF fb (p.bElem v k j)
  let sa := fun k => if p.scaled then decodeF ue5m3 (byteFld (v.rowS i) (k / 32) 1) else one
  let sb := if p.scaled && !ks.isEmpty then decodeF ue5m3 (v.colS j) else one
  let vo := decodeF f32 old
  let used := ks.map a ++ ks.map b ++ ks.map sa ++ [sb, vo]
  let prod := fun k => mulV (a k) (b k)
  let scaled := fun k => (prod k).bind (mulV · (sa k))
  let terms := ks.map fun k => (scaled k).bind (mulV · sb)
  let snan := ks.any fun k => isSNaN (a k) || isSNaN (b k)
  let invalid := (ks.map prod ++ ks.map scaled ++ terms).any Option.isNone ||
    (List.range p.ng).any (fun g => opposed ((ks.filter fun k => k / 32 = g).map prod)) ||
    opposed (ks.map scaled) || opposed (terms ++ [some vo])
  if used.any isNaN || invalid then ⟨f32.nan, snan || invalid, false, false, true⟩
  else
    let r := roundSum f32 .rne false (terms ++ [some vo])
    ⟨r.val, snan, r.flags.testBit 2, false, used.any (fun x => !isFin x) || !isFin (decodeF f32 r.val)⟩

/-- A cell of an integer step (R288). -/
def Step.cellI (p : Step) (v : StepVals) (i j : Nat) (old : Nat) : CellRes :=
  let int := fun tag x => if tagSigned tag then sgn x (elemBits tag) else (x : Int)
  let t := (p.live.map fun k => int (pairA p.pair) (p.aElem v i k) * int (pairB p.pair) (p.bElem v k j)).foldl (· + ·) 0
  let x := sgn old 32 + t
  let lim : Int := 2 ^ 31
  if p.sat && (x < -lim || lim ≤ x) then ⟨wrap (if x < 0 then -lim else lim - 1) 32, false, false, true, true⟩
  else ⟨wrap x 32, false, false, false, false⟩

/-- One cell of a step. -/
def Step.cell (p : Step) (v : StepVals) (i j old : Nat) : CellRes :=
  match fmtOfTag (pairA p.pair), fmtOfTag (pairB p.pair) with
  | some fa, some fb => p.cellF v fa fb i j old
  | _, _ => p.cellI v i j old

/-- The results of every computed cell: row, column, result. -/
def Step.results (p : Step) (v : StepVals) (t : Tile) : List (Nat × Nat × CellRes) :=
  p.rows.flatMap fun i => p.cols.map fun j => (i, j, p.cell v i j (t.cell i j))

/-- A tile from its cells; cells that are 0 are not listed. -/
def tileOf (id tag : Nat) (f : Nat → Nat → Nat) : Tile :=
  { id := id, tag := tag
    cells := (List.range 256).filterMap fun n => if f (n / 16) (n % 16) = 0 then none else some (n, w32 (f (n / 16) (n % 16))) }

/-! ## Engine reads -/

/-- What a read of the engine came to: the value, a miss at an address, or an uncorrectable error at an address, with where it stood, as
guest-physical address and source. -/
inductive RunRes where
  | got (s : State) (v : Nat)
  | miss (m : Miss) (va : Nat)
  | bad (addr gpa src : Nat)

/-- The pieces of a run that the engine reads at once: none crosses a multiple of 32 (log entry 21). -/
def runPieces (r : Run) : List Run :=
  let (space, a, n) := r
  (List.range (n / 32 + 2)).filterMap fun k : Nat =>
    let base : Int := 32 * (a / 32 + (k : Int))
    let lo := max a base
    let hi := min (a + n) (base + 32)
    if lo < hi then some (space, lo, (hi - lo).toNat) else none

/-- A piece read by the engine of a core (R279, R300). -/
def State.pieceRead (s : State) (c : CtxId) (core : CoreId) (r : Run) : RunRes :=
  let (space, a, n) := r
  if space = 1 then
    if s.badPad core a.toNat n then .bad (addr64 a) 0 2 else .got s (memRead (s.core core).scratch a.toNat n)
  else
    match s.translate (viewAt c core) (addr64 a) false with
    | .error m => .miss m (addr64 a)
    | .ok p =>
      let s := s.engineSees c core (addr64 a) p
      match s.badMem (s.partOfCtx c) p.gpa p.key n with
      | some src => .bad (addr64 a) p.gpa src
      | none => .got s (memRead s.mem p.key n)

/-- Pieces read one after the other: their bytes as one number. -/
def piecesRead (c : CtxId) (core : CoreId) : List Run → State → Nat → Nat → RunRes
  | [], s, _, v => .got s v
  | r :: rs, s, at_, v =>
    match s.pieceRead c core r with
    | .got s x => piecesRead c core rs s (at_ + r.2.2) (v + 2 ^ (8 * at_) * x)
    | x => x

/-- A run read as a whole, by the uniform pipe at issue (R287, R294). -/
def State.runRead (s : State) (c : CtxId) (core : CoreId) (r : Run) : RunRes := piecesRead c core (runPieces r) s 0 0

/-- The values of runs from those of their pieces, in order. -/
def joinRuns : List Run → List Nat → List Nat
  | [], _ => []
  | r :: rs, vs =>
    let ps := runPieces r
    let v := (ps.zip vs).foldr (fun x acc => x.2 + 2 ^ (8 * x.1.2.2) * acc) 0
    v :: joinRuns rs (vs.drop ps.length)

/-- The operands of a step from the values of its runs: by kind (row, column, scales of rows, of columns) and number. -/
def Step.vals (p : Step) (vs : List Nat) : StepVals :=
  let keys := p.rows.map (fun i => (0, i)) ++ p.cols.map (fun j => (1, j)) ++
    (if p.scaled then p.rows.map (fun i => (2, i)) ++ p.cols.map (fun j => (3, j)) else [])
  let t : Tbl (Nat × Nat) Nat := keys.zip vs
  { row := fun i => (tget t (0, i)).getD 0, col := fun j => (tget t (1, j)).getD 0
    rowS := fun i => (tget t (2, i)).getD 0, colS := fun j => (tget t (3, j)).getD 0 }

/-! ## Commands as steps (R295) -/

/-- Level word l of a job card (R294, Table 3). -/
def cardLevel (card l : Nat) : Nat := byteFld card (0x18 + 8 * l) 8
/-- Count, tile step, A step and B step of a level. -/
def levCount (card l : Nat) : Nat := fld (cardLevel card l) 0 10 + 1
def levTile (card l : Nat) : Int := sgn (fld (cardLevel card l) 10 6) 6
def levA (card l : Nat) : Int := 32 * sgn (fld (cardLevel card l) 16 24) 24
def levB (card l : Nat) : Int := 32 * sgn (fld (cardLevel card l) 40 24) 24

/-- Steps of a walk. -/
def cardTotal (card : Nat) : Nat := (List.range 5).foldl (fun n l => n * levCount card l) 1

/-- Loop index i_l of step s. -/
def cardIndex (card s l : Nat) : Nat := s / (List.range l).foldl (fun n k => n * levCount card k) 1 % levCount card l

/-- Sum over the levels of index times step. -/
def cardSum (card s : Nat) (step : Nat → Int) : Int :=
  (List.range 5).foldl (fun acc l => acc + (cardIndex card s l : Int) * step l) 0

/-- A mask of the edge control at step s: the edge mask at the last index of its level, else all ones (R295). -/
def edgeMask (card creg s pos mask : Nat) : Nat :=
  let l := fld creg pos 3
  if l < 5 && cardIndex card s l = levCount card l - 1 then mask else 0xFFFF

/-- A signed field of a descriptor register. -/
def descS (q k : Nat) : Int := sgn (fld q (32 * k) 32) 32

/-- The step that a single-step command performs, or step s of a walk. -/
def MatCmd.step (m : MatCmd) (s : Nat) : Step :=
  let walk := m.minor = 6
  let c := m.creg
  { pair := fld m.mod 0 4, scaled := m.mod.testBit 4, sat := m.mod.testBit 5, sparse := m.minor = 2
    asp := fld m.ctl 4 1, bsp := fld m.ctl 5 1
    abase := if walk then (byteFld m.card 0 8 : Int) + cardSum m.card s (levA m.card) else (fld m.areg 0 64 : Int)
    astr := if walk then sgn (byteFld m.card 0x10 4) 32 else descS m.areg 2
    ascl := descS m.areg 3
    bbase := if walk then (byteFld m.card 8 8 : Int) + cardSum m.card s (levB m.card) else (fld m.breg 0 64 : Int)
    bstr := if walk then sgn (byteFld m.card 0x14 4) 32 else descS m.breg 2
    bscl := descS m.breg 3
    rm := if walk then edgeMask m.card c s 48 (fld c 0 16) else if m.minor = 1 then fld c 0 16 else 0xFFFF
    cm := if walk then edgeMask m.card c s 51 (fld c 16 16) else if m.minor = 1 then fld c 16 16 else 0xFFFF
    dm := if walk then edgeMask m.card c s 54 (fld c 32 16) else if m.minor = 1 then fld c 32 16 else 0xFFFF
    tile := if walk then ((m.tile : Int) + cardSum m.card s (levTile m.card)).toNat else m.tile
    mdata := m.card }

/-- The steps of a command. -/
def MatCmd.steps (m : MatCmd) : Nat := if m.minor = 6 then cardTotal m.card else 1

/-- The tiles that a command touches (R284); D of ACCZ is its count less one. -/
def MatCmd.tiles (m : MatCmd) : List Nat :=
  match m.minor with
  | 3 => rangeFrom m.tile (m.ctl + 1)
  | 6 => ((List.range (cardTotal m.card)).map fun s => (m.step s).tile).eraseDups
  | _ => [m.tile]

/-- The masked-in cells of ACCLD and ACCST as runs of 4 bytes: row, column, run (R293). -/
def MatCmd.cells (m : MatCmd) : List (Nat × Nat × Run) :=
  (bitList (fld m.creg 0 16) 16).flatMap fun i => (bitList (fld m.creg 16 16) 16).map fun j =>
    (i, j, (fld m.ctl 4 1, (fld m.areg 0 64 : Int) + i * descS m.areg 2 + 4 * (j : Nat), 4))

/-! ## Checks at issue (R287, R291, R293, R296) -/

/-- The first run out of bounds, or the first misaligned one (R287 steps 2 and 3). Of a run that straddles a bound the address told is its
first byte (DESIGN CHOICE; log entry 105). -/
def State.runsBad (s : State) (id : ThreadId) (rs : List Run) (aligned : List Run) : Option Raise :=
  match rs.findSome? fun (sp, a, n) => match s.place id sp a n false with
    | .error r => some r
    | .ok _ => none with
  | some r => some r
  | none => (aligned.find? fun r => r.2.1 % 32 ≠ 0).map fun r => trapR 0x11 0 (addr64 r.2.1)

/-- The runs of a step that must be aligned: every row and column, masked or not (R279, R287 step 3). -/
def Step.wide (p : Step) : List Run := (List.range 16).map p.rowRun ++ (List.range 16).map p.colRun

/-- The tag check of R283. -/
def State.tileBad (s : State) (core : CoreId) (t tag : Nat) : Option Raise :=
  if ((s.core core).tile t).tag = tag then none else some (trapR 0x04 t 0)

/-- The metadata run of an MMAS (R281). -/
def MatCmd.metaRun (m : MatCmd) : Run := (fld m.ctl 4 1, (fld m.creg 0 64 : Int), 2 * (m.step 0).kl)

/-- The first illegal group of metadata: row and group (R281, R287 step 4). -/
def metaBad (p : Step) : Option (Nat × Nat) :=
  ((List.range 16).flatMap fun i => (List.range (p.kl / 4)).map fun q => (i, q)).find? fun (i, q) =>
    let nib := fld p.mdata (8 * (i * (p.kl / 8)) + 4 * q) 4
    nib / 4 ≤ nib % 4

/-- The check of R291. -/
def MatCmd.maskBad (m : MatCmd) : Option Raise := if m.minor = 1 && fld m.creg 48 16 ≠ 0 then some (trapR 0x01 0 0) else none

/-- A step command's checks before its metadata is read. -/
def State.stepBad (s : State) (id : ThreadId) (m : MatCmd) : Option Raise :=
  let p := m.step 0
  let mdata : List Run := if m.minor = 2 then [m.metaRun] else []
  (m.maskBad.or (s.tileBad id.team.core m.tile (pairTag p.pair))).or
    ((s.runsBad id (p.runs ++ mdata) p.wide).or
      (if m.minor = 2 && fld m.creg 0 64 % 4 ≠ 0 then some (trapR 0x11 0 (fld m.creg 0 64)) else none))

/-- ACCLD's and ACCST's checks (R293). -/
def State.moveBad (s : State) (id : ThreadId) (m : MatCmd) : Option Raise :=
  (s.runsBad id (m.cells.map fun x => x.2.2) []).or
    (if fld m.areg 0 64 % 4 ≠ 0 then some (trapR 0x11 0 (fld m.areg 0 64))
     else if fld m.areg 64 32 % 4 ≠ 0 then some (trapR 0x11 0 (addr64 (descS m.areg 2))) else none)

/-- The run of a job card and its checks (R294). -/
def MatCmd.cardRun (m : MatCmd) : Run := (fld m.ctl 4 1, (fld m.areg 0 64 : Int), 64)
def State.cardBad (s : State) (id : ThreadId) (m : MatCmd) : Option Raise :=
  (s.runsBad id [m.cardRun] []).or (if fld m.areg 0 64 % 64 ≠ 0 then some (trapR 0x11 0 (fld m.areg 0 64)) else none)

/-- The first level of a walk whose tile step takes some tile out of 0 to 255 (R296). -/
def MatCmd.badLevel (m : MatCmd) : Option Nat :=
  let reach := fun (sel : Int → Int) (l : Nat) =>
    (List.range (l + 1)).foldl (fun acc k => acc + sel (((levCount m.card k - 1 : Nat) : Int) * levTile m.card k)) (m.tile : Int)
  (List.range 5).find? fun l => reach (fun d => min d 0) l < 0 || 255 < reach (fun d => max d 0) l

/-- A walk's checks once its card is read (R295, R296). -/
def State.walkBad (s : State) (id : ThreadId) (m : MatCmd) : Option Raise :=
  let lev := fun pos => let l := fld m.creg pos 3
    l = 5 || l = 6
  if fld m.creg 57 7 ≠ 0 || lev 48 || lev 51 || lev 54 then some (trapR 0x01 0 0)
  else if 2 ^ 24 < cardTotal m.card then some (trapR 0x01 0x18 0)
  else
    match m.badLevel with
    | some l => some (trapR 0x01 (0x18 + 8 * l) 0)
    | none =>
      let steps := (List.range (cardTotal m.card)).map m.step
      let writes := steps.filter fun p => !p.rows.isEmpty
      let head := [(byteFld m.card 0x10 4, sgn (byteFld m.card 0x10 4) 32), (byteFld m.card 0x14 4, sgn (byteFld m.card 0x14 4) 32),
        (byteFld m.card 0 8, (byteFld m.card 0 8 : Int)), (byteFld m.card 8 8, (byteFld m.card 8 8 : Int))]
      (writes.findSome? fun p => s.tileBad id.team.core p.tile (pairTag p.pair)).or
        ((s.runsBad id (steps.flatMap Step.runs) (steps.flatMap fun p => p.rows.map p.rowRun ++ p.cols.map p.colRun)).or
          ((head.find? fun h => h.1 % 32 ≠ 0).map fun h => trapR 0x11 0 (addr64 h.2)))

/-! ## Issue (R277, R285, R301) -/

/-- Step 1 of major 0x0A (R285, Table 2). -/
def matOk (minor : Nat) (f : L2R) : Bool :=
  let d := f.d.toNat
  let imm := f.imm.toNat
  let mod := f.mod.toNat
  let control := !d.testBit 6 && !imm.testBit 8
  guardOk f.g f.gn && wIn f.toL1 [0] &&
    (match minor with
     | 0 => control && pairOk mod true && f.c = 0
     | 1 | 2 => control && pairOk mod true
     | 3 => mod < 2 && imm < 256 && imm + d ≤ 255 && f.a = 0 && f.b = 0 && f.c = 0
     | 4 => control && !d.testBit 5 && mod < 2 && f.b = 0
     | 5 => control && !d.testBit 5 && mod = 0 && f.b = 0
     | 6 => control && pairOk mod false && f.b = 0
     | _ => mod < 2 && imm = 0 && f.a = 0 && f.b = 0 && f.c = 0)

/-- Source operands of a matrix command (Table 2). -/
def matSrcs (minor : Nat) (f : L2R) : List Opd :=
  let a := f.a.toNat
  let b := f.b.toNat
  let c := f.c.toNat
  match minor with
  | 0 => [⟨.src 4, a⟩, ⟨.src 4, b⟩]
  | 1 | 2 => [⟨.src 4, a⟩, ⟨.src 4, b⟩, ⟨.src 2, c⟩]
  | 4 | 5 => [⟨.src 4, a⟩, ⟨.src 1, c⟩]
  | 6 => [⟨.src 2, a⟩, ⟨.src 2, c⟩]
  | _ => []

/-- The command as its leader reads it. -/
def State.matCmd (s : State) (minor : Nat) (f : L2R) (l : ThreadId) (lt : Thread) (on : List ThreadId) (scope : Nat) : MatCmd :=
  let rd := fun (k : Nat) (n : BitVec 7) => (matSrcs minor f).findSome? fun o => match o.use with
    | .src w => if o.n = n.toNat && w = k then some (lt.readReg (s.env l) n.toNat w) else none
    | _ => none
  { key := s.seq, seq := s.seq, team := l.team, ctx := s.ctxId l, minor := minor, ctl := f.d.toNat, mod := f.mod.toNat
    tile := fld f.imm.toNat 0 8, scope := scope
    areg := ((rd 4 f.a).or (rd 2 f.a)).getD 0, breg := if minor < 3 then (rd 4 f.b).getD 0 else 0
    creg := match minor with
      | 1 | 2 | 6 => lt.readReg (s.env l) f.c.toNat 2
      | 4 | 5 => lt.readReg (s.env l) f.c.toNat 1
      | _ => 0
    card := 0, next := 0, issuers := on, state := .waiting, waits := [], lost := 0, got := [], acted := false, todo := [],
    replay := false, base := s.words.1, extw := s.words.2 }

/-- Tiles noted as written by a guarded team, in its slot or in its fault frame (R387). -/
def State.noteTiles (s : State) (c : CtxId) (t : TeamId) (ts : List Nat) : State :=
  s.settleTeam c t fun tm =>
    if tm.guarded then { tm with wtiles := tm.wtiles ++ ts.filter fun i => !tm.wtiles.contains i } else tm

/-- ACCZ and ACCLD set the tags of their tiles at acceptance (R283). -/
def State.matTags (s : State) (m : MatCmd) : State :=
  if m.minor = 3 || m.minor = 4 then
    let tag := if m.mod.testBit 0 then 12 else 1
    (s.noteTiles m.ctx m.team m.tiles).updCore m.team.core fun k => m.tiles.foldl (fun k t => k.setTile { k.tile t with tag := tag }) k
  else s

/-- Acceptance (R283, R301). -/
def State.matAccept (s : State) (m : MatCmd) : State :=
  let (s, _) := s.fresh
  let s := (s.matTags m).updCore m.team.core fun k => { k with mq := k.mq ++ [m] }
  (s.updThreads m.issuers fun t => { t with mxn := t.mxn + 1 }).stepAll s.gathered.ids 2

/-- What a thread waits for at its instruction is over (R190, R287, R298, R301, R322, R333, R337, R343, R355, R388). -/
def State.holdOver (s : State) (id : ThreadId) : Hold → Bool
  | .rest => s.atRest id.team
  | .quiet => s.quiet id.team
  | .launches => (s.teamLaunch id.team).isEmpty
  | .earlier => (s.earlier [id]).isEmpty
  | .release sc => !s.barWaits id.team sc
  | .quiesce => !((s.part (s.partOfCtx (s.ctxId id))).any (·.quiesced))
  | .access a => s.mayPerform a
  | .command ids => (s.teamMats id.team).length < 64 && s.roomAll ids (·.mxn)
  | .engine strm scope ids => s.engineMay s.seq strm scope ids
  | .retired => (s.teamMats id.team).isEmpty

/-- The engine's part of a command. -/
def MatCmd.engine (m : MatCmd) (core : CoreId) : Engine := ⟨m.ctx, core, m.issuers, fld m.ctl 0 4, m.scope⟩

/-- Stores that land while the uniform pipe reads: a free choice among those that may be performed (R228, R447; log entry 14). -/
def State.racingStores (s : State) : State :=
  ((s.accs.filter fun a => a.kind = .store && a.state = .waiting).zipIdx.filter fun x => Config.pick s.tick x.2).foldl
    (fun s x => match execStorePerformed x.1.seq s with
      | .next s => s
      | _ => s) s

/-- Bytes that are each the one of an earlier or the one of a later reading. -/
def mixBytes (tick n : Nat) (old new : Nat) : Nat :=
  bytesToNat ((List.range n).map fun k => BitVec.ofNat 8 (byteFld (if Config.pick tick k then new else old) k 1))

/-- What the uniform pipe reads at issue: MMAS metadata or a job card, in the command's stream (R287, R294). A store that lands meanwhile
and that nothing orders gives its bytes or not, byte by byte (R447). An uncorrectable error is told to the guard-true members, with the tile
in TINFO (DESIGN CHOICE; log entry 105). -/
def State.matRead (s : State) (m : MatCmd) (r : Run) (go : State → Nat → State) : State :=
  if !s.engineMay m.seq (fld m.ctl 0 4) m.scope m.issuers then
    s.waitTeam s.gathered.ids (.engine (fld m.ctl 0 4) m.scope m.issuers)
  else
    let s := s.engineOpens (m.engine m.team.core) m.seq
    match s.runRead m.ctx m.team.core r with
    | .got s v =>
      let late := s.racingStores
      (match late.runRead m.ctx m.team.core r with
       | .got _ w => go late (mixBytes s.tick r.2.2 v w)
       | _ => go s v)
    | .miss _ va => s.probeFault m.issuers va false
    | .bad a gpa src =>
      (s.countBad m.ctx gpa src).updThreads m.issuers fun t =>
        { t with deferred := t.deferred ++ [⟨0x21, m.tile, a, none, true⟩] }

/-- A matrix command by its team (R277). -/
def matAct (minor : Nat) (f : L2R) (s : State) : State :=
  match s.group.filter fun (_, t) => t.guard f.g f.gn with
  | [] => s.stepAll s.gathered.ids 2
  | (l, lt) :: rest =>
    match regCheck lt (matSrcs minor f) with
    | some r => s.raises [(l, r)]
    | none =>
      let on := l :: rest.map (·.1)
      let (s', scope) := if minor = 3 then (s, 0) else s.clamp (s.ctxId l) l.team.core (fld f.imm.toNat 9 3)
      let m := s.matCmd minor f l lt on scope
      let strm := fld m.ctl 0 4
      if minor ≠ 3 && s.heldFor l.team on strm then s.commitFirst l.team
      else if 64 ≤ (s.teamMats l.team).length || !s.roomAll on (·.mxn) then s.waitTeam s.gathered.ids (.command on)
      else
        match minor with
        | 3 => s'.matAccept m
        | 4 | 5 =>
          (match s.moveBad l m with
           | some r => s.raises [(l, r)]
           | none => s'.matAccept m)
        | 6 =>
          (match s.cardBad l m with
           | some r => s.raises [(l, r)]
           | none => s'.matRead m m.cardRun fun w v =>
             let m : MatCmd := { m with card := v }
             match w.walkBad l m with
             | some r => w.raises [(l, r)]
             | none => w.matAccept m)
        | _ =>
          (match s.stepBad l m with
           | some r => s.raises [(l, r)]
           | none =>
             if minor ≠ 2 then s'.matAccept m
             else s'.matRead m m.metaRun fun w v =>
               let m : MatCmd := { m with card := v }
               match metaBad (m.step 0) with
               | some (i, q) => w.raises [(l, trapR 0x16 (i + 16 * q) 0)]
               | none => w.matAccept m)

/-- Step 1 of a matrix command (R277 to R279). -/
def matLegal (minor : Nat) (f : L2R) : Bool :=
  matOk minor f && (if minor = 7 then Opd.legal ⟨.dst 1, f.d.toNat⟩ else (matSrcs minor f).all Opd.legal)

/-- A matrix command: a team collective of all 32 members (R277). -/
def runMatrix (minor : Nat) (f : L2R) (s : State) : Out :=
  if matLegal minor f then asTeam s .matrix (matAct minor f) else .next s.illegal

/-- MMA (R288). -/
def execMma (f : L2R) (s : State) : Out := runMatrix 0 f s
/-- MMAM (R288, R291). -/
def execMmam (f : L2R) (s : State) : Out := runMatrix 1 f s
/-- MMAS (R281, R290). -/
def execMmas (f : L2R) (s : State) : Out := runMatrix 2 f s
/-- ACCZ (R292). -/
def execAccz (f : L2R) (s : State) : Out := runMatrix 3 f s
/-- ACCLD (R293). -/
def execAccld (f : L2R) (s : State) : Out := runMatrix 4 f s
/-- ACCST (R293). -/
def execAccst (f : L2R) (s : State) : Out := runMatrix 5 f s
/-- MWALK (R294 to R296). -/
def execMwalk (f : L2R) (s : State) : Out := runMatrix 6 f s

/-- The team's oldest unretired walk (R297). -/
def State.walkOf (s : State) (t : TeamId) : Option MatCmd := (s.teamMats t).find? (·.minor = 6)
/-- RPROG (R297, Table 4). -/
def State.rprog (s : State) (t : TeamId) : Nat :=
  match s.walkOf t with
  | some m => fld m.next 0 24 + 2 ^ 24
  | none => 0

/-- MSTAT by its team (R298). Members whose destination fails trap at once, and when every guard-true one does nothing waits (R6, R44). -/
def mstatAct (f : L2R) (s : State) : State :=
  match s.group.filter fun (_, t) => t.guard f.g f.gn with
  | [] => s.stepAll s.gathered.ids 2
  | (l, lt) :: rest =>
    let n := (s.teamMats l.team).length
    let bad := ((l, lt) :: rest).filterMap fun (i, t) => (regCheck t [⟨.dst 1, f.d.toNat⟩]).map fun r => (i, r)
    let good := (l :: rest.map (·.1)).filter fun i => !(bad.any (·.1 = i))
    let past := s.gathered.ids.filter fun i => !(bad.any (·.1 = i))
    if f.mod = 1 && n ≠ 0 && !good.isEmpty then (s.waitTeam past .retired).raises bad
    else
      let v := n + 2 ^ 8 * fld (s.rprog l.team) 0 24
      ((s.updThreads good fun t => t.writeReg f.d.toNat 1 v 0).stepAll past 2).raises bad

/-- MSTAT (R298). -/
def execMstat (f : L2R) (s : State) : Out :=
  if matLegal 7 f then asTeam s .matrix (mstatAct f) else .next s.illegal

/-! ## When a command may start and act (R284, R300, R303, R308) -/

/-- A matrix command of a core changed. -/
def State.updMat (s : State) (core : CoreId) (k : Nat) (f : MatCmd → MatCmd) : State :=
  s.updCore core fun c => { c with mq := c.mq.map fun m => if m.key = k then f m else m }

/-- The command on a core with a number. -/
def State.matOn (s : State) (core : CoreId) (k : Nat) : Option MatCmd := (s.core core).mq.find? (·.key = k)

/-- The earlier commands of a core's engine. -/
def State.matsBefore (s : State) (core : CoreId) (m : MatCmd) : List MatCmd := (s.core core).mq.takeWhile (·.key ≠ m.key)

/-- Two commands touch a common tile. -/
def MatCmd.meets (m e : MatCmd) : Bool := m.tiles.any e.tiles.contains

/-- At pre-emption the walks of unguarded tasks start no further step; those of a guarded one, and those that its core's engine took before
a guarded one's command, run on to the commit (R308, R309; log entry 87). -/
def State.walkStops (s : State) (m : MatCmd) : Bool :=
  m.minor = 6 && ((s.part (s.partOfCtx m.ctx)).any fun p => p.slicing ≠ .none && !(s.ctx m.ctx).any (·.ending)) &&
    !((s.core m.team.core).mq.any fun e => m.seq ≤ e.seq && s.engineGuarded e.ctx e.issuers)

/-- The command may start: its team stands in a slot, its stream allows its accesses (R300), no earlier walk of its team, nor one of
another team whose tiles it touches, is unretired (R284), and an earlier command replayed after a fault has retired (R303). -/
def State.matMay (s : State) (core : CoreId) (m : MatCmd) : Bool :=
  m.state = .waiting && m.team.slot < 64 && (m.minor = 3 || s.engineMay m.seq (fld m.ctl 0 4) m.scope m.issuers) &&
    (s.matsBefore core m).all fun e => e.state = .refused ||
      !((e.minor = 6 && (e.team = m.team || e.meets m)) || (m.replay && e.replay && e.team = m.team))

/-- The tiles of a command's next tile action. -/
def MatCmd.nextTiles (m : MatCmd) : List Nat := if m.minor = 6 then [(m.step m.next).tile] else m.tiles

/-- The tile action may take place: every earlier command on the tile has taken its own (R284). -/
def State.matTurn (s : State) (core : CoreId) (m : MatCmd) : Bool :=
  (s.matsBefore core m).all fun e => e.state = .refused || e.acted || !(e.tiles.any m.nextTiles.contains)

/-! ## Operand reads -/

/-- The runs that a command reads for a step. -/
def MatCmd.runs (m : MatCmd) (k : Nat) : List Run :=
  match m.minor with
  | 3 | 5 => []
  | 4 => m.cells.map fun x => x.2.2
  | _ => (m.step k).runs

/-- The pieces of a step's runs. -/
def MatCmd.pieces (m : MatCmd) (k : Nat) : List Run := (m.runs k).flatMap runPieces

/-- A piece of a step is read. -/
def MatCmd.has (m : MatCmd) (k n : Nat) : Bool := m.got.any fun x => x.1 = k && x.2.1 = n

/-- The pieces of a step that are still to be read, by number. -/
def MatCmd.missing (m : MatCmd) (k : Nat) : List Nat := (List.range (m.pieces k).length).filter fun n => !m.has k n

/-- A step has begun to read its operands. -/
def MatCmd.begun (m : MatCmd) (k : Nat) : Bool := m.got.any (·.1 = k)

/-- The steps whose operands the engine may read: those begun, and the first that is not, while it may start one. -/
def State.openSteps (s : State) (m : MatCmd) : List Nat :=
  let last := m.got.foldl (fun n x => max n (x.1 + 1)) m.next
  let begun := (rangeFrom m.next (last - m.next)).filter m.begun
  if last < m.steps && !s.walkStops m then begun ++ [last] else begun

/-- The pieces that the engine may read for a command: step and number. -/
def State.openPieces (s : State) (m : MatCmd) : List (Nat × Nat) :=
  (s.openSteps m).flatMap fun k => (m.missing k).map fun n => (k, n)

/-- The values of a step's runs, once its pieces are read. -/
def MatCmd.values (m : MatCmd) (k : Nat) : List Nat :=
  joinRuns (m.runs k) ((List.range (m.pieces k).length).map fun n =>
    ((m.got.find? fun x => x.1 = k && x.2.1 = n).map (·.2.2)).getD 0)

/-! ## Faults and errors (R303, R304, R307) -/

/-- The later commands of a faulted command's team: one that has not begun, or whose tile action must wait on a command held so far, is
withheld whole, and what it has read is discarded; the others run on. -/
def holdMats (t : TeamId) : List MatCmd → List MatCmd → List MatCmd
  | _, [] => []
  | held, m :: ms =>
    let idle := m.got.isEmpty && !m.acted && m.next = 0
    if m.team = t && m.state = .waiting && (idle || (!m.acted && held.any m.meets)) then
      let m := { m with state := AccState.withheld, got := [] }
      m :: holdMats t (held ++ [m]) ms
    else m :: holdMats t held ms

/-- An operand of a command does not translate: the command is faulted, the team's later ones are withheld as far as R303 says, and the
team stops (R201). An ACCST keeps the cells that it has read from its tile (log entry 21). -/
def State.matFault (s : State) (core : CoreId) (m : MatCmd) (miss : Miss) (va : Nat) : State :=
  let (s, tag) := s.pageRequest m.ctx core 2 miss
  let m' := { m with state := AccState.faulted, waits := [tag], lost := va, got := [] }
  let s := s.updCore core fun c => { c with
    mq := c.mq.takeWhile (·.key ≠ m.key) ++ m' :: holdMats m.team (if m.acted then [] else [m']) ((c.mq.dropWhile (·.key ≠ m.key)).drop 1) }
  s.stopFaulting m.team

/-- A step that must not retire, with the trap for every member: its command is not performed, nor, where `all` says so, are the team's
later commands (R304, R307), but for an ACCST that is already writing. -/
def State.matFail (s : State) (core : CoreId) (m : MatCmd) (all : Bool) (r : Raise) : State :=
  let late := ((s.core core).mq.dropWhile (·.key ≠ m.key)).filter fun e => e.key = m.key || (all && e.team = m.team && !e.acted)
  let s := late.foldl (fun s e => s.matRetire core e) s
  s.settleThreads ((List.range 32).map fun l => ⟨m.team, l⟩) fun t => if t.live then { t with deferred := t.deferred ++ [r] } else t

/-- An uncorrectable error in an operand or a cell (R304, R379). -/
def State.matPoison (s : State) (core : CoreId) (m : MatCmd) (tile addr gpa src : Nat) : State :=
  (s.countBad m.ctx gpa src).matFail core m false ⟨0x21, tile, addr, none, true⟩

/-- Pieces of a command read in a given order. An error or a miss in a piece of a later step is met when that step is the next: the steps
before it do not need it (R303, R304). -/
def matReads (core : CoreId) (key : Nat) : List (Nat × Nat) → State → State
  | [], s => s
  | (k, n) :: ps, s =>
    match s.matOn core key with
    | none => s
    | some m =>
      if m.state ≠ .waiting then s
      else
        match ((m.pieces k)[n]?).map fun r => s.pieceRead m.ctx core r with
        | none => matReads core key ps s
        | some (.got s v) => matReads core key ps (s.updMat core key fun m => { m with got := m.got ++ [(k, n, v)] })
        | some (.miss miss va) => if k = m.next then s.matFault core m miss va else matReads core key ps s
        | some (.bad a gpa src) => if k = m.next then s.matPoison core m (m.step k).tile a gpa src else matReads core key ps s

/-! ## Tile actions (R284, R288, R292, R293) -/

/-- A tile written: its cells that are written hold no error any more. -/
def State.putTile (s : State) (core : CoreId) (t : Tile) (cells : Nat → Bool) : State :=
  (s.heal (Upset.onTile core t.id cells)).updCore core fun k => k.setTile t

/-- MSTATUS of a team raised by a step's cells (R299, R306). -/
def Team.matStatus (tm : Team) (cs : List CellRes) (unchk : Bool) : Team :=
  { tm with mnv := tm.mnv || cs.any (·.nv), mof := tm.mof || cs.any (·.of_), msat := tm.msat || cs.any (·.sat)
            unchk := if unchk then min (tm.unchk + 1) 0xFFFF else tm.unchk }

/-- A hardware error that strikes a checksum of the step: column check, failing row or column; only computed rows and columns are
checked (R305, R307). -/
def State.checksumUpset (s : State) (m : MatCmd) (p : Step) : Option (Bool × Nat) :=
  s.upsets.findSome? fun u => match u with
    | .checksum k col i => if k = m.key && (if col then p.cols else p.rows).contains i then some (col, i) else none
    | _ => none

/-- A cell that a step computes. -/
def Step.computes (p : Step) (n : Nat) : Bool := p.rows.contains (n / 16) && p.cols.contains (n % 16)

/-- A tile step performed (R284, R288, R304 to R307): its cells are written and it retires, or it fails. -/
def State.matStep (s : State) (core : CoreId) (m : MatCmd) : State :=
  let p := m.step m.next
  let tile := (s.core core).tile p.tile
  let rs := p.results (p.vals (m.values m.next)) tile
  let mchk := (s.ctx m.ctx).any fun x => x.shdctl.getLsbD 1
  let unchk := rs.any fun r => r.2.2.unchk
  if s.badTile core p.tile p.computes then s.matPoison core m p.tile 0 0 3
  else match if mchk && !unchk then s.checksumUpset m p else none with
  | some (col, i) =>
    let gone : Upset → Bool := fun u => match u with
      | .checksum k _ _ => k != m.key
      | _ => true
    let s := ({ s with upsets := s.upsets.filter gone }).updCtx m.ctx fun x => { x with mfail := min (x.mfail + 1) 0xFFFF }
    (s.countVf m.ctx.vf 7).matFail core m true ⟨0x20, p.tile + 2 ^ 8 * b2n col + 2 ^ 9 * i, 0, none, true⟩
  | none =>
    let at_ := fun i j => match rs.find? fun r => r.1 = i && r.2.1 = j with
      | some r => r.2.2.val
      | none => tile.cell i j
    let s := s.updCore core fun k => k.setTile (tileOf tile.id tile.tag at_)
    let s := if rs.isEmpty then s else s.noteTiles m.ctx m.team [p.tile]
    let s := s.settleTeam m.ctx m.team fun tm => tm.matStatus (rs.map (·.2.2)) (mchk && unchk)
    if m.next + 1 = m.steps then s.matRetire core m
    else s.updMat core m.key fun m => { m with next := m.next + 1, got := m.got.filter (·.1 ≠ m.next) }

/-- ACCZ performed (R292). -/
def State.matZero (s : State) (core : CoreId) (m : MatCmd) : State :=
  (m.tiles.foldl (fun s t => s.putTile core { (s.core core).tile t with cells := [] } fun _ => true) s).matRetire core m

/-- ACCLD performed (R293). -/
def State.matLoad (s : State) (core : CoreId) (m : MatCmd) : State :=
  let vs := m.cells.zip (m.values 0)
  let at_ := fun i j => ((vs.find? fun x => x.1.1 = i && x.1.2.1 = j).map (·.2)).getD 0
  (s.putTile core (tileOf m.tile ((s.core core).tile m.tile).tag at_) fun _ => true).matRetire core m

/-- ACCST's tile action: it reads the cells that it stores (R284, R293). -/
def State.matTake (s : State) (core : CoreId) (m : MatCmd) : State :=
  let t := (s.core core).tile m.tile
  if s.badTile core m.tile fun n => m.cells.any fun x => 16 * x.1 + x.2.1 = n then s.matPoison core m m.tile 0 0 3
  else if m.cells.isEmpty then s.matRetire core m
  else s.updMat core m.key fun m => { m with acted := true, todo := m.cells.map fun (i, j, _) => (16 * i + j, t.cell i j) }

/-- The command's next tile action. -/
def State.matTile (s : State) (core : CoreId) (m : MatCmd) : State :=
  match m.minor with
  | 3 => s.matZero core m
  | 4 => s.matLoad core m
  | 5 => s.matTake core m
  | _ => s.matStep core m

/-- Cells of an ACCST written in a given order (R293, R309). -/
def matStores (core : CoreId) (key : Nat) : List (Nat × Nat) → State → State
  | [], s => s
  | (n, v) :: cs, s =>
    match s.matOn core key with
    | none => s
    | some m =>
      match m.cells.find? fun x => 16 * x.1 + x.2.1 = n with
      | none => matStores core key cs s
      | some (_, _, sp, a, _) =>
        let done := fun s : State => s.updMat core key fun m => { m with todo := m.todo.filter (·.1 ≠ n) }
        if sp = 1 then
          matStores core key cs (done ((s.padWrite core a.toNat 4 v).noteEngineLine m.ctx m.issuers core a.toNat))
        else
          match s.engineStore (m.engine core) a v with
          | .error miss => s.matFault core m miss (addr64 a)
          | .ok s => matStores core key cs (done s)

/-- Some of a command's parts, chosen freely (log entry 14). -/
def pickParts {α : Type} (tick : Nat) (l : List α) : List α :=
  let p := (l.zipIdx.filter fun x => Config.pick tick x.2).map (·.1)
  if p.isEmpty then l else p

/-- An ACCST that has no cell left to write retires (R301). -/
def State.matStored (s : State) (core : CoreId) (key : Nat) : State :=
  match s.matOn core key with
  | none => s
  | some m => if m.acted && m.todo.isEmpty then s.matRetire core m else s

/-- A refused command of a team that a trap or a rollback has stopped retires, and no member is told. -/
def State.lateRefused (s : State) (m : MatCmd) : Bool := m.state = .refused && (s.team m.team).any Team.struck

/-- MATRIX_STEP_RETIRE (R284, R301, R303): the command whose number is given goes on by one part, freely chosen: operands read, its next
tile action, which retires a step, or cells of an ACCST written. -/
def execMatrixStepRetire (c : CoreId) (m : Nat) (s : State) : Out :=
  match s.matOn c m with
  | none => .next s
  | some x =>
    if s.lateRefused x then .next (s.matRetire c x)
    else if !s.matMay c x then .next s
    else
    let s := if x.minor = 3 then s else s.engineOpens (x.engine c) x.seq
    if x.acted then .next ((matStores c m (pickParts s.tick x.todo) s).matStored c m)
    else
      let reads := s.openPieces x
      let ready := (x.missing x.next).isEmpty && s.matTurn c x && !(s.walkStops x && !x.begun x.next)
      if ready && (reads.isEmpty || Config.engineActs s.tick) then .next (s.matTile c x)
      else .next (matReads c m (pickParts s.tick reads) s)

/-- A page reply for matrix commands (R303): granted, a command of a team that is not suspended goes on; refused, it ends without effect
when the replay of its team does. -/
def State.answerMats (s : State) (tag : Nat) (refuse : Bool) : State :=
  let answer := fun m : MatCmd =>
    if m.waits.contains tag then
      if refuse then { m with waits := [], state := AccState.refused }
      else { m with waits := [], state := if m.team.slot < 64 then AccState.waiting else m.state }
    else m
  let teams := s.cores.flatMap fun (_, k) => (k.mq.filter fun m => m.waits.contains tag).map (·.team)
  let s := { s with cores := tmap s.cores fun _ k => { k with mq := k.mq.map answer } }
  teams.foldl (fun s t => if t.slot < 64 && !((s.team t).any fun tm => tm.stop = .faulting) then s.wakeMats t else s) s

end Sys2Proof.Machine
end

