-- ==== Sys2Proof/Machine/Frames.lean ====
section
/-! DEFINITION. The records that the machine writes to a VF's areas: team records and fault frames (16_system R385, R386), snapshots
and the commit (R388, R389), progress records of copies (11_copy R274), resume entries of matrix commands (12_matrix R308) and the save
area of a context (16_system R384), which is read back when the context resumes. Of a team record in a fault frame or a snapshot the fields
of State go on (log entry 25). -/
namespace Sys2Proof.Machine

/-! ## Writing an image -/

/-- Bytes written to guest-physical memory of a partition page by page, so many pages at most; a page that does not translate is
dropped. -/
def State.writeImage (s : State) (part gpa : Nat) (img : List Byte) : Nat → State
  | 0 => s
  | n + 1 =>
    let room := 4096 - gpa % 4096
    let s := match s.stage2 part gpa true with
      | .error _ => s
      | .ok k => s.memPlace k (img.take room)
    s.writeImage part (gpa + room) (img.drop room) n

/-- Bytes read from guest-physical memory of a partition page by page, so many pages at most; a page that does not translate reads as
zeros. -/
def State.readPages (s : State) (part gpa size : Nat) : Nat → List Byte
  | 0 => []
  | n + 1 =>
    let room := min size (4096 - gpa % 4096)
    if size = 0 then [] else
      (match s.stage2 part gpa false with
       | .error _ => List.replicate room 0
       | .ok k => memBytes s.mem k room) ++ s.readPages part (gpa + room) (size - room) n

/-- Pages that an image of a size may touch. -/
def pagesOf (size : Nat) : Nat := size / 4096 + 2

/-- Number of a core among those of a partition's packages, in the order of its shares (R430; log entry 88). -/
def State.coreRank (s : State) (part : Nat) (c : CoreId) : Nat :=
  (((s.part part).map fun p => (p.shares.takeWhile fun sh => sh.pkg ≠ c.pkg).length).getD 0) * 256 + c.core

/-- Place of a team slot among the slots of an area (R430). -/
def State.slotRank (s : State) (part : Nat) (t : TeamId) : Nat := s.coreRank part t.core * 64 + t.slot

/-! ## Team records (R385, Table 8) -/

/-- The four counters of a thread in the layout of CNTRS (R49, Table 8). -/
def Thread.cntrs (t : Thread) : Nat := t.ldn + 2 ^ 6 * t.stn + 2 ^ 12 * t.cpn + 2 ^ 18 * t.mxn

/-- MSTATUS (R299, Table 5). -/
def Team.mstatus (t : Team) : Nat := t.unchk + 2 ^ 16 * b2n t.mnv + 2 ^ 17 * b2n t.mof + 2 ^ 18 * b2n t.msat

/-- TCAUSE (R374). -/
def Thread.tcause (t : Thread) : Nat := t.cause.toNat + 2 ^ 8 * b2n t.inh + 2 ^ 9 * b2n t.defer

/-- A PC as records hold it: token, then 14 bits of offset. -/
def Pc.image (p : Pc) : Nat := p.tok.toNat + 2 ^ 16 * fld p.off 0 14

/-- A field of n bytes; a bit list as bytes. -/
def zeros (n : Nat) : List Byte := List.replicate n 0

/-- The saved thread of a lane. -/
def SavedTeam.lane (v : SavedTeam) (l : Nat) : Option Thread := tget v.threads l

/-- The 64 bytes of a lane's visible state. -/
def laneImage (t : Option Thread) : List Byte :=
  match t with
  | none => natToBytes 4 0 ++ natToBytes 4 4 ++ zeros 56
  | some t =>
    natToBytes 4 t.pc.image ++ natToBytes 4 (b2n t.inh + 2 * b2n t.heldWait + 4 * b2n (!t.live)) ++ natToBytes 4 t.preds.toNat ++
      natToBytes 4 t.fflags.toNat ++ natToBytes 4 t.fmode.toNat ++ natToBytes 4 t.cntrs ++ natToBytes 4 t.tcause ++
      natToBytes 4 t.tinfo.toNat ++ natToBytes 8 t.taddr.toNat ++ natToBytes 4 t.tlinkLo.toNat ++ natToBytes 4 t.tlinkHi.toNat ++ zeros 16

/-- The tags of a lane's registers, a nibble each. -/
def tagImage (t : Option Thread) : List Byte :=
  let tag := fun k => ((t.bind fun t => t.regs[k]?).map (·.tag.toNat)).getD 0
  (List.range 64).map fun i => BitVec.ofNat 8 (tag (2 * i) + 16 * tag (2 * i + 1))

/-- The registers of a lane. -/
def regImage (alloc : Nat) (t : Option Thread) : List Byte :=
  (List.range alloc).flatMap fun k => natToBytes 4 (((t.bind fun t => t.regs[k]?).map (·.val.toNat)).getD 0)

/-- A 32-byte record: ENTRY, FRAME, JOIN, ARG (R72). -/
def Rec.image (r : Rec) : List Byte :=
  natToBytes 8 r.entry.toNat ++ natToBytes 8 r.frame.toNat ++ natToBytes 8 r.join.toNat ++ natToBytes 8 r.arg.toNat

/-- Tags with a copy that threads of a team issued (CPTAGS). -/
def State.copyTags (s : State) (t : TeamId) : Nat := ofBits 64 fun i => (s.teamCopies t).any (·.cmd.tag = i)

/-- MODE of a team record. -/
structure RecMode where
  full : Bool
  fault : Bool

/-- Head of a team record, up to its lanes. -/
def State.headImage (s : State) (v : SavedTeam) (m : RecMode) : List Byte :=
  let live := v.threads.filter (·.2.live)
  let tm := v.team
  natToBytes 4 (v.id.slot + 2 ^ 6 * tm.block.slot + 2 ^ 10 * tm.tnum) ++ natToBytes 4 (ofBits 32 fun l => live.any (·.1 = l)) ++
    natToBytes 4 (b2n m.full + 2 * b2n m.fault + 4 * b2n tm.guarded) ++
    natToBytes 4 (if m.full then 0 else ((live.head?).map fun x => x.2.pc.image).getD 0) ++
    natToBytes 8 tm.frame.toNat ++ natToBytes 8 tm.targ.toNat ++ ((tm.task.map fun k => k.body.image).getD (zeros 32)) ++
    natToBytes 4 v.alloc ++ natToBytes 4 tm.role.toNat ++ natToBytes 8 (s.copyTags v.id) ++ natToBytes 4 tm.mstatus ++
    natToBytes 4 (s.rprog v.id) ++ zeros 40

/-- A team record (Table 8). -/
def State.recordImage (s : State) (v : SavedTeam) (m : RecMode) : List Byte :=
  s.headImage v m ++ (List.range 32).flatMap (fun l => laneImage (v.lane l)) ++
    (List.range 32).flatMap (fun l => tagImage (v.lane l)) ++ (List.range 32).flatMap fun l => regImage v.alloc (v.lane l)

/-- Size of a team record. -/
def recordSize (alloc : Nat) : Nat := 0x1080 + 128 * alloc

/-! ## Fault frames (R386) -/

/-- Pending bits of a lane's registers, 16 bytes. -/
def pendImage (t : Option Thread) : List Byte :=
  natToBytes 16 (ofBits 128 fun k => (t.bind fun t => t.regs[k]?).any (·.pend))

/-- An element of 64 bytes: lane, whether it is uniform, withheld or refused, the instruction's words, its address, the second address of
a PUTSIG, and its data. -/
def elemImage (lane : Nat) (uniform : Bool) (st : AccState) (base extw : W32) (addr addr2 : Nat) (data : List Byte) : List Byte :=
  natToBytes 4 (lane + 2 ^ 5 * b2n uniform + 2 ^ 6 * b2n (st = .withheld) + 2 ^ 7 * b2n (st = .refused)) ++ natToBytes 4 base.toNat ++
    natToBytes 4 extw.toNat ++ zeros 4 ++ natToBytes 8 addr ++ natToBytes 8 addr2 ++ (data ++ zeros 32).take 32

/-- The access is the signal of a payload among some elements: the two are one element (R386). -/
def Access.signalOf (a : Access) (elems : List Access) : Bool :=
  a.kind = .signal && elems.any fun b => b.kind = .payload && b.seq + 1 = a.seq

/-- The accesses that have an element of their own. -/
def ownElems (elems : List Access) : List Access := elems.filter fun a => !a.signalOf elems

/-- An access of the uniform pipe: its base word has bit 31 set (R30). -/
def Access.uniform (a : Access) : Bool := a.base.getLsbD 31 || 1 < a.owners.length

/-- The element of an access, which of a PUTSIG holds both addresses. -/
def accImage (elems : List Access) (a : Access) : List Byte :=
  let signal := elems.find? fun b => a.kind = .payload && b.kind = .signal && b.seq = a.seq + 1
  elemImage ((a.owners.head?.map (·.lane)).getD 0) a.uniform a.state a.base a.extw a.addr ((signal.map (·.addr)).getD 0)
    (natToBytes a.size a.data ++ natToBytes a.size a.data2)

/-- The element of a matrix command (log entry 88). -/
def matImage (m : MatCmd) : List Byte :=
  elemImage ((m.issuers.head?.map (·.lane)).getD 0) true m.state m.base m.extw m.lost 0 []

/-- A fault frame: the record, PEND, the number of elements, the elements. -/
def State.frameImage (s : State) (v : SavedTeam) (mats : List MatCmd) : List Byte :=
  s.recordImage v ⟨true, true⟩ ++ (List.range 32).flatMap (fun l => pendImage (v.lane l)) ++
    natToBytes 64 ((ownElems v.elems).length + mats.length) ++ (ownElems v.elems).flatMap (accImage v.elems) ++ mats.flatMap matImage

/-- Size of a fault frame. -/
def faultFrameSize (alloc elems : Nat) : Nat := recordSize alloc + 576 + 64 * elems

/-! ## Snapshots and commits (R388, R389) -/

/-- A snapshot: the record, the written lines, the written tiles with their tags (log entry 88). -/
def State.snapImage (s : State) (n : Snap) : List Byte :=
  s.recordImage n.saved ⟨true, false⟩ ++ n.lines.flatMap (fun ((_, l), bs) => natToBytes 8 (128 * l) ++ bs) ++
    n.tiles.flatMap fun t => natToBytes 4 t.id ++ natToBytes 4 t.tag ++ (List.range 256).flatMap fun i => natToBytes 4 (t.cell (i / 16) (i % 16))

/-- Size of a snapshot. -/
def Snap.size (n : Snap) : Nat := recordSize n.saved.alloc + 136 * n.lines.length + 1032 * n.tiles.length

/-- Address of a team slot's snapshot slot in its VF's region (R430). -/
def State.snapAddr (s : State) (c : CtxId) (t : TeamId) (slot : Nat) : Nat :=
  ((s.vf c.vf).map fun v => v.snapArea + (2 * s.slotRank (s.partOfCtx c) t + slot) * v.snapSlot * 4096).getD 0

/-- Address of a team slot's slot in its VF's fault-frame area (R430). -/
def State.frameAddr (s : State) (c : CtxId) (t : TeamId) : Nat :=
  ((s.vf c.vf).map fun v => v.frameArea + s.slotRank (s.partOfCtx c) t * v.frameSlot * 4096).getD 0

/-- The current snapshot of a team. -/
def State.snapOf (s : State) (t : TeamId) : Option Snap :=
  match s.team t, (s.ctxOf t).bind s.ctx with
  | some tm, some x => x.snaps.find? fun n => some n.key = tm.snap
  | _, _ => none

/-- The snapshot that a commit of a team takes, under a number, in the slot that is not the current one's. -/
def State.takeSnap (s : State) (t : TeamId) (tm : Team) (key : Nat) : Snap :=
  { key := key, slot := 1 - ((s.snapOf t).map (·.slot)).getD 1
    saved := (s.saveTeam t { tm with held := [], wlines := [], wtiles := [], commitDue := false, irrevocable := false } []).settled
    lines := s.writtenLines tm, tiles := tm.wtiles.map (s.core t.core).tile }

/-- The held writes of a team leave the store buffers. -/
def State.clearHeld (s : State) (t : TeamId) : State :=
  { s with teams := tmap s.teams fun i tm =>
      if i = t then { tm with held := [] }
      else if i.core = t.core then { tm with held := tm.held.filter fun a => !a.owners.any (·.team = t) } else tm }

/-- A commit (R388): the snapshot is written to the alternate slot and becomes current, then the held writes are performed and the sets
cleared. -/
def State.commit (s : State) (t : TeamId) : State :=
  match s.team t, s.ctxOf t with
  | some tm, some c =>
    let (s, key) := s.fresh
    let snap := s.takeSnap t tm key
    let s := s.writeImage (s.partOfCtx c) (s.snapAddr c t snap.slot) (s.snapImage snap) (pagesOf snap.size)
    let s := s.updCtx c fun x => { x with snaps := snap :: x.snaps.filter fun n => some n.key ≠ tm.snap }
    let held := sortBy (fun a b => a.seq ≤ b.seq) (s.heldOf t)
    let s := (s.clearHeld t).updTeam t fun tm =>
      { tm with wlines := [], wtiles := [], commitDue := false, irrevocable := false, snap := some key }
    performHeld s held
  | _, _ => s

/-! ## FAULT_FRAME_SAVE (R201) -/

/-- The team's accesses are all faulted, withheld or refused (R201 step 3). -/
def State.drained (s : State) (t : TeamId) : Bool :=
  (s.teamAccs t).all fun a => a.state = .faulted || a.state = .withheld || a.state = .refused

/-- The commands of an engine that will not retire for now: those held by a fault, the stopped walks, those that wait on one of them, and
those that stand in their stream behind an access that is held (R300, R303, R308). -/
def stayMats (s : State) : List MatCmd → List MatCmd → List MatCmd
  | st, [] => st
  | st, m :: ms =>
    let behind := st.any fun e => e.state ≠ .refused &&
      ((e.minor = 6 && e.team = m.team) || (e.replay && m.replay && e.team = m.team) || (!m.acted && !e.acted && e.meets m))
    let ordered := m.minor ≠ 3 && !s.engineMay m.seq (fld m.ctl 0 4) m.scope m.issuers
    let stay := m.state ≠ .waiting || 64 ≤ m.team.slot || (s.walkStops m && m.got.isEmpty) || behind || ordered
    stayMats s (if stay then st ++ [m] else st) ms

/-- A command of a core will not retire for now. -/
def State.matStays (s : State) (core : CoreId) (m : MatCmd) : Bool := (stayMats s [] (s.core core).mq).any (·.key = m.key)

/-- The matrix commands of a team have all come to a stand (R303). -/
def State.matsHeld (s : State) (t : TeamId) : Bool := (s.teamMats t).all (s.matStays t.core)

/-- The commands of a suspended team that were not held by its fault are withheld with it, and what they have read is discarded. -/
def State.holdTeamMats (s : State) (t : TeamId) : State :=
  let hold := fun m : MatCmd => if m.team = t && m.state = .waiting then { m with state := AccState.withheld, got := [] } else m
  s.updCore t.core fun k => { k with mq := k.mq.map hold }

/-- The frame of a suspended team written to the slot of the team slot that it left (R386). -/
def State.writeFrame (s : State) (c : CtxId) (v : SavedTeam) (mats : List MatCmd) : State :=
  s.writeImage (s.partOfCtx c) (s.frameAddr c v.id) (s.frameImage v mats)
    (pagesOf (faultFrameSize v.alloc (v.elems.length + mats.length)))

/-- A reply that refuses a page marks the elements in the frame that stands in memory (R203, R386), where no later frame of the same team
slot has taken its place. -/
def State.markFrames (s : State) (c : CtxId) (tag : Nat) : State :=
  let susp := ((s.ctx c).map (·.susp)).getD []
  (susp.filter fun p => p.waits.contains tag && susp.all fun q => q.saved.id ≠ p.saved.id || q.key ≤ p.key).foldl (fun s p =>
    let held := heldTeam p.saved.id.core p.key
    let mats := (s.teamMats held).map fun m => if m.waits.contains tag then { m with state := AccState.refused } else m
    s.writeFrame c { p.saved with elems := answerElems tag true p.saved.elems } mats) s

/-- FAULT_FRAME_SAVE (R201 steps 3 to 6). The OVLDs at which its threads wait issue afresh (R366). -/
def execFaultFrameSave (t : TeamId) (s : State) : Out :=
  match s.team t, s.ctxOf t with
  | some tm, some c =>
    if tm.stop ≠ .faulting || !s.drained t || !s.matsHeld t then .next s
    else
      let (s, waits) := requestAll ((s.holdTeamMats t).dropOvld t) (s.teamAccs t)
      let waits := waits ++ (s.teamMats t).flatMap (·.waits)
      let v := s.saveTeam t tm (s.teamAccs t)
      let s := s.writeFrame c v (s.teamMats t)
      let (s, key) := s.fresh
      let bound := (s.block tm.block).any fun b => b.windows.any (· ≠ 0)
      let p : Susp := ⟨key, v, !bound, waits, false⟩
      let s := { s with accs := s.accs.filter fun a => !a.ofTeam t }
      let s := s.updCtx c fun x => { x with susp := x.susp ++ [p] }
      let s := s.renameTeam t (heldTeam t.core key)
      let s := if bound then s.startSlot t else s.updTeam t fun tm => { tm with stop := .kept }
      .next (s.suspReady c p)
  | _, _ => .next s

/-! ## Progress records of copies and resume entries of matrix commands (R274, R308) -/

/-- The operand value of an address of a command: in a frame it is the offset from the frame pointer of the issuers' task (R265). -/
def operandOf (frame : Nat) (space : Nat) (a : Int) : Nat := addr64 (if space = 3 then a - frame else a)

/-- Words of a copy that are performed before its first one left, in its running order. -/
def State.copyDone (s : State) (x : Copy) : Nat := ((s.copyOrder x).takeWhile fun k => !x.todo.contains k).length

/-- A progress record (R274, Table 5). -/
def State.copyImage (s : State) (x : Copy) : List Byte :=
  let c := x.cmd
  let frame := ((s.engineTeam c.ctx x.issuers).map fun t => t.2.frame.toNat).getD 0
  let mod := c.dsp + 4 * c.ssp + 16 * c.isp
  let imm := c.tag + 2 ^ 6 * c.strm + 2 ^ 10 * c.cp
  natToBytes 4 (c.minor + 2 ^ 3 * mod + 2 ^ 9 * imm + 2 ^ 21 * c.scope + 2 ^ 24 * b2n (s.copyDown x)) ++
    natToBytes 4 (laneMask x.issuers) ++ natToBytes 8 (operandOf frame c.dsp c.dst) ++ natToBytes 8 (operandOf frame c.ssp c.src) ++
    (List.range 4).flatMap (fun k => natToBytes 4 (c.arg k)) ++
    natToBytes 32 (if c.listed then operandOf frame c.isp c.list else c.ext) ++ natToBytes 8 (4 * s.copyDone x) ++
    natToBytes 8 ((x.error.map (·.cause)).getD 0) ++ natToBytes 8 ((x.error.map (·.addr)).getD 0) ++ zeros 32

/-- A resume entry (R308, Table 6). -/
def entryImage (m : MatCmd) : List Byte :=
  natToBytes 4 m.base.toNat ++ natToBytes 4 m.extw.toNat ++ natToBytes 16 m.areg ++ natToBytes 16 m.breg ++ natToBytes 8 m.creg ++
    natToBytes 4 m.next ++ natToBytes 4 (laneMask m.issuers) ++ zeros 8 ++ natToBytes 256 m.card

/-! ## The save area (R384, Table 7) -/

/-- The 32 barriers of a unit (R341). -/
def unitBars (scope : Nat) (block : Option BlockId) (core : CoreId) (part : Option Nat) : List BarId :=
  (List.range 32).map fun i => { scope := scope, team := none, block := block, core := core, part := part, id := i }

/-- The barriers that a core saves: of its blocks, its own, and those of the quad, die or package that it is the lowest core of. -/
def coreBars (part : Nat) (sup : Bool) (blocks : List BlockId) (c : CoreId) : List BarId :=
  let kept := if sup then none else some part
  let unit := fun (size scope : Nat) (p : Option Nat) => if c.core % size = 0 then unitBars scope none c p else []
  blocks.flatMap (fun b => unitBars 1 (some b) c none) ++ unitBars 2 none c none ++ unit 4 3 none ++ unit 64 4 kept ++ unit 256 5 kept

/-- Barriers as records: count and phase. -/
def State.barsImage (s : State) (l : List BarId) : List Byte :=
  l.flatMap fun i => natToBytes 4 (s.bar i).count ++ natToBytes 4 (s.bar i).phase.toNat

/-- The 64 tags of a core: CTAG, busy, error records. -/
def Core.tagsImage (k : Core) : List Byte :=
  natToBytes 8 k.ctag.toNat ++ natToBytes 8 (ofBits 64 fun i => k.copies.any (·.cmd.tag = i)) ++ (List.range 64).flatMap fun i =>
    let e := k.errs.find? (·.tag = i)
    natToBytes 8 ((e.map (·.cause)).getD 0) ++ natToBytes 8 ((e.map (·.addr)).getD 0)

/-- Tile tags and cells of a core. -/
def Core.tilesImage (k : Core) : List Byte :=
  (List.range 256).map (fun t => BitVec.ofNat 8 (k.tile t).tag) ++ (List.range 256).flatMap fun t =>
    (List.range 256).flatMap fun i => natToBytes 4 ((k.tile t).cell (i / 16) (i % 16))

/-- Scratchpad bytes and full bits of a core. -/
def Core.padImage (k : Core) : List Byte :=
  memBytes k.scratch 0 k.spsz ++ natToBytes (k.spsz / 1024) (ofBits (k.spsz / 128) fun l => !k.empty.contains l)

/-- Blocks of a saved context on a core, in order. -/
def SavedCtx.blocksOn (v : SavedCtx) (c : CoreId) : List BlockId := (v.blocks.filter fun b => b.1.core = c).map (·.1)

/-- Teams of a saved context on a core, in order. -/
def SavedCtx.teamsOn (v : SavedCtx) (c : CoreId) : List SavedTeam := v.teams.filter fun t => t.id.core = c

/-- The team was stopped per thread (R384 step 2), or before the slice's end. -/
def SavedTeam.full (t : SavedTeam) : Bool :=
  match t.team.stop with
  | .sliced full => full
  | _ => true

/-- The fault frame of a team that is saved as one (R385): of one that keeps its slot suspended (R204), or that holds elements. -/
def State.framedTeam (s : State) (c : CtxId) (t : SavedTeam) : Option (SavedTeam × List MatCmd) :=
  match (((s.ctx c).map (·.susp)).getD []).find? fun p => p.kept && p.saved.id = t.id with
  | some p => some (p.saved, s.teamMats (heldTeam t.id.core p.key))
  | none => if t.elems.isEmpty then none else some (t, [])

/-- The record of a team in a save area, and its size. -/
def State.savedImage (s : State) (c : CtxId) (t : SavedTeam) : List Byte :=
  match s.framedTeam c t with
  | some (v, mats) => s.frameImage v mats
  | none => s.recordImage t ⟨t.full, false⟩
def State.savedSize (s : State) (c : CtxId) (t : SavedTeam) : Nat :=
  match s.framedTeam c t with
  | some (v, mats) => faultFrameSize v.alloc ((ownElems v.elems).length + mats.length)
  | none => recordSize t.alloc

/-- The section of a core. -/
def State.coreImage (s : State) (c : CtxId) (v : SavedCtx) (x : CoreId × Core) : List Byte :=
  let (id, k) := x
  let blocks := v.blocksOn id
  let teams := v.teamsOn id
  natToBytes 4 (256 * id.pkg + id.core) ++ natToBytes 4 k.poolb0.toNat ++ natToBytes 4 k.poolb1.toNat ++ natToBytes 4 k.poolb2.toNat ++
    natToBytes 4 blocks.length ++ natToBytes 4 teams.length ++ natToBytes 4 k.copies.length ++ natToBytes 4 k.mq.length ++ zeros 96 ++
    k.tagsImage ++ k.copies.flatMap s.copyImage ++ k.tilesImage ++ k.mq.flatMap entryImage ++
    s.barsImage (coreBars (s.partOfCtx c) ((s.ctx c).any (·.sup)) blocks id) ++ k.padImage ++ teams.flatMap (s.savedImage c)

/-- The save area of a context (log entry 88). -/
def State.saveImage (s : State) (c : CtxId) (v : SavedCtx) : List Byte :=
  match s.ctx c with
  | none => []
  | some x =>
    natToBytes 4 0x43545831 ++ natToBytes 4 1 ++ natToBytes 4 (s.ctxReg c) ++ natToBytes 4 x.clamp.toNat ++ natToBytes 4 x.shdctl.toNat ++
      natToBytes 4 (x.vdiv + 2 ^ 16 * x.mfail) ++ natToBytes 8 (((s.part (s.partOfCtx c)).map (·.clkr)).getD 0) ++
      natToBytes 4 v.cores.length ++ zeros 28 ++ v.cores.flatMap (s.coreImage c v)

/-- Offsets in a core's section: its copy records, tiles, matrix entries, barriers, scratchpad, teams, and its end. -/
structure Section where
  copies : Nat
  tiles : Nat
  mats : Nat
  bars : Nat
  pad : Nat
  teams : Nat
  stop : Nat

/-- The layout of a core's section that begins at an offset (R384, Table 7). -/
def State.section (s : State) (c : CtxId) (v : SavedCtx) (x : CoreId × Core) (at_ : Nat) : Section :=
  let copies := at_ + 128 + 1040
  let tiles := copies + 128 * x.2.copies.length
  let mats := tiles + 256 + 262144
  let bars := mats + 320 * x.2.mq.length
  let pad := bars + 8 * (coreBars (s.partOfCtx c) ((s.ctx c).any (·.sup)) (v.blocksOn x.1) x.1).length
  let teams := pad + x.2.spsz + x.2.spsz / 1024
  ⟨copies, tiles, mats, bars, pad, teams, (v.teamsOn x.1).foldl (fun n t => n + s.savedSize c t) teams⟩

/-- The sections of some cores, from an offset on. -/
def State.sections (s : State) (c : CtxId) (v : SavedCtx) : Nat → Tbl CoreId Core → List ((CoreId × Core) × (Nat × Section))
  | _, [] => []
  | at_, x :: xs => let z := s.section c v x at_
                    (x, (at_, z)) :: s.sections c v z.stop xs

/-- Size of a save area. -/
def State.saveSize (s : State) (c : CtxId) (v : SavedCtx) : Nat := (s.sections c v 64 v.cores).foldl (fun n x => max n x.2.2.stop) 64

/-- Address of a context's save area: the VF's area holds one of the size bound for each context, in ascending CIDX (DESIGN CHOICE; log
entry 88). -/
def State.saveAddr (s : State) (c : CtxId) : Nat :=
  ((s.vf c.vf).map fun f => f.saveArea + c.cidx * f.saveSize * 4096).getD 0

/-- A context's save area written. -/
def State.writeSave (s : State) (c : CtxId) (v : SavedCtx) : State :=
  s.writeImage (s.partOfCtx c) (s.saveAddr c) (s.saveImage c v) (pagesOf (s.saveSize c v))

/-! ## Reading a save area (R384) -/

/-- A little-endian field of an image. -/
def imgFld (img : List Byte) (at_ n : Nat) : Nat := bytesToNat ((img.drop at_).take n)

/-- A lane from its 64 bytes, its tags and its registers; the allocation is the lane's own. -/
def Thread.fromImage (t : Thread) (img : List Byte) (full : Bool) (pc : Nat) (l : Nat) : Thread :=
  let at_ := 0x80 + 64 * l
  let f := fun (o n : Nat) => imgFld img (at_ + o) n
  let p := if full then f 0 4 else pc
  let cause := f 0x18 4
  { t with
    pc := ⟨BitVec.ofNat 16 p, if fld p 16 14 = fld t.pc.off 0 14 then t.pc.off else fld p 16 14⟩
    inh := (f 4 4).testBit 0, heldWait := (f 4 4).testBit 1, live := !(f 4 4).testBit 2
    preds := BitVec.ofNat 24 (f 8 4), fflags := BitVec.ofNat 6 (f 0xC 4), fmode := BitVec.ofNat 2 (f 0x10 4)
    cause := BitVec.ofNat 8 cause, defer := cause.testBit 9, tinfo := w32 (f 0x1C 4), taddr := BitVec.ofNat 64 (f 0x20 8)
    tlinkLo := BitVec.ofNat 16 (f 0x28 4), tlinkHi := BitVec.ofNat 14 (f 0x2C 4)
    regs := t.regs.zipIdx.map fun (r, k) =>
      { r with tag := BitVec.ofNat 4 (fld (imgFld img (0x880 + 64 * l + k / 2) 1) (4 * (k % 2)) 4)
               val := w32 (imgFld img (0x1080 + 4 * (t.regs.length * l + k)) 4) } }

/-- A team from its record (Table 8). -/
def SavedTeam.fromImage (v : SavedTeam) (img : List Byte) : SavedTeam :=
  let full := (imgFld img 8 4).testBit 0
  let st := imgFld img 0x50 4
  { v with
    team := { v.team with
      frame := BitVec.ofNat 64 (imgFld img 0x10 8), targ := BitVec.ofNat 64 (imgFld img 0x18 8), role := BitVec.ofNat 8 (imgFld img 0x44 4)
      unchk := fld st 0 16, mnv := st.testBit 16, mof := st.testBit 17, msat := st.testBit 18
      task := v.team.task.map fun k => { k with body := recOf (imgFld img 0x20 32) } }
    threads := v.threads.map fun (l, t) => (l, if t.live then t.fromImage img full (imgFld img 0xC 4) l else t) }

/-- A core from its section: pool boundaries, tags, tiles, scratchpad. -/
def Core.fromImage (k : Core) (img : List Byte) (at_ : Nat) (z : Section) : Core :=
  let sp := k.spsz
  let err := fun i : Nat => ({ tag := i, cause := imgFld img (at_ + 144 + 16 * i) 8, addr := imgFld img (at_ + 152 + 16 * i) 8, info := i } : TagErr)
  { k with
    poolb0 := w32 (imgFld img (at_ + 4) 4), poolb1 := w32 (imgFld img (at_ + 8) 4), poolb2 := w32 (imgFld img (at_ + 12) 4)
    ctag := BitVec.ofNat 64 (imgFld img (at_ + 128) 8)
    errs := ((List.range 64).map err).filterMap fun e => if e.cause = 0 then none else
      some ((k.errs.find? fun o => o.tag = e.tag && o.cause = e.cause && o.addr = e.addr).getD e)
    tiles := (List.range 256).filterMap fun t =>
      let cell := fun i j : Nat => imgFld img (z.tiles + 256 + 1024 * t + 4 * (16 * i + j)) 4
      let x := tileOf t (imgFld img (z.tiles + t) 1) cell
      if x.tag = 0 && x.cells.isEmpty then none else some x
    scratch := memPut [] 0 ((img.drop z.pad).take sp)
    empty := (List.range (sp / 128)).filter fun l => !(imgFld img (z.pad + sp) (sp / 1024)).testBit l }

/-- Barriers from their records. -/
def barsFrom (img : List Byte) (at_ : Nat) (ids : List BarId) (old : Tbl BarId Bar) : Tbl BarId Bar :=
  ids.zipIdx.foldl (fun bars (i, n) =>
    let b := (tget bars i).getD Bar.reset
    let new : Bar := { b with count := imgFld img (at_ + 8 * n) 4, phase := w32 (imgFld img (at_ + 8 * n + 4) 4) }
    if new = b then bars else tset bars i new) old

/-- The teams of a core's section, one record after the other. A team saved as its fault frame goes on from its fields (log entry 25). -/
def State.teamsFrom (s : State) (c : CtxId) (img : List Byte) : Nat → List SavedTeam → List SavedTeam
  | _, [] => []
  | at_, t :: ts =>
    (match s.framedTeam c t with
     | some _ => t
     | none => t.fromImage (img.drop at_)) :: s.teamsFrom c img (at_ + s.savedSize c t) ts

/-- What the save area gives of a context: the registers, tags and PCs of its threads, its scratchpads, tiles and barriers as the area's
bytes hold them; its copies, matrix commands and what its threads wait for go on as they were saved (log entry 25). -/
def State.readSave (s : State) (c : CtxId) (v : SavedCtx) : SavedCtx :=
  if !v.image then v
  else
    let img := s.readPages (s.partOfCtx c) (s.saveAddr c) (s.saveSize c v) (pagesOf (s.saveSize c v))
    let zs := s.sections c v 64 v.cores
    { v with
      cores := zs.map fun ((i, k), (at_, z)) => (i, k.fromImage img at_ z)
      bars := zs.foldl (fun bars ((i, _), (_, z)) =>
        barsFrom img z.bars (coreBars (s.partOfCtx c) ((s.ctx c).any (·.sup)) (v.blocksOn i) i) bars) v.bars
      teams := zs.flatMap fun ((i, _), (_, z)) => s.teamsFrom c img z.teams (v.teamsOn i) }

end Sys2Proof.Machine
end

