-- ==== Sys2Proof/Machine/Ordering.lean ====
section
/-! DEFINITION. FENCE, XFENCE, WAITC (09_ordering R219 to R224, R232) and the release of held accesses. -/
namespace Sys2Proof.Machine

/-- Read-only copies of remote lines dropped by a fence at partition or pod scope in windowed visibility (R232). -/
def State.windowDrop (s : State) (id : ThreadId) (scope : Nat) : State := if 6 ≤ scope then s.acquire id.team.core else s

/-- The thread holds a guarded write that a fence at quad scope or wider would order; those of its engines' operations it does not order (R228,
R387). -/
def State.fenceNeedsCommit (s : State) (id : ThreadId) (x : BitVec 16) (scope : Nat) : Bool :=
  3 ≤ scope && (s.heldOf id.team).any fun h => h.kind ≠ .engine && h.owners.contains id && x.getLsbD h.strm

/-- A fence in one thread (R220, R221): it comes into force when some earlier access of X is still to be performed; one that is
satisfied widens what it covers. -/
def State.fence (s : State) (id : ThreadId) (scope : Nat) (x y : BitVec 16) : IssueRes :=
  let (s, sc) := match s.ctxOf id.team with
    | some c => s.clamp c id.team.core scope
    | none => (s, scope)
  if s.fenceNeedsCommit id x sc then .wait (s.commitFirst id.team)
  else
    let (s, n) := s.fresh
    let f : Fence := ⟨x, y, sc, n⟩
    let s := s.windowDrop id sc
    .ok (if x = 0 || y = 0 then s
      else if s.fenceDone id f then s.exposeFence id f
      else s.updThread id fun t => { t with fences := t.fences ++ [f] })

/-- Form of an instruction of majors whose operands are literals (R219): no register operand, W and A zero. -/
def litMem (f : L2I) (ok : Bool) : MemDef := { g := f.g, gn := f.gn, ok := wIn f.toL1 [0] && f.a = 0 && ok, opds := [] }

/-- Forms of FENCE, XFENCE and WAITC (R219). -/
def fenceMem (f : L2I) : MemDef := litMem f (f.d = 0 && f.lit.toNat < 8)
def xfenceMem (f : L2I) : MemDef := litMem f (f.d.toNat < 8)
def waitcMem (f : L2I) : MemDef := litMem f (f.d = 0 && f.lit.toNat < 2 ^ 24)

/-- FENCE (R219, R222). -/
def execFence (f : L2I) (s : State) : Out :=
  runMem (fenceMem f) (fun id _ s => s.fence id f.lit.toNat 0xFFFF 0xFFFF) s

/-- XFENCE (R219, R221): scope in D, stream sets in the literal. -/
def execXfence (f : L2I) (s : State) : Out :=
  runMem (xfenceMem f) (fun id _ s => s.fence id f.d.toNat (BitVec.ofNat 16 f.lit.toNat) (BitVec.ofNat 16 (f.lit.toNat / 2 ^ 16))) s

/-- The condition of WAITC (R223). -/
def waitcMet (lit : W32) (t : Thread) : Bool :=
  t.ldn ≤ fld lit.toNat 0 6 && t.stn ≤ fld lit.toNat 6 6 && t.cpn ≤ fld lit.toNat 12 6 && t.mxn ≤ fld lit.toNat 18 6

/-- WAITC in one thread: it parks until its counters meet the literal; a wait for held writes forces their commit (R223,
R387). -/
def waitcEach (lit : W32) (id : ThreadId) (t : Thread) (s : State) : IssueRes :=
  if waitcMet lit t then .ok s
  else if fld lit.toNat 6 6 < t.stn && !(s.heldOf id.team).isEmpty then .wait (s.commitFirst id.team)
  else .wait (s.updThread id fun t => { t with park := .waitc lit })

/-- WAITC (R219, R223). -/
def execWaitc (f : L2I) (s : State) : Out :=
  runMem (waitcMem f) (waitcEach f.lit) s

/-- HELD_ACCESS_RELEASE (R221, R232): the fences of a thread whose earlier accesses are performed release what they hold. -/
def execHeldAccessRelease (t : ThreadId) (s : State) : Out :=
  match s.thread t with
  | none => .next s
  | some th =>
    let done := th.fences.filter (s.fenceDone t)
    if done.isEmpty then .next s
    else
      let s := done.foldl (fun s f => (s.windowDrop t f.scope).exposeFence t f) s
      .next (s.updThread t fun th => { th with fences := th.fences.filter fun f => !done.contains f })

end Sys2Proof.Machine
end

