-- ==== Sys2Proof/Machine/Gates.lean ====
section
/-! DEFINITION. Gates: requests, their checks and effects at the home, replies and buckets (14_gates R345 to R356). The
minors are 0 GOPEN, 1 GCLOSE, 2 GSIG, 3 GWAIT, 4 GADD, 5 GPOLL. -/
namespace Sys2Proof.Machine

/-- Gate status codes (R349). -/
def gateDone : Nat := 0
def gateRate : Nat := 1
def gateClosed : Nat := 2

/-! ## Buckets (R346) -/

/-- The tokens that CLKW's passing of multiples of PERIOD has added up to a time. -/
def AclEnt.refill (e : AclEnt) (now : Nat) : AclEnt :=
  if e.period = 0 then e
  else { e with tokens := min e.cap (e.tokens + (now / e.period - e.filled)), filled := max e.filled (now / e.period) }

/-- An entry that its caller uses: refused for rate, or with its token consumed. -/
def AclEnt.use (e : AclEnt) : AclEnt × Bool :=
  if e.period = 0 then (e, true)
  else if e.tokens = 0 then ({ e with refused := min (e.refused + 1) 0xFFFF }, false)
  else ({ e with tokens := e.tokens - 1 }, true)

/-- The gate with its buckets up to date. -/
def Gate.refilled (g : Gate) (now : Nat) : Gate := { g with acl := g.acl.map fun e => e.refill now }

/-- BUCKET_REFILL (R346). -/
def execBucketRefill (gate k : Nat) (s : State) : Out :=
  let f := fun g : Gate => { g with acl := g.acl.zipIdx.map fun (e, i) => if i = k && e.valid then e.refill s.clkw else e }
  .next (s.updGate gate f)

/-! ## The home's action (R349, Table 3) -/

/-- The entry of a caller: its place (R345). -/
def Gate.entryOf (g : Gate) (v : VfId) : Option Nat := g.acl.findIdx? fun e => e.valid && e.vf = v

/-- An entry has the right that a minor asks for (R348, Table 2). -/
def AclEnt.allows (e : AclEnt) (minor : Nat) : Bool :=
  match minor with
  | 2 => e.signal
  | 3 | 5 => e.wait
  | 4 => e.add
  | _ => true

/-- The first check of Table 3 that a request fails, as TINFO. -/
def gateBad (g : Option Gate) (r : GateReq) : Option Nat :=
  match g with
  | none => some 4
  | some g =>
    if 65535 < r.num || !g.valid then some 4
    else if r.minor ≠ 0 && r.gen ≠ g.gen.toNat then some 3
    else if r.minor = 1 then (if r.caller ≠ g.owner then some 5 else none)
    else
      match (g.entryOf r.caller).bind fun k => g.acl[k]? with
      | none => some 1
      | some e => if e.allows r.minor then none else some 2

/-- The answer to a request of the gate table. -/
def State.gateAnswer (s : State) (key : Nat) (a : GateAns) : State :=
  let f := fun r : GateReq => if r.key = key then { r with ans := some a, waiting := false } else r
  { s with gateReqs := s.gateReqs.map f }

/-- Waiters that meet a condition released in registration order with a status (R349, R353). -/
def State.releaseWaiters (s : State) (n : Nat) (p : Waiter → Bool) (code : Nat) : State :=
  match s.gate n with
  | none => s
  | some g =>
    let s := s.updGate n fun g => { g with waiters := g.waiters.filter fun w => !p w }
    (g.waiters.filter p).foldl (fun s w => s.gateAnswer w.req (.status code 0)) s

/-- COUNTER set; a change releases the waiters whose target it has reached (R349). -/
def State.setCounter (s : State) (n : Nat) (v : Nat) : State :=
  match s.gate n with
  | none => s
  | some g =>
    let c : W64 := BitVec.ofNat 64 v
    if c = g.counter then s
    else (s.updGate n fun g => { g with counter := c }).releaseWaiters n (fun w => w.target ≤ c.toNat) gateDone

/-- A request that holds its token performed. -/
def State.gateEffect (s : State) (g : Gate) (r : GateReq) : State :=
  let old := g.counter.toNat
  match r.minor with
  | 2 => (s.setCounter r.num (old + 1)).gateAnswer r.key (.status gateDone 0)
  | 4 => (s.setCounter r.num (old + r.x)).gateAnswer r.key (.status gateDone old)
  | 5 => s.gateAnswer r.key (.status gateDone old)
  | _ =>
    if r.x ≤ old then s.gateAnswer r.key (.status gateDone 0)
    else
      let wait := fun q : GateReq => if q.key = r.key then { q with waiting := true } else q
      { s.updGate r.num fun g => { g with waiters := g.waiters ++ [⟨r.x, r.caller, r.key⟩] } with
        gateReqs := s.gateReqs.map wait }

/-- A request performed at the home of its gate (R349, R351, R353). -/
def State.gatePerform (s : State) (r : GateReq) : State :=
  let s := s.updGate r.num fun g => g.refilled s.clkw
  match gateBad (s.gate r.num) r, s.gate r.num with
  | some i, _ => s.gateAnswer r.key (.trap i)
  | none, none => s
  | none, some g =>
    if r.minor = 0 then s.gateAnswer r.key (.status gateDone (r.num + 2 ^ 32 * g.gen.toNat))
    else if g.closed then s.gateAnswer r.key (.status gateClosed g.counter.toNat)
    else if r.minor = 1 then
      let s := (s.updGate r.num fun g => { g with closed := true }).releaseWaiters r.num (fun _ => true) gateClosed
      s.gateAnswer r.key (.status gateDone 0)
    else
      match g.entryOf r.caller with
      | none => s
      | some k =>
        match g.acl[k]? with
        | none => s
        | some e =>
          let (e', ok) := e.use
          let s := s.updGate r.num fun g => { g with acl := g.acl.set k e' }
          if ok then s.gateEffect g r else s.gateAnswer r.key (.status gateRate 0)

/-- GATE_HOME_REQUEST (R349). -/
def execGateHomeRequest (r : Nat) (s : State) : Out :=
  match s.gateReqs.find? (·.key = r) with
  | none => .next s
  | some q => .next (if q.sent && !q.waiting && q.ans.isNone then s.gatePerform q else s)

/-! ## Replies (R349, R350) -/

/-- A result written in the threads of a request. -/
def gateResult (r : GateReq) (code v : Nat) (t : Thread) : Thread :=
  match r.minor with
  | 0 => t.writeReg r.dst 2 v 0
  | 4 | 5 => t.writeReg r.dst 4 (code + 2 ^ 64 * v) 0
  | _ => t.writeReg r.dst 1 code 0

/-- A thread goes on past its gate instruction; one with a held-wait mark was saved past it (R354). -/
def Thread.pastGate (t : Thread) : Thread :=
  if t.heldWait then { t with park := .ready, heldWait := false } else { t.step 2 with park := .ready }

/-- The status makes the operation an acquire (R350). -/
def gateAcquires (minor code : Nat) : Bool := code = gateDone && (minor = 3 || minor = 4 || minor = 5)

/-- What a reply does to the threads parked for it in the current snapshot of a guarded team: a rollback never undoes a gate operation, nor
performs it again (R356, R390). -/
def State.recordReply (s : State) (t : TeamId) (r : Nat) (f : Thread → Thread) : State :=
  match s.team t, s.ctxOf t with
  | some tm, some c =>
    let saved := fun v : SavedTeam => { v with threads := v.threads.map fun (l, th) => (l, if th.park = .gate r then f th else th) }
    let snap := fun n : Snap => if some n.key = tm.snap then { n with saved := saved n.saved } else n
    s.updCtx c fun x => { x with snaps := x.snaps.map snap }
  | _, _ => s

/-- Some threads of a request lose it: the others keep it, without a leader when that is among them. -/
def GateReq.without (r : GateReq) (ids : List ThreadId) : GateReq :=
  { r with owners := r.owners.filter fun i => !ids.contains i, lead := r.lead && r.owners.head?.all fun l => !ids.contains l }

/-- A reply reaches threads of its request; GATE is raised in the leader alone, and the others issue the instruction again (R45, R349). The
request goes on for the threads that it has not reached. -/
def State.gateDeliver (s : State) (r : GateReq) (here : List ThreadId) (a : GateAns) : State :=
  let rest := r.without here
  let left : List GateReq := if rest.owners.isEmpty then s.gateReqs.filter (·.key ≠ r.key)
    else s.gateReqs.map fun q : GateReq => if q.key = r.key then rest else q
  let s : State := { s with gateReqs := left }
  let teams : List TeamId := (here.map (·.team)).eraseDups
  match a with
  | .trap i =>
    let again := fun t : Thread => { t with park := .ready }
    let lead := if r.lead then r.owners.head?.toList.filter here.contains else []
    ((teams.foldl (fun s t => s.recordReply t r.key again) s).updThreads here again).raises (lead.map fun l => (l, trapR 0x14 i 0))
  | .status code v =>
    let done := fun t : Thread => (gateResult r code v t).pastGate
    let s := (teams.foldl (fun s t => s.recordReply t r.key done) s).updThreads here done
    (if gateAcquires r.minor code then (teams.map (·.core)).eraseDups.foldl (fun s c => s.acquire c) s else s).commitsAfter teams

/-- The threads of a request that are on a core, parked for its reply. -/
def State.gateHere (s : State) (r : GateReq) : List ThreadId :=
  r.owners.filter fun i => (s.thread i).any fun t => t.live && t.park = .gate r.key

/-- GATE_REPLY (R349, R350, R354): a reply is delivered to those of its threads that are on a core. -/
def execGateReply (r : Nat) (s : State) : Out :=
  match s.gateReqs.find? (·.key = r) with
  | none => .next s
  | some q =>
    match q.ans with
    | none => .next s
    | some a =>
      if q.owners.isEmpty || !(s.gateHere q).isEmpty then .next (s.gateDeliver q (s.gateHere q) a) else .next s

/-! ## The instructions (R348, R349) -/

/-- Operands of a gate instruction. -/
def gateDst (minor : Nat) (f : L2R) : Opd :=
  match minor with
  | 0 => ⟨.dst 2, f.d.toNat⟩
  | 4 | 5 => ⟨.dst 4, f.d.toNat⟩
  | _ => ⟨.dst 1, f.d.toNat⟩

/-- Sources of a gate instruction. -/
def gateSrcs (minor : Nat) (f : L2R) : List Opd :=
  if minor = 0 then [⟨.src 1, f.a.toNat⟩]
  else if minor = 3 || minor = 4 then [⟨.src 2, f.a.toNat⟩, ⟨.src 2, f.b.toNat⟩]
  else [⟨.src 2, f.a.toNat⟩]

/-- A gate request leaves the core and the group parks for its reply. -/
def State.gateSend (s : State) (g : UniGroup) (minor num gen x d : Nat) : State :=
  let (s, key) := s.fresh
  let c := s.ctxId g.leader
  let r : GateReq :=
    { lead := g.rcv.head? = some g.leader, key := key, minor := minor, num := num, gen := gen, x := x, caller := c.vf, ctx := c,
      owners := g.rcv, dst := d,
      sent := true, waiting := false, ans := none }
  ({ s with gateReqs := s.gateReqs ++ [r] }).updThreads g.rcv fun t => { t with park := .gate key }

/-- The partition of a context is being quiesced for a migration (R355). -/
def State.quiescing (s : State) (c : CtxId) : Bool := (s.part (s.partOfCtx c)).any (·.quiesced)

/-- Form of a gate instruction (R348). -/
def gateUni (minor : Nat) (f : L2R) : UniDef :=
  { g := f.g, gn := f.gn, words := 2, srcs := gateSrcs minor f, dsts := [gateDst minor f],
    ok := wIn f.toL1 [0] && f.c = 0 && f.mod = 0 && f.imm = 0 && (minor = 3 || minor = 4 || f.b = 0) }

/-- A gate instruction. In a guarded task it waits until nothing of its team is outstanding, so that the commit that follows it is made in
the same action and holds its threads parked for the reply (R356, R388; log entry 49). GSIG and GADD release what their threads have
stored: they wait for it to be performed, and what stands in the L1 only goes to memory (R217, R349). -/
def runGate (minor : Nat) (f : L2R) (s : State) : Out :=
  let wide := minor = 3 || minor = 4
  runUniform (gateUni minor f) s
    fun g s =>
      let num := g.lt.readReg g.env f.a.toNat 1
      let gen := if minor = 0 then 0 else g.lt.readReg g.env (f.a.toNat + 1) 1
      let x := if wide then g.lt.readReg g.env f.b.toNat 2 else 0
      let guarded := g.teams.filter fun t => (s.team t).any Team.guarded
      if s.quiescing (s.ctxId g.leader) then s.groupWaits g.all (.ordered .quiesce)
      else if 65535 < num || !((s.gate num).any (·.valid)) then .trap s (trapR 0x14 4 0)
      else if s.mustCommits g.teams then .stay (s.commitsFirst g.teams)
      else if guarded.any fun t => !s.quiet t then .stay (s.waitOrder g.all .quiet)
      else if (minor = 2 || minor = 4) && !(s.earlier g.all).isEmpty then s.groupWaits g.all (.ordered .earlier)
      else
        let s := if minor = 2 || minor = 4 then s.expose g.leader.team.core fun d => d.owners.any g.all.contains else s
        let s := s.gateSend g minor num gen x f.d.toNat
        .done (guarded.foldl State.commit s)

/-- GOPEN (R348, R349). -/
def execGopen (f : L2R) (s : State) : Out := runGate 0 f s
/-- GCLOSE (R349, R353). -/
def execGclose (f : L2R) (s : State) : Out := runGate 1 f s
/-- GSIG (R349). -/
def execGsig (f : L2R) (s : State) : Out := runGate 2 f s
/-- GWAIT (R349). -/
def execGwait (f : L2R) (s : State) : Out := runGate 3 f s
/-- GADD (R349). -/
def execGadd (f : L2R) (s : State) : Out := runGate 4 f s
/-- GPOLL (R349). -/
def execGpoll (f : L2R) (s : State) : Out := runGate 5 f s

end Sys2Proof.Machine
end

