-- ==== Sys2Proof/Machine/Overlays.lean ====
section
/-! DEFINITION. Overlay instructions and the hoist's fills (15_overlays R364 to R370; 03_assembly R67 to R70). -/
namespace Sys2Proof.Machine

/-- Overlay status codes (R365, Table 3). -/
def ovDone : Nat := 0
def ovNoFrame : Nat := 1
def ovFaulty : Nat := 2
def ovRefused : Nat := 3
def ovStale : Nat := 4
def ovLimit : Nat := 5

/-- OVLD's result for a failure (R365). -/
def ovldFail (code : Nat) : Nat := 0xFFFF0000 + code

/-! ## Counts of an overlay (R368) -/

/-- The counts that contexts added, with one context's changed. -/
def countsUpd (c : CtxId) (f : Nat × Nat → Nat × Nat) : List (CtxId × Nat × Nat) → List (CtxId × Nat × Nat)
  | [] => [(c, f (0, 0))]
  | (d, k) :: ks => if d = c then (d, f k) :: ks else (d, k) :: countsUpd c f ks

/-- A reference added (R366). -/
def Overlay.addRef (o : Overlay) (c : CtxId) : Overlay :=
  if 65535 ≤ o.refs then o
  else { o with refs := o.refs + 1, counts := countsUpd c (fun k => (k.1, k.2 + 1)) o.counts }

/-- A reference taken away; a count of 0 stays. -/
def Overlay.dropRef (o : Overlay) (c : CtxId) : Overlay :=
  if o.refs = 0 then o else { o with refs := o.refs - 1, counts := countsUpd c (fun k => (k.1, k.2 - 1)) o.counts }

/-- A pin added. -/
def Overlay.addPin (o : Overlay) (c : CtxId) : Overlay :=
  { o with pins := o.pins + 1, counts := countsUpd c (fun k => (k.1 + 1, k.2)) o.counts }

/-- A pin taken away; a count of 0 stays. -/
def Overlay.dropPin (o : Overlay) (c : CtxId) : Overlay :=
  if o.pins = 0 then o else { o with pins := o.pins - 1, counts := countsUpd c (fun k => (k.1 - 1, k.2)) o.counts }

/-- The counts that a context added removed at its end. -/
def Overlay.forget (c : CtxId) (o : Overlay) : Overlay :=
  match o.counts.find? (·.1 = c) with
  | none => o
  | some k => { o with pins := o.pins - k.2.1, refs := o.refs - k.2.2, counts := o.counts.filter (·.1 ≠ c) }

/-! ## Ends of fills -/

/-- Threads parked under a condition. -/
def State.parkedAt (s : State) (p : Park → Bool) : List (ThreadId × Thread) := s.threads.filter fun (_, t) => t.live && p t.park

/-- The fill that a park waits for. -/
def Park.fillNo : Park → Option Nat
  | .fill f _ _ => some f
  | _ => none
def Park.ovwaitNo : Park → Option Nat
  | .ovwait f _ => some f
  | _ => none
def Park.ovldNo : Park → Option Nat
  | .ovld f _ => some f
  | _ => none

/-- An instruction that waited writes its result and steps past. -/
def Thread.ovResult (t : Thread) (d v : Nat) : Thread := { (t.writeReg d 1 v 0).step 2 with park := .ready }

/-- The threads parked at OVWAIT on a fill receive its outcome (R367). -/
def State.endWaits (s : State) (f code : Nat) : State :=
  s.mapThreads fun _ t => match t.park with
    | .ovwait g d => if g = f then t.ovResult d code else t
    | _ => t

/-- The threads parked at OVLD on a header read receive its result (R366). -/
def State.endOvld (s : State) (f v : Nat) : State :=
  s.mapThreads fun _ t => match t.park with
    | .ovld g d => if g = f then t.ovResult d v else t
    | _ => t

/-- A fill that has ended leaves the hoist. -/
def State.dropFill (s : State) (f : Nat) : State := { s with fills := s.fills.filter (·.key ≠ f) }

/-- The threads parked in the target of a fill, in order. -/
def State.fillers (s : State) (f : Nat) : List (ThreadId × FillThen) :=
  (s.parkedAt fun p => p.fillNo = some f).filterMap fun (i, t) => match t.park with
    | .fill _ _ k => some (i, k)
    | _ => none

/-- The end of a fill comes to a thread in its target. One whose team has stopped stays there, and resolves its PC afresh when the team goes
on; at a CALLO it is back at its instruction, which it issues afresh (R361, R370, R384). -/
def State.fillEnds (s : State) (i : ThreadId) (k : FillThen) (act : State → State) : State :=
  if (s.team i.team).any fun tm => tm.stop = .running || tm.stop = .replaying then act s
  else match k with
    | .call _ _ _ => s.updThread i fun t => { t with park := .ready }
    | _ => s

/-- A fill fails with a status code: the threads in its target trap, its OVWAITs and its OVLD end (R366, R367, R369). -/
def State.failFill (s : State) (f : Fill) (code : Nat) : State :=
  let who := s.fillers f.key
  let s := ((s.dropFill f.key).endWaits f.key code).endOvld f.key (ovldFail code)
  who.foldl (fun s (i, k) => s.fillEnds i k fun s => s.fillFailed i f.image code k) s

/-- An overlay whose body is bad or refused turns faulty and frees its frames, and its fill fails (R366). -/
def State.loseFill (s : State) (f : Fill) (code : Nat) : State :=
  let s := match f.slot with
    | some k => s.updCore f.core fun c => c.spoilOverlay k
    | none => s
  s.failFill f code

/-! ## The header read (R366) -/

/-- The hoist's reads may be performed after the issuers' earlier accesses in stream 0, and their held writes of it (R227, R366, R387). -/
def State.fillMay (s : State) (f : Fill) : Bool :=
  s.engineMay f.key 0 6 f.issuers && f.issuers.all fun i => !((s.engineTeam f.ctx [i]).any fun x => x.2.held.any fun a =>
    a.kind = .engine || (a.strm = 0 && a.owners.any fun o => o.lane = i.lane))

/-- A token issued: its map entry written in the same action (R360). -/
def Core.mapToken (c : Core) (o : Overlay) : Core :=
  let e : MapEntry := ⟨o.first, c.gen o.first, o.image, o.vf, o.pasid⟩
  { c with tokmap := e :: c.tokmap.filter fun x => !(x.slot = e.slot && x.gen = e.gen) }

/-- A reference added for OVLD, and its token written (R366). -/
def State.ovldTake (s : State) (core : CoreId) (c : CtxId) (o : Overlay) : State × Nat :=
  let tok := (s.core core).tokenOf o
  ((s.updCore core fun k => k.updOverlay o.first fun x => x.addRef c).stampOverlay core o, tok)

/-- The overlay that a fill wanted is in the store already: OVLD takes it, threads in the target go there. -/
def State.joinFill (s : State) (f : Fill) (o : Overlay) : State :=
  match f.ovld with
  | some _ =>
    let (s, tok) := s.ovldTake f.core f.ctx o
    (s.dropFill f.key).endOvld f.key tok
  | none =>
    let who := s.fillers f.key
    let s := s.dropFill f.key
    who.foldl (fun s (i, k) => s.fillEnds i k fun s =>
      (s.updThread i fun t => { t with park := .ready }).reachImage i f.image k fun s o => s.land i o k) s

/-- The header passes: frames are taken and the overlay starts filling (R362, R366). -/
def State.startFill (s : State) (f : Fill) (h : Header) : State :=
  match s.allocate f.core ((h.len + 1023) / 1024) with
  | none => s.failFill f ovNoFrame
  | some (core, slots) =>
    let first := slots.headD 0
    let o : Overlay :=
      { vf := f.ctx.vf, pasid := s.pasid f.ctx, image := f.image, state := .filling, len := h.len, entries := h.entries,
        body := [], slots := slots, gen := core.gen first, pins := 0, refs := 0, stamp := s.tick, counts := [] }
    let s := (s.heal (Upset.onCode f.core slots)).updCore f.core fun _ =>
      let core := core.clearFaulty o.vf o.pasid o.image
      { core with overlays := core.overlays ++ [o] }.mapToken o
    let go := fun x : Fill => if x.key = f.key then { x with slot := some first, ovld := none, crc := h.crc } else x
    let s := { s with fills := s.fills.map go }
    if f.ovld.isSome then
      let (s, tok) := s.ovldTake f.core f.ctx o
      s.endOvld f.key tok
    else s

/-- The header misses translation: an OVLD suspends its team and issues afresh, a demand fill waits on a page request. -/
def State.missFill (s : State) (f : Fill) (m : Miss) : State :=
  match f.ovld with
  | some _ =>
    let ids := (s.parkedAt fun p => p.ovldNo = some f.key).map (·.1)
    ((s.dropFill f.key).updThreads ids fun t => { t with park := .ready }).probeFault ids f.image false
  | none =>
    let (s, tag) := s.pageRequest f.ctx f.core 3 m
    let wait := fun x : Fill => if x.key = f.key then { x with waits := [tag] } else x
    { s with fills := s.fills.map wait }

/-- OVERLAY_HEADER_READ (R366): the requests of a core are taken in the order received (R363). An image with an uncorrectable error counts
as faulty (log entry 103). -/
def execOverlayHeaderRead (f : Nat) (s : State) : Out :=
  match s.fills.find? (·.key = f) with
  | none => .next s
  | some x =>
    let able := fun y : Fill => y.slot.isNone && y.waits.isEmpty && s.fillMay y
    if !able x || (s.fills.takeWhile (·.key ≠ f)).any (fun y => y.core = x.core && able y) then .next s
    else
      match (s.core x.core).tagged x.ctx.vf (s.pasid x.ctx) x.image with
      | some o => .next (s.joinFill x o)
      | none =>
        match s.readHeader (viewAt x.ctx x.core) x.image with
        | .error m => .next (s.missFill x m)
        | .ok v =>
          match s.badLines (viewAt x.ctx x.core) x.image 8 with
          | some (gpa, src) => .next ((s.countBad x.ctx gpa src).failFill x ovFaulty)
          | none =>
            match headerOf v with
            | none => .next (s.failFill x ovFaulty)
            | some h => .next (s.startFill x h)

/-! ## The body fill (R366) -/

/-- Instruction words of body bytes. -/
def wordsOf : List Byte → List W32
  | a :: b :: c :: d :: rest => w32 (bytesToNat [a, b, c, d]) :: wordsOf rest
  | _ => []

/-- The body arrives: resident, or faulty when BODYCRC does not match. -/
def State.endFill (s : State) (f : Fill) (o : Overlay) (bs : List Byte) : State :=
  if crc32 bs ≠ f.crc then s.loseFill f ovFaulty
  else
    let who := s.fillers f.key
    let s := s.updCore f.core fun c => c.updOverlay o.first fun x => { x with state := .resident, body := wordsOf bs }
    let s := (s.dropFill f.key).endWaits f.key ovDone
    let o' : Overlay := { o with state := .resident, body := wordsOf bs }
    who.foldl (fun s (i, k) => s.fillEnds i k fun s => s.land i o' k) s

/-- OVERLAY_FILL_COMPLETE (R366). -/
def execOverlayFillComplete (f : Nat) (s : State) : Out :=
  match s.fills.find? (·.key = f) with
  | none => .next s
  | some x =>
    match x.slot.bind (s.core x.core).overlayAt with
    | none => .next s
    | some o =>
      if !x.waits.isEmpty then .next s
      else
        match s.missVa (viewAt x.ctx x.core) (x.image + 0x400) (4 * o.len) false with
        | some va =>
          (match s.translate (viewAt x.ctx x.core) va false with
           | .ok _ => .next s
           | .error m =>
             let (s, tag) := s.pageRequest x.ctx x.core 3 m
             let wait := fun y : Fill => if y.key = f then { y with waits := [tag] } else y
             .next { s with fills := s.fills.map wait })
        | none =>
          match s.badLines (viewAt x.ctx x.core) (x.image + 0x400) ((4 * o.len + 127) / 128) with
          | some (gpa, src) => .next ((s.countBad x.ctx gpa src).loseFill x ovFaulty)
          | none =>
            match s.readVa (viewAt x.ctx x.core) (x.image + 0x400) (4 * o.len) with
            | .error _ => .next s
            | .ok bs => .next (s.endFill x o bs)

/-- A page reply for the hoist (R366): granted, the fill goes on; refused, it ends with REFUSED. -/
def State.answerFills (s : State) (tag : Nat) (refuse : Bool) : State :=
  let hit := s.fills.filter fun f => f.waits.contains tag
  if refuse then hit.foldl (fun s f => s.loseFill f ovRefused) s
  else
    let go := fun f : Fill => { f with waits := f.waits.filter (· ≠ tag) }
    { s with fills := s.fills.map go }

/-! ## The instructions (R364 to R369) -/

/-- Step 1 of an overlay instruction. -/
def ovUni (f : L2R) (srcs dsts : List Opd) : UniDef :=
  { g := f.g, gn := f.gn, ok := wIn f.toL1 [0] && f.b = 0 && f.c = 0 && f.mod = 0 && f.imm = 0, words := 2, srcs := srcs,
    dsts := dsts }

/-- Forms of OVLD, of the instructions on a token, and of CALLO (R365 to R369). -/
def ovldUni (f : L2R) : UniDef := ovUni f [⟨.src 2, f.a.toNat⟩] [⟨.dst 1, f.d.toNat⟩]
def ovtokUni (f : L2R) : UniDef := ovUni f [⟨.src 1, f.a.toNat⟩] [⟨.dst 1, f.d.toNat⟩]
def calloUni (f : L2R) : UniDef := ovUni f [⟨.src 2, f.a.toNat⟩] [⟨.dstZ 2, f.d.toNat⟩]

/-- The checks of OVLD and CALLO on an image address. -/
def imageBad (i : Nat) : Option Raise :=
  if !canonical i 1 then some (trapR 0x12 0 i)
  else if i % 4096 ≠ 0 then some (trapR 0x11 0 i)
  else none

/-- The team must commit before the hoist reads for it: it holds a write in stream 0 (R227, R387). -/
def State.hoistCommits (s : State) (g : UniGroup) (image : Nat) : Bool :=
  let x := s.ctxId g.leader
  ((s.core g.leader.team.core).tagged x.vf (s.pasid x) image).isNone && g.teams.any fun t => s.heldFor t g.all 0

/-- The teams of a group that hold writes commit. -/
def State.commitHeld (s : State) (ts : List TeamId) : State :=
  ts.foldl (fun s t => if (s.heldOf t).isEmpty then s else s.commitFirst t) s

/-- OVLD (R366). -/
def execOvld (f : L2R) (s : State) : Out :=
  runUniform (ovldUni f) s fun g s =>
    let i := g.lt.readReg g.env f.a.toNat 2
    let core := g.leader.team.core
    let x := s.ctxId g.leader
    match imageBad i with
    | some r => .trap s r
    | none =>
      match (s.core core).tagged x.vf (s.pasid x) i with
      | some o =>
        let (s, tok) := s.ovldTake core x o
        .done (s.result g 2 f.d.toNat 1 tok)
      | none =>
        if s.hoistCommits g i then .stay (s.commitHeld g.teams)
        else
          let (s, k) := s.fresh
          let new : Fill := ⟨k, core, x, i, g.all, some (g.rcv, f.d.toNat), none, [], false, 0⟩
          let s := { s with fills := s.fills ++ [new] }
          .done (s.updThreads g.rcv fun t => { t with park := .ovld k f.d.toNat })

/-- The overlay that a token names for a context, when it is current and its own (R367, R368). -/
def State.ownOverlay (s : State) (core : CoreId) (x : CtxId) (tok : Nat) : Option Overlay :=
  if 65535 < tok then none
  else ((s.core core).current tok).filter fun o => o.vf = x.vf && o.pasid = s.pasid x

/-- OVWAIT (R367). -/
def execOvwait (f : L2R) (s : State) : Out :=
  runUniform (ovtokUni f) s fun g s =>
    let core := g.leader.team.core
    match s.ownOverlay core (s.ctxId g.leader) (g.lt.readReg g.env f.a.toNat 1) with
    | none => .done (s.result g 2 f.d.toNat 1 ovStale)
    | some o =>
      if o.state = .resident then .done (s.result g 2 f.d.toNat 1 ovDone)
      else
        match s.fills.find? fun x => x.core = core && x.slot = some o.first with
        | none => .done (s.result g 2 f.d.toNat 1 ovStale)
        | some x => .done (s.updThreads g.rcv fun t => { t with park := .ovwait x.key f.d.toNat })

/-- Frames of the other pinned overlays of a core. -/
def Core.pinned (c : Core) (o : Overlay) : Nat :=
  ((c.overlays.filter fun x => x.state ≠ .faulty && x.first ≠ o.first && x.pins ≠ 0).map (·.slots.length)).foldl (· + ·) 0

/-- OVPIN (minor 2), OVUNPIN (3) and OVREL (4) (R368). -/
def runOvCount (minor : Nat) (f : L2R) (s : State) : Out :=
  runUniform (ovtokUni f) s fun g s =>
    let core := g.leader.team.core
    let x := s.ctxId g.leader
    match s.ownOverlay core x (g.lt.readReg g.env f.a.toNat 1) with
    | none => .done (s.result g 2 f.d.toNat 1 ovStale)
    | some o =>
      if minor = 2 && (o.pins = 65535 || 56 < o.slots.length + (s.core core).pinned o) then
        .done (s.result g 2 f.d.toNat 1 ovLimit)
      else
        let upd := fun o : Overlay => match minor with
          | 2 => o.addPin x
          | 3 => o.dropPin x
          | _ => o.dropRef x
        .done ((s.updCore core fun k => k.updOverlay o.first upd).result g 2 f.d.toNat 1 ovDone)

/-- OVPIN (R368). -/
def execOvpin (f : L2R) (s : State) : Out := runOvCount 2 f s
/-- OVUNPIN (R368). -/
def execOvunpin (f : L2R) (s : State) : Out := runOvCount 3 f s
/-- OVREL (R368). -/
def execOvrel (f : L2R) (s : State) : Out := runOvCount 4 f s

/-- CALLO (R369). -/
def execCallo (f : L2R) (s : State) : Out :=
  runUniform (calloUni f) s fun g s =>
    let e := g.lt.readReg g.env f.a.toNat 2
    match imageBad (erefImage e) with
    | some r => .trap s r
    | none =>
      if s.hoistCommits g (erefImage e) then .stay (s.commitHeld g.teams)
      else
        let k := fun i : ThreadId => FillThen.call f.d.toNat (erefEntry e) (i = g.leader)
        .done (g.rcv.foldl (fun s i => s.ifRuns i.team fun s => s.reachImage i (erefImage e) (k i) fun s o => s.land i o (k i)) s)

end Sys2Proof.Machine
end

