-- ==== Sys2Proof/Machine/System.lean ====
section
/-! DEFINITION. System registers, clocks, error counters and TRAP (16_system R373 to R379; 01_machine R25; 06_numbers R146, R147,
R152; 12_matrix R297, R299). -/
namespace Sys2Proof.Machine

/-- Numbers of the system registers (R373, Table 1). -/
def sysNumbers : List Nat :=
  [0x000, 0x001, 0x002, 0x003, 0x004, 0x005, 0x006, 0x007, 0x008, 0x010, 0x011, 0x012, 0x020, 0x021, 0x022, 0x023, 0x024, 0x025,
    0x030, 0x031, 0x040, 0x041, 0x050, 0x060, 0x061, 0x062, 0x070, 0x071, 0x080, 0x081, 0x082, 0x083]

/-- A number of Table 1 in IMM12 (R375). -/
def sysOk (f : L2R) : Bool := sysNumbers.contains f.imm.toNat

/-- Step 1 of an instruction of major 0x11 (R375, Table 4). -/
def sysUni (f : L2R) (ok : Bool) (srcs dsts : List Opd) : UniDef :=
  { g := f.g, gn := f.gn, ok := wIn f.toL1 [0] && f.b = 0 && f.c = 0 && f.mod = 0 && ok, words := 2, srcs := srcs, dsts := dsts }

/-- Forms of SRD, SWR, TRAP, CLKW and CLKR, and ERRD (R375, Table 4). -/
def srdUni (f : L2R) : UniDef := sysUni f (f.a = 0 && sysOk f) [] [⟨.dst 1, f.d.toNat⟩]
def swrUni (f : L2R) : UniDef := sysUni f (f.d = 0 && sysOk f) [⟨.src 1, f.a.toNat⟩] []
def trapUni (f : L2R) : UniDef := sysUni f (f.d = 0 && f.a = 0) [] []
def clockUni (f : L2R) : UniDef := sysUni f (f.a = 0 && f.imm = 0) [] [⟨.dst 2, f.d.toNat⟩]
def errdUni (f : L2R) : UniDef := sysUni f (f.a = 0 && f.imm.toNat < 12) [] [⟨.dst 2, f.d.toNat⟩]

/-- BLOCK (R374). -/
def State.blockReg (s : State) (t : TeamId) : Nat :=
  match s.team t, s.blockOf t with
  | some tm, some b => tm.block.slot + (if b.gang = 0 then 0 else 16 * b.gpos + 64)
  | _, _ => 0

/-- A system register as a thread reads it (R374, R377). -/
def State.sysRead (s : State) (id : ThreadId) (t : Thread) (n : Nat) : Nat :=
  let c := s.ctxId id
  let cx := s.ctx c
  let tm := s.team id.team
  let core := s.core id.team.core
  let frame := (tm.map (·.frame.toNat)).getD 0
  let targ := (tm.map (·.targ.toNat)).getD 0
  match n with
  | 0x000 => s.tidx id
  | 0x001 => s.teamReg id
  | 0x002 => s.blockReg id.team
  | 0x003 => id.team.core.core
  | 0x004 => id.team.core.pkg
  | 0x005 => (tm.map (·.role.toNat)).getD 0
  | 0x006 => c.vf.vf
  | 0x007 => s.pasid c
  | 0x008 => s.ctxReg c
  | 0x010 => fld core.ctag.toNat 0 32
  | 0x011 => fld core.ctag.toNat 32 32
  | 0x012 => t.cntrs
  | 0x020 => t.tcause
  | 0x021 => t.tinfo.toNat
  | 0x022 => fld t.taddr.toNat 0 32
  | 0x023 => fld t.taddr.toNat 32 32
  | 0x024 => t.tlinkLo.toNat
  | 0x025 => t.tlinkHi.toNat
  | 0x030 => s.rprog id.team
  | 0x031 => (tm.map Team.mstatus).getD 0
  | 0x040 => t.fflags.toNat
  | 0x041 => t.fmode.toNat
  | 0x050 => (cx.map (·.clamp.toNat)).getD 0
  | 0x060 => core.poolb0.toNat
  | 0x061 => core.poolb1.toNat
  | 0x062 => core.poolb2.toNat
  | 0x070 => (cx.map (·.shdctl.toNat)).getD 0
  | 0x071 => ((cx.map fun x => x.vdiv + 2 ^ 16 * x.mfail)).getD 0
  | 0x080 => fld frame 0 32
  | 0x081 => fld frame 32 32
  | 0x082 => fld targ 0 32
  | 0x083 => fld targ 32 32
  | _ => 0

/-- The read-to-clear fields of a register cleared once after every thread has read (R9, R377). -/
def State.sysClear (s : State) (g : UniGroup) (n : Nat) : State :=
  match n with
  | 0x071 => s.updCtx (s.ctxId g.leader) fun x => { x with vdiv := 0, mfail := 0 }
  | 0x031 => (g.rcv.map (·.team)).eraseDups.foldl (fun s t => s.updTeam t fun t => { t with unchk := 0 }) s
  | _ => s

/-- SRD (R377). -/
def execSrd (f : L2R) (s : State) : Out :=
  let n := f.imm.toNat
  runUniform (srdUni f) s fun g s =>
    let s' := s.mapThreads fun i t =>
      if i ∈ g.rcv then (t.writeReg f.d.toNat 1 (s.sysRead i t n) 0).step 2 else t
    .done (s'.sysClear g n)

/-- A thread register written (R374, R377). -/
def Thread.sysWrite (t : Thread) (n x : Nat) : Thread :=
  match n with
  | 0x020 => { t with cause := BitVec.ofNat 8 x }
  | 0x021 => { t with tinfo := w32 x }
  | 0x022 => { t with taddr := BitVec.ofNat 64 (setFld t.taddr.toNat 0 32 x) }
  | 0x023 => { t with taddr := BitVec.ofNat 64 (setFld t.taddr.toNat 32 32 x) }
  | 0x024 => { t with tlinkLo := BitVec.ofNat 16 x }
  | 0x025 => { t with tlinkHi := BitVec.ofNat 14 x }
  | 0x040 => { t with fflags := t.fflags &&& ~~~(BitVec.ofNat 6 x) }
  | 0x041 => { t with fmode := BitVec.ofNat 2 x }
  | _ => t

/-- A register shared by several threads, each copy written once; read-only fields stay (R9, R377). -/
def State.sysShared (s : State) (g : UniGroup) (n x : Nat) : State :=
  match n with
  | 0x031 => g.teams.foldl (fun s t => s.updTeam t fun t =>
      { t with mnv := t.mnv && !x.testBit 16, mof := t.mof && !x.testBit 17, msat := t.msat && !x.testBit 18 }) s
  | 0x050 => s.updCtx (s.ctxId g.leader) fun c => { c with clamp := c.clamp &&& ~~~(BitVec.ofNat 8 x) }
  | 0x070 => s.updCtx (s.ctxId g.leader) fun c => if c.sup then { c with shdctl := BitVec.ofNat 2 x } else c
  | _ => s

/-- SWR (R377). -/
def execSwr (f : L2R) (s : State) : Out :=
  let n := f.imm.toNat
  runUniform (swrUni f) s fun g s =>
    let x := g.lt.readReg g.env f.a.toNat 1
    .done ((s.sysShared g n x).updThreads g.all fun t => (t.sysWrite n x).step 2)

/-- TRAP (R376): SOFTWARE in every guard-true thread, resuming after the TRAP. -/
def execTrap (f : L2R) (s : State) : Out :=
  runUniform (trapUni f) s fun g s =>
    .done (s.raises (g.all.filterMap fun i => (s.thread i).map fun t =>
      (i, (⟨0x31, f.imm.toNat, 0, some { t.pc with off := t.pc.off + 2 }, false⟩ : Raise))))

/-- A clock read once for the group (R378). -/
def runClock (f : L2R) (clock : CtxId → State → Nat) (s : State) : Out :=
  runUniform (clockUni f) s fun g s =>
    .done (s.result g 2 f.d.toNat 2 (clock (s.ctxId g.leader) s))

/-- CLKW (R25, R378). -/
def execClkw (f : L2R) (s : State) : Out := runClock f (fun _ s => s.clkw) s
/-- CLKR (R25, R378). -/
def execClkr (f : L2R) (s : State) : Out :=
  runClock f (fun c s => ((s.part (s.partOfCtx c)).map (·.clkr)).getD 0) s

/-- ERRD (R379). -/
def execErrd (f : L2R) (s : State) : Out :=
  runUniform (errdUni f) s fun g s =>
    .done (s.result g 2 f.d.toNat 2 (((s.vf (s.ctxId g.leader).vf).map fun v => v.errs.getD f.imm.toNat 0).getD 0))

end Sys2Proof.Machine
end

