-- ==== Sys2Proof/Machine/Recovery.lean ====
section
/-! DEFINITION. Rollback of guarded tasks (16_system R390, R391) and partition reset (R392). -/
namespace Sys2Proof.Machine

/-! ## Rollback (R390) -/

/-- The copies of a team stop: their tags become idle with CTAG set and no error, and CPN falls (R390 step 1). -/
def State.stopCopies (s : State) (t : TeamId) : State :=
  (s.teamCopies t).foldl (fun s x => s.copyEnd t.core { x with error := none }) s

/-- The matrix commands of a team are discarded, and MXN falls (R390 step 1). -/
def State.dropMats (s : State) (t : TeamId) : State := (s.teamMats t).foldl (fun s m => s.matRetire t.core m) s

/-- Only loads of the team are outstanding; they end with their data discarded (R390 step 1). -/
def State.rollReady (s : State) (t : TeamId) : Bool := (s.teamAccs t).all (·.kind = .load) && (s.teamLaunch t).isEmpty

/-- A gang member, or a team whose block has no window bound, takes its snapshot back where it stands (R390, R391). -/
def State.rollsInPlace (s : State) (t : TeamId) : Bool :=
  !(s.gangTeams t).isEmpty || !((s.blockOf t).any fun b => b.windows.any (· ≠ 0))

/-- Gate requests whose threads the snapshot holds parked follow it; the others lose their threads (R354, R390). -/
def State.gatesTo (s : State) (t : TeamId) (n : Snap) (u : TeamId) : State :=
  let parked := fun r : GateReq => n.saved.threads.any fun x => x.2.park = .gate r.key
  let f := fun r : GateReq =>
    { r with owners := if parked r then renameIds t u r.owners else r.owners.filter (·.team ≠ t)
             lead := r.lead && (parked r || r.owners.head?.all (·.team ≠ t)) }
  { s with gateReqs := s.gateReqs.map f }

/-- A continuation queued again, under the record and descriptor of the task that ran it (R390 step 5). -/
def State.requeueCont (s : State) (t : TeamId) (c : CtxId) (k : Task) : State :=
  let frame := k.body.framePtr.toNat
  match s.readVa (viewOf c) frame 0x34, k.q with
  | .ok bs, some q =>
    let desc := (s.blockOf t).map (·.descVa)
    let own := fun x : Cont => if x.frame = frame && x.ctx = c then { x with task := some (q, k.no), desc := desc } else x
    (s.queueCont c frame (bytesToNat bs)).updQSet q fun x => { x with conts := x.conts.map own }
  | _, _ => s

/-- The record of a task without a snapshot queued again at its level, not counted toward O (R390 step 5). -/
def State.requeue (s : State) (t : TeamId) (c : CtxId) (k : Task) : State :=
  if k.body.kind = 2 then s.requeueCont t c k
  else
    match k.q with
    | none => s
    | some q =>
      s.updQSet q fun x =>
        match x.recs.find? fun r => r.no = k.no && r.state = .running && r.body = k.body with
        | none => x
        | some r =>
          let again : QRec := { r with state := .queued, die := coreDieId t.core, counted := false, ring := false }
          { x with recs := x.recs.map fun y => if y = r then again else y }

/-- The same for the task of a team. -/
def State.requeueTask (s : State) (t : TeamId) (c : CtxId) : State :=
  match (s.team t).bind (·.task) with
  | none => s
  | some k => s.requeue t c k

/-- A team that rolled back restarts at ENTRY without a task (R390 step 3, R333). -/
def State.rollFresh (s : State) (t : TeamId) : State := (s.freshStart t).updTeam t fun tm => { tm with snap := none }

/-- The dropped work of a rollback: copies, matrix commands, loads and held writes (R390 steps 1 and 2). -/
def State.rollDrop (s : State) (t : TeamId) : State :=
  let s := ({ s with accs := s.accs.filter fun a => !a.ofTeam t }).trimFlights
  ((s.stopCopies t).dropMats t).dropHeld t

/-- A byte of a page's range at a key holds an uncorrectable error, in memory or in the L2 slice that caches its line (R382). -/
def State.badPage (s : State) (part gpa key n : Nat) : Bool :=
  (s.poison.any fun p => key ≤ p && p < key + n) || s.upsets.any fun u => match u with
    | .l2 i k => key ≤ k && k < key + n && s.sliceOf part (gpa + (k - key)) = some i
    | _ => false

/-- A range of a partition's guest-physical memory cannot be read, looked at page by page: a page does not translate, or holds an
uncorrectable error (R392). -/
def State.badImage (s : State) (part gpa size : Nat) : Nat → Bool
  | 0 => false
  | n + 1 =>
    let room := min size (4096 - gpa % 4096)
    size ≠ 0 && ((match s.stage2 part gpa false with
     | .error _ => true
     | .ok k => s.badPage part gpa k room) || s.badImage part (gpa + room) (size - room) n)

/-- The suspended teams of a context that roll back with their gang: each frame is dropped, and the team's snapshot, or the record of a task
without one, is queued again (R390, R391). -/
def State.rollSusps (s : State) (t : TeamId) : State :=
  match s.ctxOf t with
  | none => s
  | some c => (((s.ctx c).map (·.susp)).getD []).foldl (fun s p =>
      match p.saved.team.stop with
      | .rolling id r =>
        let core := p.saved.id.core
        let held := heldTeam core p.key
        let s := (((s.stopCopies held).dropMats held).orphanGates held).updCtx c fun x => { x with susp := x.susp.filter (·.key ≠ p.key) }
        let s := (s.countVf c.vf 8).trapEvent id r.cause r.addr
        (match (((s.ctx c).map (·.snaps)).getD []).find? fun n => some n.key = p.saved.team.snap with
         | some n => s.updCtx c fun x => { x with resumes := x.resumes ++ [⟨n.key, s.shardDies (s.partOfCtx c) core.pkg, true⟩] }
         | none => match p.saved.team.task with
           | some k => s.requeue p.saved.id c k
           | none => s)
      | _ => s) s

/-! ## Partition reset (R392) -/

/-- A core of a quad that the partition owns (R394). -/
def State.ownsCore (s : State) (p : Nat) (c : CoreId) : Bool :=
  (s.share p c.pkg).any fun sh => sh.quads.toNat.testBit (coreQuad c)

/-- A barrier of the partition: of one of its cores, or of its clamped die or package unit (R341, R410). -/
def State.ownsBar (s : State) (p : Nat) (b : BarId) : Bool := b.part = some p || (b.part = none && s.ownsCore p b.core)

/-- Gate waiters of requests removed from their gates, with the requests (R392, R456). -/
def State.dropGateReqs (s : State) (gone : GateReq → Bool) : State :=
  let keys := (s.gateReqs.filter gone).map (·.key)
  let strip := fun (_ : Nat) (g : Gate) => { g with waiters := g.waiters.filter fun w => !keys.contains w.req }
  { s with gates := tmap s.gates strip, gateReqs := s.gateReqs.filter fun r => !gone r }

/-- The resident teams, threads and blocks of some contexts removed. -/
def State.dropResident (s : State) (mine : CtxId → Bool) : State :=
  let gone := fun t : TeamId => (s.ctxOf t).any mine
  { s with
    threads := s.threads.filter fun (i, _) => !gone i.team
    teams := s.teams.filter fun (t, _) => !gone t
    blocks := s.blocks.filter fun (_, b) => !mine b.ctx }

/-- Every contribution of a request is an access of some contexts, or of none that is left. -/
def State.reqOf (s : State) (mine : CtxId → Bool) (r : Req) : Bool := r.leaves.all fun l => (s.access l.1).all fun a => mine a.ctx

/-- The accesses and network requests of some contexts removed; a request that holds a contribution of another context goes on, for an atomic is
never abandoned in a pond (R259). The overlays that they were filling turn faulty (R366). -/
def State.dropTraffic (s : State) (mine : CtxId → Bool) : State :=
  let gone := s.reqOf mine
  let clean := fun (_ : Nat) (st : Stage) =>
    ({ queue := st.queue.filter fun e => !(gone e.req && e.kidReqs.all gone)
       pond := st.pond.filter fun x => !(x.kidReqs.all gone) } : Stage)
  let s := (s.fills.filter fun f => mine f.ctx).foldl (fun s f => match f.slot with
    | some k => s.updCore f.core fun c => c.spoilOverlay k
    | none => s) s
  { s with
    accs := s.accs.filter fun a => !mine a.ctx
    flights := s.flights.filter fun f => !gone f.req
    races := tmap s.races clean
    weirs := tmap s.weirs clean
    fills := s.fills.filter fun f => !mine f.ctx }

/-- A partition reset (R392): its contexts stop without a save, its cores and queues return to reset, its requests and gate
waiters go; each of its VFs is told. A CTX_START that waited on one of them is refused. Stores that stood in an L1 only are written back
(log entry 76), and the registers of its contexts take their reset values (R9). -/
def State.resetPart (s : State) (p : Nat) : State :=
  let mine := fun c : CtxId => s.partOfCtx c = p
  let vfs := (s.vfs.filter fun (_, v) => v.part = p).map (·.1)
  let s := s.dropAllLines fun c _ => s.ownsCore p c
  let s := ((s.heal (Upset.onCore (s.ownsCore p))).dropResident mine).dropTraffic mine
  let s := s.dropGateReqs fun r => mine r.ctx
  let ends := s.ctxs.filter fun (c, x) => mine c && x.ending
  let stop := fun (c : CtxId) (x : Ctx) =>
    if mine c then
      { x with started := false, saved := none, susp := [], snaps := [], resumes := [], clamp := 0, vdiv := 0, mfail := 0, shdctl := 3 }
    else x
  let fn := fun (_ : FnId) (f : Fn) =>
    let lost := f.pending.any fun k => k.waits.any fun w => s.pages.any fun r => r.tag = w && vfs.contains r.vf
    { f with
      prWait := f.prWait.filter fun r => !vfs.contains r.vf
      pending := f.pending.map fun k => if lost then { k with waits := [], refused := true } else k }
  let s := { s with
    cores := s.cores.filter fun (c, _) => !s.ownsCore p c
    bars := s.bars.filter fun (b, _) => !s.ownsBar p b
    pages := s.pages.filter fun r => !vfs.contains r.vf
    fns := tmap s.fns fn
    tlb := s.tlb.filter fun e => e.part ≠ p
    ctxs := (tmap s.ctxs stop).filter fun (c, x) => !(mine c && x.ending) }
  let s := (s.rebuildQueues p).updPart p fun x => { x with running := none, slicing := .none, quanta := 0 }
  let s := (ends.flatMap fun (_, x) => x.endTags).foldl (fun s (f, tag) => s.complete f tag 0 0) s
  vfs.foldl (fun s v => (s.countVf v 11).postEvent (vfFn v) ⟨0, 0, 2, s.clkw, 0, 0, 0⟩) s

/-! ## ROLLBACK, WATCHDOG_FIRE and WINDOW_END -/

/-- ROLLBACK (R390, R391), after the commit that an irrevocable operation has made due. A snapshot that cannot be read is a fatal fault of the partition (R392). -/
def execRollback (t : TeamId) (s : State) : Out :=
  match s.team t, s.ctxOf t with
  | some tm, some c =>
    (match tm.stop with
     | .rolling id r =>
       if tm.irrevocable || !s.rollReady t then .next (s.unfault t)
       else if s.keeps t then .next (s.unkeep t)
       else
         let s := (s.rollDrop t).rollSusps t
         let snap := ((s.ctx c).map (·.snaps)).getD [] |>.find? fun n => some n.key = tm.snap
         let s := (s.countVf c.vf 8).trapEvent id r.cause r.addr
         (match snap with
          | none => .next ((((s.requeueTask t c).orphanGates t).rollFresh t).gangHandled t)
          | some n =>
            let p := s.partOfCtx c
            if s.badImage p (s.snapAddr c n.saved.id n.slot) n.size (pagesOf n.size) then .next (s.resetPart p)
            else
            let s := s.putSnap t.core n
            if s.rollsInPlace t then .next (((s.gatesTo t n (heldTeam t.core n.key)).resumeSnap t c n).gangHandled t)
            else
              let dies := s.shardDies (s.partOfCtx c) t.core.pkg
              let s := s.updCtx c fun x => { x with resumes := x.resumes ++ [⟨n.key, dies, true⟩] }
              .next ((s.gatesTo t n (heldTeam n.saved.id.core n.key)).rollFresh t))
     | _ => .next s)
  | _, _ => .next s

/-- Watchdog period of a partition in ns (R392, Table 8 of R430). -/
def Part.watchdog (p : Part) : Nat := ((p.shares.head?.map (·.wdog)).getD 0) * 1000000

/-- The partition runs and holds a live thread. -/
def State.busyPart (s : State) (p : Nat) : Bool :=
  (s.part p).any (·.running.isSome) && s.threads.any fun (i, t) => t.live && (s.ctxOf i.team).any fun c => s.partOfCtx c = p

/-- WATCHDOG_FIRE (R392). -/
def execWatchdogFire (p : Nat) (s : State) : Out :=
  match s.part p with
  | none => .next s
  | some x =>
    if s.busyPart p && x.watchdog ≠ 0 && x.progress + x.watchdog ≤ s.clkw then .next (s.resetPart p) else .next s

/-- WINDOW_END (R231): read-only copies filled in a window that has ended are dropped. -/
def execWindowEnd (c : CoreId) (s : State) : Out :=
  let open_ := fun l : L1Line =>
    let len := ((s.share l.part c.pkg).map (·.window)).getD 0
    l.copy.all fun x => len ≠ 0 && x.1 = s.clkw / len
  .next (if (s.core c).l1.any (·.copy.isSome) then s.updCore c fun k => { k with l1 := k.l1.filter open_ } else s)

end Sys2Proof.Machine
end

