-- ==== Sys2Proof/Machine/Partition.lean ====
section
/-! DEFINITION. Slices, pre-emption, saving and restoring contexts, and their ends (17_partitions R397 to R400; 16_system R384,
R385, R456; 11_copy R274; 12_matrix R308; 14_gates R354). -/
namespace Sys2Proof.Machine

/-! ## Rotation (R399, R400) -/

/-- Slice parameters of a partition: those of its first share (R400). -/
def Part.sliceWord (p : Part) : Nat := (p.shares.head?.map (·.slice.toNat)).getD 0
/-- Quantum in ns. -/
def Part.quantum (p : Part) : Nat := fld p.sliceWord 0 16 * 10000
/-- Quanta in a VF slice. -/
def Part.perVf (p : Part) : Nat := fld p.sliceWord 16 8
/-- The first boundary after a time. -/
def Part.nextBoundary (p : Part) (now : Nat) : Nat := if p.quantum = 0 then now else (now / p.quantum + 1) * p.quantum

/-- Order of VFs in the rotation: by VF number (R399), then by package, where two packages of a partition have VFs of one number: the
model's choice, for the rule gives no order there (log entry 89). -/
def vfKey (v : VfId) : Nat := v.vf * 256 + v.pkg

/-- The element with the least key. -/
def leastBy {α : Type} (key : α → Nat) : List α → Option α
  | [] => none
  | x :: xs =>
    match leastBy key xs with
    | none => some x
    | some y => some (if key x ≤ key y then x else y)

/-- The next element of a rotation after a key. -/
def nextAfter {α : Type} (key : α → Nat) (last : Option Nat) (l : List α) : Option α :=
  match last with
  | none => leastBy key l
  | some k =>
    match leastBy key (l.filter fun x => k < key x) with
    | some x => some x
    | none => leastBy key l

/-- The partition still owns every core on which a saved context has a block (R397; log entry 90). -/
def State.placedStill (s : State) (p : Nat) (x : Ctx) : Bool := x.saved.all fun v => v.blocks.all fun b => s.ownsCore p b.1.core

/-- Runnable contexts of a partition (R399). -/
def State.runnable (s : State) (p : Nat) : List CtxId :=
  (s.ctxs.filter fun (c, x) => s.partOfCtx c = p && x.started && !x.ending && s.placedStill p x).map (·.1)

/-- The context of the next quantum, and whether it belongs to the running VF slice (R399). -/
def State.nextCtx (s : State) (p : Nat) (x : Part) (used : Nat) : Option (CtxId × Bool) :=
  let rs := s.runnable p
  let stay := used < x.perVf && rs.any fun c => vfKey c.vf = x.lastVf
  let v := if stay then some x.lastVf else (nextAfter (fun c : CtxId => vfKey c.vf) (some x.lastVf) rs).map fun c => vfKey c.vf
  match v with
  | none => none
  | some k =>
    let mine := rs.filter fun c => vfKey c.vf = k
    let last := mine.head?.bind fun c => tget x.lastCidx c.vf
    (nextAfter (fun c : CtxId => c.cidx) last mine).map fun c => (c, stay)

/-! ## Stopping (R384) -/

/-- Every live thread of the team stands at one PC, and no rendezvous is partly arrived (R123, R384). -/
def State.atReconvergence (s : State) (t : TeamId) : Bool :=
  let live := (s.members t).filter (·.2.live)
  let arrived := fun x : ThreadId × Thread => match x.2.park with
    | .arrived _ => true
    | _ => false
  (match live with
   | [] => true
   | (_, th) :: _ => live.all fun x => x.2.pc = th.pc) && (live.all arrived || !(live.any arrived))

/-- The resident teams of a context. -/
def State.teamsOf (s : State) (c : CtxId) : List TeamId :=
  (s.teams.filter fun (_, tm) => (s.block tm.block).any (·.ctx = c)).map (·.1)

/-- A team that runs on stops for the slice's end; a guarded one commits then, but for a context that ends (R384 step 3, R388, R456). -/
def State.sliceTeam (s : State) (full : Bool) (t : TeamId) : State :=
  let ends := ((s.ctxOf t).bind s.ctx).any (·.ending)
  s.updTeam t fun tm =>
    if tm.stop = .running then { tm with stop := .sliced full, commitDue := tm.commitDue || (tm.guarded && !ends) } else tm

/-- Teams that reach their stop while a slice is ending issue nothing more (R384 steps 1 and 2). -/
def State.settleSlices (s : State) : State :=
  s.parts.foldl (fun s (_, x) =>
    match x.running, x.slicing with
    | some c, .stopping _ => (s.teamsOf c).foldl (fun s t => if s.atReconvergence t then s.sliceTeam false t else s) s
    | some c, .stopped => (s.teamsOf c).foldl (fun s t => s.sliceTeam true t) s
    | _, _ => s) s

/-- PREEMPT_FORCED_STOP (R384 step 2): 10 µs after the boundary every team left is stopped per thread. -/
def execPreemptForcedStop (p : Nat) (s : State) : Out :=
  match s.part p with
  | none => .next s
  | some x =>
    match x.running, x.slicing with
    | some c, .stopping since =>
      if since + 10000 ≤ s.clkw then
        .next (((s.teamsOf c).foldl (fun s t => s.sliceTeam true t) s).updPart p fun x => { x with slicing := .stopped })
      else .next s
    | _, _ => .next s

/-! ## What must be done before a save (R233, R384 step 3) -/

/-- An access that waits for a page reply, in a fault frame or in a team that stands. -/
def State.framed (s : State) (n : Nat) : Bool :=
  (s.accs.any fun a => a.seq = n && a.state ≠ .waiting && a.state ≠ .sent) ||
    s.ctxs.any fun (_, x) => x.susp.any fun p => p.saved.elems.any fun a => a.seq = n && a.pendingStill

/-- A fence keeps an access back until some of the accesses given are performed (R221). -/
def State.fencedBy (s : State) (st : List Access) (a : Access) : Bool :=
  a.owners.any fun i => (s.thread i).any fun t => t.fences.any fun f =>
    f.seq < a.seq && f.y.getLsbD a.strm && st.any fun b => b.seq < f.seq && b.owners.contains i && f.x.getLsbD b.strm

/-- Of some accesses, in the order of issue, those that stand until a page reply comes: held ones, and what must follow them. -/
def State.standing (s : State) : List Access → List Access → List Access
  | st, [] => st
  | st, a :: as =>
    let held := a.state ≠ .waiting && a.state ≠ .sent
    let behind := a.state = .waiting &&
      (a.after.any (fun n => s.framed n || st.any (·.seq = n)) || st.any (fun b => s.keepsBack b a) || s.fencedBy st a)
    s.standing (if held || behind then st ++ [a] else st) as

/-- The accesses of a context that stand. -/
def State.standingOf (s : State) (c : CtxId) : List Nat :=
  (s.standing [] (sortBy (fun a b => a.seq ≤ b.seq) (s.accs.filter (·.ctx = c)))).map (·.seq)

/-- A team stands for a save: it has stopped for the slice's end, its slot waits for page replies (R204), or it was stopped before by a
trap, a rollback or a replay, and what is left of it waits for page replies. -/
def State.standsStill (s : State) (st : List Nat) (t : TeamId) (tm : Team) : Bool :=
  match tm.stop with
  | .sliced _ | .kept => true
  | .fresh _ _ | .rolling _ _ | .replaying => (s.teamAccs t).all fun a => st.contains a.seq
  | _ => false

/-- The oldest entry of a pending-launch queue stays with its context: its JOIN, or an access that its release covers, waits for a page
reply (R233, R326). -/
def State.launchStays (s : State) (st : List Nat) (l : Launch) : Bool := !l.waits.isEmpty || l.need.any fun n => s.framed n || st.contains n

/-- A gate request does not hold up a save: it has registered its waiter, or its reply is for threads in a fault frame (R354). -/
def State.gateStays (s : State) (r : GateReq) : Bool := r.waiting || (r.ans.isSome && !r.owners.isEmpty && (s.gateHere r).isEmpty)

/-- The words of a copy all wait for page replies, or the copy for accesses that do. -/
def State.copyStays (s : State) (core : CoreId) (x : Copy) : Bool :=
  !s.engineMay x.seq x.cmd.strm x.cmd.scope x.issuers ||
    x.todo.all fun k => s.copyHeld core x k || (x.memmove && !x.unread k && x.todo.any fun j => x.unread j && s.wordsMeet x.cmd k j)

/-- What a team's due commit waits for will not come before a page reply does: the save goes on without that commit (R233, R388; log entry
106). -/
def State.commitStays (s : State) (st : List Nat) (t : TeamId) : Bool :=
  !s.quiet t && ((s.teamAccs t).all fun a => st.contains a.seq) && ((s.teamCopies t).all (s.copyStays t.core)) &&
    ((s.teamMats t).all (s.matStays t.core)) && ((s.teamLaunch t).isEmpty || (s.core t.core).launch.head?.all (s.launchStays st))

/-- A stopped team's due commit does not hold up the save. -/
def State.commitOver (s : State) (c : CtxId) (st : List Nat) (t : TeamId) (tm : Team) : Bool :=
  match tm.stop with
  | .sliced _ => !tm.commitDue || (s.ctx c).any (·.ending) || s.commitStays st t
  | _ => true

/-- Every issued access, command and request of a context has completed as R384 asks, and its guarded teams have committed (R388); nothing
waits for a page reply (R233). -/
def State.drainedCtx (s : State) (p : Nat) (c : CtxId) : Bool :=
  let st := s.standingOf c
  ((s.teamsOf c).all fun t => (s.team t).any fun tm => s.standsStill st t tm && s.commitOver c st t tm) &&
    (s.accs.all fun a => a.ctx ≠ c || st.contains a.seq) &&
    (s.flights.all fun f => f.req.ctx ≠ c) &&
    (s.cores.all fun (i, k) => !(s.ownsCore p i) || (k.launch.head?.all (s.launchStays st) && k.mq.all (s.matStays i))) &&
    (s.gateReqs.all fun r => r.ctx ≠ c || s.gateStays r) &&
    (s.joins.all fun j => j.ctx ≠ c || !j.waits.isEmpty || !s.released j.need)

/-! ## Copies at a save (R271, R274) -/

/-- The line of a word on the contiguous side (R274). -/
def CopyCmd.sideLine (c : CopyCmd) (k : Nat) : Int :=
  ((if c.minor = 3 then c.src + (4 * k : Nat) else c.dst + (c.offsets k 0).1)) / 128

/-- The words that a copy must still perform to stand at a line boundary: those before the last performed word in its running
order, and the rest of that word's line. -/
def State.copyRest (s : State) (x : Copy) : List Nat :=
  let order := s.copyOrder x
  match (order.reverse).find? fun k => !x.todo.contains k with
  | none => []
  | some last =>
    let before := order.takeWhile (· ≠ last)
    let after := (order.dropWhile (· ≠ last)).takeWhile fun k => x.cmd.sideLine k = x.cmd.sideLine last
    (before ++ after).filter x.todo.contains

/-- A copy performs what is left up to its stop point, index words, then source words, then destination words in its running order, and
stops there: what it has read beyond is read again when it goes on, except under the memmove rule, which has every source word read
before (R271). A word that waits for a page reply is left (R233, R274; log entry 91). -/
def State.haltCopy (s : State) (core : CoreId) (x : Copy) : State :=
  let rest := s.copyRest x
  let tag := x.cmd.tag
  let lists := rest.filter fun k => (x.index k).isNone
  let src := if x.memmove && !rest.isEmpty then (s.copyOrder x).filter x.todo.contains else rest
  let open_ := fun (s : State) (y : Copy) (k : Nat) => !y.unread k && !(y.memmove && y.todo.any fun j => y.unread j && s.wordsMeet y.cmd k j)
  let reads := fun s : State => ((s.copyOn core tag).map fun y => src.filter fun k => (y.index k).isSome && y.unread k).getD []
  let ready := fun s : State => ((s.copyOn core tag).map fun y => rest.filter (open_ s y)).getD []
  let s := copyVisits core tag lists s
  let s := copyVisits core tag (reads s) s
  let s := copyVisits core tag (ready s) s
  match (s.copySettle core tag).copyOn core tag with
  | none => s
  | some y =>
    if y.todo.isEmpty then (s.copySettle core tag).copyEnd core y
    else (s.copySettle core tag).updCopy core tag fun y => if y.memmove then y else { y with vals := [], idx := [] }

/-- The copies of a context on a core stop at line boundaries (R274). -/
def State.haltCopies (s : State) (c : CtxId) (core : CoreId) : State :=
  ((s.core core).copies.filter fun x => x.cmd.ctx = c).foldl (fun s x => s.haltCopy core x) s

/-- The same on every core of the partition. -/
def State.haltAll (s : State) (p : Nat) (c : CtxId) : State :=
  (s.cores.filter fun (i, _) => s.ownsCore p i).foldl (fun s (i, _) => s.haltCopies c i) s

/-! ## Saved contexts (R384, R385) -/

/-- What of a core belongs to its context: all but the instruction store and the L1 (R358, R384 Table 7). -/
def Core.ctxPart (k : Core) : Core := { k with gens := [], overlays := [], tokmap := [], l1 := [] }

/-- What of a core stays when its context leaves. -/
def Core.storePart (k : Core) : Core := { Core.reset with gens := k.gens, overlays := k.overlays, tokmap := k.tokmap }

/-- A thread whose GWAIT has registered a waiter is saved past it, with the held-wait mark (R354). -/
def State.saveThread (s : State) (t : Thread) : Thread :=
  match t.park with
  | .gate r => if !t.heldWait && s.gateReqs.any (fun q => q.key = r && q.waiting) then { t.step 2 with heldWait := true } else t
  | _ => t

/-- A team as the context's save holds it, with the elements that wait for page replies. -/
def State.sliceRecord (s : State) (t : TeamId) (tm : Team) : SavedTeam :=
  let v := s.saveTeam t tm (s.teamAccs t)
  { v with threads := v.threads.map fun (l, th) => (l, s.saveThread th) }

/-- What a save holds of a context: of the cores, those on which it has blocks (R384). -/
def State.ctxRecord (s : State) (p : Nat) (c : CtxId) : SavedCtx :=
  let teams := s.teams.filter fun (_, tm) => (s.block tm.block).any (·.ctx = c)
  { image := true, teams := teams.map fun (t, tm) => s.sliceRecord t tm, blocks := s.blocks.filter fun (_, b) => b.ctx = c
    cores := (s.cores.filter fun (i, _) => s.blocks.any fun (b, x) => b.core = i && x.ctx = c).map fun (i, k) => (i, k.ctxPart)
    bars := s.bars.filter fun (b, _) => s.ownsBar p b }

/-- The cores of a partition that a context leaves: its teams, accesses, barriers and lines are gone from them. -/
def State.leaveCores (s : State) (p : Nat) (c : CtxId) : State :=
  let s := (s.dropAllLines fun i _ => s.ownsCore p i).dropResident (· = c)
  { s with
    accs := s.accs.filter (·.ctx ≠ c)
    cores := tmap s.cores fun i k => if s.ownsCore p i then k.storePart else k
    bars := s.bars.filter fun (b, _) => !s.ownsBar p b }

/-- A context's state leaves the cores for its save area (R384 step 4). A fill that an OVLD asked for goes on (R366). -/
def State.saveCtx (s : State) (p : Nat) (c : CtxId) : State :=
  let v := s.ctxRecord p c
  let s := (s.dropAllLines fun i _ => s.ownsCore p i).writeSave c v
  let anon := fun f : Fill => if f.ctx = c then { f with ovld := none } else f
  let s := { s.leaveCores p c with fills := s.fills.map anon }
  s.updCtx c fun x => { x with saved := some v }

/-- The refused elements that came back to teams which do not replay end there (R203). -/
def State.endBack (s : State) (c : CtxId) : State :=
  (s.accs.filter fun a => a.ctx = c && a.state = .refused && !(a.owners.any fun i =>
    (s.team i.team).any fun tm => tm.stop = .replaying)).foldl (fun s a => s.endRefused a) s

/-- A saved context's state comes back from its save area to those of its cores that the partition owns; its threads resolve their PCs before
they issue (R370, R384, R394). -/
def State.resumeCtx (s : State) (c : CtxId) : State :=
  match (s.ctx c).bind (·.saved) with
  | none => s
  | some v =>
    let v := s.readSave c v
    let cores := v.cores.filter fun x => s.ownsCore (s.partOfCtx c) x.1
    let s := (s.updCtx c fun x => { x with saved := none })
    let s := { s.heal (Upset.onCore fun i => cores.any fun x => x.1 = i) with blocks := s.blocks ++ v.blocks, bars := s.bars ++ v.bars }
    let s := cores.foldl (fun s (i, k) => s.updCore i fun now =>
      { k with gens := now.gens, overlays := now.overlays, tokmap := now.tokmap, l1 := now.l1 }) s
    let s := v.teams.foldl (fun s t =>
      s.restoreTeam t.id t (match t.team.stop with | .sliced _ => .running | x => x)) s
    (((s.ctx c).map (·.susp)).getD []).foldl (fun s q => s.suspReady c q) (s.endBack c)

/-! ## The end of a context (R456) -/

/-- Continuations and waiting frames of a context leave the queue sets; each continuation counts as a drop. -/
def QSet.forget (q : QSet) (c : CtxId) : QSet :=
  { q with conts := q.conts.filter (·.ctx ≠ c), waiting := q.waiting.filter (·.ctx ≠ c),
           drops := q.drops + (q.conts.filter (·.ctx = c)).length }

/-- What a core's engines wait for. -/
def Core.waitsOn (k : Core) (tag : Nat) : Bool :=
  (k.copies.any fun x => x.waits.any (·.1 = tag)) || (k.mq.any fun m => m.waits.contains tag) || k.launch.any fun l => l.waits.contains tag

/-- What a context waits for, in its fault frames and in its save. -/
def Ctx.waitsOn (x : Ctx) (tag : Nat) : Bool :=
  (x.susp.any fun p => p.waits.contains tag) || x.saved.any fun v =>
    (v.cores.any fun c => c.2.waitsOn tag) || v.teams.any fun t => t.elems.any fun a => a.reqs.contains tag

/-- Something waits on a page request. -/
def State.pageWaits (s : State) (tag : Nat) : Bool :=
  (s.accs.any fun a => a.reqs.contains tag) || (s.flights.any fun f => f.req.waits.contains tag) ||
    (s.cores.any fun c => c.2.waitsOn tag) || (s.fills.any fun f => f.waits.contains tag) || (s.joins.any fun j => j.waits.contains tag) ||
    (s.qsets.any fun q => q.2.logWaits.contains tag) || (s.ctxs.any fun x => x.2.waitsOn tag) ||
    s.fns.any fun f => f.2.pending.any fun k => k.waits.contains tag

/-- The page requests of contexts that are gone are withdrawn, also those that have not reached their ring; one on which something else
waits stays (R408, R456). -/
def State.withdraw (s : State) : State :=
  let keep := fun r : PageReq => (s.ctx r.ctx).isSome || s.pageWaits r.tag
  { s with pages := s.pages.filter keep, fns := tmap s.fns fun _ f => { f with prWait := f.prWait.filter keep } }

/-- A context ends (R456 steps 2 to 6): nothing of it is committed or decremented. -/
def State.endCtx (s : State) (p : Nat) (c : CtxId) : State :=
  let sp := s.space c
  let tags := ((s.ctx c).map (·.endTags)).getD []
  let s := if s.ctxRuns c then s.leaveCores p c else s
  let s := (s.dropTraffic (· = c)).dropGateReqs (·.ctx = c)
  let s := { s with
    cores := tmap s.cores fun _ k => { k with overlays := k.overlays.map (Overlay.forget c) }
    qsets := tmap s.qsets fun _ q => q.forget c
    joins := s.joins.filter (·.ctx ≠ c)
    tlb := s.tlb.filter (·.space ≠ some sp)
    ctxs := tdel s.ctxs c }
  tags.foldl (fun s (f, tag) => s.complete f tag 0 0) s.withdraw

/-! ## Slice boundaries (R397, R399, R400) -/

/-- The save area of a context holds an uncorrectable error (R392). -/
def State.badSave (s : State) (p : Nat) (c : CtxId) : Bool :=
  match (s.ctx c).bind (·.saved), s.vf c.vf with
  | some v, some _ => v.image && s.badImage p (s.saveAddr c) (s.saveSize c v) (pagesOf (s.saveSize c v))
  | _, _ => false

/-- A context takes the slice until the next boundary; a save that cannot be read is a fatal fault of the partition (R392). -/
def State.startSlice (s : State) (p : Nat) (c : CtxId) (quanta : Nat) : State :=
  let s := s.updPart p fun x =>
    { x with running := some c, quanta := quanta, lastVf := vfKey c.vf, lastCidx := tset x.lastCidx c.vf c.cidx,
             boundary := x.nextBoundary s.clkw, slicing := .none, progress := s.clkw }
  if s.badSave p c then s.resetPart p else s.resumeCtx c

/-- A pause takes effect, and its command completes (R397; R355 for a quiesce, whose result is CLKR). -/
def State.pauseNow (s : State) (p : Nat) : State :=
  match s.part p with
  | none => s
  | some x =>
    let s := s.updPart p fun x => { x with paused := true, pausing := false, pauseTag := none }
    match x.pauseTag with
    | some (f, tag) => s.complete f tag 0 (if x.quiesced then x.clkr else 0)
    | none => s

/-- What follows the end of a slice: a pause, which keeps the quanta used of the VF slice, or the next context. -/
def State.afterSlice (s : State) (p : Nat) (used : Nat) : State :=
  match s.part p with
  | none => s
  | some x =>
    if x.pausing then (s.updPart p fun x => { x with quanta := used }).pauseNow p
    else if x.paused then s
    else
      match s.nextCtx p x used with
      | none => s.updPart p fun x => { x with quanta := used, boundary := x.nextBoundary s.clkw }
      | some (c, stay) => s.startSlice p c (if stay then used else 0)

/-- SLICE_BOUNDARY (R399, R400, R456): at the boundary of a quantum the running context goes on when it is the next one, else its
pre-emption begins, which counts from the boundary; a partition without a running context takes one up at a boundary. -/
def execSliceBoundary (p : Nat) (s : State) : Out :=
  match s.part p with
  | none => .next s
  | some x =>
    match x.running, x.slicing with
    | none, _ => .next (if x.paused || s.clkw < x.boundary then s else s.afterSlice p x.quanta)
    | some c, .none =>
      if s.clkw < x.boundary then .next s
      else
        let ending := (s.ctx c).any (·.ending)
        let next := s.nextCtx p x (x.quanta + 1)
        (match next with
         | some (d, stay) =>
           if d = c && !ending && !x.pausing then
             .next (s.updPart p fun x => { x with
               quanta := if stay then x.quanta + 1 else 0, boundary := x.nextBoundary s.clkw })
           else .next ((s.updPart p fun x => { x with slicing := .stopping x.boundary }).settleSlices)
         | none => .next ((s.updPart p fun x => { x with slicing := .stopping x.boundary }).settleSlices))
    | some _, _ => .next s

/-- CONTEXT_SAVE (R384 steps 3 and 4, R456): when guarded tasks have committed, copies stop, and the context is saved, or ends; then the next
context runs. -/
def execContextSave (p : Nat) (s : State) : Out :=
  match s.part p with
  | none => .next s
  | some x =>
    match x.running, x.slicing with
    | none, _ | _, .none => .next s
    | some c, _ =>
      if !s.drainedCtx p c then .next s
      else if (s.ctx c).any (·.ending) then
        let s := (s.haltAll p c).endCtx p c
        .next ((s.updPart p fun x => { x with running := none, slicing := .none }).afterSlice p (x.quanta + 1))
      else
        let s := (s.haltAll p c).saveCtx p c
        .next ((s.updPart p fun x => { x with running := none, slicing := .none }).afterSlice p (x.quanta + 1))

/-- A reply for a launch entry of a saved context: refused, the entry leaves and its threads are told (R203, R455). -/
def SavedCtx.answerLaunch (tag : Nat) (refuse : Bool) (v : SavedCtx) : SavedCtx :=
  let hit := fun l : Launch => l.waits.contains tag
  let lost := if refuse then v.cores.flatMap fun (_, k) => (k.launch.take 1).filter hit else []
  let thread := fun (i : ThreadId) (t : Thread) => lost.foldl (fun t e => if e.owners.contains i then e.refuse t else t) t
  let team := fun t : SavedTeam => { t with threads := t.threads.map fun (l, th) => (l, thread ⟨t.id, l⟩ th) }
  let core := fun (_ : CoreId) (k : Core) =>
    { k with launch := if refuse then k.launch.filter fun l => !hit l else k.launch.map fun l => if hit l then { l with waits := [], elem := false } else l }
  { v with teams := v.teams.map team, cores := tmap v.cores core }

/-- A page reply that arrives while a context is not running is recorded in its save (R409). -/
def State.answerSaved (s : State) (tag : Nat) (refuse : Bool) : State :=
  let mat := fun m : MatCmd =>
    if m.waits.contains tag then { m with waits := [], state := if refuse then AccState.refused else m.state } else m
  let core := fun (_ : CoreId) (k : Core) => { k with copies := k.copies.map (Copy.answer tag refuse), mq := k.mq.map mat }
  let team := fun t : SavedTeam => { t with elems := answerElems tag refuse t.elems }
  let save := fun v : SavedCtx => ({ v with teams := v.teams.map team, cores := tmap v.cores core } : SavedCtx).answerLaunch tag refuse
  let ctx := fun (_ : CtxId) (x : Ctx) => { x with saved := x.saved.map save }
  { s with ctxs := tmap s.ctxs ctx }

end Sys2Proof.Machine
end

