-- ==== Sys2Proof/Machine/Host.lean ====
section
/-! DEFINITION. The host's registers and rings, and the frame of a host command (18_host R414 to R420, R429, R430). -/
namespace Sys2Proof.Machine

/-! ## BAR 0 (R429, Table 6) -/

/-- A legal ring size register value: 0 disables (R429). -/
def ringSizeOk (v : Nat) : Bool := v = 0 || (6 ≤ v && v ≤ 16)

/-- A free-running index moved on to the next value that a register value names. -/
def advanceTo (i size v : Nat) : Nat := i + (v % 2 ^ size + 2 ^ size - i % 2 ^ size) % 2 ^ size

/-- CRDOOR (R414, R415): the records up to the new tail become visible; a tail that adds none rings no bell. -/
def execCrdoor (fn : FnId) (v : Nat) (s : State) : Out :=
  let f := s.fn fn
  if f.crSize = 0 then .next s
  else
    let tail := advanceTo f.crTail f.crSize v
    if tail = f.crTail || tail - f.crHead > 2 ^ f.crSize then .next s
    else
      let (s, n) := s.fresh
      .next (s.updFn fn fun f => { f with crTail := tail, bells := f.bells ++ [(n, tail)] })

/-- A command taken from the function's ring that has not completed (R415). -/
def State.commandOpen (s : State) (f : FnId) : Bool :=
  (s.fn f).pending.isSome || (s.ctxs.any fun (_, x) => x.endTags.any fun t => t.1 = f) ||
    s.parts.any fun (_, p) => p.pauseTag.any fun t => t.1 = f

/-- CRSIZE (R429): enabling starts the ring empty, also where a 0 still waits; a 0 disables it once the command taken from it has completed;
a size that is no size is ignored. -/
def execCrsize (fn : FnId) (v : Nat) (s : State) : Out :=
  if !ringSizeOk v then .next s
  else if v = 0 && s.commandOpen fn then .next (s.updFn fn fun f => { f with crOff := true })
  else .next (s.updFn fn fun f =>
    if v = 0 || f.crSize = 0 || f.crOff then { f.ringOff with crSize := v } else { f with crSize := v })

/-- Held records that enter at most: those that wait and the overflow record. -/
def flushFuel : Nat := Config.heldRecords + 1

/-- ERSIZE (R419, R429): an enabled ring takes the records held for it. -/
def execErsize (fn : FnId) (v : Nat) (s : State) : Out :=
  if !ringSizeOk v then .next s
  else
    let s := s.updFn fn fun f =>
      if v = 0 || f.erSize = 0 then { f with erSize := v, erHead := 0, erTail := 0 } else { f with erSize := v }
    .next (s.flushEvents fn flushFuel)

/-- ERHEAD (R419, R429): the host consumes records and frees their entries. -/
def execErhead (fn : FnId) (v : Nat) (s : State) : Out :=
  let f := s.fn fn
  let head := advanceTo f.erHead f.erSize v
  if f.erSize = 0 || f.erTail < head then .next s
  else .next ((s.updFn fn fun f => { f with erHead := head }).flushEvents fn flushFuel)

/-- log2 of the page-request ring's entries (R407). -/
def pageRingLog : Nat := 12

/-- PRHEAD (R407, R429). -/
def execPrhead (fn : FnId) (v : Nat) (s : State) : Out :=
  let f := s.fn fn
  let head := advanceTo f.prHead pageRingLog v
  if fn.vf.isNone || f.prTail < head then .next s
  else .next ((s.updFn fn fun f => { f with prHead := head }).flushPages fn f.prWait.length)

/-- BAR0_REGISTER_WRITE (R429): a ring's base, ignored while the ring is enabled; read-only and other offsets are ignored. -/
def execBar0RegisterWrite (fn : FnId) (off v : Nat) (s : State) : Out :=
  let base := v / 4096 * 4096 % 2 ^ 64
  .next (s.updFn fn fun f => match off with
    | 0x000 => if f.crSize = 0 || f.crOff then { f with crBase := base } else f
    | 0x018 => if f.erSize = 0 then { f with erBase := base } else f
    | 0x030 => if fn.vf.isSome then { f with prBase := base } else f
    | _ => f)

/-- A BAR 0 register as the host reads it (R429, Table 6). -/
def State.bar0Read (s : State) (fn : FnId) (off : Nat) : Nat :=
  let f := s.fn fn
  let p := s.pkg fn.pkg
  match off with
  | 0x000 => f.crBase
  | 0x008 => if f.crOff then 0 else f.crSize
  | 0x010 => f.crHead % 2 ^ f.crSize
  | 0x018 => f.erBase
  | 0x020 => f.erSize
  | 0x024 => f.erHead % 2 ^ f.erSize
  | 0x028 => f.erTail % 2 ^ f.erSize
  | 0x030 => if fn.vf.isSome then f.prBase else 0
  | 0x038 => if fn.vf.isSome then f.prHead % 2 ^ pageRingLog else 0
  | 0x03C => if fn.vf.isSome then f.prTail % 2 ^ pageRingLog else 0
  | 0x040 => b2n p.ready + 2 * b2n p.rom
  | _ => 0

/-- EVENT_COALESCE_TIMEOUT (R420): the oldest record without an interrupt has stood TIME µs. -/
def execEventCoalesceTimeout (fn : FnId) (s : State) : Out :=
  let f := s.fn fn
  match f.oldest with
  | none => .next s
  | some t =>
    if f.time ≠ 0 && t + 1000 * f.time ≤ s.clkw then
      .next (s.updFn fn fun f => { f with irqs := f.irqs + 1, fresh := 0, oldest := none })
    else .next s

/-! ## The frame of a command (R415, R416, R430) -/

/-- Status codes (R417, Table 3). -/
def stOk : Nat := 0
def stBadcmd : Nat := 1
def stDenied : Nat := 2
def stBusy : Nat := 3
def stConflict : Nat := 4
def stDescriptor : Nat := 5
def stPlacement : Nat := 6
def stNospace : Nat := 7
def stSignature : Nat := 8
def stDefect : Nat := 9
def stNotfound : Nat := 10

/-- What a command came to: performed with a result, refused with nothing changed, or to be completed later. -/
inductive CmdRes where
  | ok (s : State) (result : Nat)
  | refuse (status : Nat)
  | later (s : State)
  | status (s : State) (status result : Nat)

/-- `len` bytes of a record from offset `off`. -/
def cmdArg (c : Cmd) (off len : Nat) : Nat := fld c.param.toNat (8 * (off - 8)) (8 * len)

/-- PARAM is 0 outside the named bits: (offset of the first byte, width in bits) (R430). -/
def cmdClean (c : Cmd) (used : List (Nat × Nat)) : Bool :=
  c.param.toNat = used.foldl (fun acc (off, w) => acc + fld c.param.toNat (8 * (off - 8)) w * 2 ^ (8 * (off - 8))) 0

/-- Who may issue a command (R416, Table 2). -/
inductive Issuer where
  | pf | vf | both
deriving DecidableEq, Repr

/-- The function has the right. -/
def Issuer.allows (w : Issuer) (f : FnId) : Bool :=
  match w with
  | .pf => f.vf.isNone
  | .vf => f.vf.isSome
  | .both => true

/-- A command taken: the right of its function, its form, its operands, then its effect and its completion record. -/
def runCmd (c : Cmd) (who : Issuer) (sub : Nat) (used : List (Nat × Nat)) (act : State → CmdRes) (s : State) : Out :=
  if !who.allows c.fn then .next (s.complete c.fn c.tag stDenied 0)
  else if c.sub ≠ sub || !cmdClean c used then .next (s.complete c.fn c.tag stBadcmd 0)
  else
    match act s with
    | .ok s r => .next (s.complete c.fn c.tag stOk r)
    | .refuse st => .next (s.complete c.fn c.tag st 0)
    | .later s => .next s
    | .status s st r => .next (s.complete c.fn c.tag st r)

/-- The VF of a VF's function. -/
def fnVf (f : FnId) : VfId := ⟨f.pkg, f.vf.getD 0⟩

/-- n bytes of host memory. -/
def State.hostBytes (s : State) (pkg addr n : Nat) : List Byte := memBytes s.hostMem (hostKey pkg addr) n

end Sys2Proof.Machine
end

