-- ==== Sys2Proof/Machine/Commands.lean ====
section
/-! DEFINITION. The physical function's commands on partitions, VFs, windows, stage 2, gates and migration (18_host R416, R417, R430;
17_partitions R394 to R398, R406, R411; 14_gates R345, R346, R353, R355). -/
namespace Sys2Proof.Machine

/-! ## Units (R426) -/

/-- What a unit path names: a unit of a quad, a copy engine, a slice, a channel, or a shared unit. -/
inductive UnitRef where
  | quad (n : Nat)
  | engine (n : Nat)
  | slice (n : Nat)
  | channel (n : Nat)
  | shared
deriving DecidableEq, Repr

/-- The unit of a path (R426). -/
def unitOf (path : Nat) : Option UnitRef :=
  let die := fld path 14 2
  let quad := fld path 10 4
  let core := fld path 7 3
  let b := fld path 0 7
  if core < 4 then (if b ≤ 6 then some (.quad (16 * die + quad)) else none)
  else if core = 4 then
    (if b = 0 then some (.engine (16 * die + quad)) else if b = 1 then some (.quad (16 * die + quad)) else none)
  else if core = 7 && quad = 0 then
    (if b < 16 then some (.slice (16 * die + b))
     else if b < 80 then some (.channel (64 * die + b - 16))
     else if b < 84 then some .shared else none)
  else if core = 6 && quad = 0 && die = 0 then (if b < 4 || (8 ≤ b && b < 42) then some .shared else none)
  else none

/-- A share names the resource that contains a unit (R425). -/
def Share.names (sh : Share) : UnitRef → Bool
  | .quad n => sh.quads.toNat.testBit n
  | .engine n => sh.engines.toNat.testBit n
  | .slice n => sh.slices.toNat.testBit n
  | .channel n => sh.channels.toNat.testBit n
  | .shared => false

/-! ## PART_SET (R394, R395, R397; Table 8) -/

/-- A share that owns nothing. -/
def Share.bare (sh : Share) : Bool := sh.quads = 0 && sh.slices = 0 && sh.channels = 0 && sh.engines = 0

/-- Two shares of one package own a resource in common (R394). -/
def Share.clash (a b : Share) : Bool :=
  a.quads &&& b.quads ≠ 0 || a.slices &&& b.slices ≠ 0 || a.channels &&& b.channels ≠ 0 || a.engines &&& b.engines ≠ 0

/-- A share with its homing, as a share block gives them. -/
structure ShareBlock where
  share : Share
  homing : Homing
deriving DecidableEq, Repr

/-- A home set: its entries ascend by package row, column and stack, each names a package of the pod and a channel (R236; log entry 92). -/
def State.homeSetOk (s : State) (l : List HomeEnt) : Bool :=
  (l.all fun e => e.mask ≠ 0 && s.hasPkg e.pkg) && (l.zip (l.drop 1)).all fun (a, b) => a.pkg < b.pkg || (a.pkg = b.pkg && a.stack < b.stack)

/-- The share block at a host address; none when it is malformed (Table 8). -/
def State.shareBlock (s : State) (pkg addr : Nat) : Option ShareBlock :=
  let v := bytesToNat (s.hostBytes pkg addr 128)
  let b := byteFld v
  let homes := b 0x44 4
  let setn := b 0x50 4
  let h := fun i => s.hostRead pkg (b 0x48 8 + 8 * i) 8
  let e := fun i => s.hostRead pkg (b 0x58 8 + 8 * i) 8
  let win := b 0x38 2
  let slice := b 0x3C 4
  let ok := b 0x3A 2 = 0 && b 0x54 4 = 0 && b 0x60 32 = 0 && homes ≤ 4096 && 1 ≤ setn && setn ≤ 512 &&
    [0, 512, 1024, 2048, 4096, 8192].contains win && 10 ≤ fld slice 0 16 && 1 ≤ fld slice 16 8 && fld slice 24 8 = 0 &&
    1 ≤ b 0x40 4 && b 0x40 4 ≤ 60000 &&
    ((List.range homes).all fun i => fld (h i) 27 5 = 0 && fld (h i) 41 23 = 0) &&
    (List.range setn).all fun i => fld (e i) 11 21 = 0
  let set := (List.range setn).map fun i => (⟨fld (e i) 0 8, fld (e i) 8 3, BitVec.ofNat 32 (fld (e i) 32 32)⟩ : HomeEnt)
  if !ok || !s.homeSetOk set then none
  else
    let regions := ((List.range homes).filter fun i => (h i).testBit 32).map fun i => (fld (h i) 0 27, fld (h i) 33 8)
    some
      { share :=
          { pkg := pkg, quads := BitVec.ofNat 64 (b 0 8), slices := BitVec.ofNat 64 (b 8 8),
            channels := BitVec.ofNat 256 (b 0x10 32), engines := BitVec.ofNat 64 (b 0x30 8), s2root := 0, window := win,
            slice := BitVec.ofNat 32 slice, wdog := b 0x40 4 }
        homing :=
          { regions := regions
            set := set } }

/-- The home set's entries for a package are those that its channels give (R236, R430). -/
def homesMatch (set : List HomeEnt) (pkg : Nat) (channels : Nat) : Bool :=
  let want := ((List.range 8).filter fun m => fld channels (32 * m) 32 ≠ 0).map fun m =>
    (⟨pkg, m, BitVec.ofNat 32 (fld channels (32 * m) 32)⟩ : HomeEnt)
  set.filter (·.pkg = pkg) = want

/-- A partition when its first share is written (R378, R394). -/
def Part.new (homing : Homing) : Part :=
  { shares := [], homing := homing, oldHoming := none, paused := false, pausing := false, quiesced := false, clkr := 0,
    running := none, boundary := 0, quanta := 0, lastCidx := [], lastVf := 0, slicing := .none, pauseTag := none,
    progress := 0 }

/-- The change needs the partition to be paused (R397): bitmaps, homing or WINDOW of a share it has differ, or the partition has
a running context. -/
def Part.needsPause (p : Part) (b : ShareBlock) : Bool :=
  match p.shares.find? (·.pkg = b.share.pkg) with
  | some o => o.quads ≠ b.share.quads || o.slices ≠ b.share.slices || o.channels ≠ b.share.channels ||
      o.engines ≠ b.share.engines || o.window ≠ b.share.window || p.homing ≠ b.homing
  | none => p.running.isSome || p.homing ≠ b.homing

/-- A legal partition (R395): its shares own a quad, and a channel, of a share that is set or of one that the home set says is still to be
set (R236; log entry 92). -/
def Part.legal (p : Part) : Bool :=
  p.shares.any (·.quads ≠ 0) &&
    (p.shares.any (·.channels ≠ 0) || p.homing.set.any fun e => p.shares.all (·.pkg ≠ e.pkg))

/-- The shares that are set own a quad and a channel: the partition may run (R395). -/
def Part.whole (p : Part) : Bool := p.shares.any (·.quads ≠ 0) && p.shares.any (·.channels ≠ 0)

/-- The partition with a share written. -/
def Part.withShare (p : Part) (b : ShareBlock) : Part :=
  let old := p.shares.find? (·.pkg = b.share.pkg)
  let sh : Share := { b.share with s2root := (old.map (·.s2root)).getD 0 }
  let moved := p.homing ≠ b.homing
  { p with
    shares := sortBy (fun a b => a.pkg ≤ b.pkg) (sh :: p.shares.filter (·.pkg ≠ sh.pkg))
    homing := b.homing
    oldHoming := if moved then some (p.oldHoming.getD p.homing) else p.oldHoming }

/-- The partition that a share block is for: that of its number with a share on the package, else that of its number whose home set has an
entry in common with the block's, else a new one (R23, R395; log entry 22). -/
def State.partFor (s : State) (pkg num : Nat) (b : ShareBlock) : Nat :=
  match s.partOn pkg num with
  | some k => k
  | none =>
    match s.parts.find? fun (k, p) => k % 32 = num && p.homing.set.any b.homing.set.contains with
    | some (k, _) => k
    | none => num + 32 * pkg

/-- A new partition waits for its first slice boundary (R400). -/
def Part.started (p : Part) (now : Nat) : Part := { p with boundary := p.nextBoundary now }

/-- A unit of the package under a self-test that runs (R424). -/
def State.underTest (s : State) (pkg : Nat) (sh : Share) : Bool :=
  s.fns.any fun x => x.1.pkg = pkg && x.2.pending.any fun p => match p.kind with
    | .test paths => paths.any fun u => (unitOf u).any sh.names
    | _ => false

/-- What leaves a partition whose shares have changed: the content of its departed quads, their TLBs among it, and the L2 lines that its
slices no longer cache, which are written back (R394, R396, R397). -/
def State.partLeaves (s : State) (n : Nat) (before : State) : State :=
  let gone := fun c : CoreId => before.ownsCore n c && !s.ownsCore n c
  let units := ((s.cores.map (·.1)).filter gone).map quadUnit
  let s := s.dropAllLines fun c _ => gone c
  let s := { s.heal (Upset.onCore gone) with cores := s.cores.filter fun x => !gone x.1
                                             tlb := s.tlb.filter fun e => !(e.space.isSome && units.contains e.unit) }
  s.l2DropAll fun l => l.part = n && (s.l2Home l.part l.gpa l.key).all (·.unit ≠ l.unit)

/-- PART_SET (R394, R395, R397, R424, R425). -/
def execPartSet (c : Cmd) (s : State) : Out :=
  runCmd c .pf 0 [(0x08, 5), (0x10, 64)] (fun s =>
    let pkg := c.fn.pkg
    match s.shareBlock pkg (cmdArg c 0x10 8) with
    | none => .refuse stBadcmd
    | some b =>
      let n := s.partFor pkg (cmdArg c 0x08 1) b
      let others := s.parts.filter fun (k, _) => k ≠ n
      if others.any fun (_, p) => p.shares.any fun o => o.pkg = pkg && o.clash b.share then .refuse stConflict
      else if s.underTest pkg b.share then .refuse stBusy
      else if (s.pkg pkg).failed.any fun u => (unitOf u).any b.share.names then .refuse stDefect
      else if !homesMatch b.homing.set pkg b.share.channels.toNat then .refuse stConflict
      else
        let p := (s.part n).getD (Part.new b.homing)
        if (s.part n).isSome && !p.paused && p.needsPause b then .refuse stBusy
        else
          let q := p.withShare b
          let q := if (s.part n).isSome then q else q.started s.clkw
          if !q.legal then .refuse stConflict else .ok ({ s with parts := tset s.parts n q }.partLeaves n s) 0) s

/-! ## Pause, resume, reset (R392, R397) -/

/-- Operands of a command that names a partition alone. -/
def partOnly : List (Nat × Nat) := [(0x08, 5)]

/-- A command on the partition of the number that it gives in its first operand, as its package numbers it. -/
def onPart (c : Cmd) (s : State) (act : Nat → Part → CmdRes) : CmdRes :=
  match s.partOn c.fn.pkg (cmdArg c 0x08 1) with
  | none => .refuse stBadcmd
  | some n =>
    match s.part n with
    | none => .refuse stBadcmd
    | some p => act n p

/-- PART_PAUSE (R397): it completes when the partition has paused. -/
def execPartPause (c : Cmd) (s : State) : Out :=
  runCmd c .pf 0 partOnly (fun s => onPart c s fun n p =>
    if p.paused then .ok s 0
    else
      let s := s.updPart n fun p => { p with pausing := true, pauseTag := some (c.fn, c.tag) }
      .later (if p.running.isNone then s.pauseNow n else s)) s

/-- PART_RESUME (R395, R397): refused while a rehoming is due, the partition is quiesced, or its shares own no quad or no channel; the
partition runs from its next slice boundary. -/
def execPartResume (c : Cmd) (s : State) : Out :=
  runCmd c .pf 1 partOnly (fun s => onPart c s fun n p =>
    if p.oldHoming.isSome || p.quiesced then .refuse stBusy
    else if !p.whole then .refuse stConflict
    else .ok (s.updPart n fun p => if p.paused then { p with paused := false, boundary := p.nextBoundary s.clkw } else p) 0) s

/-- PART_RESET (R392). -/
def execPartReset (c : Cmd) (s : State) : Out :=
  runCmd c .pf 0 partOnly (fun s => onPart c s fun n _ => .ok (s.resetPart n) 0) s

/-! ## REHOME (R397) -/

/-- Leaves of a table: first input address, first output address, size (R401). -/
def tableLeaves (rd : Nat → Nat) : List Nat → Nat → Nat → List (Nat × Nat × Nat)
  | [], _, _ => []
  | l :: ls, table, base => (List.range 512).flatMap fun i =>
    let e := rd (table + 8 * i)
    let at_ := base + i * 2 ^ (12 + 9 * l)
    if entryMiss l e then []
    else if e.testBit 1 then [(at_, fld e 12 45 * 4096, 2 ^ (12 + 9 * l))]
    else tableLeaves rd ls (fld e 12 45 * 4096) at_

/-- The table pages of a stage-2 table: host-physical addresses (R401). -/
def tablePages (rd : Nat → Nat) : List Nat → Nat → List Nat
  | [], _ => []
  | l :: ls, table => table :: ((List.range 512).flatMap fun i =>
    let e := rd (table + 8 * i)
    if entryMiss l e || e.testBit 1 then [] else tablePages rd ls (fld e 12 45 * 4096))

/-- An uncorrectable error stands in a stage-2 table of a partition: the package of the share (R412). -/
def State.badTables (s : State) (p : Part) : Option Nat :=
  (p.shares.find? fun sh => (tablePages (fun a => memRead s.mem (memKey sh.pkg a) 8) levels sh.s2root).any fun t =>
    s.poison.any fun k => memKey sh.pkg t ≤ k && k < memKey sh.pkg t + 4096).map (·.pkg)

/-- An uncorrectable error stands in a queue ring or a fence log of a partition (R392). -/
def State.badRings (s : State) (n : Nat) : Bool :=
  s.qsets.any fun (q, x) => q.part = n &&
    (let shards := ((s.part n).map fun p => (p.shares.flatMap fun sh => s.shardDies n sh.pkg).length).getD 0
     let size := shards * 32 * 2 ^ x.ringLog
     s.badImage n x.ring size (pagesOf size) || s.badImage n x.fenceLog 8 1)

/-- Errors in tables, queue rings and fence logs that running partitions use are fatal: each such partition is reset, and an error in a
stage-2 table is counted for its package. The machine finds them as soon as they stand there (R392, R412, R431; log entry 46). -/
def State.fatalErrors (s : State) : State :=
  if s.poison.isEmpty then s
  else s.parts.foldl (fun s (n, p) =>
    if p.running.isNone then s
    else
      match s.badTables p with
      | some pkg => (s.countPkg pkg 11).resetPart n
      | none => if s.badRings n then s.resetPart n else s) s

/-- Host-physical key of a guest-physical address in the stage-2 table of a share. -/
def State.shareKey (s : State) (sh : Share) (gpa : Nat) : Option Nat :=
  match walk (fun a => .ok (memRead s.mem (memKey sh.pkg a) 8)) ⟨1, false, false, 0, 0, none⟩ gpa levels sh.s2root with
  | .ok f => some (memKey sh.pkg (f.frame * 4096 + gpa % 4096))
  | .error _ => none

/-- Lines of a partition with a home under a homing: guest-physical address, and key at that home. -/
def State.homedLines (s : State) (p : Part) (h : Homing) : List (Nat × Nat) :=
  p.shares.flatMap fun sh =>
    (tableLeaves (fun a => memRead s.mem (memKey sh.pkg a) 8) levels sh.s2root 0).flatMap fun (g, o, n) =>
      ((List.range (n / 128)).filter fun k => (h.homeOf (g + 128 * k)).any (·.1.pkg = sh.pkg)).map fun k =>
        (g + 128 * k, memKey sh.pkg (o + 128 * k))

/-- Moves of a rehoming: the old and the new key of each line whose home changes; none when a new home does not map a line. -/
def State.rehomeMoves (s : State) (p : Part) (new : Homing) : List (Nat × Nat) → Option (List (Nat × Nat))
  | [] => some []
  | (g, k) :: rest =>
    match new.homeOf g with
    | none => none
    | some (e, _) =>
      match (p.shares.find? (·.pkg = e.pkg)).bind fun sh => s.shareKey sh g with
      | none => none
      | some k' => (s.rehomeMoves p new rest).map fun l => (k, k') :: l

/-- Lines moved, all of them read before any is written. -/
def State.moveLines (s : State) (l : List (Nat × Nat)) : State :=
  let vals := l.map fun (k, k') => (k', memBytes s.mem k 128)
  { s with mem := vals.foldl (fun m (k, bs) => memPut m k bs) s.mem }

/-- REHOME (R397). -/
def execRehome (c : Cmd) (s : State) : Out :=
  runCmd c .pf 0 partOnly (fun s => onPart c s fun n p =>
    if !p.paused then .refuse stBusy
    else
      match p.oldHoming with
      | none => .ok s 0
      | some old =>
        let lines := (s.homedLines p old).filter fun (g, _) => old.homeOf g ≠ p.homing.homeOf g
        match s.rehomeMoves p p.homing lines with
        | none => .refuse stConflict
        | some l =>
          let s := (s.moveLines l).updPart n fun p => { p with oldHoming := none }
          .ok { s with s2tlb := s.s2tlb.filter (·.part ≠ n) } l.length) s

/-! ## VFs (R398) -/

/-- VF_BIND (R398). -/
def execVfBind (c : Cmd) (s : State) : Out :=
  runCmd c .pf 0 [(0x08, 10), (0x0A, 5), (0x0C, 32), (0x10, 64), (0x18, 64), (0x20, 64), (0x28, 64)] (fun s =>
    let v : VfId := ⟨c.fn.pkg, cmdArg c 0x08 2⟩
    match s.partOn c.fn.pkg (cmdArg c 0x0A 1) with
    | none => .refuse stBadcmd
    | some n =>
      if (s.vf v).isSome then .refuse stConflict
      else
      let f : Vf :=
        { part := n, quota := cmdArg c 0x0C 4, out := 0, snapArea := cmdArg c 0x10 8, frameArea := cmdArg c 0x18 8,
          saveArea := cmdArg c 0x20 8, snapSlot := cmdArg c 0x28 2, frameSlot := cmdArg c 0x2A 2, saveSize := cmdArg c 0x2C 4,
          errs := List.replicate 12 0 }
      .ok { s with vfs := tset s.vfs v f } 0) s

/-- VF_UNBIND (R398): refused while the VF has a started context. -/
def execVfUnbind (c : Cmd) (s : State) : Out :=
  runCmd c .pf 1 [(0x08, 10)] (fun s =>
    let v : VfId := ⟨c.fn.pkg, cmdArg c 0x08 2⟩
    if (s.vf v).isNone then .refuse stNotfound
    else if s.ctxs.any fun (x, k) => x.vf = v && k.started then .refuse stBusy
    else .ok { s with vfs := tdel s.vfs v, ctxs := s.ctxs.filter fun (x, _) => x.vf ≠ v } 0) s

/-! ## Windows and stage 2 (R401, R406, R411) -/

/-- GRANT (R411). -/
def execGrant (c : Cmd) (s : State) : Out :=
  runCmd c .pf 0 [(0x08, 5), (0x09, 5), (0x0A, 1), (0x10, 64), (0x18, 64)] (fun s =>
    match s.partOn c.fn.pkg (cmdArg c 0x08 1), s.partOn c.fn.pkg (cmdArg c 0x09 1) with
    | some giver, some taker =>
      let g : Grant := ⟨giver, taker, cmdArg c 0x0A 1 = 1, cmdArg c 0x10 8, cmdArg c 0x18 8⟩
      if g.from_ % 2 ^ 30 ≠ 0 || g.into % 2 ^ 30 ≠ 0 then .refuse stBadcmd
      else if s.grants.any fun o => o.taker = g.taker && o.into = g.into && (o.giver ≠ g.giver || o.from_ ≠ g.from_) then
        .refuse stConflict
      else .ok { s with grants := g :: s.grants.filter fun o => !(o.taker = g.taker && o.into = g.into) } 0
    | _, _ => .refuse stBadcmd) s

/-- A range of addresses, the whole space when its length is 0, holds one. -/
def inRange (start len a : Nat) : Bool := len = 0 || (start ≤ a && a < start + len)

/-- Stage-2 translations of a partition's range forgotten, and every line reached through them, by its contexts or through a window,
dropped from the L1s (R406). -/
def State.s2Forget (s : State) (part start len : Nat) : State :=
  let line := fun (_ : CoreId) (l : L1Line) =>
    let r := s.reach l.part l.gpa
    r.part = part && inRange start len (r.gpa / 4096 * 4096)
  { s.dropAllLines line with s2tlb := s.s2tlb.filter fun e => !(e.part = part && inRange start len (e.page * 4096)) }

/-- Accesses of some contexts that are on their way to a home with the address that an entry gave them (R406). -/
def State.onTheWay (s : State) (p : CtxId → Bool) : List Nat := (s.accs.filter fun a => a.state = .sent && p a.ctx).map (·.seq)

/-- An invalidation completes once the accesses that used the old entries have been performed (R406). -/
def invalDone (c : Cmd) (parts : List Nat) (s : State) (way : List Nat) : CmdRes :=
  if way.isEmpty then .ok s 0 else .later (s.updFn c.fn fun f => { f with pending := some ⟨c, parts, way, false, .inval⟩ })

/-- The contexts whose accesses stage 2 of a partition may serve: its own, and those of partitions with a window into it. -/
def State.usesStage2 (s : State) (part : Nat) (c : CtxId) : Bool :=
  let p := s.partOfCtx c
  p = part || s.grants.any fun g => g.giver = part && g.taker = p

/-- REVOKE (R411): an invalidation of the window. -/
def execRevoke (c : Cmd) (s : State) : Out :=
  runCmd c .pf 1 [(0x08, 5), (0x09, 5), (0x10, 64), (0x18, 64)] (fun s =>
    let giver := s.partOn c.fn.pkg (cmdArg c 0x08 1)
    let taker := s.partOn c.fn.pkg (cmdArg c 0x09 1)
    let into := cmdArg c 0x18 8
    let same := fun o : Grant => giver = some o.giver && taker = some o.taker && o.from_ = cmdArg c 0x10 8 && o.into = into
    match s.grants.find? same with
    | none => .refuse stBadcmd
    | some g =>
      let way := s.onTheWay fun x => s.partOfCtx x = g.taker
      let s := s.dropAllLines fun _ l => l.part = g.taker && inRange into (2 ^ 30) l.gpa
      invalDone c [g.giver, g.taker] { s with grants := s.grants.filter fun o => !same o } way) s

/-- S2_ROOT (R394, R401, R421): the root must lie in the share's own channels. -/
def execS2Root (c : Cmd) (s : State) : Out :=
  runCmd c .pf 0 [(0x08, 5), (0x10, 64)] (fun s => onPart c s fun n _ =>
    let root := cmdArg c 0x10 8
    match s.share n c.fn.pkg with
    | none => .refuse stBadcmd
    | some sh =>
      if root % 4096 ≠ 0 then .refuse stBadcmd
      else if !sh.channels.toNat.testBit (root / Config.channelSpan) then .refuse stConflict
      else
        let set := fun x : Share => if x.pkg = c.fn.pkg then { x with s2root := root } else x
        .ok (s.updPart n fun p => { p with shares := p.shares.map set }) 0) s

/-- S2_INVAL (R406). -/
def execS2Inval (c : Cmd) (s : State) : Out :=
  runCmd c .pf 1 [(0x08, 5), (0x10, 64), (0x18, 64)] (fun s => onPart c s fun n _ =>
    if cmdArg c 0x10 8 % 4096 ≠ 0 || cmdArg c 0x18 8 % 4096 ≠ 0 then .refuse stBadcmd
    else invalDone c [n] (s.s2Forget n (cmdArg c 0x10 8) (cmdArg c 0x18 8)) (s.onTheWay (s.usesStage2 n))) s

/-! ## Gates (R345, R346, R353) -/

/-- A caller identity word of a gate image: VF in [9:0], package in [17:10]. -/
def identity (v : Nat) : VfId := ⟨fld v 10 8, fld v 0 10⟩

/-- An ACL entry with its bucket as a gate image gives them, full. -/
def aclEntry (v i now : Nat) : AclEnt :=
  let a := byteFld v (0x20 + 4 * i) 4
  let b := byteFld v (0x60 + 8 * i) 8
  { valid := a.testBit 31, vf := identity a, signal := a.testBit 18, wait := a.testBit 19, add := a.testBit 20,
    tokens := fld b 16 16, cap := fld b 16 16, period := fld b 32 20, refused := 0,
    filled := if fld b 32 20 = 0 then 0 else now / fld b 32 20 }

/-- The 16 entries of a gate image. -/
def aclOf (v now : Nat) : List AclEnt := (List.range 16).map fun i => aclEntry v i now

/-- The zero fields of a gate image that the command reads are 0. -/
def gateImageOk (v : Nat) : Bool :=
  fld (byteFld v 0x0C 4) 18 14 = 0 &&
    (List.range 16).all fun i => fld (byteFld v (0x20 + 4 * i) 4) 21 10 = 0 && fld (byteFld v (0x60 + 8 * i) 8) 52 12 = 0

/-- An entry that a configure rewrites (R346). -/
def aclMerge (old new : AclEnt) : AclEnt :=
  if old.valid && new.valid && old.vf = new.vf then
    { new with tokens := min old.tokens new.cap, refused := old.refused, filled := new.filled }
  else new

/-- The caller identity or a right of an entry changes (R353). -/
def aclChanged (old new : AclEnt) : Bool :=
  old.valid && (!new.valid || old.vf ≠ new.vf || old.signal ≠ new.signal || old.wait ≠ new.wait || old.add ≠ new.add)

/-- A gate command on a gate that must be valid, with its image. -/
def gateCmd (c : Cmd) (sub : Nat) (image : Bool) (act : Nat → Gate → Nat → State → State) (s : State) : Out :=
  runCmd c .pf sub ([(0x08, 16)] ++ if image then [(0x10, 64)] else []) (fun s =>
    let n := cmdArg c 0x08 2
    let v := if image then bytesToNat (s.hostBytes c.fn.pkg (cmdArg c 0x10 8) 256) else 0
    match (s.gate n).filter (·.valid) with
    | none => .refuse stNotfound
    | some g => if image && !gateImageOk v then .refuse stBadcmd else .ok (act n g v s) 0) s

/-- GATE_CREATE (R345, R417). -/
def execGateCreate (c : Cmd) (s : State) : Out :=
  runCmd c .pf 0 [(0x08, 16), (0x0C, 8), (0x10, 64)] (fun s =>
    let n := cmdArg c 0x08 2
    let v := bytesToNat (s.hostBytes c.fn.pkg (cmdArg c 0x10 8) 256)
    if (s.gate n).any (·.valid) then .refuse stConflict
    else if !gateImageOk v || !s.hasPkg (cmdArg c 0x0C 1) then .refuse stBadcmd
    else
      let g : Gate :=
        { counter := 0, gen := ((s.gate n).map (·.gen)).getD 0, owner := identity (byteFld v 0x0C 4), valid := true,
          closed := false, waiters := [], acl := aclOf v s.clkw, home := cmdArg c 0x0C 1 }
      .ok { s with gates := tset s.gates n g } 0) s

/-- GATE_CONFIGURE (R346, R353). -/
def execGateConfigure (c : Cmd) (s : State) : Out :=
  gateCmd c 1 true (fun n g v s =>
    let g := g.refilled s.clkw
    let new := aclOf v s.clkw
    let pairs := g.acl.zip new
    let lost := (pairs.filter fun (o, e) => aclChanged o e).map fun (o, _) => o.vf
    let set := fun g : Gate =>
      { g with owner := identity (byteFld v 0x0C 4), acl := pairs.map fun (o, e) => aclMerge o e }
    (s.updGate n set).releaseWaiters n (fun w => lost.contains w.vf) gateClosed) s

/-- GATE_RECYCLE (R346, R353). -/
def execGateRecycle (c : Cmd) (s : State) : Out :=
  gateCmd c 2 true (fun n _ v s =>
    (s.releaseWaiters n (fun _ => true) gateClosed).updGate n fun g =>
      { g with gen := g.gen + 1, closed := false, counter := 0, owner := identity (byteFld v 0x0C 4), acl := aclOf v s.clkw }) s

/-- GATE_DELETE (R353). -/
def execGateDelete (c : Cmd) (s : State) : Out :=
  gateCmd c 3 false (fun n _ _ s =>
    (s.releaseWaiters n (fun _ => true) gateClosed).updGate n fun g => { g with valid := false }) s

/-! ## Migration (R355) -/

/-- MIGRATE_QUIESCE (R355, R378): from now on the partition's gate instructions park and CLKR stands still; it completes when
the partition has paused, with CLKR. -/
def execMigrateQuiesce (c : Cmd) (s : State) : Out :=
  runCmd c .pf 0 partOnly (fun s => onPart c s fun n p =>
    if p.paused then .ok (s.updPart n fun p => { p with quiesced := true }) p.clkr
    else
      let s := s.updPart n fun p => { p with quiesced := true, pausing := true, pauseTag := some (c.fn, c.tag) }
      .later (if p.running.isNone then s.pauseNow n else s)) s

/-- An identity map as its entries give it (R430). -/
def State.identityMap (s : State) (pkg addr n : Nat) : List (VfId × VfId) :=
  (List.range n).map fun i =>
    let e := s.hostRead pkg (addr + 8 * i) 8
    (identity (fld e 0 32), identity (fld e 32 32))

/-- An identity rewritten by a map. -/
def mapIdentity (m : List (VfId × VfId)) (v : VfId) : VfId := ((m.find? (·.1 = v)).map (·.2)).getD v

/-- A gate whose migrating identities are rewritten (R355). -/
def Gate.migrate (m : List (VfId × VfId)) (g : Gate) : Gate :=
  { g with owner := mapIdentity m g.owner, acl := g.acl.map (fun e => { e with vf := mapIdentity m e.vf }),
           waiters := g.waiters.map fun w => { w with vf := mapIdentity m w.vf } }

/-- A context's identity rewritten. -/
def CtxId.migrate (m : List (VfId × VfId)) (c : CtxId) : CtxId := { c with vf := mapIdentity m c.vf }

/-- The work of a core under the new identities, with its overlays and token map, whose tags carry them (R360). -/
def Core.migrate (m : List (VfId × VfId)) (k : Core) : Core :=
  let copy := fun x : Copy => { x with cmd := { x.cmd with ctx := x.cmd.ctx.migrate m } }
  let overlay := fun o : Overlay => { o with vf := mapIdentity m o.vf, counts := o.counts.map fun (c, n) => (c.migrate m, n) }
  { k with
    copies := k.copies.map copy, mq := k.mq.map fun x => { x with ctx := x.ctx.migrate m }
    launch := k.launch.map fun x => { x with ctx := x.ctx.migrate m }, overlays := k.overlays.map overlay
    tokmap := k.tokmap.map fun e => { e with vf := mapIdentity m e.vf }, l1 := k.l1.map fun l => { l with vf := mapIdentity m l.vf } }

/-- A saved team under the new identities. -/
def SavedTeam.migrate (m : List (VfId × VfId)) (v : SavedTeam) : SavedTeam :=
  let acc := fun a : Access => { a with ctx := a.ctx.migrate m }
  { v with elems := v.elems.map acc, team := { v.team with held := v.team.held.map acc } }

/-- A context under its new identity: its save, fault frames and snapshots. -/
def Ctx.migrate (m : List (VfId × VfId)) (x : Ctx) : Ctx :=
  let save := fun v : SavedCtx => { v with
    teams := v.teams.map (SavedTeam.migrate m), blocks := tmap v.blocks fun _ b => { b with ctx := b.ctx.migrate m }
    cores := tmap v.cores fun _ k => k.migrate m }
  { x with saved := x.saved.map save, susp := x.susp.map fun p => { p with saved := p.saved.migrate m },
           snaps := x.snaps.map fun n => { n with saved := n.saved.migrate m } }

/-- A queue set under the new identities. -/
def QSet.migrate (m : List (VfId × VfId)) (q : QSet) : QSet :=
  { q with vf := mapIdentity m q.vf, conts := q.conts.map fun x => { x with ctx := x.ctx.migrate m }
           waiting := q.waiting.map fun x => { x with ctx := x.ctx.migrate m } }

/-- A page request under the new identities. -/
def PageReq.migrate (m : List (VfId × VfId)) (r : PageReq) : PageReq := { r with vf := mapIdentity m r.vf, ctx := r.ctx.migrate m }

/-- The migrating identities rewritten wherever the pod holds them: VFs, contexts and their work, gates, held replies and registered
waiters, which follow their threads (R355; log entry 93). -/
def State.migrate (s : State) (m : List (VfId × VfId)) : State :=
  let last := fun p : Part => { p with lastCidx := p.lastCidx.map fun (v, n) => (mapIdentity m v, n) }
  { s with
    vfs := s.vfs.map fun (v, f) => (mapIdentity m v, f)
    ctxs := s.ctxs.map fun (c, x) => (c.migrate m, x.migrate m)
    cores := tmap s.cores fun _ k => k.migrate m
    gates := tmap s.gates fun _ g => g.migrate m
    gateReqs := s.gateReqs.map fun r => { r with caller := mapIdentity m r.caller, ctx := r.ctx.migrate m }
    qsets := tmap s.qsets fun _ q => q.migrate m
    joins := s.joins.map fun j => { j with ctx := j.ctx.migrate m }
    fills := s.fills.map fun f => { f with ctx := f.ctx.migrate m }
    pages := s.pages.map (PageReq.migrate m)
    fns := tmap s.fns fun _ f => { f with prWait := f.prWait.map (PageReq.migrate m) }
    tlb := s.tlb.map fun e => { e with space := e.space.map fun (v, n) => (mapIdentity m v, n) }
    parts := tmap s.parts fun _ p => last p }

/-- MIGRATE_START (R355, R378): the identities are rewritten, and the partition runs on from its next slice boundary. A new identity that
another VF has is refused. -/
def execMigrateStart (c : Cmd) (s : State) : Out :=
  runCmd c .pf 1 [(0x08, 5), (0x10, 64), (0x18, 64)] (fun s => onPart c s fun n p =>
    let k := cmdArg c 0x18 8
    let addr := cmdArg c 0x10 8
    let clean := (List.range k).all fun i =>
      let e := s.hostRead c.fn.pkg (addr + 8 * i) 8
      fld e 18 14 = 0 && fld e 50 14 = 0
    if k = 0 || 1024 < k || !clean then .refuse stBadcmd
    else if !p.quiesced || !p.paused then .refuse stBusy
    else
      let m := s.identityMap c.fn.pkg addr k
      if m.any fun e => e.1 ≠ e.2 && (s.vf e.2).isSome && m.all (·.1 ≠ e.2) then .refuse stConflict
      else
        .ok ((s.migrate m).updPart n fun p => { p with quiesced := false, paused := false, boundary := p.nextBoundary s.clkw }) 0) s

/-! ## ERRREAD (R431) -/

/-- ERRREAD: the 32 counters of shared resources written to a host buffer. -/
def execErrread (c : Cmd) (s : State) : Out :=
  runCmd c .pf 0 [(0x10, 64)] (fun s =>
    let p := s.pkg c.fn.pkg
    .ok (s.hostPut c.fn.pkg (cmdArg c 0x10 8) ((List.range 32).flatMap fun i => natToBytes 8 (p.errs.getD i 0))) 0) s

end Sys2Proof.Machine
end

