-- ==== Sys2Proof/Machine/Contexts.lean ====
section
/-! DEFINITION. The commands of a VF: contexts and their start, invalidation, queue sets, host pushes and page replies, and RING_SET
(18_host R416, R417, R420, R430; 03_assembly R71; 08_memory R195, R196; 13_tasks R312, R313, R318, R319; 17_partitions R398,
R406, R409; 16_system R456). -/
namespace Sys2Proof.Machine

/-- The context that a VF's command names by CIDX. -/
def cmdCtx (c : Cmd) : CtxId := ⟨fnVf c.fn, cmdArg c 0x08 1⟩

/-- CTX_CREATE (R398, R152). A context command of the physical function acts for VF 0 of its package (R22; log entry 61). -/
def execCtxCreate (c : Cmd) (s : State) : Out :=
  runCmd c .both 0 [(0x08, 8), (0x0C, 20), (0x10, 64), (0x18, 2)] (fun s =>
    let x := cmdCtx c
    let pasid := cmdArg c 0x0C 4
    if (s.vf x.vf).isNone then .refuse stNotfound
    else if (s.ctx x).isSome then .refuse stBusy
    else if cmdArg c 0x10 8 % 4096 ≠ 0 then .refuse stBadcmd
    else if s.ctxs.any fun (y, k) => y.vf = x.vf && k.pasid = pasid then .refuse stConflict
    else
      let k : Ctx :=
        { pasid := pasid, s1root := cmdArg c 0x10 8, shdctl := BitVec.ofNat 2 (cmdArg c 0x18 1),
          shdnew := BitVec.ofNat 2 (cmdArg c 0x18 1), sup := c.fn.vf.isNone, vdiv := 0, mfail := 0, clamp := 0, started := false, ending := false, endTags := [], prio := 0, saved := none, susp := [],
          snaps := [], resumes := [] }
      .ok { s with ctxs := tset s.ctxs x k } 0) s

/-! ## The start list and its descriptors (R71, R430) -/

/-- An entry of a start list. -/
structure StartEnt where
  desc : Nat
  gang : Nat
  pkg : Nat
  die : Nat
  clean : Bool
deriving DecidableEq, Repr

/-- The entries of a start list. -/
def State.startList (s : State) (pkg addr n : Nat) : List StartEnt :=
  (List.range n).map fun i =>
    let v := bytesToNat (s.hostBytes pkg (addr + 16 * i) 16)
    ⟨byteFld v 0 8, byteFld v 8 1, byteFld v 9 1, byteFld v 10 1, byteFld v 11 5 = 0⟩

/-- Quads of a share on a die, as a mask of 16. -/
def Share.dieQuads (sh : Share) (d : Nat) : Nat := fld sh.quads.toNat (16 * d) 16

/-- The rules of a start list: its package and die hold a share, and gangs have 2 to 4 entries of one package and die. -/
def State.startListOk (s : State) (part : Nat) (l : List StartEnt) : Bool :=
  l.all fun e => e.clean &&
    ((s.share part e.pkg).any fun sh => !sh.bare && (e.die = 0xFF || (e.die < 4 && sh.dieQuads e.die ≠ 0))) &&
    (e.gang = 0 ||
      (let g := l.filter fun f => f.gang = e.gang
       2 ≤ g.length && g.length ≤ 4 && g.all fun f => f.pkg = e.pkg && f.die = e.die))

/-- The limits of R71 and R195 on a descriptor's 128 bytes; the handles must be valid for the VF (R312). -/
def State.descOk (s : State) (v : VfId) (d : Nat) : Bool :=
  let b := byteFld d
  let regs := b 0x10 1
  let teams := b 0x11 1
  let p0 := b 0x14 4
  let p1 := b 0x18 4
  let p2 := b 0x1C 4
  regs % 8 = 0 && 8 ≤ regs && regs ≤ 120 && 1 ≤ teams && teams ≤ 32 && b 0x12 2 = 0 && b 0x60 32 = 0 && p0 % 4096 = 0 &&
    p1 % 4096 = 0 && p2 % 4096 = 0 && 0 < p0 && p0 ≤ p1 && p1 + 0x10000 ≤ p2 && p2 ≤ 0x17C000 &&
    teams * 32 * regs * 4 ≤ p0 && ((List.range 32).all fun t => t < teams || b (0x40 + t) 1 = 0) &&
    (List.range 4).all fun w => b (0x20 + 8 * w) 8 = 0 || s.handleValid v (b (0x20 + 8 * w) 8)

/-- What a check that reads guest memory came to. -/
inductive Looked (α : Type) where
  | got (v : α)
  | bad
  | miss (m : Miss)

/-- An entry reference resolves: its image passes R69, BODYCRC too, and has the entry (R70, R71); one with an uncorrectable error counts as
faulty (log entry 103). -/
def State.erefOk (s : State) (x : CtxId) (e : Nat) : Looked Unit :=
  if !canonical (erefImage e) 1 then .bad
  else
    match s.readHeader (viewOf x) (erefImage e) with
    | .error m => .miss m
    | .ok v =>
      match headerOf v with
      | none => .bad
      | some h =>
        match s.readVa (viewOf x) (erefImage e + 0x400) (4 * h.len) with
        | .error m => .miss m
        | .ok bs =>
          if crc32 bs = h.crc && erefEntry e < h.entries.length && (s.badLines (viewOf x) (erefImage e) ((0x400 + 4 * h.len + 127) / 128)).isNone
          then .got () else .bad

/-- A descriptor read and checked. -/
def State.lookDesc (s : State) (x : CtxId) (va : Nat) : Looked Nat :=
  if va % 128 ≠ 0 || !canonical va 128 then .bad
  else
    match s.translate (viewOf x) va false with
    | .error m => .miss m
    | .ok p =>
      let d := memRead s.mem p.key 128
      if !s.descOk x.vf d then .bad
      else
        match s.erefOk x (byteFld d 0 8) with
        | .bad => .bad
        | .miss m => .miss m
        | .got () =>
          if byteFld d 8 8 = 0 then .got d
          else
            match s.erefOk x (byteFld d 8 8) with
            | .bad => .bad
            | .miss m => .miss m
            | .got () => .got d

/-- Every descriptor of a start list. -/
def State.lookAll (s : State) (x : CtxId) : List StartEnt → Looked (List (StartEnt × Nat))
  | [] => .got []
  | e :: es =>
    match s.lookDesc x e.desc with
    | .bad => .bad
    | .miss m => .miss m
    | .got d =>
      match s.lookAll x es with
      | .bad => .bad
      | .miss m => .miss m
      | .got l => .got ((e, d) :: l)

/-! ## Placement (R196, R312, R313) -/

/-- A block placed: its core, slot and team slots, with its descriptor. -/
structure Placed where
  id : BlockId
  slots : List Nat
  desc : Nat
  va : Nat
  gang : Nat
  gpos : Nat
deriving DecidableEq, Repr

/-- Register bytes of a descriptor's teams. -/
def descBytes (d : Nat) : Nat := byteFld d 0x11 1 * 32 * byteFld d 0x10 1 * 4

/-- The lowest free team slots of a core for the teams of a block: team t in picker quarter t mod 4 (R312). -/
def freeSlotsFor (used : List Nat) : List Nat → Option (List Nat)
  | [] => some []
  | t :: ts =>
    match (List.range 64).find? fun k => k % 4 = t % 4 && !used.contains k with
    | none => none
    | some k => (freeSlotsFor (k :: used) ts).map fun l => k :: l

/-- A block goes on a core when R196 allows: equal boundaries, room for its registers, a block slot and team slots. -/
def placeOn (done : List Placed) (c : CoreId) (d va gang gpos : Nat) : Option Placed :=
  let here := done.filter fun p => p.id.core = c
  let same := here.all fun p => fld p.desc (8 * 0x14) 96 = fld d (8 * 0x14) 96
  let used := (here.map fun p => descBytes p.desc).foldl (· + ·) 0
  if !same || byteFld d 0x14 4 < used + descBytes d then none
  else
    match (List.range 16).find? fun k => here.all fun p => p.id.slot ≠ k with
    | none => none
    | some slot =>
      (freeSlotsFor (here.flatMap (·.slots)) (List.range (byteFld d 0x11 1))).map fun l => ⟨⟨c, slot⟩, l, d, va, gang, gpos⟩

/-- Cores of a share in a list of dies, ascending. -/
def Share.coresOn (sh : Share) (dies : List Nat) : List CoreId :=
  dies.flatMap fun d => ((List.range 16).filter fun q => sh.quads.toNat.testBit (16 * d + q)).flatMap fun q =>
    (List.range 4).map fun k => ⟨sh.pkg, 64 * d + 4 * q + k⟩

/-- The dies that an entry's block may go on. -/
def startDies (e : StartEnt) : List Nat := if e.die = 0xFF then [0, 1, 2, 3] else [e.die]

/-- The members of a gang on the fitting cores of one quad, ascending, in order of position (R313). -/
def placeGang (done : List Placed) : List CoreId → List (StartEnt × Nat) → Nat → Option (List Placed)
  | _, [], _ => some []
  | [], _ :: _, _ => none
  | c :: cs, (e, d) :: rest, m =>
    match placeOn done c d e.desc e.gang m with
    | some p => (placeGang done cs rest (m + 1)).map fun l => p :: l
    | none => placeGang done cs ((e, d) :: rest) m

/-- Blocks and gangs placed in start-list order; none when one cannot be placed (R312, R313). -/
def State.placeAll (s : State) (part : Nat) (all : List (StartEnt × Nat)) : List (StartEnt × Nat) → List Placed →
    Option (List Placed)
  | [], done => some done
  | (e, d) :: rest, done =>
    match s.share part e.pkg with
    | none => none
    | some sh =>
      let cores := sh.coresOn (startDies e)
      if e.gang = 0 then
        match cores.findSome? fun c => placeOn done c d e.desc 0 0 with
        | none => none
        | some p => s.placeAll part all rest (done ++ [p])
      else if done.any (·.gang = e.gang) then s.placeAll part all rest done
      else
        let members := all.filter fun (f, _) => f.gang = e.gang
        let quads := (cores.map coreQuad).eraseDups
        match quads.findSome? fun q => placeGang done (cores.filter fun c => coreQuad c = q) members 0 with
        | none => none
        | some l => s.placeAll part all rest (done ++ l)

/-- Elements that a fault frame holds at most: the accesses that LDN and STN count in 32 threads, and the team's commands (R49, R301, R386). -/
def maxElems : Nat := 32 * (63 + 63) + 64

/-- Size that a fault frame has at most (R386; log entry 88). -/
def frameNeed (regs : Nat) : Nat := faultFrameSize regs maxElems

/-- Size that a snapshot has at most: every line of the scratchpad and every tile written (R389; log entry 88). -/
def snapNeed (sp regs : Nat) : Nat := recordSize regs + 136 * (sp / 128) + 1032 * 256

/-- Scratchpad bytes of a placed block's core. -/
def Placed.spsz (p : Placed) : Nat := byteFld p.desc 0x18 4 - byteFld p.desc 0x14 4

/-- Size of the save area that placed blocks need at most: on each core 64 copies, and for each team 64 commands and a fault frame (R268, R301,
R384, R385, Table 7; log entry 88). -/
def saveNeed (l : List Placed) : Nat :=
  let cores := (l.map (·.id.core)).eraseDups
  64 + (cores.map fun c =>
    let here := l.filter (·.id.core = c)
    let sp := (here.head?.map Placed.spsz).getD 0
    let units := 1 + b2n (c.core % 4 = 0) + b2n (c.core % 64 = 0) + b2n (c.core = 0)
    128 + 1040 + 128 * 64 + 256 + 262144 + 256 * (here.length + units) + sp + sp / 1024 +
      (here.map fun p => byteFld p.desc 0x11 1 * (320 * 64 + frameNeed (byteFld p.desc 0x10 1))).foldl (· + ·) 0).foldl (· + ·) 0

/-- Team records, snapshots and the save area fit the slots of the VF (R430). -/
def Vf.fits (v : Vf) (l : List Placed) : Bool :=
  saveNeed l ≤ 4096 * v.saveSize && l.all fun p =>
    snapNeed p.spsz (byteFld p.desc 0x10 1) ≤ 4096 * v.snapSlot && frameNeed (byteFld p.desc 0x10 1) ≤ 4096 * v.frameSlot

/-! ## The start (R312) -/

/-- The block of a placed descriptor. -/
def Placed.block (p : Placed) (x : CtxId) : Block :=
  let b := byteFld p.desc
  { ctx := x, descVa := p.va, entry := BitVec.ofNat 64 (b 0 8), handler := BitVec.ofNat 64 (b 8 8), nregs := b 0x10 1,
    teams := b 0x11 1, windows := (List.range 4).map fun w => BitVec.ofNat 64 (b (0x20 + 8 * w) 8), budget := 0,
    gang := p.gang, gpos := p.gpos, lost := false }

/-- The teams of a placed block, their threads on the way to ENTRY. -/
def Placed.team (p : Placed) (t slot : Nat) : SavedTeam :=
  let tm : Team :=
    { block := p.id, tnum := t, role := BitVec.ofNat 8 (byteFld p.desc (0x40 + t) 1), frame := 0, targ := 0, task := none,
      unchk := 0, mnv := false, mof := false, msat := false, held := [], wlines := [], wtiles := [], snap := none,
      stop := .running, commitDue := false, irrevocable := false }
  let th := { startThread (byteFld p.desc 0x10 1) with park := .fill 0 (erefImage (byteFld p.desc 0 8)) (.entry (erefEntry (byteFld p.desc 0 8))) }
  ⟨⟨p.id.core, slot⟩, tm, (List.range 32).map fun l => (l, th), []⟩

/-- A core as its first block sets it (R197, R263, R282). -/
def Placed.core (p : Placed) : Core :=
  let b := byteFld p.desc
  { Core.reset with poolb0 := w32 (b 0x14 4), poolb1 := w32 (b 0x18 4), poolb2 := w32 (b 0x1C 4) }

/-- The state in which a placed context waits for its first slice. -/
def startSave (x : CtxId) (l : List Placed) : SavedCtx :=
  { image := false
    teams := l.flatMap fun p => p.slots.zipIdx.map fun (k, t) => p.team t k
    blocks := l.map fun p => (p.id, p.block x)
    cores := (l.map fun p => (p.id.core, p.core)).foldl (fun t (c, k) => tset t c k) []
    bars := [] }

/-- The function of a command no longer waits on page replies. -/
def State.unpend (s : State) (f : FnId) : State := s.updFn f fun f => { f with pending := none }

/-- The function already waits on page replies for this command, and one was refused. -/
def State.wasRefused (s : State) (c : Cmd) : Bool := (s.fn c.fn).pending.any fun p => p.cmd = c && p.refused

/-- A context with its blocks placed starts, as a supervisor context when the physical function starts it (R22). -/
def State.startCtx (s : State) (x : CtxId) (sup : Bool) (prio : Nat) (l : List Placed) : State :=
  s.updCtx x fun k => { k with
    started := true, sup := sup, prio := prio, shdctl := k.shdnew, vdiv := 0, mfail := 0, clamp := 0, saved := some (startSave x l), susp := [], snaps := [],
    resumes := [] }

/-- CTX_START (R71, R312, R313, R395, R417): a descriptor, header or table that does not translate waits for its page reply. Its page request
names the hoist as requester and core 0 of the function's package as its place: the model's choice, for R407 lists no requester for a
start (log entry 94). -/
def execCtxStart (c : Cmd) (s : State) : Out :=
  let refused := s.wasRefused c
  runCmd c .both 0 [(0x08, 8), (0x09, 2), (0x10, 64), (0x18, 64)] (fun s =>
    let x := cmdCtx c
    let n := cmdArg c 0x18 8
    match s.ctx x, s.vf x.vf with
    | some k, some v =>
      let part := v.part
      let l := s.startList c.fn.pkg (cmdArg c 0x10 8) n
      if k.started then .refuse stBusy
      else if !(s.part part).any Part.whole then .refuse stConflict
      else if n = 0 || 1024 < n || !s.startListOk part l then .refuse stBadcmd
      else if refused then .refuse stDescriptor
      else
        (match s.lookAll x l with
         | .bad => .refuse stDescriptor
         | .miss m =>
           let (s, tag) := s.pageRequest x ⟨c.fn.pkg, 0⟩ 3 m
           .later (s.updFn c.fn fun f => { f with pending := some ⟨c, [], [tag], false, .start⟩ })
         | .got es =>
           match s.placeAll part es es [] with
           | none => .refuse stPlacement
           | some ps => if v.fits ps then .ok (s.startCtx x c.fn.vf.isNone (cmdArg c 0x09 1) ps) 0 else .refuse stNospace)
    | _, _ => .refuse stNotfound) (s.unpend c.fn)

/-- CTX_END (R456): a context that does not run ends at once, a running one at its slice boundary. -/
def execCtxEnd (c : Cmd) (s : State) : Out :=
  runCmd c .both 0 [(0x08, 8)] (fun s =>
    let x := cmdCtx c
    if (s.ctx x).isNone then .refuse stNotfound
    else
      let s := s.updCtx x fun k => { k with ending := true, endTags := k.endTags ++ [(c.fn, c.tag)] }
      .later (if s.ctxRuns x then s else s.endCtx (s.partOfCtx x) x)) s

/-- S1_INVAL (R406): cached translations of the range are forgotten and the L1 lines reached through them dropped; it completes once the
accesses that used them have been performed. -/
def execS1Inval (c : Cmd) (s : State) : Out :=
  runCmd c .both 0 [(0x08, 8), (0x10, 64), (0x18, 64)] (fun s =>
    let x := cmdCtx c
    let start := cmdArg c 0x10 8
    let len := cmdArg c 0x18 8
    if (s.ctx x).isNone then .refuse stNotfound
    else if start % 4096 ≠ 0 || len % 4096 ≠ 0 then .refuse stBadcmd
    else
      let sp := s.space x
      let s := s.dropAllLines fun _ l => l.vf = sp.1 && l.pasid = sp.2 && inRange start len (l.line * 128)
      let gone := fun e : TlbEntry => e.space = some sp && inRange start len (e.page * 4096)
      invalDone c [] { s with tlb := s.tlb.filter fun e => !gone e } (s.onTheWay (· = x))) s

/-! ## Queue sets (R318, R319, R321) -/

/-- QSET_CREATE: the lowest free INDEX of the partition, with a fresh generation (log entry 8). -/
def execQsetCreate (c : Cmd) (s : State) : Out :=
  runCmd c .vf 0 [(0x08, 8), (0x10, 64), (0x18, 64)] (fun s =>
    let v := fnVf c.fn
    let lg := cmdArg c 0x08 1
    if (s.vf v).isNone then .refuse stNotfound
    else if lg < 6 || 16 < lg || cmdArg c 0x10 8 % 4096 ≠ 0 || cmdArg c 0x18 8 % 8 ≠ 0 then .refuse stBadcmd
    else
      let part := s.partOfVf v
      match (List.range 1024).find? fun i => (s.qset ⟨part, i⟩).isNone with
      | none => .refuse stNospace
      | some i =>
        let (s, n) := s.fresh
        let q : QSet :=
          { gen := n % 65536, vf := v, ringLog := lg, ring := cmdArg c 0x10 8, fenceLog := cmdArg c 0x18 8, drops := 0,
            fenceSeq := 0, logged := 0, fences := [], lastFenceNo := 0, logWaits := [], recs := [], slices := [], conts := [],
            waiting := [] }
        .ok { s with qsets := tset s.qsets ⟨part, i⟩ q } (makeHandle part v i 7 q.gen)) s

/-- QSET_DELETE: the set's records are no longer outstanding. -/
def execQsetDelete (c : Cmd) (s : State) : Out :=
  runCmd c .vf 1 [(0x08, 10)] (fun s =>
    let q : QSetId := ⟨s.partOfVf (fnVf c.fn), cmdArg c 0x08 2⟩
    match (s.vf (fnVf c.fn)).bind fun _ => s.qset q with
    | none => .refuse stNotfound
    | some x =>
      if x.vf ≠ fnVf c.fn then .refuse stDenied
      else .ok ({ s with qsets := tdel s.qsets q }.updVf x.vf fun v => { v with out := v.out - x.outstanding }) 0) s

/-- Push status of a host push, with the state after it (R321, R324, R336). -/
def State.hostPush (s : State) (q : QSetId) (d : DieId) (r : Rec) : State × Nat :=
  if 5 ≤ r.kind then (s.countDrop q, accepted)
  else if r.kind = 0 then
    let st := s.pushStatus q d 1 true
    (if st = accepted then s.queueRec q d r none else s, st)
  else
    let n := fld r.arg.toNat 32 32
    let ds := s.shardDies q.part d.pkg
    let st := s.pushStatus q d n false
    let st := if st = accepted && s.slicesFull ds n then ringFull else st
    (if st = accepted && n ≠ 0 then s.queueGrid q ds r n none else s, if n = 0 then accepted else st)

/-- QSUBMIT (R318, R321, R430). -/
def execQsubmit (c : Cmd) (s : State) : Out :=
  runCmd c .vf 0 [(0x08, 64), (0x10, 256), (0x30, 2)] (fun s =>
    let v := fnVf c.fn
    let h := cmdArg c 0x08 8
    let q := s.handleSet v h
    let r := recOf (cmdArg c 0x10 32)
    let d : DieId := ⟨c.fn.pkg, cmdArg c 0x30 1⟩
    if (s.vf v).isNone || (s.qset q).isNone then .refuse stNotfound
    else if (s.handleBad v h rightEnq).isSome then .refuse stDenied
    else if (2 ≤ r.kind && r.kind ≤ 4) || !(s.shardDies q.part d.pkg).contains d then .refuse stBadcmd
    else
      let (s, st) := s.hostPush q d r
      .ok s st) s

/-! ## PAGE_REPLY (R408, R409) -/

/-- A command that waits on page replies learns of one. -/
def State.answerPending (s : State) (tag : Nat) (refuse : Bool) : State :=
  let hear := fun p : Pending =>
    if p.waits.contains tag then { p with waits := p.waits.filter (· ≠ tag), refused := p.refused || refuse } else p
  { s with fns := tmap s.fns fun _ f => { f with pending := f.pending.map hear } }

/-- A reply reaches everything held on its request (R202, R203, R273, R303, R366, R409, R455). -/
def State.pageAnswer (s : State) (tag : Nat) (refuse : Bool) : State :=
  let s := { s with pages := s.pages.filter (·.tag ≠ tag) }
  let s := (s.answerSaved tag refuse).answerCopies tag refuse
  let s := (s.answerMats tag refuse).answerAccs tag refuse
  let s := ((s.answerJoins tag refuse).answerLogs tag refuse).answerLaunches tag refuse
  let s := (s.answerFills tag refuse).answerPending tag refuse
  (s.ctxs.map (·.1)).foldl (fun s x => (if refuse then s.markFrames x tag else s).answerSusp x tag refuse) s

/-- PAGE_REPLY (R408, R409). -/
def execPageReply (c : Cmd) (s : State) : Out :=
  runCmd c .both 0 [(0x08, 32), (0x0C, 16), (0x0E, 10)] (fun s =>
    let st := cmdArg c 0x0C 2
    let named : VfId := ⟨c.fn.pkg, cmdArg c 0x0E 2⟩
    let v := if c.fn.vf.isSome then fnVf c.fn else named
    let stage := if c.fn.vf.isSome then 0 else 1
    if 1 < st || (c.fn.vf.isSome && cmdArg c 0x0E 2 ≠ 0) then .refuse stBadcmd
    else if (s.vf v).isNone then .refuse stNotfound
    else
      match s.pages.find? fun r => r.vf = v && r.tag % 2 ^ 32 = cmdArg c 0x08 4 with
      | none => .ok (s.countPkg c.fn.pkg 14) 0
      | some r => if r.stage ≠ stage then .refuse stDenied else .ok (s.pageAnswer r.tag (st = 1)) 0) s

/-! ## RING_SET (R420) -/

/-- RING_SET: the event ring re-based and tuned; held records enter it. -/
def execRingSet (c : Cmd) (s : State) : Out :=
  runCmd c .both 0 [(0x08, 64), (0x10, 16), (0x12, 16), (0x14, 32), (0x18, 32)] (fun s =>
    let base := cmdArg c 0x08 8
    let lg := cmdArg c 0x10 2
    let count := cmdArg c 0x12 2
    let time := cmdArg c 0x14 4
    if base % 4096 ≠ 0 || lg < 6 || 16 < lg || count = 0 || 256 < count || 65535 < time then .refuse stBadcmd
    else
      let s := s.updFn c.fn fun f => { f with
        erBase := base, erSize := lg, erHead := 0, erTail := 0, count := count, time := time, vector := cmdArg c 0x18 4 }
      .ok (s.flushEvents c.fn flushFuel) 0) s

end Sys2Proof.Machine
end

