-- ==== Sys2Proof/Machine/Control.lean ====
section
/-! DEFINITION. Branches, calls and thread ends (05_control R111 to R118). -/
namespace Sys2Proof.Machine

/-- A branch of one thread: its effect places the PC itself; a guarded-off thread steps past (R111). -/
def LaneDef.jump (i : LaneDef) (e : Env) (t : Thread) : Except Raise Thread :=
  if t.guard i.g i.gn then
    match regCheck t (i.opds i.nums) with
    | some r => .error r
    | none => i.sem e i.nums t
  else .ok (t.step i.words)

/-- A branch instruction: step 1 in every gathered thread, then each thread on its own. -/
def runJump (i : LaneDef) (s : State) : Out :=
  if i.legal then .next (s.overGroup fun id t => i.jump (s.env id) t) else .next s.illegal

/-- A link pair written: return point k words on (R51, R111). -/
def Thread.link (t : Thread) (d k : Nat) : Thread := t.writeReg d 2 (pairOf t.pc.tok.toNat (t.pc.off + k)) 0

/-- Target of a relative branch; none outside the overlay (R52). -/
def relTarget (e : Env) (t : Thread) (lit : W32) : Option Nat :=
  let x := (t.pc.off : Int) + sgn lit.toNat 32
  if x < 0 || (e.len : Int) ≤ x then none else some x.toNat

/-- BRA and CALL (R111); `link` says whether D takes the return point. -/
def braDef (link : Bool) (f : L2I) : LaneDef :=
  { g := f.g, gn := f.gn, ok := f.a = 0 && (link || (wIn f.toL1 [0] && f.d = 0)), words := 2, nums := nums1 f.toL1,
    adv := ⟨0, 0, 0, 0⟩, opds := fun m => if link then [⟨.dst 2, m.d⟩] else [],
    sem := fun e m t =>
      match relTarget e t f.lit with
      | none => .error (trapR 0x06 0 0)
      | some x => .ok ((if link then t.link m.d 2 else t).goto x) }

/-- BRA (R111). -/
def execBra (f : L2I) (s : State) : Out := runJump (braDef false f) s
/-- CALL (R111). -/
def execCall (f : L2I) (s : State) : Out := runJump (braDef true f) s

/-- BRX and CALLX (R113): the target is read before the link is written. -/
def brxDef (link : Bool) (f : L1) : LaneDef :=
  { g := f.g, gn := f.gn, ok := link || (wIn f [0] && f.d = 0), words := 1, nums := nums1 f, adv := ⟨0, 0, 0, 0⟩,
    opds := fun m => ⟨.src 1, m.a⟩ :: if link then [⟨.dst 2, m.d⟩] else [],
    sem := fun e m t =>
      let x := t.readReg e m.a 1
      if e.len ≤ x then .error (trapR 0x06 x 0) else .ok ((if link then t.link m.d 1 else t).goto x) }

/-- BRX (R113). -/
def execBrx (f : L1) (s : State) : Out := runJump (brxDef false f) s
/-- CALLX (R113). -/
def execCallx (f : L1) (s : State) : Out := runJump (brxDef true f) s

/-! ## RET (R114, R370, R380) -/

/-- RET's operands: the link pair in A. -/
def retDef (f : L1) : LaneDef :=
  { g := f.g, gn := f.gn, ok := f.d = 0, words := 1, nums := nums1 f, adv := ⟨0, 0, 0, 0⟩,
    opds := fun m => [⟨.src 2, m.a⟩],
    sem := fun e m t =>
      let off := t.readReg e (m.a + 1) 1
      if t.readReg e m.a 1 / 2 ^ 16 ≠ 0 || off / 2 ^ 14 ≠ 0 then .error (trapR 0x06 off 0) else .ok t }

/-- A thread continues at a link pair: a token that resolves to a resident overlay continues at once, an image that is not
resident parks the thread on its fill, after a commit when the hoist would wait for a held write (R227, R387), and a token of another
tenant traps (R114, R360, R370). The first RET to TLINK leaves handler mode (R380): not one that traps at its own PC, but one whose overlay
must be filled first leaves it before the fill, however that ends: the model's choice (log entry 102). -/
def State.returnTo (s : State) (id : ThreadId) (tok off : Nat) : State :=
  match s.ctxOf id.team with
  | none => s
  | some x =>
    match s.resolve id.team.core x tok with
    | .illegal => s.deliver id (trapR 0x06 tok 0)
    | .overlay o =>
      let fits := o.state ≠ .resident || off < o.len
      let s := if fits then s.updThread id fun t => t.leaveHandler tok off else s
      s.goTo id o.image tok off
    | .image i =>
      if s.heldFor id.team [id] 0 then s.commitFirst id.team
      else (s.updThread id fun t => t.leaveHandler tok off).goTo id i tok off

/-- RET (R114). -/
def execRet (f : L1) (s : State) : Out :=
  let i := retDef f
  if !i.legal then .next s.illegal
  else
    let go := s.group.filterMap fun (id, t) =>
      if t.guard i.g i.gn then
        match i.jump (s.env id) t with
        | .ok t => some (id, t.readReg (s.env id) f.a.toNat 1, t.readReg (s.env id) (f.a.toNat + 1) 1)
        | .error _ => none
      else none
    let s := s.overGroup fun id t => i.jump (s.env id) t
    .next (go.foldl (fun s (id, tok, off) => s.ifRuns id.team fun s => s.returnTo id tok off) s)

/-! ## Thread ends (R115) -/

/-- Threads retire. The exit of a team's last live thread ends its task (R316), after the commit of a guarded task that
holds writes (R388); the exit of another can break a rendezvous (R122). -/
def State.retireTeam (s : State) (t : TeamId) (ids : List ThreadId) : State :=
  if (s.liveIds t).all (fun i => ids.contains i) then
    if s.endCommits t then (s.updThreads ids fun t => { t with park := .ready }).commitFirst t
    else (s.updThreads ids fun t => { t with live := false, park := .ready }).endTask t true
  else (s.updThreads ids fun t => { t with live := false, park := .ready }).checkRendezvous t

/-- Threads of several teams retire. -/
def State.retire (s : State) (ids : List ThreadId) : State :=
  ((ids.map (·.team)).eraseDups).foldl (fun s t => s.retireTeam t (ids.filter fun i => i.team = t)) s

/-- An instruction without operands: D, A and W are 0 (R112). -/
def bareDef (f : L1) : LaneDef :=
  { g := f.g, gn := f.gn, ok := wIn f [0] && f.d = 0 && f.a = 0, words := 1, nums := nums1 f, adv := ⟨0, 0, 0, 0⟩,
    opds := fun _ => [], sem := fun _ _ t => .ok t }

/-- EXIT (R115): threads without outstanding loads retire, the others wait for LDN to reach 0. -/
def execExit (f : L1) (s : State) : Out :=
  let i := bareDef f
  if !i.legal then .next s.illegal
  else
    let on := s.group.filter fun (_, t) => t.guard i.g i.gn
    let off := (s.group.filter fun (_, t) => !t.guard i.g i.gn).map (·.1)
    let wait := (on.filter fun (_, t) => t.ldn ≠ 0).map (·.1)
    let go := (on.filter fun (_, t) => t.ldn = 0).map (·.1)
    .next (((s.stepAll off 1).updThreads wait fun t => { t with park := .exiting }).retire go)

/-- THREAD_RETIRE: a thread that waits at EXIT retires once its LDN is 0 (R115); a deferred trap that has arisen in it is taken first, at
the EXIT (log entry 83). -/
def execThreadRetire (t : ThreadId) (s : State) : Out :=
  match s.thread t with
  | some th => .next (if th.park = .exiting && th.live && th.ldn = 0 && th.deferred.isEmpty then s.retire [t] else s)
  | none => .next s

/-- CONV (R118): every thread arrives, whatever its guard; the released set steps past together. -/
def execConv (f : L1) (s : State) : Out :=
  let i := bareDef f
  if !i.legal then .next s.illegal
  else if s.gathered.rdv then .next (s.stepAll s.gathered.ids 1)
  else .next (s.arrive (s.gathered.ids.map fun t => (t, .conv)))

/-- YIELD (R116): the thread retires the instruction and is not ready for a while. -/
def execYield (f : L1) (s : State) : Out :=
  let i := { bareDef f with sem := fun _ _ t => Except.ok { t with park := .yielding } }
  runLane i s

/-- YIELD_READY: the wait of a YIELD is over. -/
def execYieldReady (t : ThreadId) (s : State) : Out :=
  .next (s.updThread t fun th => if th.park = .yielding then { th with park := .ready } else th)

/-- NOP (R117). -/
def execNop (f : L1) (s : State) : Out := runLane (bareDef f) s

/-- BKPT (R117): BREAKPOINT with TLINK at the next instruction. -/
def execBkpt (f : L1) (s : State) : Out :=
  let stop := fun (_ : Env) (_ : Nums) (t : Thread) =>
    (Except.error ⟨0x30, 0, 0, some { t.pc with off := t.pc.off + 1 }, false⟩ : Except Raise Thread)
  runLane { bareDef f with sem := stop } s

/-- RENDEZVOUS_COMPLETE: a rendezvous that the exit of a thread has completed becomes a set (R118, R121). -/
def execRendezvousComplete (t : TeamId) (s : State) : Out := .next (s.releaseSet t)

end Sys2Proof.Machine
end

