-- ==== Sys2Proof/Machine/Firmware.lean ====
section
/-! DEFINITION. Firmware, attestation, self-test, power, links and the Ethernet interface (18_host R422 to R428, R431;
17_partitions R412). -/
namespace Sys2Proof.Machine

/-! ## Firmware (R422) -/

/-- The flash image may be started. -/
def Pkg.flashStarts (p : Pkg) : Bool :=
  match p.flash with
  | none => false
  | some bs => Config.lmsVerifies bs && p.floor ≤ Config.imageVersion bs && !p.recover

/-- A restart raises the floor to the version of the image that an update asked it for. -/
def Pkg.raiseFloor (p : Pkg) : Pkg :=
  match p.raise, p.flash with
  | true, some bs => { p with floor := max p.floor (Config.imageVersion bs), raise := false }
  | _, _ => p

/-- FIRMWARE_BOOT (R422, R428): at package reset bedstone starts the flash image or the ROM image; a shutdown before it is
reported in the first PF event record. -/
def execFirmwareBoot (pkg : Nat) (s : State) : Out :=
  let p := s.pkg pkg
  if p.booted || !s.hasPkg pkg then .next s
  else
    let noted := p.down
    let s := s.updPkg pkg fun p =>
      { p.raiseFloor with ready := true, rom := !p.flashStarts, image := if p.flashStarts then p.flash.getD [] else Config.romImage
                          booted := true, down := false, downNoted := p.downNoted || p.down }
    .next (if noted then s.postEvent (pfFn pkg) ⟨0, stDefect, 3, s.clkw, 0, 0, 0⟩ else s)

/-- FW_UPDATE (R422): the image is verified, then written. -/
def execFwUpdate (c : Cmd) (s : State) : Out :=
  runCmd c .pf 0 [(0x08, 1), (0x10, 64), (0x18, 64)] (fun s =>
    let bs := s.hostBytes c.fn.pkg (cmdArg c 0x10 8) (cmdArg c 0x18 8)
    if !Config.lmsVerifies bs then .refuse stSignature
    else .ok (s.updPkg c.fn.pkg fun p => { p with flash := some bs, raise := cmdArg c 0x08 1 = 1 }) 0) s

/-- Runner restarts from the ROM image, which may be copied into flash (R422). -/
def Pkg.restart (p : Pkg) (copy : Bool) : Pkg :=
  { p.raiseFloor with rom := true, image := Config.romImage, flash := if copy then some Config.romImage else p.flash }

/-- A command that another function of the package has open. -/
def State.othersOpen (s : State) (f : FnId) : Bool := s.fns.any fun x => x.1.pkg = f.pkg && x.1 ≠ f && s.commandOpen x.1

/-- FW_RECOVER (R422): runner restarts from the ROM image once the records already taken have completed; it takes no further ones before. -/
def execFwRecover (c : Cmd) (s : State) : Out :=
  runCmd c .pf 1 [(0x08, 1)] (fun s =>
    if s.othersOpen c.fn then .later (s.updFn c.fn fun f => { f with pending := some ⟨c, [], [], false, .restart⟩ })
    else .ok (s.updPkg c.fn.pkg fun p => p.restart (cmdArg c 0x08 1 = 1)) 0) (s.unpend c.fn)

/-- The values of a share descriptor (R394, Table 1). -/
def Share.values (sh : Share) : List Nat :=
  [sh.quads.toNat, sh.slices.toNat, sh.channels.toNat, sh.engines.toNat, sh.s2root, sh.window, sh.slice.toNat]

/-- The share descriptors that a report digests: those of the caller's partition, or of all 32 partition numbers for the physical function,
with the function's own package (R423). -/
def State.attestShares (s : State) (f : FnId) : List Nat :=
  let of := fun n => ((s.share n f.pkg).map (Share.values)).getD (List.replicate 7 0)
  match f.vf with
  | some _ => of (s.partOfVf (fnVf f))
  | none => (List.range 32).flatMap fun n => ((s.partOn f.pkg n).map of).getD (List.replicate 7 0)

/-- What a report holds besides its signature (R423): identity codes, serial and PKG, the versions of bedstone and runner, runner's source
and digest, the floor, the digest of the share descriptors, and the nonce. -/
def State.attestValues (s : State) (c : Cmd) : List Nat :=
  let p := s.pkg c.fn.pkg
  [Config.familyCode, Config.steppingCode, Config.adapterCode, Config.packageSerial c.fn.pkg, c.fn.pkg, Config.bedstoneVersion,
   Config.imageVersion p.image, b2n p.rom, Config.sha256 (p.image.map BitVec.toNat), p.floor, Config.sha256 (s.attestShares c.fn),
   cmdArg c 0x08 32]

/-- ATTEST (R423): a report under the next one-time key. -/
def execAttest (c : Cmd) (s : State) : Out :=
  runCmd c .both 0 [(0x08, 256), (0x28, 64), (0x30, 64)] (fun s =>
    let k := (s.pkg c.fn.pkg).keysUsed
    let v := s.attestValues c
    let n := Config.attestLength k v
    if Config.attestKeys ≤ k then .refuse stNospace
    else if cmdArg c 0x30 8 < n then .refuse stBadcmd
    else
      let s := s.hostPut c.fn.pkg (cmdArg c 0x28 8) ((List.range n).map (Config.attestByte k v))
      .ok (s.updPkg c.fn.pkg fun p => { p with keysUsed := p.keysUsed + 1 }) n) s

/-! ## Self-test (R424 to R426) -/

/-- A unit that some partition owns. -/
def State.unitOwned (s : State) (pkg : Nat) (u : UnitRef) : Bool :=
  s.parts.any fun (_, p) => p.shares.any fun sh => sh.pkg = pkg && sh.names u

/-- Array patterns destroy the memory of a tested channel (R424, log entry 16). -/
def State.wipeChannel (s : State) (pkg n : Nat) : State :=
  let keys := rangeFrom (memKey pkg (n * Config.channelSpan)) Config.channelSpan
  { s with mem := keys.foldl (fun m k => memSet m k (Config.destroyed s.tick k)) s.mem }

/-- Array patterns destroy the contents of a tested pool, accumulator store or instruction store of a core (R424, R426). -/
def Core.destroy (block : Nat) (k : Core) : Core :=
  match block with
  | 1 => { k with scratch := [], empty := [], l1 := [] }
  | 5 => { k with tiles := [] }
  | 6 => { k with overlays := [], tokmap := [] }
  | _ => k

/-- The core that a unit path lies in (R426). -/
def coreOfPath (pkg path : Nat) : Option CoreId :=
  if fld path 7 3 < 4 then some ⟨pkg, 64 * fld path 14 2 + 4 * fld path 10 4 + fld path 7 3⟩ else none

/-- What array patterns destroy in one unit: a channel's memory, a slice's lines, or a store of a core (R424). -/
def State.destroyUnit (s : State) (pkg path : Nat) : State :=
  match unitOf path, coreOfPath pkg path with
  | some (.channel n), _ => s.wipeChannel pkg n
  | some (.slice n), _ => { s with l2 := s.l2.filter (·.unit ≠ 64 * pkg + n) }
  | _, some c => s.updCore c (Core.destroy (fld path 0 7))
  | _, _ => s

/-- One unit tested: a finding for a failing one, under the command's TAG (R418, R425). -/
def State.testUnit (s : State) (c : Cmd) (depth path : Nat) : State :=
  let pkg := c.fn.pkg
  let s := if depth = 1 then s.destroyUnit pkg path else s
  let fails := s.defects.contains (pkg, path)
  let s := s.updPkg pkg fun p =>
    let others := p.failed.filter (· ≠ path)
    { p with failed := if fails then others ++ [path] else others }
  if fails then s.postEvent (pfFn pkg) ⟨c.tag, stDefect, 3, s.clkw, 0, 0, BitVec.ofNat 64 path⟩ else s

/-- The unit paths of a SELFTEST record, each once. -/
def State.testPaths (s : State) (c : Cmd) : List Nat :=
  ((List.range (cmdArg c 0x0A 2)).map fun i => s.hostRead c.fn.pkg (cmdArg c 0x10 8 + 2 * i) 2).eraseDups

/-- The paths of the self-test that a command has started (R424). -/
def State.testing (s : State) (c : Cmd) : Option (List Nat) :=
  (s.fn c.fn).pending.bind fun p => match p.kind with
    | .test paths => if p.cmd = c then some paths else none
    | _ => none

/-- SELFTEST (R424, R425): the test begins, and ends in a later step. -/
def execSelftest (c : Cmd) (s : State) : Out :=
  let now := s.testing c
  runCmd c .pf 0 [(0x08, 8), (0x0A, 16), (0x10, 64)] (fun s =>
    let depth := cmdArg c 0x08 1
    match now with
    | some paths =>
      let bad := (paths.filter fun u => s.defects.contains (c.fn.pkg, u)).length
      .status (paths.foldl (fun s u => s.testUnit c depth u) s) (if bad = 0 then stOk else stDefect) bad
    | none =>
      let n := cmdArg c 0x0A 2
      let paths := s.testPaths c
      if 1 < depth || n = 0 || 4096 < n || paths.any (fun u => (unitOf u).isNone) then .refuse stBadcmd
      else if paths.any fun u => (unitOf u).any (s.unitOwned c.fn.pkg) then .refuse stBusy
      else .later (s.updFn c.fn fun f => { f with pending := some ⟨c, [], [], false, .test paths⟩ })) (s.unpend c.fn)

/-! ## Power, links, Ethernet (R412, R427, R428, R431) -/

/-- POWER_LIMIT (R428): pickers insert idle issue cycles while the limit holds. -/
def execPowerLimit (pkg : Nat) (on : Bool) (s : State) : Out :=
  .next (s.updPkg pkg fun p => { p with limited := on })

/-- THERMAL_SHUTDOWN (R428): the package stops until its firmware boots again. -/
def execThermalShutdown (pkg : Nat) (s : State) : Out :=
  .next (s.updPkg pkg fun p => { p with ready := false, booted := false, down := true })

/-- Counter of a replayed flit, or of a link that cannot recover (R431, Table 9). -/
def linkCounter (l : Link) (recovered : Bool) : Nat :=
  match l, recovered with
  | .boundary, true => 0
  | .boundary, false => 1
  | .podLink, true => 8
  | .podLink, false => 9
  | .sprinkel, _ => 10

/-- LINK_FLIT_REPLAY (R412, R431): a flit is replayed and counted; a link that cannot recover is reported to the host. -/
def execLinkFlitReplay (pkg : Nat) (link : Link) (recovered : Bool) (s : State) : Out :=
  let s := s.countPkg pkg (linkCounter link recovered)
  .next (if recovered then s else s.postEvent (pfFn pkg) ⟨0, stDefect, 3, s.clkw, 0, 0, 0⟩)

/-- ETHERNET_FRAME_RECEIVED (R427, R431): a frame with a bad frame check sequence is counted. -/
def execEthernetFrameReceived (pkg : Nat) (good : Bool) (s : State) : Out :=
  .next (if good then s.updPkg pkg fun p => { p with frames := p.frames + 1 } else s.countPkg pkg 15)

end Sys2Proof.Machine
end

