-- ==== Sys2Proof/Machine/Fetch.lean ====
section
/-! DEFINITION. Fetching the words of an instruction from an overlay (02_formats R31, R43, R58). -/
namespace Sys2Proof.Machine

/-- What stands at an offset of an overlay: an instruction word, no instruction (R58), or a missing word (R43). -/
inductive Fetched where
  | parts (p : Parts)
  | encoding
  | target
deriving DecidableEq, Repr

/-- The word at an offset below L (R43). -/
def Overlay.word (o : Overlay) (off : Nat) : Option W32 := if off < o.len then o.body[off]? else none

/-- The instruction at an offset (R31, R43, R58). -/
def Overlay.fetch (o : Overlay) (off : Nat) : Fetched :=
  match o.word off with
  | none => .target
  | some w =>
    match decodeParts w (o.word (off + 1)) with
    | .ok p => .parts p
    | .error .missingWord => .target
    | .error .unassignedMajor => .encoding
    | .error .unassignedMinor => .encoding

end Sys2Proof.Machine
end

