-- ==== Sys2Proof/Machine/Uniform.lean ====
section
/-! DEFINITION. Integer instructions of the uniform set (04_integer R77 to R80, R96, R100, R102). -/
namespace Sys2Proof.Machine

/-- Forms of the uniform integer instructions (R73, R77): register and literal, each with its shift. -/
def regUni (f : L2R) : UniDef :=
  { g := f.g, gn := f.gn, ok := wIn f.toL1 [0, 1] && restZero f, words := 2,
    srcs := [⟨.src (gsz f.w), f.a.toNat⟩, ⟨.src (gsz f.w), f.b.toNat⟩], dsts := [⟨.dst (gsz f.w), f.d.toNat⟩] }
def regShUni (f : L2R) : UniDef :=
  { g := f.g, gn := f.gn, ok := wIn f.toL1 [0, 1] && restZero f, words := 2,
    srcs := [⟨.src (gsz f.w), f.a.toNat⟩, ⟨.src 1, f.b.toNat⟩], dsts := [⟨.dst (gsz f.w), f.d.toNat⟩] }
def litUni (f : L2I) : UniDef :=
  { g := f.g, gn := f.gn, ok := wIn f.toL1 [0, 1], words := 2, srcs := [⟨.src (gsz f.w), f.a.toNat⟩],
    dsts := [⟨.dst (gsz f.w), f.d.toNat⟩] }
def litShUni (f : L2I) : UniDef :=
  { g := f.g, gn := f.gn, ok := wIn f.toL1 [0, 1] && f.lit.toNat < 32 * gsz f.w, words := 2,
    srcs := [⟨.src (gsz f.w), f.a.toNat⟩], dsts := [⟨.dst (gsz f.w), f.d.toNat⟩] }
def cmpUni (f : L2R) : UniDef :=
  { g := f.g, gn := f.gn, ok := wIn f.toL1 [0, 1] && restZero f && predOk f.d, words := 2,
    srcs := [⟨.src (gsz f.w), f.a.toNat⟩, ⟨.src (gsz f.w), f.b.toNat⟩], dsts := [] }
/-- Form of ULANE, UCNT and ULEAD (R100, R102). -/
def groupUni (f : L1) : UniDef :=
  { g := f.g, gn := f.gn, ok := wIn f [0] && f.a = 0, words := 1, srcs := [], dsts := [⟨.dst 1, f.d.toNat⟩] }

/-- d := a op b on the leader's operands (uniform 0x00). -/
def uniR (op : Nat → Nat → Nat → Nat) (f : L2R) (s : State) : Out :=
  let w := gsz f.w
  runUniform (regUni f) s
    fun g s => .done (s.result g 2 f.d.toNat w (op w (g.lt.readReg g.env f.a.toNat w) (g.lt.readReg g.env f.b.toNat w)))

/-- d := a shifted by the single register B. -/
def uniShR (op : Nat → Nat → Nat → Nat) (f : L2R) (s : State) : Out :=
  let w := gsz f.w
  runUniform (regShUni f) s
    fun g s => .done (s.result g 2 f.d.toNat w (op w (g.lt.readReg g.env f.a.toNat w) (g.lt.readReg g.env f.b.toNat 1)))

/-- d := a op the sign-extended literal (uniform 0x01). -/
def uniI (op : Nat → Nat → Nat → Nat) (f : L2I) (s : State) : Out :=
  let w := gsz f.w
  runUniform (litUni f) s
    fun g s => .done (s.result g 2 f.d.toNat w
      (op w (g.lt.readReg g.env f.a.toNat w) (wrap (sgn f.lit.toNat 32) (32 * w))))

/-- d := a shifted by a literal below 32g. -/
def uniShI (op : Nat → Nat → Nat → Nat) (f : L2I) (s : State) : Out :=
  let w := gsz f.w
  runUniform (litShUni f) s
    fun g s => .done (s.result g 2 f.d.toNat w (op w (g.lt.readReg g.env f.a.toNat w) f.lit.toNat))

/-- UCMP: one condition on the leader's operands, the same predicate value in every guard-true thread (R96). -/
def uniCmp (k : Nat) (f : L2R) (s : State) : Out :=
  let w := gsz f.w
  runUniform (cmpUni f) s
    fun g s =>
      let v := cond k w (g.lt.readReg g.env f.a.toNat w) (g.lt.readReg g.env f.b.toNat w)
      .done (s.updThreads g.rcv fun t => (t.setPred f.d.toNat v).step 2)

/-- ULANE, UCNT and ULEAD: rank in the group, size of the group, leader's index (R100, R102). -/
def uniGroup (k : Nat) (f : L1) (s : State) : Out :=
  runUniform (groupUni f) s
    fun g s => .done (s.mapThreads fun i t =>
      if i ∈ g.rcv then
        let v := match k with
          | 0 => g.all.findIdx (· = i)
          | 1 => g.all.length
          | _ => g.env.tidx
        (t.writeReg f.d.toNat 1 v 0).step 1
      else t)

/-! ## The instructions -/

/-- UADD (R79). -/
def execUadd (f : L2R) (s : State) : Out := uniR opAdd f s
/-- UADD_LIT (R79). -/
def execUaddLit (f : L2I) (s : State) : Out := uniI opAdd f s
/-- USUB (R79). -/
def execUsub (f : L2R) (s : State) : Out := uniR opSub f s
/-- USUB_LIT (R79). -/
def execUsubLit (f : L2I) (s : State) : Out := uniI opSub f s
/-- UAND (R79). -/
def execUand (f : L2R) (s : State) : Out := uniR opAnd f s
/-- UAND_LIT (R79). -/
def execUandLit (f : L2I) (s : State) : Out := uniI opAnd f s
/-- UOR (R79). -/
def execUor (f : L2R) (s : State) : Out := uniR opOr f s
/-- UOR_LIT (R79). -/
def execUorLit (f : L2I) (s : State) : Out := uniI opOr f s
/-- UXOR (R79). -/
def execUxor (f : L2R) (s : State) : Out := uniR opXor f s
/-- UXOR_LIT (R79). -/
def execUxorLit (f : L2I) (s : State) : Out := uniI opXor f s
/-- UMUL (R79). -/
def execUmul (f : L2R) (s : State) : Out := uniR opMul f s
/-- UMUL_LIT (R79). -/
def execUmulLit (f : L2I) (s : State) : Out := uniI opMul f s
/-- USHL (R79). -/
def execUshl (f : L2R) (s : State) : Out := uniShR opShl f s
/-- USHL_LIT (R79). -/
def execUshlLit (f : L2I) (s : State) : Out := uniShI opShl f s
/-- USHR (R79). -/
def execUshr (f : L2R) (s : State) : Out := uniShR opShr f s
/-- USHR_LIT (R79). -/
def execUshrLit (f : L2I) (s : State) : Out := uniShI opShr f s
/-- UCMP_EQ (R96). -/
def execUcmpEq (f : L2R) (s : State) : Out := uniCmp 0 f s
/-- UCMP_NE (R96). -/
def execUcmpNe (f : L2R) (s : State) : Out := uniCmp 1 f s
/-- UCMP_LT (R96). -/
def execUcmpLt (f : L2R) (s : State) : Out := uniCmp 2 f s
/-- UCMP_GE (R96). -/
def execUcmpGe (f : L2R) (s : State) : Out := uniCmp 3 f s
/-- UCMP_LTU (R96). -/
def execUcmpLtu (f : L2R) (s : State) : Out := uniCmp 4 f s
/-- UCMP_GEU (R96). -/
def execUcmpGeu (f : L2R) (s : State) : Out := uniCmp 5 f s
/-- ULANE (R100). -/
def execUlane (f : L1) (s : State) : Out := uniGroup 0 f s
/-- UCNT (R100). -/
def execUcnt (f : L1) (s : State) : Out := uniGroup 1 f s
/-- ULEAD (R100). -/
def execUlead (f : L1) (s : State) : Out := uniGroup 2 f s

end Sys2Proof.Machine
end

