-- ==== Sys2Proof/Machine/Legal.lean ====
section
/-! DEFINITION. Step 1 of Table 6 (02_formats R44, R58) for every instruction word, and the lane definitions of the
majors that may follow REP (R53), both by set, major and minor. -/
namespace Sys2Proof.Machine

/-- Step 1 of REP (R53): D, A and W are 0 and the literal is n, 1 to 64. -/
def repOk (f : L2I) : Bool :=
  guardOk f.g f.gn && wIn f.toL1 [0] && f.d = 0 && f.a = 0 && 1 ≤ f.lit.toNat && f.lit.toNat ≤ 64

/-- A MOV uses a window (R36). -/
def movWindowed (f : L1) : Bool := (windowNo f.a).isSome || (windowNo f.d).isSome

/-- Step 1 of MOV (R36, R92). -/
def movOk (f : L1) : Bool := if movWindowed f then movWindowOk f else (laneMov f).legal

/-! ## Lane definitions of the repeatable majors (R53) -/

/-- L1 rows of the majors that may follow REP. -/
def laneL1 (maj min : Nat) (f : L1) : Option LaneDef :=
  match maj with
  | 0x00 => [laneAdd f, laneSub f, laneAnd f, laneOr f, laneXor f, laneShl f, laneShr f, laneSar f][min]?
  | 0x07 => [laneMov f, laneNot f, laneNeg f, laneAbs f, lanePopc f, laneClz f, laneCtz f, laneBrev f][min]?
  | 0x22 => [laneFclass f, laneFrint f, laneFsat f, laneRcp f, laneRsq f, laneSqrt f, laneEx2 f, laneLg2 f][min]?
  | 0x23 => [laneSin f, laneCos f, laneTanh f, laneTagget f][min]?
  | _ => none

/-- L2R rows of the majors that may follow REP. -/
def laneL2R (maj min : Nat) (f : L2R) : Option LaneDef :=
  match maj with
  | 0x01 =>
    [laneAddReg f, laneSubReg f, laneAndReg f, laneOrReg f,
      laneXorReg f, laneShlReg f, laneShrReg f, laneSarReg f][min]?
  | 0x03 => [laneMul f, laneMulhs f, laneMulhu f, laneMad f, laneMadw f][min]?
  | 0x04 => [laneMin f, laneMax f, laneMinu f, laneMaxu f, laneSel f, laneLeax f][min]?
  | 0x05 => [laneDiv f, laneDivu f, laneRem f, laneRemu f][min]?
  | 0x06 => [laneBfx f, laneBfxu f, laneBfi f, laneBsel f, laneRotl f, laneAndn f][min]?
  | 0x09 =>
    [laneCmpEq f, laneCmpNe f, laneCmpLt f, laneCmpGe f,
      laneCmpLtu f, laneCmpGeu f, laneCmpTst f, laneCmpTstz f][min]?
  | 0x20 => [laneFadd f, laneFsub f, laneFmul f, laneFmin f, laneFmax f, laneFfma f][min]?
  | 0x21 => [laneFcmpEq f, laneFcmpNe f, laneFcmpLt f, laneFcmpLe f, laneFcmpUno f, laneFcmpOrd f][min]?
  | 0x24 => [laneCvt f, laneCvti f, laneCvtf f, lanePack f, laneUnpk f][min]?
  | 0x25 => [laneDot2 f, laneDot4 f, laneDot8 f, laneDot4f f, laneDot8f f, laneScl f][min]?
  | _ => none

/-- L2I rows of the majors that may follow REP. -/
def laneL2I (maj min : Nat) (f : L2I) : Option LaneDef :=
  match maj with
  | 0x02 =>
    [laneAddLit f, laneSubLit f, laneAndLit f, laneOrLit f,
      laneXorLit f, laneShlLit f, laneShrLit f, laneSarLit f][min]?
  | 0x08 => [laneMovl f, laneLea f, laneSext f, laneZext f][min]?
  | _ => none

/-- The lane definition of a word of majors 0x00 to 0x09 and 0x20 to 0x25 (R53). -/
def laneDef (p : Parts) : Option LaneDef :=
  if p.s then none
  else
    match p.fields with
    | .l1 f => laneL1 p.maj.toNat p.min.toNat f
    | .l2r f => laneL2R p.maj.toNat p.min.toNat f
    | .l2i f => laneL2I p.maj.toNat p.min.toNat f
    | .m _ => none

/-! ## Step 1 by set, major and minor -/

/-- Step 1 of the L1 rows of the lane set. -/
def legalLaneL1 (maj min : Nat) (f : L1) : Bool :=
  match maj with
  | 0x00 => (laneL1 0x00 min f).any LaneDef.legal
  | 0x07 =>
    [movOk f, (laneNot f).legal, (laneNeg f).legal, (laneAbs f).legal, (lanePopc f).legal, (laneClz f).legal,
     (laneCtz f).legal, (laneBrev f).legal].getD min false
  | 0x11 =>
    [(brxDef false f).legal, (brxDef true f).legal, (retDef f).legal, (bareDef f).legal, (bareDef f).legal,
     (bareDef f).legal, (bareDef f).legal, (bareDef f).legal].getD min false
  | 0x22 => (laneL1 0x22 min f).any LaneDef.legal
  | 0x23 => (laneL1 0x23 min f).any LaneDef.legal
  | _ => false

/-- Step 1 of the L1 rows of the uniform set. -/
def legalUniL1 (maj min : Nat) (f : L1) : Bool :=
  match maj with
  | 0x02 =>
    [(umovUni f).legal, (groupUni f).legal, (groupUni f).legal, (groupUni f).legal].getD min false
  | _ => false

/-- Step 1 of the L2R rows of the lane set. -/
def legalLaneL2R (maj min : Nat) (f : L2R) : Bool :=
  match maj with
  | 0x01 => (laneL2R 0x01 min f).any LaneDef.legal
  | 0x03 => (laneL2R 0x03 min f).any LaneDef.legal
  | 0x04 => (laneL2R 0x04 min f).any LaneDef.legal
  | 0x05 => (laneL2R 0x05 min f).any LaneDef.legal
  | 0x06 => (laneL2R 0x06 min f).any LaneDef.legal
  | 0x09 => (laneL2R 0x09 min f).any LaneDef.legal
  | 0x0B =>
    [(lanePand f).legal, (lanePor f).legal, (lanePxor f).legal, (lanePandn f).legal, (lanePmov f).legal,
     (lanePrd f).legal, (lanePwr f).legal, (lanePset f).legal].getD min false
  | 0x12 =>
    [(peekDef false f).legal, (peekDef true f).legal, (voteDef true f).legal, (voteDef false f).legal,
     (pmaskDef f).legal, (peersDef f).legal, (leadpDef f).legal].getD min false
  | 0x13 =>
    [(reduceDef 0 f).legal, (reduceDef 1 f).legal, (reduceDef 2 f).legal, (reduceDef 3 f).legal].getD min false
  | 0x20 => (laneL2R 0x20 min f).any LaneDef.legal
  | 0x21 => (laneL2R 0x21 min f).any LaneDef.legal
  | 0x24 => (laneL2R 0x24 min f).any LaneDef.legal
  | 0x25 => (laneL2R 0x25 min f).any LaneDef.legal
  | _ => false

/-- Step 1 of the L2R rows of the uniform set. -/
def legalUniL2R (maj min : Nat) (f : L2R) : Bool :=
  match maj with
  | 0x00 =>
    [(regUni f).legal, (regUni f).legal, (regUni f).legal, (regUni f).legal, (regUni f).legal, (regShUni f).legal,
     (regShUni f).legal, (regUni f).legal].getD min false
  | 0x03 => (cmpUni f).legal
  | 0x08 =>
    [(copyUni 0 f).legal, (copyUni 1 f).legal, (copyUni 2 f).legal, (copyUni 3 f).legal, (copyUni 4 f).legal,
     (copyUni 5 f).legal].getD min false
  | 0x09 =>
    [(tagUni f false).legal, (tagUni f true).legal, (tagUni f true).legal, (tagUni f false).legal].getD min false
  | 0x0A =>
    [matLegal 0 f, matLegal 1 f, matLegal 2 f, matLegal 3 f, matLegal 4 f, matLegal 5 f, matLegal 6 f, matLegal 7 f].getD min false
  | 0x0C =>
    [(pushUni f).legal, (pushUni f).legal, (pushUni f).legal, (qpopUni f).legal, (qpopUni f).legal,
     (qcapUni f).legal, (qbindUni f).legal].getD min false
  | 0x0D =>
    [(jaddUni f).legal, jwaitOk f, (jrdUni f).legal, allotOk f, allotOk f, snapOk f, (jrdUni f).legal].getD min false
  | 0x0F =>
    [(gateUni 0 f).legal, (gateUni 1 f).legal, (gateUni 2 f).legal, (gateUni 3 f).legal, (gateUni 4 f).legal,
     (gateUni 5 f).legal].getD min false
  | 0x10 =>
    [(ovldUni f).legal, (ovtokUni f).legal, (ovtokUni f).legal, (ovtokUni f).legal, (ovtokUni f).legal,
     (calloUni f).legal].getD min false
  | 0x11 =>
    [(trapUni f).legal, (srdUni f).legal, (swrUni f).legal, (clockUni f).legal, (clockUni f).legal,
     (errdUni f).legal].getD min false
  | _ => false

/-- Step 1 of the L2I rows of the lane set. -/
def legalLaneL2I (maj min : Nat) (f : L2I) : Bool :=
  match maj with
  | 0x02 => (laneL2I 0x02 min f).any LaneDef.legal
  | 0x08 => (laneL2I 0x08 min f).any LaneDef.legal
  | 0x0A =>
    [(laneCmpiEq f).legal, (laneCmpiNe f).legal, (laneCmpiLt f).legal, (laneCmpiGe f).legal, (laneCmpiLtu f).legal,
     (laneCmpiGeu f).legal, (laneCmpiTst f).legal, (laneCmpiTstz f).legal].getD min false
  | 0x10 =>
    [(braDef false f).legal, (braDef true f).legal, repOk f].getD min false
  | 0x26 =>
    [(laneTagset f).legal, (laneTagchk f).legal].getD min false
  | _ => false

/-- Step 1 of the L2I rows of the uniform set. -/
def legalUniL2I (maj min : Nat) (f : L2I) : Bool :=
  match maj with
  | 0x01 =>
    [(litUni f).legal, (litUni f).legal, (litUni f).legal, (litUni f).legal, (litUni f).legal, (litShUni f).legal,
     (litShUni f).legal, (litUni f).legal].getD min false
  | 0x0E =>
    [barOk 0 f, barOk 1 f, barOk 2 f, (fenceMem f).legal, (xfenceMem f).legal, (waitcMem f).legal].getD min false
  | _ => false

/-- Step 1 of the M rows of the lane set. -/
def legalLaneM (maj min : Nat) (f : LM) : Bool :=
  match maj with
  | 0x30 =>
    [(loadMem f [0] true true 1).legal, (loadMem f [0] true true 1).legal, (loadMem f [0] true true 1).legal,
     (loadMem f [0] true true 1).legal, (loadMem f [0, 1, 2, 3] true true (gsz f.w)).legal, (ldtMem f).legal,
     (loadMem f [0, 1, 2, 3] (localSpace f) true (gsz f.w)).legal].getD min false
  | 0x31 =>
    [(storeMem f [0] true).legal, (storeMem f [0] true).legal, (storeMem f [0, 1, 2, 3] true).legal,
     (storeMem f [0, 1, 2, 3] (localSpace f)).legal, (lineMem f (localSpace f)).legal, (putsigMem f).legal,
     (lineMem f (globalSpace f)).legal, (lineMem f (globalSpace f)).legal].getD min false
  | 0x32 =>
    [(atMem .add f).legal, (atMem .and f).legal, (atMem .or f).legal, (atMem .xor f).legal, (atMem .max f).legal,
     (atMem .min f).legal, (atMem .maxu f).legal, (atMem .minu f).legal].getD min false
  | 0x33 =>
    [(atMem .swp f).legal, (atMem .ld f).legal, (atMem .fadd f).legal, (atMem .cas f).legal].getD min false
  | _ => false

/-- Step 1 of the M rows of the uniform set. -/
def legalUniM (maj min : Nat) (f : LM) : Bool :=
  match maj with
  | 0x04 =>
    [(uloadUni f true true).legal, (uldtUni f).legal, (ustwUni f).legal].getD min false
  | _ => false

/-- Step 1 of an assigned instruction word (R44). -/
def legalParts (p : Parts) : Bool :=
  match p.s, p.fields with
  | false, .l1 f => legalLaneL1 p.maj.toNat p.min.toNat f
  | false, .l2r f => legalLaneL2R p.maj.toNat p.min.toNat f
  | false, .l2i f => legalLaneL2I p.maj.toNat p.min.toNat f
  | false, .m f => legalLaneM p.maj.toNat p.min.toNat f
  | true, .l1 f => legalUniL1 p.maj.toNat p.min.toNat f
  | true, .l2r f => legalUniL2R p.maj.toNat p.min.toNat f
  | true, .l2i f => legalUniL2I p.maj.toNat p.min.toNat f
  | true, .m f => legalUniM p.maj.toNat p.min.toNat f

end Sys2Proof.Machine
end

