-- ==== Sys2Proof/Machine/Repeat.lean ====
section
/-! DEFINITION. REP (02_formats R53 to R55). -/
namespace Sys2Proof.Machine

/-- A field that names a general register would pass v119 in the last of n repetitions (R53). -/
def LaneDef.pastEnd (i : LaneDef) (n : Nat) : Bool :=
  ((i.opds i.nums).zip (i.opds (i.numsAt (n - 1)))).any fun (a, b) => a.n < 120 && 119 < b.n

/-- The register operands of all n repetitions, in ascending k (R44, R53). -/
def LaneDef.repOpds (i : LaneDef) (n : Nat) : List Opd := (List.range n).flatMap fun k => i.opds (i.numsAt k)

/-- A trap of repetition k (R54): a TAG_MISMATCH reports k in TINFO[14:8]. -/
def repTrap (k : Nat) (r : Raise) : Raise := if r.cause = 0x04 then { r with info := r.info + 2 ^ 8 * k } else r

/-- Repetitions k and on of one thread, `m` of them: the guard is evaluated afresh each time, and a trap leaves those before it
performed and the PC on the REP word; at the end the thread steps past REP and the repeated words (R53, R54). -/
def LaneDef.repeat (i : LaneDef) (e : Env) : Nat → Nat → Thread → Thread × Option Raise
  | 0, _, t => (t.step (2 + i.words), none)
  | m + 1, k, t =>
    if t.guard i.g i.gn then
      match i.sem e (i.numsAt k) t with
      | .ok t' => i.repeat e m (k + 1) t'
      | .error r => (t, some (repTrap k r))
    else i.repeat e m (k + 1) t

/-- Traps in the order of the threads that raise them. -/
def inOrder (ids : List ThreadId) (rs : List (ThreadId × Raise)) : List (ThreadId × Raise) :=
  ids.flatMap fun i => rs.filter fun r => r.1 = i

/-- The repeated instruction is a MOV with a window (R55). -/
def windowMov (p : Parts) : Option L1 :=
  match p.maj.toNat, p.min.toNat, p.fields with
  | 0x07, 0, .l1 f => if movWindowed f then some f else none
  | _, _, _ => none

/-- The n repetitions in the given threads, whose REP guard is true: the checks for all n first, then each thread's
sequence (R53 to R55). -/
def State.repAll (s : State) (i : LaneDef) (win : Option L1) (n : Nat) (on : List (ThreadId × Thread)) : State :=
  let bad := on.filterMap fun (id, t) => (regCheck t (i.repOpds n)).map fun r => (id, r)
  let ok := (on.filter fun (_, t) => (regCheck t (i.repOpds n)).isNone).map (·.1)
  let all := on.map (·.1)
  match win with
  | some f =>
    let (s, rs) := runMovWindow (2 + i.words) n f ok s
    s.raises (inOrder all (bad ++ rs))
  | none =>
    let rs := on.filterMap fun (id, t) => if id ∈ ok then (i.repeat (s.env id) n 0 t).2.map fun r => (id, r) else none
    let s' := s.mapThreads fun id t => if id ∈ ok then (i.repeat (s.env id) n 0 t).1 else t
    s'.raises (inOrder all (bad ++ rs))

/-- REP (R53): step 1 of REP, then the words and step 1 of the repeated instruction at its own PC, then step 2, in every
gathered thread; threads whose REP guard is false step to the repeated instruction, which then executes once. That an operand advances
past v119 is found after the repeated word's own checks: the model's choice, for R53 says only that it comes before any repetition (log
entry 64). -/
def execRep (f : L2I) (s : State) : Out :=
  if !repOk f then .next s.illegal
  else
    match s.group with
    | [] => .next s
    | (l, lt) :: _ =>
      let there := fun r : Raise => (s.stepAll s.gathered.ids 2).allRaise r
      match (s.core l.team.core).current lt.pc.tok.toNat with
      | none => .next (there (trapR 0x06 (lt.pc.off + 2) 0))
      | some o =>
        match o.fetch (lt.pc.off + 2) with
        | .target => .next (there (trapR 0x06 (lt.pc.off + 2) 0))
        | .encoding => .next (there (trapR 0x01 0 0))
        | .parts p =>
          if !legalParts p then .next (there (trapR 0x01 0 0))
          else
            match laneDef p with
            | none => .next (there (trapR 0x07 0 0))
            | some i =>
              if i.pastEnd f.lit.toNat then .next s.illegal
              else
                let on := s.group.filter fun (_, t) => t.guard f.g f.gn
                let off := (s.group.filter fun (_, t) => !t.guard f.g f.gn).map (·.1)
                .next ((s.stepAll off 2).repAll i (windowMov p) f.lit.toNat on)

end Sys2Proof.Machine
end

