-- ==== Sys2Proof/Machine/Dispatch.lean ====
section
/-! DEFINITION. The dispatch: one arm per constructor of Instr. -/
namespace Sys2Proof.Machine

-- The meaning of one step of the machine.
def exec (i : Instr) (s : State) : Host.Outcome State Fault Refusal :=
  match i with
  | .rendezvousComplete t => Sys2Proof.Machine.execRendezvousComplete t s
  | .yieldReady t => Sys2Proof.Machine.execYieldReady t s
  | .threadRetire t => Sys2Proof.Machine.execThreadRetire t s
  | .loadDataReturn a => Sys2Proof.Machine.execLoadDataReturn a s
  | .storePerformed a => Sys2Proof.Machine.execStorePerformed a s
  | .heldAccessRelease t => Sys2Proof.Machine.execHeldAccessRelease t s
  | .putsigSignal a => Sys2Proof.Machine.execPutsigSignal a s
  | .requestLeaveCore r => Sys2Proof.Machine.execRequestLeaveCore r s
  | .stageArrival r => Sys2Proof.Machine.execStageArrival r s
  | .stageDepart r => Sys2Proof.Machine.execStageDepart r s
  | .homePerform r => Sys2Proof.Machine.execHomePerform r s
  | .replySplit r => Sys2Proof.Machine.execReplySplit r s
  | .atomicValueReturn a => Sys2Proof.Machine.execAtomicValueReturn a s
  | .barrierRelease t => Sys2Proof.Machine.execBarrierRelease t s
  | .pageFault a => Sys2Proof.Machine.execPageFault a s
  | .faultFrameSave t => Sys2Proof.Machine.execFaultFrameSave t s
  | .deferredTrap t => Sys2Proof.Machine.execDeferredTrap t s
  | .freshStart t => Sys2Proof.Machine.execFreshStart t s
  | .rollback t => Sys2Proof.Machine.execRollback t s
  | .copyAccept t => Sys2Proof.Machine.execCopyAccept t s
  | .copyPageFault c tag => Sys2Proof.Machine.execCopyPageFault c tag s
  | .copyLineFull c tag line => Sys2Proof.Machine.execCopyLineFull c tag line s
  | .copyComplete c tag => Sys2Proof.Machine.execCopyComplete c tag s
  | .matrixStepRetire c m => Sys2Proof.Machine.execMatrixStepRetire c m s
  | .pendingLaunchTake c => Sys2Proof.Machine.execPendingLaunchTake c s
  | .stealMessage q d => Sys2Proof.Machine.execStealMessage q d s
  | .joinDecrement j => Sys2Proof.Machine.execJoinDecrement j s
  | .fenceComplete q => Sys2Proof.Machine.execFenceComplete q s
  | .gateHomeRequest r => Sys2Proof.Machine.execGateHomeRequest r s
  | .gateReply r => Sys2Proof.Machine.execGateReply r s
  | .overlayHeaderRead f => Sys2Proof.Machine.execOverlayHeaderRead f s
  | .overlayFillComplete f => Sys2Proof.Machine.execOverlayFillComplete f s
  | .sliceBoundary p => Sys2Proof.Machine.execSliceBoundary p s
  | .preemptForcedStop p => Sys2Proof.Machine.execPreemptForcedStop p s
  | .contextSave p => Sys2Proof.Machine.execContextSave p s
  | .windowEnd c => Sys2Proof.Machine.execWindowEnd c s
  | .bucketRefill gate k => Sys2Proof.Machine.execBucketRefill gate k s
  | .watchdogFire p => Sys2Proof.Machine.execWatchdogFire p s
  | .eventCoalesceTimeout fn => Sys2Proof.Machine.execEventCoalesceTimeout fn s
  | .crdoor fn v => Sys2Proof.Machine.execCrdoor fn v s
  | .crsize fn v => Sys2Proof.Machine.execCrsize fn v s
  | .ersize fn v => Sys2Proof.Machine.execErsize fn v s
  | .erhead fn v => Sys2Proof.Machine.execErhead fn v s
  | .prhead fn v => Sys2Proof.Machine.execPrhead fn v s
  | .bar0RegisterWrite fn off v => Sys2Proof.Machine.execBar0RegisterWrite fn off v s
  | .partSet c => Sys2Proof.Machine.execPartSet c s
  | .partPause c => Sys2Proof.Machine.execPartPause c s
  | .partResume c => Sys2Proof.Machine.execPartResume c s
  | .partReset c => Sys2Proof.Machine.execPartReset c s
  | .rehome c => Sys2Proof.Machine.execRehome c s
  | .vfBind c => Sys2Proof.Machine.execVfBind c s
  | .vfUnbind c => Sys2Proof.Machine.execVfUnbind c s
  | .grant c => Sys2Proof.Machine.execGrant c s
  | .revoke c => Sys2Proof.Machine.execRevoke c s
  | .s2Root c => Sys2Proof.Machine.execS2Root c s
  | .s2Inval c => Sys2Proof.Machine.execS2Inval c s
  | .gateCreate c => Sys2Proof.Machine.execGateCreate c s
  | .gateConfigure c => Sys2Proof.Machine.execGateConfigure c s
  | .gateRecycle c => Sys2Proof.Machine.execGateRecycle c s
  | .gateDelete c => Sys2Proof.Machine.execGateDelete c s
  | .migrateQuiesce c => Sys2Proof.Machine.execMigrateQuiesce c s
  | .migrateStart c => Sys2Proof.Machine.execMigrateStart c s
  | .errread c => Sys2Proof.Machine.execErrread c s
  | .ctxCreate c => Sys2Proof.Machine.execCtxCreate c s
  | .ctxStart c => Sys2Proof.Machine.execCtxStart c s
  | .ctxEnd c => Sys2Proof.Machine.execCtxEnd c s
  | .s1Inval c => Sys2Proof.Machine.execS1Inval c s
  | .qsetCreate c => Sys2Proof.Machine.execQsetCreate c s
  | .qsetDelete c => Sys2Proof.Machine.execQsetDelete c s
  | .qsubmit c => Sys2Proof.Machine.execQsubmit c s
  | .pageReply c => Sys2Proof.Machine.execPageReply c s
  | .ringSet c => Sys2Proof.Machine.execRingSet c s
  | .selftest c => Sys2Proof.Machine.execSelftest c s
  | .fwUpdate c => Sys2Proof.Machine.execFwUpdate c s
  | .fwRecover c => Sys2Proof.Machine.execFwRecover c s
  | .attest c => Sys2Proof.Machine.execAttest c s
  | .firmwareBoot pkg => Sys2Proof.Machine.execFirmwareBoot pkg s
  | .powerLimit pkg on => Sys2Proof.Machine.execPowerLimit pkg on s
  | .thermalShutdown pkg => Sys2Proof.Machine.execThermalShutdown pkg s
  | .linkFlitReplay pkg link recovered => Sys2Proof.Machine.execLinkFlitReplay pkg link recovered s
  | .ethernetFrameReceived pkg good => Sys2Proof.Machine.execEthernetFrameReceived pkg good s
  | .add f => Sys2Proof.Machine.execAdd f s
  | .sub f => Sys2Proof.Machine.execSub f s
  | .and f => Sys2Proof.Machine.execAnd f s
  | .or f => Sys2Proof.Machine.execOr f s
  | .xor f => Sys2Proof.Machine.execXor f s
  | .shl f => Sys2Proof.Machine.execShl f s
  | .shr f => Sys2Proof.Machine.execShr f s
  | .sar f => Sys2Proof.Machine.execSar f s
  | .addReg f => Sys2Proof.Machine.execAddReg f s
  | .subReg f => Sys2Proof.Machine.execSubReg f s
  | .andReg f => Sys2Proof.Machine.execAndReg f s
  | .orReg f => Sys2Proof.Machine.execOrReg f s
  | .xorReg f => Sys2Proof.Machine.execXorReg f s
  | .shlReg f => Sys2Proof.Machine.execShlReg f s
  | .shrReg f => Sys2Proof.Machine.execShrReg f s
  | .sarReg f => Sys2Proof.Machine.execSarReg f s
  | .addLit f => Sys2Proof.Machine.execAddLit f s
  | .subLit f => Sys2Proof.Machine.execSubLit f s
  | .andLit f => Sys2Proof.Machine.execAndLit f s
  | .orLit f => Sys2Proof.Machine.execOrLit f s
  | .xorLit f => Sys2Proof.Machine.execXorLit f s
  | .shlLit f => Sys2Proof.Machine.execShlLit f s
  | .shrLit f => Sys2Proof.Machine.execShrLit f s
  | .sarLit f => Sys2Proof.Machine.execSarLit f s
  | .mul f => Sys2Proof.Machine.execMul f s
  | .mulhs f => Sys2Proof.Machine.execMulhs f s
  | .mulhu f => Sys2Proof.Machine.execMulhu f s
  | .mad f => Sys2Proof.Machine.execMad f s
  | .madw f => Sys2Proof.Machine.execMadw f s
  | .min f => Sys2Proof.Machine.execMin f s
  | .max f => Sys2Proof.Machine.execMax f s
  | .minu f => Sys2Proof.Machine.execMinu f s
  | .maxu f => Sys2Proof.Machine.execMaxu f s
  | .sel f => Sys2Proof.Machine.execSel f s
  | .leax f => Sys2Proof.Machine.execLeax f s
  | .div f => Sys2Proof.Machine.execDiv f s
  | .divu f => Sys2Proof.Machine.execDivu f s
  | .rem f => Sys2Proof.Machine.execRem f s
  | .remu f => Sys2Proof.Machine.execRemu f s
  | .bfx f => Sys2Proof.Machine.execBfx f s
  | .bfxu f => Sys2Proof.Machine.execBfxu f s
  | .bfi f => Sys2Proof.Machine.execBfi f s
  | .bsel f => Sys2Proof.Machine.execBsel f s
  | .rotl f => Sys2Proof.Machine.execRotl f s
  | .andn f => Sys2Proof.Machine.execAndn f s
  | .mov f => Sys2Proof.Machine.execMov f s
  | .not f => Sys2Proof.Machine.execNot f s
  | .neg f => Sys2Proof.Machine.execNeg f s
  | .abs f => Sys2Proof.Machine.execAbs f s
  | .popc f => Sys2Proof.Machine.execPopc f s
  | .clz f => Sys2Proof.Machine.execClz f s
  | .ctz f => Sys2Proof.Machine.execCtz f s
  | .brev f => Sys2Proof.Machine.execBrev f s
  | .movl f => Sys2Proof.Machine.execMovl f s
  | .lea f => Sys2Proof.Machine.execLea f s
  | .sext f => Sys2Proof.Machine.execSext f s
  | .zext f => Sys2Proof.Machine.execZext f s
  | .cmpEq f => Sys2Proof.Machine.execCmpEq f s
  | .cmpNe f => Sys2Proof.Machine.execCmpNe f s
  | .cmpLt f => Sys2Proof.Machine.execCmpLt f s
  | .cmpGe f => Sys2Proof.Machine.execCmpGe f s
  | .cmpLtu f => Sys2Proof.Machine.execCmpLtu f s
  | .cmpGeu f => Sys2Proof.Machine.execCmpGeu f s
  | .cmpTst f => Sys2Proof.Machine.execCmpTst f s
  | .cmpTstz f => Sys2Proof.Machine.execCmpTstz f s
  | .cmpiEq f => Sys2Proof.Machine.execCmpiEq f s
  | .cmpiNe f => Sys2Proof.Machine.execCmpiNe f s
  | .cmpiLt f => Sys2Proof.Machine.execCmpiLt f s
  | .cmpiGe f => Sys2Proof.Machine.execCmpiGe f s
  | .cmpiLtu f => Sys2Proof.Machine.execCmpiLtu f s
  | .cmpiGeu f => Sys2Proof.Machine.execCmpiGeu f s
  | .cmpiTst f => Sys2Proof.Machine.execCmpiTst f s
  | .cmpiTstz f => Sys2Proof.Machine.execCmpiTstz f s
  | .pand f => Sys2Proof.Machine.execPand f s
  | .por f => Sys2Proof.Machine.execPor f s
  | .pxor f => Sys2Proof.Machine.execPxor f s
  | .pandn f => Sys2Proof.Machine.execPandn f s
  | .pmov f => Sys2Proof.Machine.execPmov f s
  | .prd f => Sys2Proof.Machine.execPrd f s
  | .pwr f => Sys2Proof.Machine.execPwr f s
  | .pset f => Sys2Proof.Machine.execPset f s
  | .bra f => Sys2Proof.Machine.execBra f s
  | .call f => Sys2Proof.Machine.execCall f s
  | .rep f => Sys2Proof.Machine.execRep f s
  | .brx f => Sys2Proof.Machine.execBrx f s
  | .callx f => Sys2Proof.Machine.execCallx f s
  | .ret f => Sys2Proof.Machine.execRet f s
  | .exit f => Sys2Proof.Machine.execExit f s
  | .conv f => Sys2Proof.Machine.execConv f s
  | .yield f => Sys2Proof.Machine.execYield f s
  | .nop f => Sys2Proof.Machine.execNop f s
  | .bkpt f => Sys2Proof.Machine.execBkpt f s
  | .peek f => Sys2Proof.Machine.execPeek f s
  | .flip f => Sys2Proof.Machine.execFlip f s
  | .allof f => Sys2Proof.Machine.execAllof f s
  | .anyof f => Sys2Proof.Machine.execAnyof f s
  | .pmask f => Sys2Proof.Machine.execPmask f s
  | .peers f => Sys2Proof.Machine.execPeers f s
  | .leadp f => Sys2Proof.Machine.execLeadp f s
  | .tsum f => Sys2Proof.Machine.execTsum f s
  | .tmax f => Sys2Proof.Machine.execTmax f s
  | .tmin f => Sys2Proof.Machine.execTmin f s
  | .tscan f => Sys2Proof.Machine.execTscan f s
  | .fadd f => Sys2Proof.Machine.execFadd f s
  | .fsub f => Sys2Proof.Machine.execFsub f s
  | .fmul f => Sys2Proof.Machine.execFmul f s
  | .fmin f => Sys2Proof.Machine.execFmin f s
  | .fmax f => Sys2Proof.Machine.execFmax f s
  | .ffma f => Sys2Proof.Machine.execFfma f s
  | .fcmpEq f => Sys2Proof.Machine.execFcmpEq f s
  | .fcmpNe f => Sys2Proof.Machine.execFcmpNe f s
  | .fcmpLt f => Sys2Proof.Machine.execFcmpLt f s
  | .fcmpLe f => Sys2Proof.Machine.execFcmpLe f s
  | .fcmpUno f => Sys2Proof.Machine.execFcmpUno f s
  | .fcmpOrd f => Sys2Proof.Machine.execFcmpOrd f s
  | .fclass f => Sys2Proof.Machine.execFclass f s
  | .frint f => Sys2Proof.Machine.execFrint f s
  | .fsat f => Sys2Proof.Machine.execFsat f s
  | .rcp f => Sys2Proof.Machine.execRcp f s
  | .rsq f => Sys2Proof.Machine.execRsq f s
  | .sqrt f => Sys2Proof.Machine.execSqrt f s
  | .ex2 f => Sys2Proof.Machine.execEx2 f s
  | .lg2 f => Sys2Proof.Machine.execLg2 f s
  | .sin f => Sys2Proof.Machine.execSin f s
  | .cos f => Sys2Proof.Machine.execCos f s
  | .tanh f => Sys2Proof.Machine.execTanh f s
  | .tagget f => Sys2Proof.Machine.execTagget f s
  | .cvt f => Sys2Proof.Machine.execCvt f s
  | .cvti f => Sys2Proof.Machine.execCvti f s
  | .cvtf f => Sys2Proof.Machine.execCvtf f s
  | .pack f => Sys2Proof.Machine.execPack f s
  | .unpk f => Sys2Proof.Machine.execUnpk f s
  | .dot2 f => Sys2Proof.Machine.execDot2 f s
  | .dot4 f => Sys2Proof.Machine.execDot4 f s
  | .dot8 f => Sys2Proof.Machine.execDot8 f s
  | .dot4f f => Sys2Proof.Machine.execDot4f f s
  | .dot8f f => Sys2Proof.Machine.execDot8f f s
  | .scl f => Sys2Proof.Machine.execScl f s
  | .tagset f => Sys2Proof.Machine.execTagset f s
  | .tagchk f => Sys2Proof.Machine.execTagchk f s
  | .ldb f => Sys2Proof.Machine.execLdb f s
  | .ldbu f => Sys2Proof.Machine.execLdbu f s
  | .ldh f => Sys2Proof.Machine.execLdh f s
  | .ldhu f => Sys2Proof.Machine.execLdhu f s
  | .ldw f => Sys2Proof.Machine.execLdw f s
  | .ldt f => Sys2Proof.Machine.execLdt f s
  | .ldfe f => Sys2Proof.Machine.execLdfe f s
  | .stb f => Sys2Proof.Machine.execStb f s
  | .sth f => Sys2Proof.Machine.execSth f s
  | .stw f => Sys2Proof.Machine.execStw f s
  | .stfe f => Sys2Proof.Machine.execStfe f s
  | .ste f => Sys2Proof.Machine.execSte f s
  | .putsig f => Sys2Proof.Machine.execPutsig f s
  | .pref f => Sys2Proof.Machine.execPref f s
  | .cflush f => Sys2Proof.Machine.execCflush f s
  | .atadd f => Sys2Proof.Machine.execAtadd f s
  | .atand f => Sys2Proof.Machine.execAtand f s
  | .ator f => Sys2Proof.Machine.execAtor f s
  | .atxor f => Sys2Proof.Machine.execAtxor f s
  | .atmax f => Sys2Proof.Machine.execAtmax f s
  | .atmin f => Sys2Proof.Machine.execAtmin f s
  | .atmaxu f => Sys2Proof.Machine.execAtmaxu f s
  | .atminu f => Sys2Proof.Machine.execAtminu f s
  | .atswp f => Sys2Proof.Machine.execAtswp f s
  | .atld f => Sys2Proof.Machine.execAtld f s
  | .atfadd f => Sys2Proof.Machine.execAtfadd f s
  | .atcas f => Sys2Proof.Machine.execAtcas f s
  | .uadd f => Sys2Proof.Machine.execUadd f s
  | .usub f => Sys2Proof.Machine.execUsub f s
  | .uand f => Sys2Proof.Machine.execUand f s
  | .uor f => Sys2Proof.Machine.execUor f s
  | .uxor f => Sys2Proof.Machine.execUxor f s
  | .ushl f => Sys2Proof.Machine.execUshl f s
  | .ushr f => Sys2Proof.Machine.execUshr f s
  | .umul f => Sys2Proof.Machine.execUmul f s
  | .uaddLit f => Sys2Proof.Machine.execUaddLit f s
  | .usubLit f => Sys2Proof.Machine.execUsubLit f s
  | .uandLit f => Sys2Proof.Machine.execUandLit f s
  | .uorLit f => Sys2Proof.Machine.execUorLit f s
  | .uxorLit f => Sys2Proof.Machine.execUxorLit f s
  | .ushlLit f => Sys2Proof.Machine.execUshlLit f s
  | .ushrLit f => Sys2Proof.Machine.execUshrLit f s
  | .umulLit f => Sys2Proof.Machine.execUmulLit f s
  | .umov f => Sys2Proof.Machine.execUmov f s
  | .ulane f => Sys2Proof.Machine.execUlane f s
  | .ucnt f => Sys2Proof.Machine.execUcnt f s
  | .ulead f => Sys2Proof.Machine.execUlead f s
  | .ucmpEq f => Sys2Proof.Machine.execUcmpEq f s
  | .ucmpNe f => Sys2Proof.Machine.execUcmpNe f s
  | .ucmpLt f => Sys2Proof.Machine.execUcmpLt f s
  | .ucmpGe f => Sys2Proof.Machine.execUcmpGe f s
  | .ucmpLtu f => Sys2Proof.Machine.execUcmpLtu f s
  | .ucmpGeu f => Sys2Proof.Machine.execUcmpGeu f s
  | .uldw f => Sys2Proof.Machine.execUldw f s
  | .uldt f => Sys2Proof.Machine.execUldt f s
  | .ustw f => Sys2Proof.Machine.execUstw f s
  | .cpy f => Sys2Proof.Machine.execCpy f s
  | .cpy2 f => Sys2Proof.Machine.execCpy2 f s
  | .cpyg f => Sys2Proof.Machine.execCpyg f s
  | .cpys f => Sys2Proof.Machine.execCpys f s
  | .cpyx f => Sys2Proof.Machine.execCpyx f s
  | .cpyf f => Sys2Proof.Machine.execCpyf f s
  | .twait f => Sys2Proof.Machine.execTwait f s
  | .twany f => Sys2Proof.Machine.execTwany f s
  | .tfirst f => Sys2Proof.Machine.execTfirst f s
  | .tclr f => Sys2Proof.Machine.execTclr f s
  | .mma f => Sys2Proof.Machine.execMma f s
  | .mmam f => Sys2Proof.Machine.execMmam f s
  | .mmas f => Sys2Proof.Machine.execMmas f s
  | .accz f => Sys2Proof.Machine.execAccz f s
  | .accld f => Sys2Proof.Machine.execAccld f s
  | .accst f => Sys2Proof.Machine.execAccst f s
  | .mwalk f => Sys2Proof.Machine.execMwalk f s
  | .mstat f => Sys2Proof.Machine.execMstat f s
  | .tspawn f => Sys2Proof.Machine.execTspawn f s
  | .grid f => Sys2Proof.Machine.execGrid f s
  | .qpush f => Sys2Proof.Machine.execQpush f s
  | .qpop f => Sys2Proof.Machine.execQpop f s
  | .qsteal f => Sys2Proof.Machine.execQsteal f s
  | .qcap f => Sys2Proof.Machine.execQcap f s
  | .qbind f => Sys2Proof.Machine.execQbind f s
  | .jadd f => Sys2Proof.Machine.execJadd f s
  | .jwait f => Sys2Proof.Machine.execJwait f s
  | .jrd f => Sys2Proof.Machine.execJrd f s
  | .rgive f => Sys2Proof.Machine.execRgive f s
  | .rclaim f => Sys2Proof.Machine.execRclaim f s
  | .snap f => Sys2Proof.Machine.execSnap f s
  | .qfence f => Sys2Proof.Machine.execQfence f s
  | .bar f => Sys2Proof.Machine.execBar f s
  | .bara f => Sys2Proof.Machine.execBara f s
  | .barw f => Sys2Proof.Machine.execBarw f s
  | .fence f => Sys2Proof.Machine.execFence f s
  | .xfence f => Sys2Proof.Machine.execXfence f s
  | .waitc f => Sys2Proof.Machine.execWaitc f s
  | .gopen f => Sys2Proof.Machine.execGopen f s
  | .gclose f => Sys2Proof.Machine.execGclose f s
  | .gsig f => Sys2Proof.Machine.execGsig f s
  | .gwait f => Sys2Proof.Machine.execGwait f s
  | .gadd f => Sys2Proof.Machine.execGadd f s
  | .gpoll f => Sys2Proof.Machine.execGpoll f s
  | .ovld f => Sys2Proof.Machine.execOvld f s
  | .ovwait f => Sys2Proof.Machine.execOvwait f s
  | .ovpin f => Sys2Proof.Machine.execOvpin f s
  | .ovunpin f => Sys2Proof.Machine.execOvunpin f s
  | .ovrel f => Sys2Proof.Machine.execOvrel f s
  | .callo f => Sys2Proof.Machine.execCallo f s
  | .trap f => Sys2Proof.Machine.execTrap f s
  | .srd f => Sys2Proof.Machine.execSrd f s
  | .swr f => Sys2Proof.Machine.execSwr f s
  | .clkw f => Sys2Proof.Machine.execClkw f s
  | .clkr f => Sys2Proof.Machine.execClkr f s
  | .errd f => Sys2Proof.Machine.execErrd f s

end Sys2Proof.Machine
end

