-- ==== Sys2Proof/Machine/Sched.lean ====
section
/-! DEFINITION. What the machine does next: the groups that can issue (05_control R106 to R110, R121), the events of its
engines, the host's inputs and commands (18_host R415), and what every step does beside its action: the clocks (01_machine
R25; 16_system R378), commits that are due (R388), and the ends of replays, barriers' waits and slices. -/
namespace Sys2Proof.Machine

/-- What the machine can do at a step. -/
inductive Action where
  /-- A gathered group issues (R108). -/
  | issue (g : Group)
  /-- An engine's event takes place. -/
  | event (i : Instr)
  /-- The outside world's next act. -/
  | input
  /-- Runner takes the next record of a function's command ring (R415). -/
  | command (f : FnId)
  /-- Runner takes up a command that has waited (R71, R406, R455). -/
  | retry (c : Cmd)
deriving DecidableEq, Repr

/-! ## Issue -/

/-- Meanings of the L1 rows of a major, minors 0 onwards. -/
def meanL1 (s : Bool) (maj : Nat) : List (L1 → State → Out) :=
  match s, maj with
  | false, 0x00 => [execAdd, execSub, execAnd, execOr, execXor, execShl, execShr, execSar]
  | false, 0x07 => [execMov, execNot, execNeg, execAbs, execPopc, execClz, execCtz, execBrev]
  | false, 0x11 => [execBrx, execCallx, execRet, execExit, execConv, execYield, execNop, execBkpt]
  | false, 0x22 => [execFclass, execFrint, execFsat, execRcp, execRsq, execSqrt, execEx2, execLg2]
  | false, 0x23 => [execSin, execCos, execTanh, execTagget]
  | true, 0x02 => [execUmov, execUlane, execUcnt, execUlead]
  | _, _ => []

/-- Meanings of the L2R rows of a major. -/
def meanL2R (s : Bool) (maj : Nat) : List (L2R → State → Out) :=
  match s, maj with
  | false, 0x01 => [execAddReg, execSubReg, execAndReg, execOrReg, execXorReg, execShlReg, execShrReg, execSarReg]
  | false, 0x03 => [execMul, execMulhs, execMulhu, execMad, execMadw]
  | false, 0x04 => [execMin, execMax, execMinu, execMaxu, execSel, execLeax]
  | false, 0x05 => [execDiv, execDivu, execRem, execRemu]
  | false, 0x06 => [execBfx, execBfxu, execBfi, execBsel, execRotl, execAndn]
  | false, 0x09 => [execCmpEq, execCmpNe, execCmpLt, execCmpGe, execCmpLtu, execCmpGeu, execCmpTst, execCmpTstz]
  | false, 0x0B => [execPand, execPor, execPxor, execPandn, execPmov, execPrd, execPwr, execPset]
  | false, 0x12 => [execPeek, execFlip, execAllof, execAnyof, execPmask, execPeers, execLeadp]
  | false, 0x13 => [execTsum, execTmax, execTmin, execTscan]
  | false, 0x20 => [execFadd, execFsub, execFmul, execFmin, execFmax, execFfma]
  | false, 0x21 => [execFcmpEq, execFcmpNe, execFcmpLt, execFcmpLe, execFcmpUno, execFcmpOrd]
  | false, 0x24 => [execCvt, execCvti, execCvtf, execPack, execUnpk]
  | false, 0x25 => [execDot2, execDot4, execDot8, execDot4f, execDot8f, execScl]
  | true, 0x00 => [execUadd, execUsub, execUand, execUor, execUxor, execUshl, execUshr, execUmul]
  | true, 0x03 => [execUcmpEq, execUcmpNe, execUcmpLt, execUcmpGe, execUcmpLtu, execUcmpGeu]
  | true, 0x08 => [execCpy, execCpy2, execCpyg, execCpys, execCpyx, execCpyf]
  | true, 0x09 => [execTwait, execTwany, execTfirst, execTclr]
  | true, 0x0A => [execMma, execMmam, execMmas, execAccz, execAccld, execAccst, execMwalk, execMstat]
  | true, 0x0C => [execTspawn, execGrid, execQpush, execQpop, execQsteal, execQcap, execQbind]
  | true, 0x0D => [execJadd, execJwait, execJrd, execRgive, execRclaim, execSnap, execQfence]
  | true, 0x0F => [execGopen, execGclose, execGsig, execGwait, execGadd, execGpoll]
  | true, 0x10 => [execOvld, execOvwait, execOvpin, execOvunpin, execOvrel, execCallo]
  | true, 0x11 => [execTrap, execSrd, execSwr, execClkw, execClkr, execErrd]
  | _, _ => []

/-- Meanings of the L2I rows of a major. -/
def meanL2I (s : Bool) (maj : Nat) : List (L2I → State → Out) :=
  match s, maj with
  | false, 0x02 => [execAddLit, execSubLit, execAndLit, execOrLit, execXorLit, execShlLit, execShrLit, execSarLit]
  | false, 0x08 => [execMovl, execLea, execSext, execZext]
  | false, 0x0A => [execCmpiEq, execCmpiNe, execCmpiLt, execCmpiGe, execCmpiLtu, execCmpiGeu, execCmpiTst, execCmpiTstz]
  | false, 0x10 => [execBra, execCall, execRep]
  | false, 0x26 => [execTagset, execTagchk]
  | true, 0x01 =>
    [execUaddLit, execUsubLit, execUandLit, execUorLit,
     execUxorLit, execUshlLit, execUshrLit, execUmulLit]
  | true, 0x0E => [execBar, execBara, execBarw, execFence, execXfence, execWaitc]
  | _, _ => []

/-- Meanings of the M rows of a major. -/
def meanM (s : Bool) (maj : Nat) : List (LM → State → Out) :=
  match s, maj with
  | false, 0x30 => [execLdb, execLdbu, execLdh, execLdhu, execLdw, execLdt, execLdfe]
  | false, 0x31 => [execStb, execSth, execStw, execStfe, execSte, execPutsig, execPref, execCflush]
  | false, 0x32 => [execAtadd, execAtand, execAtor, execAtxor, execAtmax, execAtmin, execAtmaxu, execAtminu]
  | false, 0x33 => [execAtswp, execAtld, execAtfadd, execAtcas]
  | true, 0x04 => [execUldw, execUldt, execUstw]
  | _, _ => []

/-- The instruction that decoded parts name runs; parts without a row are no instruction (R58). -/
noncomputable def execParts (p : Parts) (s : State) : Out :=
  match assemble p with
  | some i => exec i s
  | none => .next s.illegal

/-- The same by the tables of meanings: compiled code cannot build the instruction itself. -/
def runParts (p : Parts) (s : State) : Out :=
  match p.fields with
  | .l1 f => ((meanL1 p.s p.maj.toNat)[p.min.toNat]?.map fun m => m f s).getD (.next s.illegal)
  | .l2r f => ((meanL2R p.s p.maj.toNat)[p.min.toNat]?.map fun m => m f s).getD (.next s.illegal)
  | .l2i f => ((meanL2I p.s p.maj.toNat)[p.min.toNat]?.map fun m => m f s).getD (.next s.illegal)
  | .m f => ((meanM p.s p.maj.toNat)[p.min.toNat]?.map fun m => m f s).getD (.next s.illegal)

theorem meanL1_eq (s : Bool) (maj : Nat) : meanL1 s maj = (rowsL1 s maj).map fun c f => exec (c f) := by
  unfold meanL1 rowsL1
  split <;> first | rfl | simp_all

theorem meanL2R_eq (s : Bool) (maj : Nat) : meanL2R s maj = (rowsL2R s maj).map fun c f => exec (c f) := by
  unfold meanL2R rowsL2R
  split <;> first | rfl | simp_all

theorem meanL2I_eq (s : Bool) (maj : Nat) : meanL2I s maj = (rowsL2I s maj).map fun c f => exec (c f) := by
  unfold meanL2I rowsL2I
  split <;> first | rfl | simp_all

theorem meanM_eq (s : Bool) (maj : Nat) : meanM s maj = (rowsM s maj).map fun c f => exec (c f) := by
  unfold meanM rowsM
  split <;> first | rfl | simp_all

@[csimp] theorem execParts_eq_runParts : @execParts = @runParts := by
  funext p s
  unfold execParts assemble runParts
  cases p.fields with
  | l1 f =>
    simp only [meanL1_eq, List.getElem?_map]
    cases (rowsL1 p.s p.maj.toNat)[p.min.toNat]? <;> rfl
  | l2r f =>
    simp only [meanL2R_eq, List.getElem?_map]
    cases (rowsL2R p.s p.maj.toNat)[p.min.toNat]? <;> rfl
  | l2i f =>
    simp only [meanL2I_eq, List.getElem?_map]
    cases (rowsL2I p.s p.maj.toNat)[p.min.toNat]? <;> rfl
  | m f =>
    simp only [meanM_eq, List.getElem?_map]
    cases (rowsM p.s p.maj.toNat)[p.min.toNat]? <;> rfl

/-- A thread goes on at its PC by resolving the token (R360, R370). -/
def State.resumeAt (s : State) (id : ThreadId) (pc : Pc) : State :=
  match s.ctxOf id.team with
  | none => s
  | some x =>
    match s.resolve id.team.core x pc.tok.toNat with
    | .illegal => s.deliver id (trapR 0x06 pc.tok.toNat 0)
    | .overlay o => s.goTo id o.image pc.tok.toNat pc.off
    | .image i => s.goTo id i pc.tok.toNat pc.off

/-- The resident overlay that a thread's token names (R359). -/
def State.overlayUnder (s : State) (id : ThreadId) (t : Thread) : Option Overlay :=
  match (s.core id.team.core).current t.pc.tok.toNat, s.ctxOf id.team with
  | some o, some x => if o.state = .resident && o.vf = x.vf && o.pasid = s.pasid x then some o else none
  | _, _ => none

/-- The state in which a group's instruction runs: the group gathered with the two words at its PC, none of its threads parked, and its
overlay's use stamped (R107, R121, R363). -/
def State.gather (s : State) (g : Group) (o : Overlay) (pc : Pc) : State :=
  (({ s with gathered := { g with ids := g.ids.eraseDups }, words := (o.body.getD pc.off 0, o.body.getD (pc.off + 1) 0) }).updThreads g.ids
    fun t => { t with park := .ready }).stampOverlay g.core o

/-- A group issues (R107): its threads resolve their token when it is not current, else the word at their PC runs (R43, R58). A word that
lacks its second word traps ILLEGAL_TARGET before the other checks of step 1, but one of an unassigned minor ILLEGAL_ENCODING first: the
model's choice, for R43 gives no order (log entry 95). -/
def State.issue (s : State) (g : Group) : Out :=
  match g.ids.head?.bind fun l => (s.thread l).map fun t => (l, t) with
  | none => .next s
  | some (l, t) =>
    match s.overlayUnder l t with
    | none =>
      let s := s.updThreads g.ids fun t => { t with park := .ready }
      .next (g.ids.foldl (fun s i => s.ifRuns i.team fun s => s.resumeAt i t.pc) s)
    | some o =>
      let bad := s.badCode g.core o t.pc.off
      let s := s.gather g o t.pc
      if bad then
        let s := match s.ctxOf l.team with
          | some c => s.countVf c.vf (errCounter 4)
          | none => s
        .next (s.allRaise (trapR 0x21 4 0))
      else match o.fetch t.pc.off with
      | .target => .next (s.allRaise (trapR 0x06 t.pc.off 0))
      | .encoding => .next s.illegal
      | .parts p => execParts p s

/-! ## Ready threads and groups (R106, R107) -/

/-- A package runs (R422, R428). -/
def State.pkgRuns (s : State) (p : Nat) : Bool := (s.pkg p).booted && !(s.pkg p).down

/-- A team whose threads issue: it is not stopped, and no commit is due (R201, R384, R388). -/
def State.teamRuns (s : State) (t : TeamId) : Bool :=
  s.pkgRuns t.core.pkg && (s.team t).any fun tm => tm.stop = .running && !tm.commitDue

/-- Every live thread of a team waits at a team's instruction at one PC (R333, R341). -/
def State.teamPolls (s : State) (t : TeamId) (pc : Pc) : Bool :=
  (s.members t).all fun (_, th) => !th.live || (th.pc = pc && match th.park with
    | .team _ => true
    | _ => false)

/-- Picker quarter of a team (R17, R312). -/
def State.quarter (s : State) (t : TeamId) : Nat := ((s.team t).map (·.tnum)).getD 0 % 4

/-- A thread has room in the counters that it waits for (R49). -/
def Thread.hasRoom (t : Thread) : Park → Bool
  | .room ldn stn cpn mxn | .whole ldn stn cpn mxn =>
    (!ldn || t.ldn < 63) && (!stn || t.stn < 63) && (!cpn || t.cpn < 63) && (!mxn || t.mxn < 63)
  | _ => true

/-- Two threads wait for room as one group (R49, R188). -/
def State.waitsWith (s : State) (a b : ThreadId × Thread) : Bool :=
  a.2.live && a.2.park = b.2.park && a.2.pc = b.2.pc && s.quarter a.1.team = s.quarter b.1.team &&
    (s.team a.1.team).map (·.block) = (s.team b.1.team).map (·.block)

/-- Nothing but its latency keeps a thread from issuing (R106). A thread that waits for a condition issues its instruction afresh when that
holds, one of a group that waits whole when it holds for every thread of the group; one of a team that has waited as one issues afresh by
itself when the team no longer stands there whole. -/
def State.able (s : State) (id : ThreadId) (t : Thread) : Bool :=
  t.live && t.deferred.isEmpty && s.teamRuns id.team &&
    (match t.park with
     | .ready => true
     | .window w n => s.windowServes id t w n
     | .ordered h => s.threads.all fun x => !(s.waitsWith x (id, t)) || s.holdOver x.1 h
     | .waitc lit => waitcMet lit t
     | .room .. => t.hasRoom t.park
     | .whole .. => s.threads.all fun x => !(s.waitsWith x (id, t)) || x.2.hasRoom x.2.park
     | .launch => (s.core id.team.core).launch.length < 4
     | .tags mask any => (s.core id.team.core).tagsMet mask any
     | .team _ => !s.teamPolls id.team t.pc
     | _ => false)

/-- The thread is ready: it could issue, and the latency of its previous instruction is over (R106). -/
def State.ready (s : State) (id : ThreadId) (t : Thread) : Bool := s.able id t && t.since ≤ s.cycle

/-- The ready threads. -/
def State.readyThreads (s : State) : List (ThreadId × Thread) := s.threads.filter fun (i, t) => s.ready i t

/-- A pop, which gathers the threads of one team only (R107). -/
def popWord (p : Parts) : Bool :=
  p.s && (match p.maj.toNat, p.min.toNat, p.fields with
    | 0x02, 0, .l1 f => (windowNo f.a).isSome
    | 0x0C, 3, _ | 0x0C, 4, _ => true
    | _, _, _ => false)

/-- What the threads of a candidate group have in common (R107): block and PC, the team where one team is gathered, the set where they were
released together (R121), and whether they wait whole for room (R49). -/
structure GroupKey where
  block : BlockId
  pc : Pc
  team : Option TeamId
  set : Option Nat
  whole : Bool
deriving DecidableEq, Repr

/-- A candidate group of a picker: its key, its threads, and whether it is a rendezvous set. -/
structure Candidate where
  key : GroupKey
  ids : List ThreadId
  rdv : Bool

/-- The candidate group a ready thread belongs to (R107). -/
def State.groupKey (s : State) (id : ThreadId) (t : Thread) : Option GroupKey :=
  (s.team id.team).map fun tm =>
    let one := (s.overlayUnder id t).any fun o => match o.fetch t.pc.off with
      | .parts p => popWord p
      | _ => false
    let whole := match t.park with
      | .whole .. => true
      | _ => false
    { block := tm.block, pc := t.pc, team := if one then some id.team else none, set := none, whole := whole }

/-- Waiting time of a thread: the cycles since it last became ready (R106). -/
def State.waitOf (s : State) (i : ThreadId) : Nat := ((s.thread i).map fun t => s.cycle - t.since).getD 0

/-- A group of more than 32 threads is cut to the 32 that have waited longest, ties by team number, then by lane (R107). -/
def State.cutGroup (s : State) (l : List ThreadId) : List ThreadId :=
  if l.length ≤ 32 then l
  else (sortBy (fun a b => s.waitOf b < s.waitOf a || (s.waitOf a = s.waitOf b && s.tidx a ≤ s.tidx b)) l).take 32

/-- The candidate groups of a picker's ready threads, in ascending tidx (R107). -/
def State.gatherable (s : State) (l : List (ThreadId × Thread)) : List Candidate :=
  let r := l.filterMap fun (i, t) => (s.groupKey i t).map fun k => (k, i)
  (r.map (·.1)).eraseDups.map fun k =>
    ⟨k, sortBy (fun a b => s.tidx a ≤ s.tidx b) (s.cutGroup ((r.filter fun x => x.1 = k).map (·.2))), false⟩

/-- The number of the released set that a thread belongs to; a team that waits at a team's instruction has none. -/
def setNo : Park → Option Nat
  | .released n _ => some n
  | _ => none

/-- A thread of a set that issues as one: of a released rendezvous set (R121), or of a team that has waited at its instruction until its
hold is over. -/
def State.inSet (s : State) (x : ThreadId × Thread) : Bool :=
  x.2.live && s.teamRuns x.1.team && x.2.since ≤ s.cycle && (match x.2.park with
    | .released _ _ => true
    | .team h => s.teamPolls x.1.team x.2.pc && s.holdOver x.1 h
    | _ => false)

/-- The candidate groups that issue as one. A set with a member that has a trap to take waits for it (R383). -/
def State.sets (s : State) : List Candidate :=
  let all := s.threads.filter s.inSet
  let keys := (all.map fun x => (x.1.team, x.2.pc, setNo x.2.park)).eraseDups
  keys.filterMap fun (t, pc, n) =>
    let mine := all.filter fun x => x.1.team = t && x.2.pc = pc && setNo x.2.park = n
    match s.team t with
    | none => none
    | some tm =>
      if mine.all fun x => x.2.deferred.isEmpty then
        some ⟨⟨tm.block, pc, some t, n, false⟩, sortBy (fun a b => a.lane ≤ b.lane) (mine.map (·.1)), true⟩
      else none

/-- The longest waiting time of a candidate's threads. -/
def State.longest (s : State) (c : Candidate) : Nat := (c.ids.map s.waitOf).foldl max 0

/-- The PC key (R107). -/
def Pc.key (p : Pc) : Nat := p.tok.toNat * 16384 + p.off

/-- The rules by which a picker prefers a candidate (R108): an overdue one with the longest waiting time, then the most threads, then the
lowest PC key, then the block, then the team. The rule orders two blocks at one PC key only when their waiting times are equal; the model
takes the lower block at any waiting times below the limit (DESIGN CHOICE; log entry 45). -/
def State.prefers (s : State) (a b : Candidate) : Bool :=
  let wa := s.longest a
  let wb := s.longest b
  let ka := a.key
  let kb := b.key
  if decide (1024 < wa) ≠ decide (1024 < wb) then decide (1024 < wa)
  else if 1024 < wa ∧ wa ≠ wb then wb < wa
  else if a.ids.length ≠ b.ids.length then b.ids.length < a.ids.length
  else if ka.pc ≠ kb.pc then ka.pc.key < kb.pc.key
  else if ka.block ≠ kb.block then ka.block.slot < kb.block.slot
  else ((ka.team.bind s.team).map (·.tnum)).getD 0 ≤ ((kb.team.bind s.team).map (·.tnum)).getD 0

/-- The candidate that a picker issues (R108). -/
def State.pickOf (s : State) : List Candidate → Option Candidate
  | [] => none
  | [c] => some c
  | c :: cs =>
    match s.pickOf cs with
    | none => some c
    | some d => some (if s.prefers c d then c else d)

/-- What each picker of each core issues: the choice of R108 among the candidates of its quarter (R12, R107, R108). Which picker's turn it is
at a step is free (log entry 1). -/
def State.groups (s : State) : List Group :=
  let rs := s.readyThreads
  let sets := s.sets
  let place := fun t : TeamId => (t.core, s.quarter t)
  let pickers := (rs.map (fun x => place x.1.team) ++ sets.filterMap fun c => c.ids.head?.map fun i => place i.team).eraseDups
  pickers.filterMap fun p =>
    let mine := s.gatherable (rs.filter fun x => place x.1.team = p) ++
      sets.filter fun c => c.ids.head?.any fun i => place i.team = p
    (s.pickOf mine).map fun c => ⟨p.1, c.ids, c.rdv⟩

/-! ## Events -/

/-- Events that a team can be due for. -/
def State.teamEvents (s : State) (t : TeamId) (tm : Team) : List Instr :=
  (match tm.stop with
   | .faulting => [.faultFrameSave t]
   | .fresh _ _ => [.freshStart t]
   | .rolling _ _ => [.rollback t]
   | _ => []) ++
  (if (s.members t).any fun (_, th) => (match th.park with | .arrived _ => true | _ => false)
   then [.rendezvousComplete t] else []) ++
  (if (s.members t).any fun (_, th) => (match th.park with | .bar _ _ | .barWord _ _ => true | _ => false)
   then [.barrierRelease t] else [])

/-- Events that a thread can be due for. -/
def threadEvents (i : ThreadId) (t : Thread) : List Instr :=
  (match t.park with
   | .yielding => [.yieldReady i]
   | .exiting => [.threadRetire i]
   | .copy _ => [.copyAccept i]
   | _ => []) ++
  (if t.fences.isEmpty then [] else [.heldAccessRelease i]) ++ (if t.deferred.isEmpty then [] else [.deferredTrap i])

/-- Events that a core can be due for. -/
def coreEvents (c : CoreId) (k : Core) : List Instr :=
  (k.copies.flatMap fun x =>
    [.copyComplete c x.cmd.tag, .copyPageFault c x.cmd.tag] ++ x.lines.map fun l => .copyLineFull c x.cmd.tag l.2) ++
  (k.mq.map fun m => .matrixStepRetire c m.key) ++ (if k.launch.isEmpty then [] else [.pendingLaunchTake c]) ++
  (if k.l1.any (·.copy.isSome) then [.windowEnd c] else [])

/-- Events that a partition can be due for. -/
def partEvents (now : Nat) (p : Nat) (x : Part) : List Instr :=
  (if x.running.isNone || x.boundary ≤ now then [.sliceBoundary p] else []) ++
  (match x.slicing with
   | .none => []
   | _ => [.preemptForcedStop p, .contextSave p]) ++
  (if x.watchdog = 0 then [] else [.watchdogFire p])

/-- Requests that wait at the stages of a table. -/
def waitingAt (t : Tbl Nat Stage) : List Nat := t.flatMap fun x => x.2.queue.map (·.req.rid)

/-- The events that may be due. -/
def State.eventList (s : State) : List Instr :=
  (s.teams.flatMap fun x => s.teamEvents x.1 x.2) ++ (s.threads.flatMap fun x => threadEvents x.1 x.2) ++
  (s.accs.flatMap fun a => [.loadDataReturn a.seq, .storePerformed a.seq, .putsigSignal a.seq, .atomicValueReturn a.seq,
    .pageFault a.seq] ++ if s.travels a then [.requestLeaveCore a.seq] else []) ++
  (s.teams.flatMap fun x => x.2.held.map fun h => .pageFault h.seq) ++
  (s.flights.flatMap fun f => [.requestLeaveCore f.req.rid, .stageArrival f.req.rid, .homePerform f.req.rid,
    .replySplit f.req.rid]) ++
  ((waitingAt s.races ++ waitingAt s.weirs).map fun r => .stageDepart r) ++
  (s.cores.flatMap fun x => coreEvents x.1 x.2) ++
  (s.qsets.flatMap fun x => [.fenceComplete x.1] ++
    ((s.parts.flatMap fun p => p.2.shares.flatMap fun sh => s.shardDies x.1.part sh.pkg).eraseDups.map fun d =>
      .stealMessage x.1 d)) ++
  (s.joins.map fun j => .joinDecrement j.key) ++
  (s.gateReqs.flatMap fun r => [.gateHomeRequest r.key, .gateReply r.key]) ++
  (s.gates.flatMap fun x => (List.range x.2.acl.length).map fun k => .bucketRefill x.1 k) ++
  (s.fills.flatMap fun f => [.overlayHeaderRead f.key, .overlayFillComplete f.key]) ++
  (s.parts.flatMap fun x => partEvents s.clkw x.1 x.2) ++
  (s.fns.flatMap fun x => if x.2.oldest.isSome then [.eventCoalesceTimeout x.1] else []) ++
  (s.pkgs.flatMap fun x => if x.2.booted || x.2.down then [] else [.firmwareBoot x.1])

/-- The package at which an event takes place, when it is one package's. -/
def State.eventPkg (s : State) (i : Instr) : Option Nat :=
  match i with
  | .rendezvousComplete t | .barrierRelease t | .freshStart t | .rollback t | .faultFrameSave t => some t.core.pkg
  | .threadRetire t | .heldAccessRelease t | .copyAccept t | .deferredTrap t | .yieldReady t => some t.team.core.pkg
  | .loadDataReturn a | .storePerformed a | .putsigSignal a | .atomicValueReturn a | .pageFault a => (s.access a).map (·.core.pkg)
  | .requestLeaveCore r => ((s.access r).map (·.core.pkg)).or ((s.flight r).map (·.req.src))
  | .homePerform r => (s.flight r).map (·.req.home)
  | .copyComplete c _ | .copyLineFull c _ _ | .copyPageFault c _ | .matrixStepRetire c _ | .pendingLaunchTake c | .windowEnd c => some c.pkg
  | .stealMessage _ d => some d.pkg
  | .overlayHeaderRead f | .overlayFillComplete f => (s.fills.find? (·.key = f)).map (·.core.pkg)
  | .gateHomeRequest r => ((s.gateReqs.find? (·.key = r)).bind fun q => tget s.gates q.num).map (·.home)
  | .gateReply r => ((s.gateReqs.find? (·.key = r)).bind fun q => q.owners.head?).map (·.team.core.pkg)
  | .bucketRefill g _ => (tget s.gates g).map (·.home)
  | .eventCoalesceTimeout f => some f.pkg
  | _ => none

/-- The package of an event has not shut down (R428). -/
def State.eventUp (s : State) (i : Instr) : Bool := (s.eventPkg i).all fun p => !(s.pkg p).down

/-- An event changes something: what is not due leaves the state as it is (log entry 20), and a package that is down does nothing (R428). -/
def State.changes (s : State) (i : Instr) : Bool :=
  s.eventUp i && (match exec i s with
  | .next t => t ≠ s
  | _ => true)

/-! ## Runner (R415, R416, R419) -/

/-- The command of an opcode of Table 2, none for another opcode; a SUB that the opcode does not have is refused by the
command itself. -/
def commandOf (op : Nat) (c : Cmd) : Option Instr :=
  match op with
  | 0x01 => some (.partSet c)
  | 0x02 => some (if c.sub = 1 then .partResume c else .partPause c)
  | 0x03 => some (.partReset c)
  | 0x04 => some (.rehome c)
  | 0x05 => some (if c.sub = 1 then .vfUnbind c else .vfBind c)
  | 0x06 => some (if c.sub = 1 then .revoke c else .grant c)
  | 0x07 => some (if c.sub = 1 then .s2Inval c else .s2Root c)
  | 0x08 => some (match c.sub with
    | 1 => .gateConfigure c
    | 2 => .gateRecycle c
    | 3 => .gateDelete c
    | _ => .gateCreate c)
  | 0x09 => some (if c.sub = 1 then .migrateStart c else .migrateQuiesce c)
  | 0x0A => some (.errread c)
  | 0x10 => some (.ctxCreate c)
  | 0x11 => some (.ctxStart c)
  | 0x12 => some (.ctxEnd c)
  | 0x13 => some (.s1Inval c)
  | 0x14 => some (if c.sub = 1 then .qsetDelete c else .qsetCreate c)
  | 0x15 => some (.qsubmit c)
  | 0x16 => some (.pageReply c)
  | 0x17 => some (.ringSet c)
  | 0x20 => some (.selftest c)
  | 0x21 => some (if c.sub = 1 then .fwRecover c else .fwUpdate c)
  | 0x22 => some (.attest c)
  | _ => none

/-- The next record of a function's command ring: its opcode and the command (R415, Table 1). -/
def State.nextRecord (s : State) (f : FnId) : Nat × Cmd :=
  let r := s.fn f
  let v := s.hostRead f.pkg (r.crBase + 64 * (r.crHead % 2 ^ r.crSize)) 64
  (fld v 0 16, { fn := f, sub := fld v 16 16, tag := w32 (fld v 32 32), param := BitVec.ofNat 448 (v / 2 ^ 64) })

/-- The partition numbers that a PF's command names (R430, Table 7). -/
def namedNumbers (op : Nat) (c : Cmd) : List Nat :=
  match op with
  | 0x05 => if c.sub = 0 then [fld (cmdArg c 0x0A 1) 0 5] else []
  | 0x06 => [fld (cmdArg c 0x08 1) 0 5, fld (cmdArg c 0x09 1) 0 5]
  | 0x01 | 0x02 | 0x03 | 0x04 | 0x07 | 0x09 => [fld (cmdArg c 0x08 1) 0 5]
  | _ => []

/-- The partitions that a PF's command names, as its package numbers them (R395). -/
def State.namedParts (s : State) (op : Nat) (c : Cmd) : List Nat := (namedNumbers op c).filterMap (s.partOn c.fn.pkg)

/-- An earlier command of the ring has not completed, or an earlier one that names the same partition (R415). -/
def State.ringWaits (s : State) (f : FnId) : Bool :=
  let (op, c) := s.nextRecord f
  let named := if f.vf.isNone then s.namedParts op c else []
  s.commandOpen f || (s.fns.any fun (_, r) => r.pending.any fun p => p.parts.any named.contains) ||
    s.parts.any fun (p, x) => x.pauseTag.isSome && named.contains p

/-- Runner of a package waits to restart (R422). -/
def State.restarting (s : State) (pkg : Nat) : Bool := s.fns.any fun x => x.1.pkg = pkg && x.2.pending.any (·.kind = .restart)

/-- Runner may take a record of the function: one is visible, no restart waits, no earlier one is open, and the event ring is not full. -/
def State.commandDue (s : State) (f : FnId) : Bool :=
  let r := s.fn f
  r.crSize ≠ 0 && !r.crOff && !s.restarting f.pkg && r.crHead < r.crTail && !(r.erSize ≠ 0 && !r.erFree) && s.pkgRuns f.pkg && !s.ringWaits f

/-- The number of the doorbell that the function's next record came with. -/
def Fn.bellNo (f : Fn) : Nat := (f.bells.head?.map (·.1)).getD 0

/-- The functions whose records runner takes next, one of each package, in the order of their doorbells (R415). -/
def State.commandFns (s : State) : List FnId :=
  let due := s.fns.filter fun x => s.commandDue x.1
  (due.filter fun x => due.all fun y => y.1.pkg ≠ x.1.pkg || x.2.bellNo ≤ y.2.bellNo).map (·.1)

/-- What a command waits for has come: its page replies, the accesses that an invalidation covers have been performed or wait to translate
again (R406), the other open commands of a package whose runner restarts have completed (R422), or a self-test may end (R424). -/
def State.pendingOver (s : State) (p : Pending) : Bool :=
  match p.kind with
  | .start => p.waits.isEmpty
  | .inval => p.waits.all fun n => (s.access n).all (·.state ≠ .sent)
  | .restart => !s.othersOpen p.cmd.fn
  | .test _ => true

/-- Commands that wait no longer. -/
def State.retries (s : State) : List Cmd :=
  s.fns.filterMap fun x => x.2.pending.bind fun p => if s.pendingOver p && s.pkgRuns x.1.pkg then some p.cmd else none

/-- A command that has waited is taken up: an invalidation completes, the others run afresh. -/
def State.takeUp (s : State) (c : Cmd) : Out :=
  match (s.fn c.fn).pending.map fun p : Pending => p.kind with
  | some .inval => .next ((s.unpend c.fn).complete c.fn c.tag stOk 0)
  | some .restart => exec (.fwRecover c) s
  | some (.test _) => exec (.selftest c) s
  | _ => exec (.ctxStart c) s

/-- A record taken: the ring's head moves on, and the command runs, or is refused (R415, R416). -/
def State.takeCommand (s : State) (f : FnId) : Out :=
  let (op, c) := s.nextRecord f
  let s := s.updFn f fun r => { r with crHead := r.crHead + 1, bells := r.bells.filter fun b => r.crHead + 1 < b.2 }
  match commandOf op c with
  | some i => exec i s
  | none => .next (s.complete f c.tag stBadcmd 0)

/-! ## The outside world -/

/-- The steps that the outside world causes: register writes, power, temperature, links, frames, a reset (R412, R422, R427
to R429). -/
def outside (i : Instr) : Bool :=
  match i with
  | .crdoor _ _ | .crsize _ _ | .ersize _ _ | .erhead _ _ | .prhead _ _ | .bar0RegisterWrite _ _ _ | .firmwareBoot _
  | .powerLimit _ _ | .thermalShutdown _ | .linkFlitReplay _ _ _ | .ethernetFrameReceived _ _ => true
  | _ => false

/-- A hardware error takes place (R379, R392, R412, R431). -/
def State.strike (s : State) (e : Strike) : State :=
  match e with
  | .upset u => { s with upsets := s.upsets ++ [u] }
  | .poison key => { s with poison := s.poison ++ [key] }
  | .defect pkg path => { s with defects := s.defects ++ [(pkg, path)] }
  | .corrected p n => if n ∈ [0, 2, 4] then s.countPart p n else s
  | .shared pkg n => if 2 ≤ n ∧ n ≤ 7 then s.countPkg pkg n else s
  | .fatal p pkg table =>
    (match table with
     | some n => if 11 ≤ n ∧ n ≤ 13 then s.countPkg pkg n else s
     | none => s).resetPart p

/-- The next act of the outside world. -/
def State.takeInput (s : State) : Out :=
  match s.inputs with
  | [] => .next s
  | x :: xs =>
    let s := { s with inputs := xs }
    match x with
    | .hostWrite pkg addr bs => .next (s.hostPut pkg addr bs)
    | .podWrite pkg hpa bs => .next (s.memPlace (memKey pkg hpa) bs)
    | .strike e => .next (s.strike e)
    | .act i => if outside i then exec i s else .next s

/-! ## Choosing (R108, R216, R228; log entry 1) -/

/-- Everything the machine can do. -/
def State.enabled (s : State) : List Action :=
  s.groups.map Action.issue ++ ((s.eventList.filter s.changes).map Action.event) ++
    (if s.inputs.isEmpty then [] else [Action.input]) ++ s.commandFns.map Action.command ++ s.retries.map Action.retry

/-- What it does. -/
def State.choose (s : State) : Option Action :=
  match s.enabled with
  | [] => none
  | [a] => some a
  | as => as[Config.choose s.tick % as.length]?

/-- The action taken. -/
def State.act (s : State) : Action → Out
  | .issue g => s.issue g
  | .event i => exec i s
  | .input => s.takeInput
  | .command f => s.takeCommand f
  | .retry c => s.takeUp c

/-! ## What every step does -/

/-- The context that an event works for, when it belongs to one. -/
def State.eventCtx (s : State) (i : Instr) : Option CtxId :=
  let acc := fun a : Nat => (s.access a).map (·.ctx)
  let flight := fun r : Nat => (s.flight r).map (·.req.ctx)
  match i with
  | .rendezvousComplete t | .barrierRelease t | .freshStart t | .rollback t => s.ctxOf t
  | .threadRetire t | .heldAccessRelease t | .copyAccept t | .deferredTrap t => s.ctxOf t.team
  | .loadDataReturn a | .storePerformed a | .putsigSignal a | .atomicValueReturn a => acc a
  | .requestLeaveCore r | .stageArrival r | .homePerform r | .replySplit r => flight r
  | .stageDepart r =>
    ((s.races ++ s.weirs).findSome? fun x => x.2.queue.find? fun q => q.req.rid = r).map (·.req.ctx)
  | .copyComplete c tag | .copyLineFull c tag _ => ((s.core c).copies.find? (·.cmd.tag = tag)).map (·.cmd.ctx)
  | .matrixStepRetire c m => ((s.core c).mq.find? (·.key = m)).map (·.ctx)
  | .pendingLaunchTake c => (s.core c).launch.head?.map (·.ctx)
  | .joinDecrement j => (s.joins.find? (·.key = j)).map (·.ctx)
  | .gateHomeRequest r | .gateReply r => (s.gateReqs.find? (·.key = r)).map (·.ctx)
  | .overlayHeaderRead f | .overlayFillComplete f => (s.fills.find? (·.key = f)).map (·.ctx)
  | _ => none

/-- Some thread of the group has retired its instruction or taken a trap: it has not stayed at its PC to issue again. -/
def State.retiredSince (s : State) (g : Group) (before : State) : Bool :=
  g.ids.any fun i => match before.thread i, s.thread i with
    | some o, some t => t.pc ≠ o.pc || !t.live || (t.park = .ready && (s.team i.team).any fun tm => !tm.commitDue)
    | _, _ => true

/-- The context for which an action made progress (R392). -/
def State.progressCtx (before : State) (a : Action) (after : State) : Option CtxId :=
  match a with
  | .issue g => if after.retiredSince g before then g.ids.head?.bind fun i => before.ctxOf i.team else none
  | .event i => before.eventCtx i
  | _ => none

/-- Nothing but other accesses of its threads keeps an access from being performed: no element of its teams is held on a page request. -/
def State.unheld (s : State) (a : Access) : Bool :=
  (a.state = .sent || a.state = .waiting) && a.reqs.isEmpty && !(s.pkg a.core.pkg).down &&
    s.accs.all fun b => !(b.state = .faulted || b.state = .withheld) || !(a.owners.any fun i => b.ofTeam i.team)

/-- The latest time to which a remote access lets CLKW go: it is performed by the start of the second window after its own, whatever of its
threads goes before it (R231). -/
def State.latest (s : State) (a : Access) : Option Nat :=
  let len := s.windowLen a.ctx a.core.pkg
  if len = 0 || !a.writes || a.got.isSome || (s.homeOfAcc a).all (· = a.core.pkg) || !s.unheld a then none
  else some ((a.born / len + 2) * len - 1)

/-- The time at which an event ring's oldest record without an interrupt has stood TIME µs (R420). -/
def Fn.timeout (f : Fn) : Option Nat := if f.time = 0 then none else f.oldest.map (· + 1000 * f.time)

/-- CLKW after a step that began at a time (R25, R378, R231, R420; log entry 7): it never falls, and passes over no instant at which
something is due. -/
def State.nextClock (s : State) (then_ : Nat) : Nat :=
  let timeouts := s.fns.filterMap fun x => if (s.pkg x.1.pkg).down then none else x.2.timeout
  max then_ ((s.accs.filterMap s.latest ++ timeouts).foldl min (then_ + Config.elapsedNs s.tick))

/-- The clocks go on: CLKW for the pod, CLKR for each partition that neither pauses nor is being migrated (R25, R378). -/
def State.passTime (s : State) (then_ : Nat) : State :=
  let now := s.nextClock then_
  { s with clkw := now, parts := tmap s.parts fun _ p =>
      if p.paused || p.quiesced then p else { p with clkr := p.clkr + (now - then_) } }

/-- The team's context is ending at this slice boundary: it commits no more (R456). -/
def State.endsNow (s : State) (t : TeamId) : Bool :=
  match s.ctxOf t with
  | some c => (s.ctx c).any (·.ending) && (s.part (s.partOfCtx c)).any fun x => x.slicing ≠ .none
  | none => false

/-- Teams whose commit is due and that have nothing outstanding commit (R388), a team that is to roll back when the commit follows an
irrevocable operation (R390). -/
def State.commitsDue (s : State) : State :=
  s.teams.foldl (fun s (t, tm) =>
    if tm.commitDue && s.quiet t && !s.endsNow t && (match tm.stop with
      | .running | .sliced _ => true
      | .rolling _ _ => tm.irrevocable
      | _ => false) then s.commit t else s) s

/-- Replays that are over end (R202). -/
def State.replaysDone (s : State) : State :=
  s.teams.foldl (fun s (t, tm) => if tm.stop = .replaying then s.endReplay t else s) s

/-- What follows every action. -/
def State.settle (s : State) : State := s.fatalErrors.commitsDue.replaysDone.settleBars.settleSlices

/-- The threads that an action has gathered. -/
def Action.ids : Action → List ThreadId
  | .issue g => g.ids
  | _ => []

/-- The cycle from which a thread waits, at the end of a step (R103, R106): after an issue the latency of the instruction, the same for
every thread of its group; else the cycle at which it parks otherwise than before, or becomes able to issue. -/
def State.sinceOf (before : State) (ids : List ThreadId) (s : State) (id : ThreadId) (t : Thread) : Nat :=
  match before.thread id with
  | none => s.cycle
  | some o =>
    if ids.contains id then s.cycle + Config.latency before.tick
    else if o.park ≠ t.park || (s.able id t && !before.able id o) then s.cycle
    else t.since

/-- Cycles go by, and the threads that have issued or become ready note it. A step without an action takes at least one. -/
def State.passCycles (before : State) (a : Option Action) (s : State) : State :=
  let s := { s with cycle := before.cycle + Config.cycles before.tick + b2n a.isNone }
  s.mapThreads fun i t => { t with since := before.sinceOf ((a.map Action.ids).getD []) s i t }

/-- A step's end: its number, the progress it made, what follows it, and the clocks; no group is gathered between steps. -/
def State.finish (before : State) (a : Option Action) (s : State) : State :=
  let s := match a.bind fun a => before.progressCtx a s with
    | some c => s.updPart (before.partOfCtx c) fun p => { p with progress := s.clkw }
    | none => s
  let s := before.passCycles a s.settle
  ({ s with tick := before.tick + 1, gathered := State.reset.gathered, words := (0, 0) }).passTime before.clkw

end Sys2Proof.Machine
end

