-- ==== Sys2Proof/Machine/Step.lean ====
section
/-! DEFINITION. One step of the machine, and the state in which its next step issues a given word. -/
namespace Sys2Proof.Machine

/-- One step: one action of those that are enabled, then what every step does. With nothing enabled only time passes. -/
def step (s : State) : Out :=
  match s.choose with
  | none => .next (s.finish none s)
  | some a =>
    match s.act a with
    | .next t => .next (s.finish (some a) t)
    | .fault r => .fault r
    | .refused r => .refused r

/-- A machine whose only ready thread stands at a word of a resident overlay, with nothing else to do (log entry 29): the
load of a program, whose steps are FIRMWARE_BOOT, host commands, a slice and a fill of the overlay. Memories, clocks and the
numbers given out stay. -/
def State.withFetchWord (s : State) (nbits w : Nat) : State :=
  let v := w % 2 ^ nbits
  let core : CoreId := ⟨0, 0⟩
  let vf : VfId := ⟨0, 0⟩
  let ctx : CtxId := ⟨vf, 0⟩
  let team : TeamId := ⟨core, 0⟩
  let block : BlockId := ⟨core, 0⟩
  let o : Overlay :=
    { vf := vf, pasid := 0, image := 0, state := .resident, len := 4, entries := [0],
      body := [BitVec.ofNat 32 v, BitVec.ofNat 32 (v / 2 ^ 32), 0, 0], slots := [0], gen := 0, pins := 0, refs := 0,
      stamp := 0, counts := [] }
  let share : Share := ⟨0, 1, 0, 0, 0, 0, 0, 0, 0⟩
  let part : Part :=
    { shares := [share], homing := ⟨[], []⟩, oldHoming := none, paused := false, pausing := false, quiesced := false,
      clkr := 0, running := some ctx, boundary := s.clkw + 1, quanta := 0, lastCidx := [], lastVf := 0, slicing := .none,
      pauseTag := none, progress := s.clkw }
  let f : Vf :=
    { part := 0, quota := 0, out := 0, snapArea := 0, frameArea := 0, saveArea := 0, snapSlot := 0, frameSlot := 0,
      saveSize := 0, errs := List.replicate 12 0 }
  let c : Ctx :=
    { pasid := 0, s1root := 0, shdctl := 0, shdnew := 0, sup := false, vdiv := 0, mfail := 0, clamp := 0, started := true, ending := false,
      endTags := [], prio := 0, saved := none, susp := [], snaps := [], resumes := [] }
  let b : Block :=
    { ctx := ctx, descVa := 0, entry := 0, handler := 0, nregs := 120, teams := 1, windows := List.replicate 4 0, budget := 0,
      gang := 0, gpos := 0, lost := false }
  let t : Team :=
    { block := block, tnum := 0, role := 0, frame := 0, targ := 0, task := none, unchk := 0, mnv := false, mof := false,
      msat := false, held := [], wlines := [], wtiles := [], snap := none, stop := .running, commitDue := false, irrevocable := false }
  { State.reset with
    tick := s.tick, seq := s.seq, clkw := s.clkw, mem := s.mem, hostMem := s.hostMem, poison := s.poison,
    defects := s.defects, threads := [(⟨team, 0⟩, startThread 120)], teams := [(team, t)], blocks := [(block, b)],
    cores := [(core, { Core.reset with overlays := [o], tokmap := [⟨0, 0, 0, vf, 0⟩] })], ctxs := [(ctx, c)],
    vfs := [(vf, f)], parts := [(0, part)], pkgs := [(0, { Pkg.reset with ready := true, booted := true })] }

end Sys2Proof.Machine
end

