-- ==== Sys2Proof/WellFormed.lean ====
section
/-! DEFINITION. Well-formed instructions: words that pass step 1 of Table 6 (02_formats R44, R58), and steps and commands
whose names are those of parts the machine has. -/
namespace Sys2Proof

/-- A package number is 16 x row + column (R18) and a core number one of 256 (R14). -/
def CoreId.wf (c : CoreId) : Bool := c.pkg < 256 && c.core < 256
/-- One of 64 team slots (R17). -/
def TeamId.wf (t : TeamId) : Bool := t.core.wf && t.slot < 64
/-- One of 32 lanes (R17). -/
def ThreadId.wf (t : ThreadId) : Bool := t.team.wf && t.lane < 32
/-- One of 4 dies (R13). -/
def DieId.wf (d : DieId) : Bool := d.pkg < 256 && d.die < 4
/-- A partition number has 5 bits and an INDEX 10 (R318, R319, R430). -/
def QSetId.wf (q : QSetId) : Bool := q.part < 32 && q.idx < 1024
/-- A VF number has 10 bits (R413, R430). -/
def FnId.wf (f : FnId) : Bool := f.pkg < 256 && f.vf.all (· < 1024)
/-- SUB has two bytes (R415). -/
def Cmd.wf (c : Cmd) : Bool := c.fn.wf && c.sub < 65536

/-- Step 1 of Table 6 for a word; legal names for the machine's other steps. -/
def Instr.wf (i : Instr) : Bool :=
  match i with
  | .rendezvousComplete t => t.wf
  | .yieldReady t => t.wf
  | .threadRetire t => t.wf
  | .loadDataReturn _ => true
  | .storePerformed _ => true
  | .heldAccessRelease t => t.wf
  | .putsigSignal _ => true
  | .requestLeaveCore _ => true
  | .stageArrival _ => true
  | .stageDepart _ => true
  | .homePerform _ => true
  | .replySplit _ => true
  | .atomicValueReturn _ => true
  | .barrierRelease t => t.wf
  | .pageFault _ => true
  | .faultFrameSave t => t.wf
  | .deferredTrap t => t.wf
  | .freshStart t => t.wf
  | .rollback t => t.wf
  | .copyAccept t => t.wf
  | .copyPageFault c _ => c.wf
  | .copyLineFull c _ _ => c.wf
  | .copyComplete c _ => c.wf
  | .matrixStepRetire c _ => c.wf
  | .pendingLaunchTake c => c.wf
  | .stealMessage q d => q.wf && d.wf
  | .joinDecrement _ => true
  | .fenceComplete q => q.wf
  | .gateHomeRequest _ => true
  | .gateReply _ => true
  | .overlayHeaderRead _ => true
  | .overlayFillComplete _ => true
  | .sliceBoundary p => p < 32
  | .preemptForcedStop p => p < 32
  | .contextSave p => p < 32
  | .windowEnd c => c.wf
  | .bucketRefill gate _ => gate < 65536
  | .watchdogFire p => p < 32
  | .eventCoalesceTimeout fn => fn.wf
  | .crdoor fn _ => fn.wf
  | .crsize fn _ => fn.wf
  | .ersize fn _ => fn.wf
  | .erhead fn _ => fn.wf
  | .prhead fn _ => fn.wf
  | .bar0RegisterWrite fn _ _ => fn.wf
  | .partSet c => c.wf
  | .partPause c => c.wf
  | .partResume c => c.wf
  | .partReset c => c.wf
  | .rehome c => c.wf
  | .vfBind c => c.wf
  | .vfUnbind c => c.wf
  | .grant c => c.wf
  | .revoke c => c.wf
  | .s2Root c => c.wf
  | .s2Inval c => c.wf
  | .gateCreate c => c.wf
  | .gateConfigure c => c.wf
  | .gateRecycle c => c.wf
  | .gateDelete c => c.wf
  | .migrateQuiesce c => c.wf
  | .migrateStart c => c.wf
  | .errread c => c.wf
  | .ctxCreate c => c.wf
  | .ctxStart c => c.wf
  | .ctxEnd c => c.wf
  | .s1Inval c => c.wf
  | .qsetCreate c => c.wf
  | .qsetDelete c => c.wf
  | .qsubmit c => c.wf
  | .pageReply c => c.wf
  | .ringSet c => c.wf
  | .selftest c => c.wf
  | .fwUpdate c => c.wf
  | .fwRecover c => c.wf
  | .attest c => c.wf
  | .firmwareBoot pkg => pkg < 256
  | .powerLimit pkg _ => pkg < 256
  | .thermalShutdown pkg => pkg < 256
  | .linkFlitReplay pkg _ _ => pkg < 256
  | .ethernetFrameReceived pkg _ => pkg < 256
  | i => (partsOf i).any Machine.legalParts

/-- The proposition. -/
abbrev Instr.WellFormed (i : Instr) : Prop := i.wf = true

end Sys2Proof
end

