-- ==== Sys2Proof/Safety.lean ====
section
/-! DEFINITION. What counts as a safe run, and the terms in which the statements speak of an issue: when the operands of a
group pass the checks of Table 6 (02_formats R44), and what the group becomes when each thread takes its effect. -/
namespace Sys2Proof.Machine

/-- A step goes on: the machine neither faults nor refuses. -/
def Out.goesOn : Out → Prop
  | .next _ => True
  | .fault _ => False
  | .refused _ => False

/-! ## Lane instructions -/

/-- A property of every gathered thread whose guard is true (R30, R33). -/
def State.forOn (s : State) (f : L1) (p : ThreadId → Thread → Prop) : Prop :=
  ∀ x ∈ s.threads, x.1 ∈ s.gathered.ids → x.2.guard f.g f.gn = true → p x.1 x.2

/-- Steps 4 and 5 of Table 6 pass on the operands in every gathered thread whose guard is true. -/
def State.operandsPass (s : State) (f : L1) (os : List Opd) : Prop := s.forOn f fun _ t => regCheck t os = none

/-- The state in which every gathered thread has executed: one whose guard is true took an effect, and all of them have
stepped past k words (R33, R50). Nothing else changed. -/
def State.laneNext (s : State) (f : L1) (k : Nat) (e : Env → Thread → Thread) : State :=
  s.mapThreads fun id t =>
    if id ∈ s.gathered.ids then (if t.guard f.g f.gn then (e (s.env id) t).step k else t.step k) else t

/-- The same when the effect places the PC itself: only threads whose guard is false step past. -/
def State.jumpNext (s : State) (f : L1) (k : Nat) (e : Env → Thread → Thread) : State :=
  s.mapThreads fun id t =>
    if id ∈ s.gathered.ids then (if t.guard f.g f.gn then e (s.env id) t else t.step k) else t

/-- Group n of g registers as a bit vector, register n lowest (R34). -/
def Thread.grp (e : Env) (t : Thread) (n g : Nat) : BitVec (32 * g) := BitVec.ofNat (32 * g) (t.readReg e n g)

/-! ## Uniform instructions -/

/-- The gathered threads whose guard is true, and those whose guard is false (R30, R33). -/
def State.onGroup (s : State) (f : L1) : List (ThreadId × Thread) := s.group.filter fun x => x.2.guard f.g f.gn
def State.onIds (s : State) (f : L1) : List ThreadId := (s.onGroup f).map (·.1)
def State.offIds (s : State) (f : L1) : List ThreadId := (s.group.filter fun x => !x.2.guard f.g f.gn).map (·.1)

/-- The leader of a uniform instruction is the first of the guard-true threads; its sources pass the checks, and the
destinations pass them in every guard-true thread (R45). -/
def State.leads (s : State) (f : L1) (srcs dsts : List Opd) (l : ThreadId) (lt : Thread) : Prop :=
  (s.onGroup f).head? = some (l, lt) ∧ regCheck lt srcs = none ∧ ∀ x ∈ s.onGroup f, regCheck x.2 dsts = none

/-- The state in which every guard-true thread took a uniform instruction's effect, and all gathered threads have stepped
past k words. -/
def State.uniNext (s : State) (f : L1) (k : Nat) (e : Thread → Thread) : State :=
  (s.stepAll (s.offIds f) k).updThreads (s.onIds f) fun t => (e t).step k

/-! ## Rendezvous sets -/

/-- The state in which a released set has performed a cross-lane instruction: its guard-true members took an effect, and all
members have stepped past it together (R121). -/
def State.crossNext (s : State) (f : L1) (e : ThreadId → Thread → Thread) : State :=
  (s.mapThreads fun id t => if id ∈ s.onIds f then e id t else t).stepAll s.gathered.ids 2

/-- The state in which the threads of a released set are ready (R121). -/
def State.readied (s : State) : State := s.updThreads s.gathered.ids fun t => { t with park := .ready }

/-! ## Element instructions -/

/-- The floating-point format that a register's tag names (R132). -/
def Thread.fmt (t : Thread) (n : Nat) : FFmt := (fmtOfTag (t.tagOf n)).getD f32

/-- All registers of the groups carry one floating-point tag that arithmetic accepts (R133). -/
def Thread.floatGroups (t : Thread) (gs : List (Nat × Nat)) : Prop :=
  ∃ tag ∈ [1, 2, 3], ∀ g ∈ gs, ∀ j < g.2, t.tagOf (g.1 + j) = tag

/-- All registers of a group carry a given tag. -/
def Thread.tagged (t : Thread) (n w tag : Nat) : Prop := ∀ j < w, t.tagOf (n + j) = tag

/-- No shadow unit disagrees with the thread's next checked result (R149). -/
def Env.sound (e : Env) : Prop := e.upset = none ∨ e.vchk = false

/-! ## Accesses -/

/-- The scope that an instruction names is not clamped in a thread's context (R22). -/
def State.unclamped (s : State) (id : ThreadId) (f : LM) : Prop := s.accScope id f = (s, f.scope.toNat)

/-- The exact effective address of a thread's instruction (R177). -/
def State.addrOf (s : State) (f : LM) (idx : Bool) (x : ThreadId × Thread) : Int :=
  memAddr f idx (s.env x.1) x.2 (s.frameOf x.1)

/-- The thread's address passes the checks of R178 to R181. -/
def State.placed (s : State) (f : LM) (idx : Bool) (size : Nat) (aligned : Bool) (x : ThreadId × Thread) (loc : Option Loc) : Prop :=
  s.place x.1 f.space.toNat (s.addrOf f idx x) size aligned = .ok loc

/-- Accesses numbered from n on. -/
def numbered : Nat → List Access → List Access
  | _, [] => []
  | n, a :: as => { a with seq := n } :: numbered (n + 1) as

/-- The state in which the guard-true threads have issued accesses, numbered in their order, and took an effect, and all
gathered threads have stepped past the instruction (R49, R206). -/
def State.issued (s : State) (f : L1) (as : List Access) (e : Thread → Thread) : State :=
  { s.uniNext f 2 e with seq := s.seq + as.length, accs := s.accs ++ numbered s.seq as }

end Sys2Proof.Machine
end

