-- ==== Sys2Proof/Certificates/Slice0/Obligations.lean ====
section
/-! DEFINITION. The statements about the machine: what its rules say each instruction, event and command does. The terms that
they share are in the namespace `Sys2Proof.Claims` and in `Sys2Proof.Safety`. -/
namespace Sys2Proof.Claims
end Sys2Proof.Claims
open Sys2Proof Sys2Proof.Machine Sys2Proof.Claims

/-! ## The machine as a whole -/

/-- What reset leaves (R422): no partition, VF, context, thread or queue set, nothing in flight, and package (0, 0) powered with its firmware not
started and FIRMWARE_READY 0. The rest is the model's choice: that memory lists nothing and an unlisted byte reads 0 log entry 3's, CLKW at 0 log
entry 7's, rings that are disabled and empty log entry 9's, and which packages there are and how they stand log entries 10's and 71's. -/
def Obligations.ResetState : Prop :=
  let s := State.reset
  s.clkw = 0 ∧ s.threads = [] ∧ s.teams = [] ∧ s.ctxs = [] ∧ s.vfs = [] ∧ s.parts = [] ∧ s.qsets = [] ∧ s.gates = [] ∧
  s.accs = [] ∧ s.flights = [] ∧ s.pages = [] ∧ (s.pkg 0).ready = false ∧ (s.pkg 0).booted = false ∧
  Memory.wf s.mem = true ∧ Memory.wf s.hostMem = true ∧
  (∀ c n, (s.core c).ctag.getLsbD n = decide (n < 64)) ∧ (∀ c, (s.core c).overlays = []) ∧
  ∀ fn, (s.fn fn).crSize = 0 ∧ (s.fn fn).erSize = 0

/-- A step runs the decoded instruction (R31, R43, R58, R107): when the machine issues a group whose first thread stands in a resident overlay, the words at
that thread's PC decode to the instruction that runs, on the state with the group gathered; words that decode to none raise ILLEGAL_ENCODING, and a PC
past the overlay's end, or a missing second word, ILLEGAL_TARGET. That a missing second word traps before the guard and the fields are looked at, and
an unassigned minor before that, is log entry 95's choice: no rule gives the order. A frame with an uncorrectable error runs nothing and raises UNCORRECTABLE with the
instruction store as its source (R382). Then the step ends: the clocks go on and what is due is settled. -/
def Obligations.StepRunsTheDecodedInstruction : Prop :=
  ∀ (s : State) (g : Group) (l : ThreadId) (ls : List ThreadId) (t : Thread) (o : Overlay),
    s.choose = some (.issue g) → g.ids = l :: ls → s.thread l = some t → s.overlayUnder l t = some o →
    let u := s.gather g o t.pc
    let after := fun r : Out => match r with
      | .next v => Host.Outcome.next (s.finish (some (.issue g)) v)
      | .fault x => .fault x
      | .refused x => .refused x
    let sound := s.badCode g.core o t.pc.off = false
    (∀ w i, sound → o.word t.pc.off = some w → decode w (o.word (t.pc.off + 1)) = .ok i → step s = after (exec i u)) ∧
    (∀ w, sound → o.word t.pc.off = some w → decode w (o.word (t.pc.off + 1)) = .error .unassignedMajor ∨
      decode w (o.word (t.pc.off + 1)) = .error .unassignedMinor →
      step s = .next (s.finish (some (.issue g)) (u.allRaise (trapR 0x01 0 0)))) ∧
    (sound → o.word t.pc.off = none ∨ (∃ w, o.word t.pc.off = some w ∧ decode w (o.word (t.pc.off + 1)) = .error .missingWord) →
      step s = .next (s.finish (some (.issue g)) (u.allRaise (trapR 0x06 t.pc.off 0)))) ∧
    (∀ c, ¬sound → u.ctxOf l.team = some c →
      step s = .next (s.finish (some (.issue g)) ((u.countVf c.vf 5).allRaise (trapR 0x21 4 0)))) ∧
    u.gathered.ids.Nodup ∧ (∀ i ∈ u.gathered.ids, i ∈ g.ids) ∧
    ∀ i th, s.thread i = some th → u.thread i = some (if i ∈ g.ids then { th with park := .ready } else th)

namespace Sys2Proof.Claims

/-- The bytes of a word in memory, least significant first (R31). -/
def bytesOfWord (w : W32) : List Byte := [w.extractLsb' 0 8, w.extractLsb' 8 8, w.extractLsb' 16 8, w.extractLsb' 24 8]

end Sys2Proof.Claims

/-- Decode and encode agree: every instruction word of the machine, with every operand at every value of its fields, decodes from its encoding to
itself, also from the bytes with anything after them; and an instruction that decodes has the words it came from as its encoding (R31, R32, R39 to R41, R56, R57). -/
def Obligations.DecodeEncodeRoundTrip : Prop :=
  (∀ (i : Instr) (w : W32) (ws : List W32), encode i = w :: ws → decode w ws.head? = .ok i) ∧
  (∀ (i : Instr) (rest : List Byte), encode i ≠ [] →
    decodeBytes ((encode i).flatMap bytesOfWord ++ rest) = .ok (i, rest)) ∧
  (∀ (w : W32) (x : Option W32) (i : Instr), decode w x = .ok i →
    encode i = [w] ∨ ∃ y, x = some y ∧ encode i = [w, y])

/-- Words written out bit by bit from the encodings decode to the instructions they stand for: S, MAJ, G, GN, W, D, A, MIN, then the second word's fields
(R32, R39 to R41, R56, R57); unassigned majors and minors are refused, and so is a two-word instruction without its second word (R43, R58). -/
def Obligations.WrittenWordsDecode : Prop :=
  decode 0b0_000000_11111_0_00_0000011_0000101_000#32 none = .ok (.add ⟨31, false, 0, 3, 5⟩) ∧
  decode 0b0_000001_00010_1_01_0001000_0000010_001#32 (some 0b0000100_0000000_000000_000000000000#32) =
    .ok (.subReg ⟨⟨2, true, 1, 8, 2⟩, 4, 0, 0, 0⟩) ∧
  decode 0b0_000010_11111_0_00_0000001_0000001_000#32 (some 0xFFFFFFFF#32) = .ok (.addLit ⟨⟨31, false, 0, 1, 1⟩, 0xFFFFFFFF⟩) ∧
  decode 0b0_000110_11111_0_00_0000111_0000110_010#32 (some 0b0000101_0000100_000001_000000000000#32) =
    .ok (.bfi ⟨⟨31, false, 0, 7, 6⟩, 5, 4, 1, 0⟩) ∧
  decode 0b0_001001_11111_0_00_0000010_0001001_010#32 (some 0b0001010_0000000_000000_000000000000#32) =
    .ok (.cmpLt ⟨⟨31, false, 0, 2, 9⟩, 10, 0, 0, 0⟩) ∧
  decode 0b0_010000_11111_0_00_0000000_0000000_000#32 (some 0xFFFFFFFC#32) = .ok (.bra ⟨⟨31, false, 0, 0, 0⟩, 0xFFFFFFFC⟩) ∧
  decode 0b0_010001_11111_0_00_0000000_0000000_011#32 none = .ok (.exit ⟨31, false, 0, 0, 0⟩) ∧
  decode 0b0_010011_11111_0_00_0000001_0000010_000#32 (some 0b0000011_0000000_000001_000000000000#32) =
    .ok (.tsum ⟨⟨31, false, 0, 1, 2⟩, 3, 0, 1, 0⟩) ∧
  decode 0b0_100000_11111_0_00_0000001_0000010_101#32 (some 0b0000011_0000100_010101_000001000001#32) =
    .ok (.ffma ⟨⟨31, false, 0, 1, 2⟩, 3, 4, 21, 65⟩) ∧
  decode 0b0_110000_11111_0_01_0000100_0000110_100#32 (some 0b0000_001_1111100_00_00_010_00000010000#32) =
    .ok (.ldw ⟨⟨31, false, 1, 4, 6⟩, 0, 1, 124, 0, 0, 2, 16⟩) ∧
  decode 0b0_110011_11111_0_00_1111100_0000010_011#32 (some 0b0011_000_0001000_00_01_100_11111111100#32) =
    .ok (.atcas ⟨⟨31, false, 0, 124, 2⟩, 3, 0, 8, 0, 1, 4, 2044⟩) ∧
  decode 0b1_000000_11111_0_00_0000001_0000010_111#32 (some 0b0000011_0000000_000000_000000000000#32) =
    .ok (.umul ⟨⟨31, false, 0, 1, 2⟩, 3, 0, 0, 0⟩) ∧
  decode 0b1_001110_11111_0_00_0000000_0000000_011#32 (some 0x00000006#32) = .ok (.fence ⟨⟨31, false, 0, 0, 0⟩, 6⟩) ∧
  decode 0b1_010001_11111_0_00_0000101_0000000_001#32 (some 0b0000000_0000000_000000_000001000000#32) =
    .ok (.srd ⟨⟨31, false, 0, 5, 0⟩, 0, 0, 0, 64⟩) ∧
  (∀ x, decode 0b0_111111_11111_0_00_0000000_0000000_000#32 x = .error .unassignedMajor) ∧
  (∀ x, decode 0b0_000011_11111_0_00_0000000_0000000_111#32 x = .error .unassignedMinor) ∧
  decode 0b0_000001_11111_0_00_0000000_0000000_000#32 none = .error .missingWord

/-- The machine always goes on: every instruction, event and command answers a next state in every state, so that every step does: what goes wrong in a
thread is a trap, and a task that a trap ends leaves a machine that runs (R380, R381). That an event which is not due, or a command that waits, answers
a state too is the model's choice (log entry 20). -/
def Obligations.TheMachineGoesOn : Prop := (∀ i s, ∃ t, exec i s = .next t) ∧ ∀ s, (step s).goesOn

/-- Memory keeps its canonical form over every step: addresses strictly rise and no cell holds what an unlisted address reads as, in the pod's memory and
in the hosts'. That memory is bytes at addresses is R5's; the list, its form, and the 0 that an unlisted byte reads as, are the model's choice (log
entry 3). -/
def Obligations.MemoryKeepsItsForm : Prop :=
  ∀ s t : State, Memory.wf s.mem = true → Memory.wf s.hostMem = true → step s = .next t →
    Memory.wf t.mem = true ∧ Memory.wf t.hostMem = true

/-- Time over every step (R25, R378): CLKW never falls, a step has its number, and no group stays gathered between steps; of CLKR this says
nothing. The step's number is the model's own field (log entry 1). -/
def Obligations.ClocksNeverFall : Prop :=
  ∀ s t : State, step s = .next t → s.clkw ≤ t.clkw ∧ t.tick = s.tick + 1 ∧ t.gathered.ids = []

/-- Taking a trap and leaving the handler (R380). A thread with a handler, not in one, saves TCAUSE, TINFO and TADDR, is in the handler, and has the resume
point in TLINK; with the handler's overlay resident it stands at the entry at once, its registers and predicates as they were. Without a handler, or inside one, its task
ends (R381). A RET through the link pair that equals TLINK leaves the handler, and through another stays in it (R114): of a thread whose pair names a resident
overlay, which goes on at the offset at once, and of one whose image must be filled first. TLINKHI holds 14 bits of the offset (log entry 79), and a RET that waits
for a fill has left the handler before it (log entry 102): the model's choices. -/
def Obligations.TrapsEnterAndLeave : Prop :=
  (∀ (s : State) (id : ThreadId) (t : Thread) (b : Block) (r : Raise) (x : CtxId) (o : Overlay) (off : Nat),
    s.thread id = some t → s.blockOf id.team = some b → recoveryCause r.cause = false → b.handler ≠ 0 → t.inh = false →
    s.ctxOf id.team = some x → (s.core id.team.core).tagged x.vf (s.pasid x) (erefImage b.handler.toNat) = some o →
    o.state = .resident → o.entries[erefEntry b.handler.toNat]? = some off →
    (s.deliver id r).thread id = some { t with
      cause := BitVec.ofNat 8 r.cause, inh := true, defer := r.defer, tinfo := w32 r.info, taddr := BitVec.ofNat 64 r.addr
      tlinkLo := (r.link.getD t.pc).tok, tlinkHi := BitVec.ofNat 14 (r.link.getD t.pc).off
      pc := ⟨BitVec.ofNat 16 ((s.core id.team.core).tokenOf o), off⟩, park := .ready } ∧
    (s.deliver id r).mem = s.mem ∧ ∀ j, j ≠ id → (s.deliver id r).thread j = s.thread j) ∧
  (∀ (s : State) (id : ThreadId) (t : Thread) (b : Block) (r : Raise), s.thread id = some t → s.blockOf id.team = some b →
    recoveryCause r.cause = false → b.handler = 0 ∨ t.inh = true → s.gangTeams id.team = [] →
    s.deliver id r = s.killTeam id r ∧ ∀ tm, s.team id.team = some tm → ((s.deliver id r).team id.team).map (·.stop) = some (.fresh id r)) ∧
  (∀ (f : L1) (s : State) (l : ThreadId) (t : Thread) (c : CtxId), (Instr.ret f).WellFormed → s.gathered.ids = [l] → s.thread l = some t →
    t.guard f.g f.gn = true → regCheck t [⟨.src 2, f.a.toNat⟩] = none → s.ctxOf l.team = some c →
    (s.team l.team).any (fun tm => tm.stop = .running) = true →
    let tok := t.readReg (s.env l) f.a.toNat 1
    let off := t.readReg (s.env l) (f.a.toNat + 1) 1
    tok < 2 ^ 16 → off < 2 ^ 14 →
    let inside := t.inh && !(t.tlinkLo.toNat = tok && t.tlinkHi.toNat = off)
    (∀ o, s.resolve l.team.core c tok = .overlay o → (s.core l.team.core).tagged c.vf (s.pasid c) o.image = some o → o.state = .resident →
      off < o.len →
      exec (.ret f) s = .next ((s.updThread l fun t =>
        { t with inh := inside, pc := ⟨BitVec.ofNat 16 ((s.core l.team.core).tokenOf o), off⟩, park := .ready }).stampOverlay l.team.core o)) ∧
    (∀ i, s.resolve l.team.core c tok = .image i → s.heldFor l.team [l] 0 = false →
      exec (.ret f) s = .next ((s.updThread l fun t => { t with inh := inside }).goTo l i tok off)))

/-- Illegal words and operands trap, and change nothing else (R44, R58): a word whose fields fail step 1 raises ILLEGAL_ENCODING in every gathered thread; threads
whose operands fail the range or the hazard check keep their records and raise that check's trap, here for the arithmetic of lane 0x01. -/
def Obligations.ChecksTrap : Prop :=
  (∀ (i : Instr) (s : State), encode i ≠ [] → ¬i.WellFormed → exec i s = .next (s.allRaise (trapR 0x01 0 0))) ∧
  (∀ c ∈ [Instr.addReg, .subReg, .andReg, .orReg, .xorReg], ∀ (f : L2R) (s : State), (c f).WellFormed →
    let os : List Opd := [⟨.src (gsz f.w), f.a.toNat⟩, ⟨.src (gsz f.w), f.b.toNat⟩, ⟨.dst (gsz f.w), f.d.toNat⟩]
    (∀ x ∈ s.onGroup f.toL1, (regCheck x.2 os).isSome = true) →
    exec (c f) s = .next ((s.jumpNext f.toL1 2 fun _ t => t).raises
      ((s.onGroup f.toL1).filterMap fun x => (regCheck x.2 os).map fun r => (x.1, r))))

namespace Sys2Proof.Claims

/-- Lane instructions that write registers or predicates only: the first register and the number of registers written, and whether predicates are. -/
def laneWrites (i : Instr) : Option (Nat × Nat × Bool) :=
  match i with
  | .add f | .sub f | .and f | .or f | .xor f | .shl f | .shr f | .sar f | .not f | .neg f | .abs f | .popc f | .clz f | .ctz f
  | .brev f | .fclass f | .frint f | .fsat f | .rcp f | .rsq f | .sqrt f | .ex2 f | .lg2 f | .sin f | .cos f | .tanh f
  | .tagget f => some (f.d.toNat, gsz f.w, false)
  | .addReg f | .subReg f | .andReg f | .orReg f | .xorReg f | .shlReg f | .shrReg f | .sarReg f | .mul f | .mulhs f | .mulhu f
  | .mad f | .min f | .max f | .minu f | .maxu f | .sel f | .div f | .divu f | .rem f | .remu f | .bfx f | .bfxu f | .bfi f
  | .rotl f | .andn f | .fadd f | .fsub f | .fmul f | .fmin f | .fmax f | .ffma f => some (f.d.toNat, gsz f.w, false)
  | .addLit f | .subLit f | .andLit f | .orLit f | .xorLit f | .shlLit f | .shrLit f | .sarLit f | .movl f | .sext f | .zext f
  | .tagset f => some (f.d.toNat, gsz f.w, false)
  | .madw f | .leax f => some (f.d.toNat, 2, false)
  | .lea f => some (f.d.toNat, 2, false)
  | .bsel f | .prd f | .dot2 f | .dot4 f | .dot8 f | .dot4f f | .dot8f f | .scl f => some (f.d.toNat, 1, false)
  | .cvt f | .cvti f | .cvtf f | .pack f | .unpk f => some (f.d.toNat, (cvtGroups f).2, false)
  | .cmpEq _ | .cmpNe _ | .cmpLt _ | .cmpGe _ | .cmpLtu _ | .cmpGeu _ | .cmpTst _ | .cmpTstz _ | .pand _ | .por _ | .pxor _
  | .pandn _ | .pmov _ | .pset _ | .pwr _ | .fcmpEq _ | .fcmpNe _ | .fcmpLt _ | .fcmpLe _ | .fcmpUno _ | .fcmpOrd _ =>
    some (0, 0, true)
  | .cmpiEq _ | .cmpiNe _ | .cmpiLt _ | .cmpiGe _ | .cmpiLtu _ | .cmpiGeu _ | .cmpiTst _ | .cmpiTstz _ | .tagchk _ =>
    some (0, 0, true)
  | _ => none

end Sys2Proof.Claims

/-- The frame of the lane instructions on registers and predicates, on every path, a trap's too: every byte of memory reads as before, and so do the accesses
in flight, barriers, queue sets, gates and partitions; a thread that is not gathered keeps its registers and predicates, and a gathered one all registers outside the
destination group, and its predicates unless they are what is written. -/
def Obligations.LaneInstructionsFrame : Prop :=
  ∀ (i : Instr) (n w : Nat) (p : Bool) (s t : State), laneWrites i = some (n, w, p) → exec i s = .next t →
    (∀ a, memGet t.mem a = memGet s.mem a) ∧ t.accs = s.accs ∧ t.bars = s.bars ∧ t.qsets = s.qsets ∧ t.gates = s.gates ∧
    t.parts = s.parts ∧ t.clkw = s.clkw ∧
    ∀ id th, s.thread id = some th → ∃ th', t.thread id = some th' ∧
      (∀ k, id ∉ s.gathered.ids ∨ k < n ∨ n + w ≤ k → th'.regs[k]? = th.regs[k]?) ∧
      (id ∉ s.gathered.ids ∨ p = false → th'.preds = th.preds) ∧
      th'.ldn = th.ldn ∧ th'.cpn = th.cpn ∧ th'.mxn = th.mxn ∧ th'.fmode = th.fmode ∧ th'.live = th.live

/-- One request for several contributions does what they do one by one (R246, R247): the word takes the value, and each contribution is given the value, of their
performance in turn, for the operations of Table 1 on integers. -/
def Obligations.CombiningEqualsSerial : Prop :=
  let serial := fun (op : NetOp) (size v : Nat) (xs : List Nat) => xs.foldl (fun v x => netNew op size v x 0) v
  ∀ op ∈ [NetOp.add, .and, .or, .xor, .max, .min, .maxu, .minu, .swp, .ld], ∀ (size v : Nat) (xs : List Nat),
    size = 4 ∨ size = 8 → v < 2 ^ (8 * size) → (∀ x ∈ xs, x < 2 ^ (8 * size)) →
    (xs ≠ [] → netNew op size v (netFold op size xs) 0 = serial op size v xs) ∧
    (∀ k, k ≤ xs.length → netGive op size v (xs.take k) = serial op size v (xs.take k))

/-! ## Forms of the integer instructions -/

namespace Sys2Proof.Claims

/-- An L1 instruction d := d op a over the group of W (R73, R79). -/
def DestForm (c : L1 → Instr) (op : (n : Nat) → BitVec n → BitVec n → BitVec n) : Prop :=
  ∀ (f : L1) (s : State), (c f).WellFormed →
    s.operandsPass f [⟨.src (gsz f.w), f.a.toNat⟩, ⟨.dst (gsz f.w), f.d.toNat⟩] →
    exec (c f) s = .next (s.laneNext f 1 fun e t =>
      t.writeReg f.d.toNat (gsz f.w) (op _ (t.grp e f.d.toNat (gsz f.w)) (t.grp e f.a.toNat (gsz f.w))).toNat 0)

/-- An L1 instruction d := d shifted by the single register A (R81). -/
def DestShift (c : L1 → Instr) (op : (n : Nat) → BitVec n → Nat → BitVec n) : Prop :=
  ∀ (f : L1) (s : State), (c f).WellFormed →
    s.operandsPass f [⟨.src 1, f.a.toNat⟩, ⟨.dst (gsz f.w), f.d.toNat⟩] →
    exec (c f) s = .next (s.laneNext f 1 fun e t =>
      t.writeReg f.d.toNat (gsz f.w) (op _ (t.grp e f.d.toNat (gsz f.w)) (t.grp e f.a.toNat 1).toNat).toNat 0)

/-- An L1 instruction d := op a. -/
def UnaryForm (c : L1 → Instr) (op : (n : Nat) → BitVec n → BitVec n) : Prop :=
  ∀ (f : L1) (s : State), (c f).WellFormed →
    s.operandsPass f [⟨.src (gsz f.w), f.a.toNat⟩, ⟨.dst (gsz f.w), f.d.toNat⟩] →
    exec (c f) s = .next (s.laneNext f 1 fun e t =>
      t.writeReg f.d.toNat (gsz f.w) (op _ (t.grp e f.a.toNat (gsz f.w))).toNat 0)

/-- An L2R instruction d := a op b over the group of W. -/
def RegForm (c : L2R → Instr) (op : (n : Nat) → BitVec n → BitVec n → BitVec n) : Prop :=
  ∀ (f : L2R) (s : State), (c f).WellFormed →
    s.operandsPass f.toL1 [⟨.src (gsz f.w), f.a.toNat⟩, ⟨.src (gsz f.w), f.b.toNat⟩, ⟨.dst (gsz f.w), f.d.toNat⟩] →
    exec (c f) s = .next (s.laneNext f.toL1 2 fun e t =>
      t.writeReg f.d.toNat (gsz f.w) (op _ (t.grp e f.a.toNat (gsz f.w)) (t.grp e f.b.toNat (gsz f.w))).toNat 0)

/-- An L2R instruction d := a shifted by the single register B. -/
def RegShift (c : L2R → Instr) (op : (n : Nat) → BitVec n → Nat → BitVec n) : Prop :=
  ∀ (f : L2R) (s : State), (c f).WellFormed →
    s.operandsPass f.toL1 [⟨.src (gsz f.w), f.a.toNat⟩, ⟨.src 1, f.b.toNat⟩, ⟨.dst (gsz f.w), f.d.toNat⟩] →
    exec (c f) s = .next (s.laneNext f.toL1 2 fun e t =>
      t.writeReg f.d.toNat (gsz f.w) (op _ (t.grp e f.a.toNat (gsz f.w)) (t.grp e f.b.toNat 1).toNat).toNat 0)

/-- An L2I instruction d := a op literal, the literal sign-extended to the group (R80). -/
def LitForm (c : L2I → Instr) (op : (n : Nat) → BitVec n → BitVec n → BitVec n) : Prop :=
  ∀ (f : L2I) (s : State), (c f).WellFormed →
    s.operandsPass f.toL1 [⟨.src (gsz f.w), f.a.toNat⟩, ⟨.dst (gsz f.w), f.d.toNat⟩] →
    exec (c f) s = .next (s.laneNext f.toL1 2 fun e t =>
      t.writeReg f.d.toNat (gsz f.w) (op _ (t.grp e f.a.toNat (gsz f.w)) (f.lit.signExtend _)).toNat 0)

/-- An L2I instruction d := a shifted by the literal. -/
def LitShift (c : L2I → Instr) (op : (n : Nat) → BitVec n → Nat → BitVec n) : Prop :=
  ∀ (f : L2I) (s : State), (c f).WellFormed →
    s.operandsPass f.toL1 [⟨.src (gsz f.w), f.a.toNat⟩, ⟨.dst (gsz f.w), f.d.toNat⟩] →
    exec (c f) s = .next (s.laneNext f.toL1 2 fun e t =>
      t.writeReg f.d.toNat (gsz f.w) (op _ (t.grp e f.a.toNat (gsz f.w)) f.lit.toNat).toNat 0)

/-- A compare of lane 0x09: predicate D takes a condition of groups A and B, and no register changes (R95). -/
def CompareForm (c : L2R → Instr) (p : (n : Nat) → BitVec n → BitVec n → Bool) : Prop :=
  ∀ (f : L2R) (s : State), (c f).WellFormed →
    s.operandsPass f.toL1 [⟨.src (gsz f.w), f.a.toNat⟩, ⟨.src (gsz f.w), f.b.toNat⟩] →
    exec (c f) s = .next (s.laneNext f.toL1 2 fun e t =>
      t.setPred f.d.toNat (p _ (t.grp e f.a.toNat (gsz f.w)) (t.grp e f.b.toNat (gsz f.w))))

/-- A compare of lane 0x0A, with the sign-extended literal (R95). -/
def CompareLit (c : L2I → Instr) (p : (n : Nat) → BitVec n → BitVec n → Bool) : Prop :=
  ∀ (f : L2I) (s : State), (c f).WellFormed → s.operandsPass f.toL1 [⟨.src (gsz f.w), f.a.toNat⟩] →
    exec (c f) s = .next (s.laneNext f.toL1 2 fun e t =>
      t.setPred f.d.toNat (p _ (t.grp e f.a.toNat (gsz f.w)) (f.lit.signExtend _)))

/-! ## Values (R79, R82, R84, R87, R91, R92, R95) -/

/-- High half of the 2n-bit product of sign-extended operands. -/
def mulHighS (n : Nat) (x y : BitVec n) : BitVec n := (x.signExtend (2 * n) * y.signExtend (2 * n)).extractLsb' n n

/-- High half of the 2n-bit product of zero-extended operands. -/
def mulHighU (n : Nat) (x y : BitVec n) : BitVec n := (x.setWidth (2 * n) * y.setWidth (2 * n)).extractLsb' n n

/-- Number of leading bits of a list that do not hold. -/
def zeros (l : List Bool) : Nat := (l.takeWhile fun b => !b).length

/-- The bits of a value, least significant first. -/
def bitsOf (n : Nat) (x : BitVec n) : List Bool := (List.range n).map x.getLsbD

/-- The conditions of Table 8, by minor. -/
def holds (k n : Nat) (x y : BitVec n) : Bool :=
  match k with
  | 0 => x = y
  | 1 => x ≠ y
  | 2 => x.slt y
  | 3 => y.sle x
  | 4 => x.ult y
  | 5 => y.ule x
  | 6 => x &&& y ≠ 0
  | _ => x &&& y = 0

end Sys2Proof.Claims

/-- The three forms of add, subtract, the logical operations and the shifts (R79, R80, R81). -/
def Obligations.AluThreeForms : Prop :=
  (DestForm .add fun _ x y => x + y) ∧ (DestForm .sub fun _ x y => x - y) ∧ (DestForm .and fun _ x y => x &&& y) ∧
  (DestForm .or fun _ x y => x ||| y) ∧ (DestForm .xor fun _ x y => x ^^^ y) ∧ (DestShift .shl fun _ x k => x <<< k) ∧
  (DestShift .shr fun _ x k => x >>> k) ∧ (DestShift .sar fun _ x k => x.sshiftRight k) ∧
  (RegForm .addReg fun _ x y => x + y) ∧ (RegForm .subReg fun _ x y => x - y) ∧ (RegForm .andReg fun _ x y => x &&& y) ∧
  (RegForm .orReg fun _ x y => x ||| y) ∧ (RegForm .xorReg fun _ x y => x ^^^ y) ∧ (RegShift .shlReg fun _ x k => x <<< k) ∧
  (RegShift .shrReg fun _ x k => x >>> k) ∧ (RegShift .sarReg fun _ x k => x.sshiftRight k) ∧
  (LitForm .addLit fun _ x y => x + y) ∧ (LitForm .subLit fun _ x y => x - y) ∧ (LitForm .andLit fun _ x y => x &&& y) ∧
  (LitForm .orLit fun _ x y => x ||| y) ∧ (LitForm .xorLit fun _ x y => x ^^^ y) ∧ (LitShift .shlLit fun _ x k => x <<< k) ∧
  (LitShift .shrLit fun _ x k => x >>> k) ∧ (LitShift .sarLit fun _ x k => x.sshiftRight k)

/-- Products, minima, maxima, quotients and remainders, ROTL and ANDN (R82, R84, R87, R88, R91). A quotient by 0 is all ones
and a remainder by 0 the dividend. -/
def Obligations.MultiplyDivideMinMax : Prop :=
  (RegForm .mul fun _ x y => x * y) ∧ (RegForm .mulhs mulHighS) ∧ (RegForm .mulhu mulHighU) ∧
  (RegForm .min fun _ x y => if x.sle y then x else y) ∧ (RegForm .max fun _ x y => if x.sle y then y else x) ∧
  (RegForm .minu fun _ x y => if x.ule y then x else y) ∧ (RegForm .maxu fun _ x y => if x.ule y then y else x) ∧
  (RegForm .div fun n x y => if y = 0 then BitVec.allOnes n else x.sdiv y) ∧
  (RegForm .divu fun n x y => if y = 0 then BitVec.allOnes n else x.udiv y) ∧
  (RegForm .rem fun _ x y => if y = 0 then x else x.srem y) ∧ (RegForm .remu fun _ x y => if y = 0 then x else x.umod y) ∧
  (RegShift .rotl fun _ x k => x.rotateLeft k) ∧ (RegForm .andn fun _ x y => x &&& ~~~y)

namespace Sys2Proof.Claims

/-- Unary integer instructions (R92); MOV without a window. -/
def UnaryInteger : Prop :=
  (∀ (f : L1) (s : State), (Instr.mov f).WellFormed → windowNo f.a = none → windowNo f.d = none →
    s.operandsPass f [⟨.src (gsz f.w), f.a.toNat⟩, ⟨.dst (gsz f.w), f.d.toNat⟩] →
    exec (.mov f) s = .next (s.laneNext f 1 fun e t =>
      t.writeReg f.d.toNat (gsz f.w) (t.grp e f.a.toNat (gsz f.w)).toNat 0)) ∧
  (UnaryForm .not fun _ x => ~~~x) ∧ (UnaryForm .neg fun _ x => -x) ∧ (UnaryForm .abs fun _ x => x.abs) ∧
  (UnaryForm .popc fun n x => BitVec.ofNat n ((bitsOf n x).filter id).length) ∧
  (UnaryForm .clz fun n x => BitVec.ofNat n (zeros (bitsOf n x).reverse)) ∧
  (UnaryForm .ctz fun n x => BitVec.ofNat n (zeros (bitsOf n x))) ∧ (UnaryForm .brev fun _ x => x.reverse)

/-- The sixteen compares (R95, Table 8). -/
def CompareWritesPredicate : Prop :=
  CompareForm .cmpEq (holds 0) ∧ CompareForm .cmpNe (holds 1) ∧ CompareForm .cmpLt (holds 2) ∧ CompareForm .cmpGe (holds 3) ∧
  CompareForm .cmpLtu (holds 4) ∧ CompareForm .cmpGeu (holds 5) ∧ CompareForm .cmpTst (holds 6) ∧
  CompareForm .cmpTstz (holds 7) ∧ CompareLit .cmpiEq (holds 0) ∧ CompareLit .cmpiNe (holds 1) ∧
  CompareLit .cmpiLt (holds 2) ∧ CompareLit .cmpiGe (holds 3) ∧ CompareLit .cmpiLtu (holds 4) ∧
  CompareLit .cmpiGeu (holds 5) ∧ CompareLit .cmpiTst (holds 6) ∧ CompareLit .cmpiTstz (holds 7)

/-- MAD, MADW, SEL and LEAX (R82, R83, R85, R86). -/
def MultiplyAddSelectAddress : Prop :=
  (∀ (f : L2R) (s : State), (Instr.mad f).WellFormed →
    s.operandsPass f.toL1 [⟨.src (gsz f.w), f.a.toNat⟩, ⟨.src (gsz f.w), f.b.toNat⟩, ⟨.src (gsz f.w), f.c.toNat⟩,
      ⟨.dst (gsz f.w), f.d.toNat⟩] →
    exec (.mad f) s = .next (s.laneNext f.toL1 2 fun e t => t.writeReg f.d.toNat (gsz f.w)
      (t.grp e f.a.toNat (gsz f.w) * t.grp e f.b.toNat (gsz f.w) + t.grp e f.c.toNat (gsz f.w)).toNat 0)) ∧
  (∀ (f : L2R) (s : State), (Instr.madw f).WellFormed →
    s.operandsPass f.toL1 [⟨.src 1, f.a.toNat⟩, ⟨.src 1, f.b.toNat⟩, ⟨.src 2, f.c.toNat⟩, ⟨.dst 2, f.d.toNat⟩] →
    exec (.madw f) s = .next (s.laneNext f.toL1 2 fun e t =>
      let a := t.grp e f.a.toNat 1
      let b := t.grp e f.b.toNat 1
      t.writeReg f.d.toNat 2 ((if f.mod = 1 then a.signExtend _ * b.signExtend _ else a.setWidth _ * b.setWidth _) +
        t.grp e f.c.toNat 2).toNat 0)) ∧
  (∀ (f : L2R) (s : State), (Instr.sel f).WellFormed →
    s.operandsPass f.toL1 [⟨.src (gsz f.w), f.a.toNat⟩, ⟨.src (gsz f.w), f.b.toNat⟩, ⟨.dst (gsz f.w), f.d.toNat⟩] →
    exec (.sel f) s = .next (s.laneNext f.toL1 2 fun e t => t.writeReg f.d.toNat (gsz f.w)
      (if t.pred f.c.toNat then t.grp e f.a.toNat (gsz f.w) else t.grp e f.b.toNat (gsz f.w)).toNat 0)) ∧
  (∀ (f : L2R) (s : State), (Instr.leax f).WellFormed →
    s.operandsPass f.toL1 [⟨.src 2, f.a.toNat⟩, ⟨.src 1, f.b.toNat⟩, ⟨.dst 2, f.d.toNat⟩] →
    exec (.leax f) s = .next (s.laneNext f.toL1 2 fun e t =>
      let b := t.grp e f.b.toNat 1
      let i : BitVec (32 * 2) := if f.imm.getLsbD 2 then b.setWidth _ else b.signExtend _
      t.writeReg f.d.toNat 2 (t.grp e f.a.toNat 2 + i <<< (f.imm.toNat % 4)).toNat 0))

/-- Position and length of a bit field (R89): IMM12 in the immediate form, bits 7:0 and 15:8 of the control register in the
other. -/
def fieldAt (f : L2R) (ctl : BitVec 32) : Nat × Nat :=
  if f.mod = 1 then ((ctl.extractLsb' 0 8).toNat, (ctl.extractLsb' 8 8).toNat)
  else ((f.imm.extractLsb' 0 6).toNat, (f.imm.extractLsb' 6 6).toNat + 1)

/-- The mask of a field cut at bit n - 1. -/
def fieldMask (n pos len : Nat) : BitVec n := (BitVec.allOnes (min len (n - pos))).setWidth n <<< pos

/-- Operand of the control register, in the register form. -/
def ctlOpd (f : L2R) (n : BitVec 7) : List Opd := if f.mod = 1 then [⟨.src 1, n.toNat⟩] else []

/-- Bit-field extract and insert, and the byte select (R89, R90). -/
def BitFieldsAndByteSelect : Prop :=
  (∀ (f : L2R) (s : State), (Instr.bfx f).WellFormed →
    s.operandsPass f.toL1 ([⟨.src (gsz f.w), f.a.toNat⟩] ++ ctlOpd f f.b ++ [⟨.dst (gsz f.w), f.d.toNat⟩]) →
    exec (.bfx f) s = .next (s.laneNext f.toL1 2 fun e t =>
      let p := fieldAt f (t.grp e f.b.toNat 1)
      t.writeReg f.d.toNat (gsz f.w)
        (((t.grp e f.a.toNat (gsz f.w)).extractLsb' p.1 (min p.2 (32 * gsz f.w - p.1))).signExtend (32 * gsz f.w)).toNat 0)) ∧
  (∀ (f : L2R) (s : State), (Instr.bfxu f).WellFormed →
    s.operandsPass f.toL1 ([⟨.src (gsz f.w), f.a.toNat⟩] ++ ctlOpd f f.b ++ [⟨.dst (gsz f.w), f.d.toNat⟩]) →
    exec (.bfxu f) s = .next (s.laneNext f.toL1 2 fun e t =>
      let p := fieldAt f (t.grp e f.b.toNat 1)
      t.writeReg f.d.toNat (gsz f.w)
        (((t.grp e f.a.toNat (gsz f.w)).extractLsb' p.1 (min p.2 (32 * gsz f.w - p.1))).setWidth (32 * gsz f.w)).toNat 0)) ∧
  (∀ (f : L2R) (s : State), (Instr.bfi f).WellFormed →
    s.operandsPass f.toL1 ([⟨.src (gsz f.w), f.a.toNat⟩, ⟨.src (gsz f.w), f.b.toNat⟩] ++ ctlOpd f f.c ++
      [⟨.dst (gsz f.w), f.d.toNat⟩]) →
    exec (.bfi f) s = .next (s.laneNext f.toL1 2 fun e t =>
      let p := fieldAt f (t.grp e f.c.toNat 1)
      let m := fieldMask (32 * gsz f.w) p.1 p.2
      t.writeReg f.d.toNat (gsz f.w)
        ((t.grp e f.a.toNat (gsz f.w) &&& ~~~m) ||| (t.grp e f.b.toNat (gsz f.w) <<< p.1 &&& m)).toNat 0)) ∧
  (∀ (f : L2R) (s : State), (Instr.bsel f).WellFormed →
    s.operandsPass f.toL1 ([⟨.src 1, f.a.toNat⟩, ⟨.src 1, f.b.toNat⟩] ++
      (if f.mod.getLsbD 0 then [⟨.src 1, f.c.toNat⟩] else []) ++ [⟨.dst 1, f.d.toNat⟩]) →
    exec (.bsel f) s = .next (s.laneNext f.toL1 2 fun e t =>
      let ctl := if f.mod.getLsbD 0 then (t.grp e f.c.toNat 1).setWidth 16 else (f.mod.extractLsb' 1 4 ++ f.imm : BitVec 16)
      let from_ := t.grp e f.b.toNat 1 ++ t.grp e f.a.toNat 1
      let byte := fun i => if ctl.getLsbD (12 + i) then (0 : Byte) else from_.extractLsb' (8 * (ctl.extractLsb' (3 * i) 3).toNat) 8
      t.writeReg f.d.toNat 1 (byte 3 ++ byte 2 ++ byte 1 ++ byte 0).toNat 0))

end Sys2Proof.Claims

/-- MAD, MADW, SEL, LEAX, and the bit-field and byte-select instructions. -/
def Obligations.MultiplyAddAndBitFields : Prop := MultiplyAddSelectAddress ∧ BitFieldsAndByteSelect

namespace Sys2Proof.Claims

/-- MOVL, LEA, SEXT and ZEXT (R93, R94). -/
def LiteralMovesAndExtensions : Prop :=
  (∀ (f : L2I) (s : State), (Instr.movl f).WellFormed → s.operandsPass f.toL1 [⟨.dst (gsz f.w), f.d.toNat⟩] →
    exec (.movl f) s = .next (s.laneNext f.toL1 2 fun _ t =>
      t.writeReg f.d.toNat (gsz f.w) (f.lit.signExtend (32 * gsz f.w)).toNat 0)) ∧
  (∀ (f : L2I) (s : State), (Instr.lea f).WellFormed →
    s.operandsPass f.toL1 [⟨.src 2, f.a.toNat⟩, ⟨.dst 2, f.d.toNat⟩] →
    exec (.lea f) s = .next (s.laneNext f.toL1 2 fun e t =>
      t.writeReg f.d.toNat 2 (t.grp e f.a.toNat 2 + f.lit.signExtend _).toNat 0)) ∧
  (∀ (f : L2I) (s : State), (Instr.sext f).WellFormed →
    s.operandsPass f.toL1 [⟨.src 1, f.a.toNat⟩, ⟨.dst (gsz f.w), f.d.toNat⟩] →
    exec (.sext f) s = .next (s.laneNext f.toL1 2 fun e t =>
      t.writeReg f.d.toNat (gsz f.w)
        (((t.grp e f.a.toNat 1).extractLsb' 0 f.lit.toNat).signExtend (32 * gsz f.w)).toNat 0)) ∧
  (∀ (f : L2I) (s : State), (Instr.zext f).WellFormed →
    s.operandsPass f.toL1 [⟨.src 1, f.a.toNat⟩, ⟨.dst (gsz f.w), f.d.toNat⟩] →
    exec (.zext f) s = .next (s.laneNext f.toL1 2 fun e t =>
      t.writeReg f.d.toNat (gsz f.w)
        (((t.grp e f.a.toNat 1).extractLsb' 0 f.lit.toNat).setWidth (32 * gsz f.w)).toNat 0))

end Sys2Proof.Claims

/-- The unary integer instructions, literal moves and extensions. -/
def Obligations.UnaryAndLiteralMoves : Prop := UnaryInteger ∧ LiteralMovesAndExtensions

namespace Sys2Proof.Claims

/-- A predicate operation: p[D] takes a value of the thread's predicates, and needs no register. -/
def PredForm (c : L2R → Instr) (v : L2R → Thread → Bool) : Prop :=
  ∀ (f : L2R) (s : State), (c f).WellFormed →
    exec (c f) s = .next (s.laneNext f.toL1 2 fun _ t => t.setPred f.d.toNat (v f t))

/-- The predicate instructions of lane 0x0B (R97, R98). -/
def PredicateInstructions : Prop :=
  (PredForm .pand fun f t => t.pred f.a.toNat && t.pred f.b.toNat) ∧
  (PredForm .por fun f t => t.pred f.a.toNat || t.pred f.b.toNat) ∧
  (PredForm .pxor fun f t => t.pred f.a.toNat != t.pred f.b.toNat) ∧
  (PredForm .pandn fun f t => t.pred f.a.toNat && !t.pred f.b.toNat) ∧
  (PredForm .pmov fun f t => t.pred f.a.toNat) ∧ (PredForm .pset fun f _ => f.imm = 1) ∧
  (∀ (f : L2R) (s : State), (Instr.prd f).WellFormed → s.operandsPass f.toL1 [⟨.dst 1, f.d.toNat⟩] →
    exec (.prd f) s = .next (s.laneNext f.toL1 2 fun _ t => t.writeReg f.d.toNat 1 t.preds.toNat 0)) ∧
  (∀ (f : L2R) (s : State), (Instr.pwr f).WellFormed →
    s.operandsPass f.toL1 [⟨.src 1, f.a.toNat⟩, ⟨.src 1, f.b.toNat⟩] →
    exec (.pwr f) s = .next (s.laneNext f.toL1 2 fun e t =>
      let m : BitVec 24 := (t.grp e f.b.toNat 1).setWidth 24
      { t with preds := (t.preds &&& ~~~m) ||| ((t.grp e f.a.toNat 1).setWidth 24 &&& m) })) ∧
  (∀ (t : Thread) (n k : Nat) (v : Bool), n < 24 → (t.setPred n v).pred k = if k = n then v else t.pred k)

end Sys2Proof.Claims

/-- The compares, which write a predicate, and the predicate instructions. -/
def Obligations.ComparesAndPredicates : Prop := CompareWritesPredicate ∧ PredicateInstructions

/-! ## Control flow -/

namespace Sys2Proof.Claims

/-- The word offset that a relative branch reaches (R52). -/
def branchTo (t : Thread) (lit : W32) : Int := (t.pc.off : Int) + lit.toInt

end Sys2Proof.Claims

/-- BRA, CALL, BRX and CALLX within the overlay: the PC goes to the target, and a call writes the return point to the pair D
(R111, R113). A target outside the overlay raises ILLEGAL_TARGET instead, in all four, with TINFO 0 for a relative one and the target for
an indexed one: the thread's record, its PC and the pair D among it, is then as it was when the trap is taken. -/
def Obligations.BranchesAndCalls : Prop :=
  (∀ (f : L2I) (s : State), (Instr.bra f).WellFormed →
    s.forOn f.toL1 (fun id t => 0 ≤ branchTo t f.lit ∧ branchTo t f.lit < (s.env id).len) →
    exec (.bra f) s = .next (s.jumpNext f.toL1 2 fun _ t => t.goto (branchTo t f.lit).toNat)) ∧
  (∀ (f : L2I) (s : State), (Instr.call f).WellFormed → s.operandsPass f.toL1 [⟨.dst 2, f.d.toNat⟩] →
    s.forOn f.toL1 (fun id t => 0 ≤ branchTo t f.lit ∧ branchTo t f.lit < (s.env id).len) →
    exec (.call f) s = .next (s.jumpNext f.toL1 2 fun _ t =>
      (t.writeReg f.d.toNat 2 (pairOf t.pc.tok.toNat (t.pc.off + 2)) 0).goto (branchTo t f.lit).toNat)) ∧
  (∀ (f : L1) (s : State), (Instr.brx f).WellFormed → s.operandsPass f [⟨.src 1, f.a.toNat⟩] →
    s.forOn f (fun id t => t.readReg (s.env id) f.a.toNat 1 < (s.env id).len) →
    exec (.brx f) s = .next (s.jumpNext f 1 fun e t => t.goto (t.readReg e f.a.toNat 1))) ∧
  (∀ (f : L1) (s : State), (Instr.callx f).WellFormed →
    s.operandsPass f [⟨.src 1, f.a.toNat⟩, ⟨.dst 2, f.d.toNat⟩] →
    s.forOn f (fun id t => t.readReg (s.env id) f.a.toNat 1 < (s.env id).len) →
    exec (.callx f) s = .next (s.jumpNext f 1 fun e t =>
      (t.writeReg f.d.toNat 2 (pairOf t.pc.tok.toNat (t.pc.off + 1)) 0).goto (t.readReg e f.a.toNat 1))) ∧
  (∀ (f : L2I) (s : State), (Instr.bra f).WellFormed →
    s.forOn f.toL1 (fun id t => branchTo t f.lit < 0 ∨ (s.env id).len ≤ branchTo t f.lit) →
    exec (.bra f) s = .next ((s.jumpNext f.toL1 2 fun _ t => t).raises
      ((s.onGroup f.toL1).map fun x => (x.1, trapR 0x06 0 0)))) ∧
  (∀ (f : L2I) (s : State), (Instr.call f).WellFormed → s.operandsPass f.toL1 [⟨.dst 2, f.d.toNat⟩] →
    s.forOn f.toL1 (fun id t => branchTo t f.lit < 0 ∨ (s.env id).len ≤ branchTo t f.lit) →
    exec (.call f) s = .next ((s.jumpNext f.toL1 2 fun _ t => t).raises
      ((s.onGroup f.toL1).map fun x => (x.1, trapR 0x06 0 0)))) ∧
  (∀ (f : L1) (s : State), (Instr.brx f).WellFormed → s.operandsPass f [⟨.src 1, f.a.toNat⟩] →
    s.forOn f (fun id t => (s.env id).len ≤ t.readReg (s.env id) f.a.toNat 1) →
    exec (.brx f) s = .next ((s.jumpNext f 1 fun _ t => t).raises
      ((s.onGroup f).map fun x => (x.1, trapR 0x06 (x.2.readReg (s.env x.1) f.a.toNat 1) 0)))) ∧
  (∀ (f : L1) (s : State), (Instr.callx f).WellFormed → s.operandsPass f [⟨.src 1, f.a.toNat⟩, ⟨.dst 2, f.d.toNat⟩] →
    s.forOn f (fun id t => (s.env id).len ≤ t.readReg (s.env id) f.a.toNat 1) →
    exec (.callx f) s = .next ((s.jumpNext f 1 fun _ t => t).raises
      ((s.onGroup f).map fun x => (x.1, trapR 0x06 (x.2.readReg (s.env x.1) f.a.toNat 1) 0))))

namespace Sys2Proof.Claims

/-- NOP, YIELD, BKPT and CONV (R116 to R118, R121): a NOP only steps; a YIELD steps and waits; BKPT raises BREAKPOINT with the
resume point after it; a CONV arrives, and the released set steps past it together. -/
def BareControl : Prop :=
  (∀ (f : L1) (s : State), (Instr.nop f).WellFormed → exec (.nop f) s = .next (s.laneNext f 1 fun _ t => t)) ∧
  (∀ (f : L1) (s : State), (Instr.yield f).WellFormed →
    exec (.yield f) s = .next (s.laneNext f 1 fun _ t => { t with park := .yielding })) ∧
  (∀ (f : L1) (s : State), (Instr.bkpt f).WellFormed →
    exec (.bkpt f) s = .next ((s.jumpNext f 1 fun _ t => t).raises ((s.onGroup f).map fun x =>
      (x.1, { trapR 0x30 0 0 with link := some { x.2.pc with off := x.2.pc.off + 1 } })))) ∧
  (∀ (f : L1) (s : State), (Instr.conv f).WellFormed → s.gathered.rdv = false →
    exec (.conv f) s = .next (s.arrive (s.gathered.ids.map fun i => (i, .conv)))) ∧
  (∀ (f : L1) (s : State), (Instr.conv f).WellFormed → s.gathered.rdv = true →
    exec (.conv f) s = .next (s.stepAll s.gathered.ids 1))

/-- RET and EXIT (R114, R115). RET sends every guard-true thread, in ascending tidx, to the point its link pair names, but none whose team a trap of the
same issue has stopped (R381). EXIT of threads without outstanding loads, while another live thread of their team stays, ends them and nothing else, when
no thread of the team waits at a rendezvous; of a team's last live threads it ends the task too (R316); threads with outstanding loads wait, in a group of
both kinds while the others go. -/
def ReturnAndExit : Prop :=
  (∀ (f : L1) (s : State), (Instr.ret f).WellFormed → s.operandsPass f [⟨.src 2, f.a.toNat⟩] →
    s.forOn f (fun id t => t.readReg (s.env id) f.a.toNat 1 < 2 ^ 16 ∧ t.readReg (s.env id) (f.a.toNat + 1) 1 < 2 ^ 14) →
    exec (.ret f) s = .next ((s.onGroup f).foldl (fun u x =>
      if (u.team x.1.team).any (fun tm => tm.stop = .running) then u.returnTo x.1 (x.2.readReg (s.env x.1) f.a.toNat 1)
        (x.2.readReg (s.env x.1) (f.a.toNat + 1) 1) else u) (s.jumpNext f 1 fun _ t => t))) ∧
  (∀ (f : L1) (s : State) (tm : TeamId), (Instr.exit f).WellFormed →
    (∀ x ∈ s.onGroup f, x.2.ldn = 0) → (∀ x ∈ s.onGroup f, x.1.team = tm) → s.onIds f ≠ [] →
    (∃ i ∈ s.liveIds tm, i ∉ s.onIds f) → s.arrivalPcs tm = [] →
    exec (.exit f) s = .next ((s.stepAll (s.offIds f) 1).updThreads (s.onIds f) fun t => { t with live := false, park := .ready })) ∧
  (∀ (f : L1) (s : State), (Instr.exit f).WellFormed → (∀ x ∈ s.onGroup f, x.2.ldn ≠ 0) →
    exec (.exit f) s = .next ((s.stepAll (s.offIds f) 1).updThreads (s.onIds f) fun t => { t with park := .exiting })) ∧
  (∀ (f : L1) (s : State) (tm : TeamId), (Instr.exit f).WellFormed → (∀ x ∈ s.onGroup f, x.1.team = tm) →
    let go := ((s.onGroup f).filter fun x => x.2.ldn = 0).map (·.1)
    let wait := ((s.onGroup f).filter fun x => x.2.ldn ≠ 0).map (·.1)
    go ≠ [] → (∃ i ∈ s.liveIds tm, i ∉ go) → s.arrivalPcs tm = [] →
    exec (.exit f) s = .next (((s.stepAll (s.offIds f) 1).updThreads wait fun t => { t with park := .exiting }).updThreads go fun t =>
      { t with live := false, park := .ready })) ∧
  (∀ (f : L1) (s : State) (tm : TeamId), (Instr.exit f).WellFormed → (∀ x ∈ s.onGroup f, x.1.team = tm ∧ x.2.ldn = 0) →
    s.onGroup f ≠ [] → (∀ i ∈ s.liveIds tm, i ∈ s.onIds f) → s.endCommits tm = false →
    exec (.exit f) s = .next (((s.stepAll (s.offIds f) 1).updThreads (s.onIds f) fun t =>
      { t with live := false, park := .ready }).endTask tm true))

end Sys2Proof.Claims

/-- NOP, YIELD, BKPT and CONV; RET and EXIT. -/
def Obligations.ControlWithoutTargets : Prop := BareControl ∧ ReturnAndExit

/-- REP (R53): when the checks of all n repetitions pass and none of them traps, every guard-true thread has performed the
repeated instruction n times, each with its own operand numbers, and stands after it; the others step to it. -/
def Obligations.RepeatRunsEveryRepetition : Prop :=
  ∀ (f : L2I) (s : State) (l : ThreadId) (lt : Thread) (rest : List (ThreadId × Thread)) (o : Overlay) (p : Parts) (i : LaneDef),
    (Instr.rep f).WellFormed → s.group = (l, lt) :: rest → (s.core l.team.core).current lt.pc.tok.toNat = some o →
    o.fetch (lt.pc.off + 2) = .parts p → legalParts p = true → laneDef p = some i → windowMov p = none →
    i.pastEnd f.lit.toNat = false →
    (∀ x ∈ s.onGroup f.toL1, regCheck x.2 (i.repOpds f.lit.toNat) = none ∧
      (i.repeat ((s.stepAll (s.offIds f.toL1) 2).env x.1) f.lit.toNat 0 x.2).2 = none) →
    exec (.rep f) s = .next ((s.stepAll (s.offIds f.toL1) 2).mapThreads fun id t =>
      if id ∈ s.onIds f.toL1 then (i.repeat ((s.stepAll (s.offIds f.toL1) 2).env id) f.lit.toNat 0 t).1 else t)

/-! ## Cross-lane instructions -/

namespace Sys2Proof.Claims

/-- A released set performs a cross-lane instruction: the effect on each guard-true member, given the set's guard-true
members. -/
def CrossForm (c : L2R → Instr) (e : (f : L2R) → (ThreadId → Env) → List (ThreadId × Thread) → ThreadId → Thread → Thread) : Prop :=
  ∀ (f : L2R) (s : State), (c f).WellFormed → s.gathered.rdv = true →
    exec (c f) s = .next (s.crossNext f.toL1 (e f s.env (s.onGroup f.toL1)))

/-- PEEK and FLIP: each member copies group A, with its tags, from the lane that l and k name when that lane is active, else
from itself (R126). -/
def exchange (src : L2R → Nat → Nat → Nat) (f : L2R) (env : ThreadId → Env) (active : List (ThreadId × Thread)) (id : ThreadId)
    (t : Thread) : Thread :=
  let k := if f.mod.getLsbD 0 then f.imm.toNat else t.readReg (env id) f.c.toNat 1 % 32
  let from_ := (active.find? fun x => x.1.lane = src f id.lane k).getD (id, t)
  (List.range (gsz f.w)).foldl (fun u j =>
    u.writeReg (f.d.toNat + j) 1 (from_.2.val (env from_.1) (f.a.toNat + j)) (from_.2.tagOf (f.a.toNat + j))) t

/-- The values of the active members that a reduction takes (R128). -/
def laneValues (f : L2R) (env : ThreadId → Env) (active : List (ThreadId × Thread)) : List Nat :=
  active.map fun x => x.2.readReg (env x.1) f.a.toNat 1

/-- Node i of a level of the tree in which TSUM adds, lanes 2i and 2i + 1 of the level below being its children: the rounded sum of two children that
are present, or the one that is (R129). -/
def treeNode (tag : Nat) (leaf : Nat → Option Res) : Nat → Nat → Option Res
  | 0, i => leaf i
  | n + 1, i =>
    match treeNode tag leaf n (2 * i), treeNode tag leaf n (2 * i + 1) with
    | some a, some b =>
      let r := if tag = 1 then arith 0 f32 .rne false false a.val b.val 0 else ⟨(a.val + b.val) % 2 ^ 32, 0⟩
      some ⟨r.val, r.flags ||| a.flags ||| b.flags⟩
    | some a, none => some a
    | none, b => b

/-- The order in which the reductions add, and what the integer extremes are (R128, R129): TSUM in the tree, TSCAN in ascending lane order, and the
largest or smallest value is one of the values and none lies beyond it. -/
def ReductionValues : Prop :=
  (∀ (tag : Nat) (leaf : Nat → Option Res), treeSum tag ((List.range 32).map leaf) = (treeNode tag leaf 5 0).getD ⟨0, 0⟩) ∧
  (∀ (tag x y : Nat) (xs : List Nat),
    let p := scanSum tag (x :: xs)
    let r : Res := if tag = 1 then arith 0 f32 .rne false false p.val y 0 else ⟨(p.val + y) % 2 ^ 32, 0⟩
    scanSum tag (x :: xs ++ [y]) = ⟨r.val, r.flags ||| p.flags⟩) ∧
  (∀ (big unsigned : Bool) (xs : List Nat), xs ≠ [] →
    let v := fun n : Nat => if unsigned then (n : Int) else sgn n 32
    extremeI big unsigned xs ∈ xs ∧
    ∀ x ∈ xs, if big then v x ≤ v (extremeI big unsigned xs) else v (extremeI big unsigned xs) ≤ v x)

/-- A reduction: every active member writes the result with the common tag (R128). -/
def ReduceForm (c : L2R → Instr) (r : (f : L2R) → (ThreadId → Env) → Nat → List (ThreadId × Thread) → ThreadId → Res) : Prop :=
  ∀ (f : L2R) (s : State) (tag : Nat), (c f).WellFormed → s.gathered.rdv = true → s.onGroup f.toL1 ≠ [] → tag ∈ [0, 1, 12] →
    (∀ x ∈ s.onGroup f.toL1, x.2.tagOf f.a.toNat = tag) → (tag = 1 → f.mod.getLsbD 0 = false) →
    exec (c f) s = .next (s.crossNext f.toL1 fun id t =>
      let v := r f s.env tag (s.onGroup f.toL1) id
      (t.writeReg f.d.toNat 1 v.val tag).addFlags v.flags)

end Sys2Proof.Claims

/-- The cross-lane instructions over a released set, with the order in which a reduction adds (R126 to R130). -/
def Obligations.CrossLanePerforms : Prop :=
  (CrossForm .peek (exchange fun f l k => if f.mod.getLsbD 1 then (l + k) % 32 else k)) ∧
  (CrossForm .flip (exchange fun _ l k => l ^^^ k)) ∧
  (CrossForm .allof fun f _ active _ t => t.setPred f.d.toNat (active.all fun x => x.2.pred f.a.toNat)) ∧
  (CrossForm .anyof fun f _ active _ t => t.setPred f.d.toNat (active.any fun x => x.2.pred f.a.toNat)) ∧
  (CrossForm .pmask fun f _ active _ t =>
    t.writeReg f.d.toNat 1 (laneMask ((active.filter fun x => x.2.pred f.a.toNat).map (·.1))) 0) ∧
  (CrossForm .peers fun f env active id t =>
    t.writeReg f.d.toNat 1 (laneMask ((active.filter fun x =>
      x.2.readReg (env x.1) f.a.toNat (gsz f.w) = t.readReg (env id) f.a.toNat (gsz f.w)).map (·.1))) 0) ∧
  (CrossForm .leadp fun f _ active id t => t.setPred f.d.toNat (active.head?.map (·.1) = some id)) ∧
  (ReduceForm .tsum fun f env tag active _ => treeSum tag ((List.range 32).map fun l =>
    (active.find? fun x => x.1.lane = l).map fun x => ⟨x.2.readReg (env x.1) f.a.toNat 1, 0⟩)) ∧
  (ReduceForm .tmax fun f env tag active _ => if tag = 1 then extremeF true (laneValues f env active)
    else ⟨extremeI true (f.mod.getLsbD 0) (laneValues f env active), 0⟩) ∧
  (ReduceForm .tmin fun f env tag active _ => if tag = 1 then extremeF false (laneValues f env active)
    else ⟨extremeI false (f.mod.getLsbD 0) (laneValues f env active), 0⟩) ∧
  (ReduceForm .tscan fun f env tag active id => scanSum tag (laneValues f env (active.filter fun x =>
    x.1.lane < id.lane || (x.1.lane = id.lane && !f.mod.getLsbD 1)))) ∧
  ReductionValues

namespace Sys2Proof.Claims

/-- Threads of one team that issue a cross-lane instruction where none has arrived yet, with operands that pass and equal
masks that name them, arrive and park; their registers do not change (R120). -/
def Arrives (c : L2R → Instr) (ops : L2R → List Opd) : Prop :=
  ∀ (f : L2R) (s : State) (tm : TeamId) (pc : Pc) (m : Nat), (c f).WellFormed → s.gathered.rdv = false → s.group ≠ [] →
    (∀ x ∈ s.group, x.1.team = tm ∧ x.2.pc = pc) → s.arrivals tm pc = [] →
    (∀ x ∈ s.onGroup f.toL1, regCheck x.2 (ops f) = none ∧ x.2.readReg (s.env x.1) f.b.toNat 1 = m ∧ m.testBit x.1.lane) →
    exec (c f) s = .next (s.arrive (s.group.map fun x =>
      (x.1, .lanes (if x.2.guard f.g f.gn then some (w32 m) else none))))

end Sys2Proof.Claims

/-- Arrival at the cross-lane instructions (R44, R120). -/
def Obligations.CrossLaneArrives : Prop :=
  let lane := fun f : L2R => if f.mod.getLsbD 0 then [] else [⟨.src 1, f.c.toNat⟩]
  let peek := fun f : L2R => [⟨.src (gsz f.w), f.a.toNat⟩, ⟨.src 1, f.b.toNat⟩] ++ lane f ++ [⟨.dst (gsz f.w), f.d.toNat⟩]
  let mask := fun f : L2R => [⟨.src 1, f.b.toNat⟩]
  let red := fun f : L2R => [⟨.src 1, f.a.toNat⟩, ⟨.src 1, f.b.toNat⟩, ⟨.dst 1, f.d.toNat⟩]
  Arrives .peek peek ∧ Arrives .flip peek ∧ Arrives .allof mask ∧ Arrives .anyof mask ∧
  (Arrives .pmask fun f => [⟨.src 1, f.b.toNat⟩, ⟨.dst 1, f.d.toNat⟩]) ∧
  (Arrives .peers fun f => [⟨.src (gsz f.w), f.a.toNat⟩, ⟨.src 1, f.b.toNat⟩, ⟨.dst 1, f.d.toNat⟩]) ∧ Arrives .leadp mask ∧
  Arrives .tsum red ∧ Arrives .tmax red ∧ Arrives .tmin red ∧ Arrives .tscan red

/-! ## Element arithmetic -/

namespace Sys2Proof.Claims

/-- Element i of register j of a group, with the sign modifiers in bits k and k + 1 of IMM12 (R154). -/
def operand (f : L2R) (e : Env) (t : Thread) (n k j i : Nat) : Nat :=
  modifyF (t.fmt n) (f.imm.getLsbD k) (f.imm.getLsbD (k + 1)) (elem (t.tagOf n) (t.reg e n j) i)

/-- Three-operand arithmetic, minor k: each element of D is the rounded result of the elements of A, B and, for FFMA, C; the
flags of all elements are added to FFLAGS, and D takes A's tag (R145, R153, R157 to R160). -/
def ArithForm (c : L2R → Instr) (k : Nat) : Prop :=
  ∀ (f : L2R) (s : State), (c f).WellFormed →
    let srcs := [(f.a.toNat, gsz f.w), (f.b.toNat, gsz f.w)] ++ (if k = 5 then [(f.c.toNat, gsz f.w)] else [])
    s.operandsPass f.toL1 (srcs.map (fun g => ⟨.src g.2, g.1⟩) ++ [⟨.dst (gsz f.w), f.d.toNat⟩]) →
    s.forOn f.toL1 (fun id t => t.floatGroups srcs ∧ (s.env id).sound) →
    exec (c f) s = .next (s.laneNext f.toL1 2 fun e t =>
      let r := overElems (t.tagOf f.a.toNat) (gsz f.w) fun j i =>
        arith k (t.fmt f.a.toNat) (t.mode (f.mod.toNat % 8)) (f.mod.getLsbD 4) (f.mod.getLsbD 3)
          (operand f e t f.a.toNat 0 j i) (operand f e t f.b.toNat 2 j i) (if k = 5 then operand f e t f.c.toNat 4 j i else 0)
      (t.writeReg f.d.toNat (gsz f.w) r.val (t.tagOf f.a.toNat)).addFlags r.flags)

/-- Rounding (R141, R142): a magnitude of n units and r parts of 2^k of the next, n a full fraction, goes in RNE to the nearer encoding, a tie to the even
one, with NX when anything is lost; in the other modes by the sign; and beyond the largest finite value it overflows, to infinity or, in a conversion
that saturates, to that value. -/
def RoundingValues : Prop :=
  ∀ f ∈ [f32, f16, bf16, e4m3, e5m2, e2m1, ue5m3], ∀ (mode : RMode) (sat neg : Bool) (n k r : Nat) (e : Int),
    2 ^ f.m ≤ n → n < 2 ^ (f.m + 1) → r < 2 ^ k → 1 - (f.bias : Int) ≤ f.m + k + e →
    let up := match mode with
      | .rne => 2 ^ k < 2 * r ∨ (2 * r = 2 ^ k ∧ n % 2 = 1)
      | .rz => False
      | .ru => neg = false ∧ r ≠ 0
      | .rd => neg = true ∧ r ≠ 0
    ∀ n', (up → n' = n + 1) → (¬up → n' = n) →
    let enc := ((f.m + k + e) - (1 - (f.bias : Int))).toNat * 2 ^ f.m + n'
    (enc ≤ f.maxEnc → roundMag f mode sat neg false (n * 2 ^ k + r) e = ⟨signed f neg enc, if r = 0 then 0 else fNX⟩) ∧
    (f.maxEnc < enc → sat = true ∨ f.sat = true →
      roundMag f mode sat neg false (n * 2 ^ k + r) e = ⟨signed f neg f.maxEnc, fOF + fNX + fSAT⟩) ∧
    (f.maxEnc < enc → sat = false → f.sat = false → mode = .rne →
      roundMag f mode sat neg false (n * 2 ^ k + r) e = ⟨signed f neg (f.maxEnc + 1), fOF + fNX⟩)

/-- The values of FADD, FSUB and FMUL (R141, R143, R158): the exact sum or product, rounded once; in canonical mode a NaN operand gives the canonical NaN, with
NV for a signalling one, and so do infinities of both signs, and 0 times infinity, with NV. -/
def ArithmeticValues : Prop :=
  ∀ f ∈ [f32, f16, bf16], ∀ (mode : RMode) (sat prop : Bool) (a b c : Nat),
    (∀ (na nb : Bool) (ma mb : Nat) (ea eb : Int), decodeF f a = .fin na ma ea → decodeF f b = .fin nb mb eb →
      let x := FV.sm na (ma * 2 ^ (ea - min ea eb).toNat) + FV.sm nb (mb * 2 ^ (eb - min ea eb).toNat)
      (x ≠ 0 → arith 0 f mode sat prop a b c = roundMag f mode sat (x < 0) false x.natAbs (min ea eb)) ∧
      (ma * mb ≠ 0 → arith 2 f mode sat prop a b c = roundMag f mode sat (na != nb) false (ma * mb) (ea + eb))) ∧
    (∀ k ∈ [0, 1, 2], isNaN (decodeF f a) = true ∨ isNaN (decodeF f b) = true →
      arith k f mode sat false a b c =
        ⟨f.nan, if isSNaN (decodeF f a) = true ∨ isSNaN (decodeF f b) = true then fNV else 0⟩) ∧
    (∀ n, decodeF f a = .inf n → decodeF f b = .inf !n → arith 0 f mode sat prop a b c = ⟨f.nan, fNV⟩) ∧
    (∀ n z e, decodeF f a = .inf n → decodeF f b = .fin z 0 e → arith 2 f mode sat prop a b c = ⟨f.nan, fNV⟩)

/-- FADD, FSUB, FMUL, FMIN, FMAX and FFMA, and what their rounded results are (R153 to R160). -/
def FloatArithmetic : Prop :=
  RoundingValues ∧ ArithmeticValues ∧
  ArithForm .fadd 0 ∧ ArithForm .fsub 1 ∧ ArithForm .fmul 2 ∧ ArithForm .fmin 3 ∧ ArithForm .fmax 4 ∧ ArithForm .ffma 5

/-- FCMP: predicate D takes the condition on one element of A and B, and the flags are added (R161). -/
def FloatCompare (c : L2R → Instr) (k : Nat) : Prop :=
  ∀ (f : L2R) (s : State), (c f).WellFormed → s.operandsPass f.toL1 [⟨.src 1, f.a.toNat⟩, ⟨.src 1, f.b.toNat⟩] →
    s.forOn f.toL1 (fun _ t => t.floatGroups [(f.a.toNat, 1), (f.b.toNat, 1)]) →
    exec (c f) s = .next (s.laneNext f.toL1 2 fun e t =>
      let i := if t.tagOf f.a.toNat = 1 then 0 else b2n (f.imm.getLsbD 6)
      let v := fun n k => decodeF (t.fmt n) (operand f e t n k 0 i)
      (t.setPred f.d.toNat (fcond k (v f.a.toNat 0) (v f.b.toNat 2)).1).addFlags
        (fcond k (v f.a.toNat 0) (v f.b.toNat 2)).2)

/-- The six float compares (R161). -/
def FloatCompares : Prop :=
  FloatCompare .fcmpEq 0 ∧ FloatCompare .fcmpNe 1 ∧ FloatCompare .fcmpLt 2 ∧ FloatCompare .fcmpLe 3 ∧
  FloatCompare .fcmpUno 4 ∧ FloatCompare .fcmpOrd 5

end Sys2Proof.Claims

/-- Floating-point arithmetic and compares. -/
def Obligations.FloatArithmeticAndCompares : Prop := FloatArithmetic ∧ FloatCompares

namespace Sys2Proof.Claims

/-- A single-operand element instruction under FMODE.RM (R162). -/
def ElementForm (c : L1 → Instr) (op : FFmt → RMode → Nat → Res) : Prop :=
  ∀ (f : L1) (s : State), (c f).WellFormed →
    s.operandsPass f [⟨.src (gsz f.w), f.a.toNat⟩, ⟨.dst (gsz f.w), f.d.toNat⟩] →
    s.forOn f (fun _ t => t.floatGroups [(f.a.toNat, gsz f.w)]) →
    exec (c f) s = .next (s.laneNext f 1 fun e t =>
      let r := overElems (t.tagOf f.a.toNat) (gsz f.w) fun j i =>
        op (t.fmt f.a.toNat) (rmode t.fmode.toNat) (elem (t.tagOf f.a.toNat) (t.reg e f.a.toNat j) i)
      (t.writeReg f.d.toNat (gsz f.w) r.val (t.tagOf f.a.toNat)).addFlags r.flags)

end Sys2Proof.Claims

namespace Sys2Proof.Claims

/-- The values of FRINT and FSAT (R164): FRINT gives the integral value that its mode rounds to, of a zero result the operand's zero, with NX when the value
changes, and passes infinities and integral values; a NaN gives the canonical NaN without a flag, a signalling one too, which is log entry 81's reading.
FSAT gives 0 for a negative value and 1 for one above 1, with SAT, and +0 for a zero. -/
def RoundToIntegral : Prop :=
  ∀ f ∈ [f32, f16, bf16], ∀ (mode : RMode) (x : Nat),
    (isNaN (decodeF f x) = true → frint f mode x = ⟨f.nan, 0⟩) ∧ (∀ n, decodeF f x = .inf n → frint f mode x = ⟨x, 0⟩) ∧
    (∀ neg m e, decodeF f x = .fin neg m e → 0 ≤ e → frint f mode x = ⟨x, 0⟩) ∧
    (∀ (neg : Bool) (n k r : Nat), decodeF f x = .fin neg (n * 2 ^ k + r) (-(k : Int)) → r < 2 ^ k →
      (r = 0 → frint f mode x = ⟨x, 0⟩) ∧
      (r ≠ 0 → mode = .rne →
        let v := if 2 ^ k < 2 * r ∨ (2 * r = 2 ^ k ∧ n % 2 = 1) then n + 1 else n
        frint f mode x = ⟨if v = 0 then signed f neg 0 else (roundMag f mode false neg false v 0).val, fNX⟩) ∧
      (r ≠ 0 → mode = .rz →
        frint f mode x = ⟨if n = 0 then signed f neg 0 else (roundMag f mode false neg false n 0).val, fNX⟩)) ∧
    (∀ neg m e, decodeF f x = .fin neg m e → (m = 0 → fsat f mode x = ⟨0, 0⟩) ∧ (m ≠ 0 → neg = true → fsat f mode x = ⟨0, fSAT⟩)) ∧
    (∀ m e, decodeF f x = .fin false m e → 0 < e → m ≠ 0 → fsat f mode x = ⟨f.bias * 2 ^ f.m, fSAT⟩)

end Sys2Proof.Claims

/-- FCLASS, FRINT, FSAT and the special functions, whose value outside the exact cases is the part's own within the bound of
Table 5 (R163 to R165; log entry 11); TAGGET (R166), TAGSET and TAGCHK (R174, R175). -/
def Obligations.ElementFunctionsAndTags : Prop :=
  RoundToIntegral ∧
  ElementForm .fclass fclass ∧ ElementForm .frint frint ∧ ElementForm .fsat fsat ∧ ElementForm .rcp (specialFn .rcp) ∧
  ElementForm .rsq (specialFn .rsq) ∧ ElementForm .sqrt (specialFn .sqrt) ∧ ElementForm .ex2 (specialFn .ex2) ∧
  ElementForm .lg2 (specialFn .lg2) ∧ ElementForm .sin (specialFn .sin) ∧ ElementForm .cos (specialFn .cos) ∧
  ElementForm .tanh (specialFn .tanh) ∧
  (∀ (f : L1) (s : State), (Instr.tagget f).WellFormed →
    s.operandsPass f [⟨.src (gsz f.w), f.a.toNat⟩, ⟨.dst (gsz f.w), f.d.toNat⟩] →
    exec (.tagget f) s = .next (s.laneNext f 1 fun _ t => t.writeReg f.d.toNat (gsz f.w)
      (wordsToNat ((List.range (gsz f.w)).map fun j => w32 (t.tagOf (f.a.toNat + j)))) 0)) ∧
  (∀ (f : L2I) (s : State), (Instr.tagset f).WellFormed →
    s.operandsPass f.toL1 [⟨.src (gsz f.w), f.a.toNat⟩, ⟨.dst (gsz f.w), f.d.toNat⟩] →
    exec (.tagset f) s = .next (s.laneNext f.toL1 2 fun e t =>
      t.writeReg f.d.toNat (gsz f.w) (t.readReg e f.a.toNat (gsz f.w)) f.lit.toNat)) ∧
  (∀ (f : L2I) (s : State), (Instr.tagchk f).WellFormed → s.operandsPass f.toL1 [⟨.src (gsz f.w), f.a.toNat⟩] →
    exec (.tagchk f) s = .next (s.laneNext f.toL1 2 fun _ t => t.setPred f.d.toNat
      ((List.range (gsz f.w)).all fun j => t.tagOf (f.a.toNat + j) = f.lit.toNat)))

namespace Sys2Proof.Claims

/-- A conversion: every element of D is the conversion of the element of A in its place, in the mode and with the saturation
that MOD names, and D takes the destination tag (R154, R167, R168). -/
def ConvertForm (c : L2R → Instr) (conv : Nat → Nat → RMode → Bool → Nat → Res) : Prop :=
  ∀ (f : L2R) (s : State), (c f).WellFormed →
    s.operandsPass f.toL1 [⟨.src (cvtGroups f).1, f.a.toNat⟩, ⟨.dst (cvtGroups f).2, f.d.toNat⟩] →
    s.forOn f.toL1 (fun _ t => t.tagged f.a.toNat (cvtGroups f).1 (cvtSrc f)) →
    exec (c f) s = .next (s.laneNext f.toL1 2 fun e t =>
      let bits := elemBits (cvtSrc f)
      let r := overElems (cvtDst f) (cvtGroups f).2 fun j i =>
        conv (cvtSrc f) (cvtDst f) (t.mode (f.mod.toNat % 8)) (f.mod.getLsbD 3)
          (fld (t.readReg e f.a.toNat (cvtGroups f).1) (bits * (j * elems (cvtDst f) + i)) bits)
      (t.writeReg f.d.toNat (cvtGroups f).2 r.val (cvtDst f)).addFlags r.flags)

/-- The values of conversions (R141 to R144, R169): a value goes to the target by one rounding; a NaN to the target's canonical NaN, with NV when it signals;
to the same format every other element passes unchanged, an infinity of a saturating conversion too, which is log entry 97's reading; CVTI clamps
to the range with NV and SAT; PACK with MOD[3] clamps with SAT. -/
def ConversionValues : Prop :=
  (∀ s ∈ [1, 2, 3, 4, 5, 6, 11], ∀ d ∈ [1, 2, 3, 4, 5], ∀ fs fd, fmtOfTag s = some fs → fmtOfTag d = some fd → ∀ (mode : RMode) (sat : Bool) (x : Nat),
    (s ≠ d → ∀ n m e, decodeF fs x = .fin n m e → m ≠ 0 → cvtElem s d mode sat x = roundMag fd mode sat n false m e) ∧
    (s ≠ d → ∀ n, decodeF fs x = .inf n → sat = true ∨ fd.sat = true → cvtElem s d mode sat x = ⟨signed fd n fd.maxEnc, fSAT⟩) ∧
    (isNaN (decodeF fs x) = true → cvtElem s d mode sat x = ⟨fd.nan, if isSNaN (decodeF fs x) = true then fNV else 0⟩) ∧
    (s = d → isNaN (decodeF fs x) = false → cvtElem s d mode sat x = ⟨x, 0⟩)) ∧
  (∀ (d : Nat) (mode : RMode) (sat : Bool) (x : Nat), d ∈ [7, 8, 9, 10, 12] →
    (isNaN (decodeF f32 x) = true → cvtiElem 1 d mode sat x = ⟨0, fNV⟩) ∧
    (∀ n m e, decodeF f32 x = .fin n m e → 0 ≤ e →
      let v := FV.sm n (m * 2 ^ e.toNat)
      (v < (intRange d).1 → cvtiElem 1 d mode sat x = ⟨wrap (intRange d).1 (elemBits d), fNV + fSAT⟩) ∧
      ((intRange d).2 < v → cvtiElem 1 d mode sat x = ⟨wrap (intRange d).2 (elemBits d), fNV + fSAT⟩) ∧
      ((intRange d).1 ≤ v → v ≤ (intRange d).2 → cvtiElem 1 d mode sat x = ⟨wrap v (elemBits d), 0⟩))) ∧
  (∀ (d : Nat) (mode : RMode) (x : Nat), d ∈ [7, 8, 9, 10] →
    packElem 12 d mode true x =
      (let v := intElem 12 x 0
       let u := max (intRange d).1 (min (intRange d).2 v)
       ⟨wrap u (elemBits d), if u = v then 0 else fSAT⟩))

/-- CVT, CVTI, CVTF, PACK and UNPK (R167 to R170). -/
def Conversions : Prop :=
  ConversionValues ∧ ConvertForm .cvt cvtElem ∧ ConvertForm .cvti cvtiElem ∧ ConvertForm .cvtf cvtfElem ∧ ConvertForm .pack packElem ∧
  ConvertForm .unpk unpkElem

/-- The element pairs of a dot product of registers a and b. -/
def pairs (f : L2R) (e : Env) (t : Thread) : List (FV × FV) :=
  (List.range (elems (t.tagOf f.a.toNat))).map fun i =>
    (decodeF (t.fmt f.a.toNat) (elem (t.tagOf f.a.toNat) (t.reg e f.a.toNat 0) i),
     decodeF (t.fmt f.b.toNat) (elem (t.tagOf f.b.toNat) (t.reg e f.b.toNat 0) i))

/-- The operands of a dot product or SCL. -/
def tripleOpds (f : L2R) : List Opd := [⟨.src 1, f.a.toNat⟩, ⟨.src 1, f.b.toNat⟩, ⟨.src 1, f.c.toNat⟩, ⟨.dst 1, f.d.toNat⟩]

/-- A floating-point dot product: exact products and the F32 addend, rounded once (R171, R172). -/
def DotFloat (c : L2R → Instr) (tags : List Nat) (same : Bool) : Prop :=
  ∀ (f : L2R) (s : State), (c f).WellFormed → s.operandsPass f.toL1 (tripleOpds f) →
    s.forOn f.toL1 (fun id t => t.tagOf f.a.toNat ∈ tags ∧ t.tagOf f.b.toNat ∈ tags ∧
      (same → t.tagOf f.b.toNat = t.tagOf f.a.toNat) ∧ t.tagOf f.c.toNat = 1 ∧ (s.env id).sound) →
    exec (c f) s = .next (s.laneNext f.toL1 2 fun e t =>
      let r := dotF (t.mode (f.mod.toNat % 8)) (f.mod.getLsbD 3) (f.mod.getLsbD 4) (pairs f e t) (t.reg e f.c.toNat 0)
      (t.writeReg f.d.toNat 1 r.val 1).addFlags r.flags)

/-- An integer dot product: the exact sum with the INT32 addend, modulo 2^32, or clamped when MOD[3] is 1 (R172). -/
def DotInt (c : L2R → Instr) (tags : List Nat) : Prop :=
  ∀ (f : L2R) (s : State), (c f).WellFormed → s.operandsPass f.toL1 (tripleOpds f) →
    s.forOn f.toL1 (fun _ t => t.tagOf f.a.toNat ∈ tags ∧ t.tagOf f.b.toNat ∈ tags ∧ t.tagOf f.c.toNat = 12) →
    exec (c f) s = .next (s.laneNext f.toL1 2 fun e t =>
      let x := ((List.range (elems (t.tagOf f.a.toNat))).map fun i =>
        intElem (t.tagOf f.a.toNat) (t.reg e f.a.toNat 0) i * intElem (t.tagOf f.b.toNat) (t.reg e f.b.toNat 0) i).sum +
          (t.grp e f.c.toNat 1).toInt
      let lo : Int := -2 ^ 31
      let hi : Int := 2 ^ 31 - 1
      let v := if f.mod = 8 then max lo (min hi x) else x
      (t.writeReg f.d.toNat 1 (BitVec.ofInt 32 v).toNat 12).addFlags (if v = x then 0 else fSAT))

/-- The values of the floating-point dot products and of SCL (R143, R171 to R173): the exact sum of the products and the addend, in a unit that all of them are
multiples of, rounded once. Which special case decides when several meet is log entry 82's choice: a NaN in A or B gives the canonical NaN, with NV
for a signalling operand alone, before a product of 0 and infinity, and a NaN scale likewise. -/
def DotValues : Prop :=
  (∀ (mode : RMode) (sat prop : Bool) (ts : List ((Bool × Nat × Int) × Bool × Nat × Int)) (c mc : Nat) (nc : Bool) (ec : Int),
    decodeF f32 c = .fin nc mc ec →
    let fin := fun x : Bool × Nat × Int => FV.fin x.1 x.2.1 x.2.2
    ∃ lo : Int, lo ≤ ec ∧ (∀ t ∈ ts, lo ≤ t.1.2.2 + t.2.2.2) ∧
      let x := (ts.map fun t => FV.sm (t.1.1 != t.2.1) (t.1.2.1 * t.2.2.1 * 2 ^ (t.1.2.2 + t.2.2.2 - lo).toNat)).sum +
        FV.sm nc (mc * 2 ^ (ec - lo).toNat)
      x ≠ 0 → dotF mode sat prop (ts.map fun t => (fin t.1, fin t.2)) c = roundMag f32 mode sat (x < 0) false x.natAbs lo) ∧
  (∀ (mode : RMode) (sat prop : Bool) (abs : List (FV × FV)) (c : Nat), (∃ p ∈ abs, isNaN p.1 = true ∨ isNaN p.2 = true) →
    dotF mode sat prop abs c =
      ⟨f32.nan, if (∃ p ∈ abs, isSNaN p.1 = true ∨ isSNaN p.2 = true) ∨ isSNaN (decodeF f32 c) = true then fNV else 0⟩) ∧
  (∀ (mode : RMode) (sat prop : Bool) (a c ma mc mi mj : Nat) (na nc ni nj : Bool) (ea ec ei ej : Int),
    decodeF f32 a = .fin na ma ea → decodeF f32 c = .fin nc mc ec →
    ∃ lo : Int, lo ≤ ec ∧ lo ≤ ea + ei + ej ∧
      let x := FV.sm ((na != ni) != nj) (ma * mi * mj * 2 ^ (ea + ei + ej - lo).toNat) + FV.sm nc (mc * 2 ^ (ec - lo).toNat)
      x ≠ 0 → sclVal mode sat prop a c (.fin ni mi ei) (.fin nj mj ej) = roundMag f32 mode sat (x < 0) false x.natAbs lo) ∧
  (∀ (mode : RMode) (sat prop : Bool) (a c : Nat) (si sj : FV), isNaN si = true ∨ isNaN sj = true →
    sclVal mode sat prop a c si sj =
      ⟨f32.nan, if isSNaN (decodeF f32 a) = true ∨ isSNaN (decodeF f32 c) = true then fNV else 0⟩)

/-- The dot products and SCL (R171 to R173). -/
def DotProductsAndScale : Prop :=
  DotValues ∧
  DotFloat .dot2 [2, 3] true ∧ DotInt .dot4 [7, 8] ∧ DotInt .dot8 [9, 10] ∧ DotFloat .dot4f [4, 5] false ∧
  DotFloat .dot8f [6] false ∧
  (∀ (f : L2R) (s : State), (Instr.scl f).WellFormed → s.operandsPass f.toL1 (tripleOpds f) →
    s.forOn f.toL1 (fun id t => t.tagOf f.a.toNat = 1 ∧ t.tagOf f.b.toNat = 11 ∧ t.tagOf f.c.toNat = 1 ∧ (s.env id).sound) →
    exec (.scl f) s = .next (s.laneNext f.toL1 2 fun e t =>
      let scale := fun k => decodeF ue5m3 (elem 11 (t.reg e f.b.toNat 0) k)
      let sj := if f.imm.getLsbD 4 then .fin false 1 0 else scale (f.imm.toNat / 4 % 4)
      let r := sclVal (t.mode (f.mod.toNat % 8)) (f.mod.getLsbD 3) (f.mod.getLsbD 4) (t.reg e f.a.toNat 0)
        (t.reg e f.c.toNat 0) (scale (f.imm.toNat % 4)) sj
      (t.writeReg f.d.toNat 1 r.val 1).addFlags r.flags))

end Sys2Proof.Claims

/-- Conversions, packing, dot products and SCL. -/
def Obligations.ConversionsAndDotProducts : Prop := Conversions ∧ DotProductsAndScale

/-! ## Uniform instructions -/

namespace Sys2Proof.Claims

/-- A uniform instruction d := a op b: one value, from the leader's operands, in every guard-true thread (R45, R77 to R79). -/
def UniReg (c : L2R → Instr) (op : (n : Nat) → BitVec n → BitVec n → BitVec n) : Prop :=
  ∀ (f : L2R) (s : State) (l : ThreadId) (lt : Thread), (c f).WellFormed →
    s.leads f.toL1 [⟨.src (gsz f.w), f.a.toNat⟩, ⟨.src (gsz f.w), f.b.toNat⟩] [⟨.dst (gsz f.w), f.d.toNat⟩] l lt →
    exec (c f) s = .next (s.uniNext f.toL1 2 fun t => t.writeReg f.d.toNat (gsz f.w)
      (op _ (lt.grp (s.env l) f.a.toNat (gsz f.w)) (lt.grp (s.env l) f.b.toNat (gsz f.w))).toNat 0)

/-- A uniform shift by the single register B. -/
def UniShift (c : L2R → Instr) (op : (n : Nat) → BitVec n → Nat → BitVec n) : Prop :=
  ∀ (f : L2R) (s : State) (l : ThreadId) (lt : Thread), (c f).WellFormed →
    s.leads f.toL1 [⟨.src (gsz f.w), f.a.toNat⟩, ⟨.src 1, f.b.toNat⟩] [⟨.dst (gsz f.w), f.d.toNat⟩] l lt →
    exec (c f) s = .next (s.uniNext f.toL1 2 fun t => t.writeReg f.d.toNat (gsz f.w)
      (op _ (lt.grp (s.env l) f.a.toNat (gsz f.w)) (lt.grp (s.env l) f.b.toNat 1).toNat).toNat 0)

/-- A uniform instruction with a sign-extended literal (R80). -/
def UniLit (c : L2I → Instr) (op : (n : Nat) → BitVec n → BitVec n → BitVec n) : Prop :=
  ∀ (f : L2I) (s : State) (l : ThreadId) (lt : Thread), (c f).WellFormed →
    s.leads f.toL1 [⟨.src (gsz f.w), f.a.toNat⟩] [⟨.dst (gsz f.w), f.d.toNat⟩] l lt →
    exec (c f) s = .next (s.uniNext f.toL1 2 fun t => t.writeReg f.d.toNat (gsz f.w)
      (op _ (lt.grp (s.env l) f.a.toNat (gsz f.w)) (f.lit.signExtend _)).toNat 0)

/-- A uniform shift by the literal. -/
def UniLitShift (c : L2I → Instr) (op : (n : Nat) → BitVec n → Nat → BitVec n) : Prop :=
  ∀ (f : L2I) (s : State) (l : ThreadId) (lt : Thread), (c f).WellFormed →
    s.leads f.toL1 [⟨.src (gsz f.w), f.a.toNat⟩] [⟨.dst (gsz f.w), f.d.toNat⟩] l lt →
    exec (c f) s = .next (s.uniNext f.toL1 2 fun t => t.writeReg f.d.toNat (gsz f.w)
      (op _ (lt.grp (s.env l) f.a.toNat (gsz f.w)) f.lit.toNat).toNat 0)

/-- UCMP: one predicate value in every guard-true thread (R96). -/
def UniCompare (c : L2R → Instr) (p : (n : Nat) → BitVec n → BitVec n → Bool) : Prop :=
  ∀ (f : L2R) (s : State) (l : ThreadId) (lt : Thread), (c f).WellFormed →
    s.leads f.toL1 [⟨.src (gsz f.w), f.a.toNat⟩, ⟨.src (gsz f.w), f.b.toNat⟩] [] l lt →
    exec (c f) s = .next (s.uniNext f.toL1 2 fun t => t.setPred f.d.toNat
      (p _ (lt.grp (s.env l) f.a.toNat (gsz f.w)) (lt.grp (s.env l) f.b.toNat (gsz f.w))))

/-- The uniform arithmetic, in both forms (R77 to R80). -/
def UniformArithmetic : Prop :=
  (UniReg .uadd fun _ x y => x + y) ∧ (UniReg .usub fun _ x y => x - y) ∧ (UniReg .uand fun _ x y => x &&& y) ∧
  (UniReg .uor fun _ x y => x ||| y) ∧ (UniReg .uxor fun _ x y => x ^^^ y) ∧ (UniReg .umul fun _ x y => x * y) ∧
  (UniShift .ushl fun _ x k => x <<< k) ∧ (UniShift .ushr fun _ x k => x >>> k) ∧
  (UniLit .uaddLit fun _ x y => x + y) ∧ (UniLit .usubLit fun _ x y => x - y) ∧ (UniLit .uandLit fun _ x y => x &&& y) ∧
  (UniLit .uorLit fun _ x y => x ||| y) ∧ (UniLit .uxorLit fun _ x y => x ^^^ y) ∧ (UniLit .umulLit fun _ x y => x * y) ∧
  (UniLitShift .ushlLit fun _ x k => x <<< k) ∧ (UniLitShift .ushrLit fun _ x k => x >>> k)

/-- ULANE, UCNT and ULEAD: the thread's place among the guard-true threads, their number, and the leader's TIDX (R100, R102). -/
def UniGroupValue (c : L1 → Instr) (v : State → List ThreadId → ThreadId → ThreadId → Nat) : Prop :=
  ∀ (f : L1) (s : State) (l : ThreadId) (lt : Thread), (c f).WellFormed → s.leads f [] [⟨.dst 1, f.d.toNat⟩] l lt →
    exec (c f) s = .next ((s.stepAll (s.offIds f) 1).mapThreads fun id t =>
      if id ∈ s.onIds f then (t.writeReg f.d.toNat 1 (v s (s.onIds f) l id) 0).step 1 else t)

/-- Uniform compares, and the values a group has (R96, R100, R102); UMOV of a register (R100). -/
def UniformComparesAndGroup : Prop :=
  UniCompare .ucmpEq (holds 0) ∧ UniCompare .ucmpNe (holds 1) ∧ UniCompare .ucmpLt (holds 2) ∧ UniCompare .ucmpGe (holds 3) ∧
  UniCompare .ucmpLtu (holds 4) ∧ UniCompare .ucmpGeu (holds 5) ∧
  (UniGroupValue .ulane fun _ on _ id => on.findIdx (· = id)) ∧ (UniGroupValue .ucnt fun _ on _ _ => on.length) ∧
  (UniGroupValue .ulead fun s _ l _ => s.tidx l) ∧
  (∀ (f : L1) (s : State) (l : ThreadId) (lt : Thread), (Instr.umov f).WellFormed → windowNo f.a = none →
    s.leads f [⟨.src (gsz f.w), f.a.toNat⟩] [⟨.dst (gsz f.w), f.d.toNat⟩] l lt →
    exec (.umov f) s = .next (s.uniNext f 1 fun t =>
      t.writeReg f.d.toNat (gsz f.w) (lt.readReg (s.env l) f.a.toNat (gsz f.w)) 0))

end Sys2Proof.Claims

/-- Uniform arithmetic, compares, and the values a group has. -/
def Obligations.UniformInstructions : Prop := UniformArithmetic ∧ UniformComparesAndGroup

/-! ## Memory instructions -/

namespace Sys2Proof.Claims

/-- Register operands of a lane access: base, index when IX is one, and the data group (R41, R44). -/
def accessOpds (f : LM) (idx : Bool) (data : Opd) : List Opd :=
  [memBase f] ++ (if idx then [⟨.src 1, f.ix.toNat⟩] else []) ++ [data]

/-- A lane load: every guard-true thread whose address passes and whose LDN has room leaves a load of `size` bytes outstanding,
with its destination group pending and LDN one higher; memory is not read yet (R48, R49, R183, R185). -/
def LoadForm (c : LM → Instr) (idx : Bool) (size regs tag : LM → Nat) (sext : Bool) : Prop :=
  ∀ (f : LM) (s : State) (loc : ThreadId → Option Loc), (c f).WellFormed → s.gathered.ids.Nodup →
    (∀ x ∈ s.onGroup f.toL1, regCheck x.2 (accessOpds f idx ⟨.dst (regs f), f.d.toNat⟩) = none ∧
      s.placed f idx (size f) true x (loc x.1) ∧ x.2.ldn < 63 ∧ s.unclamped x.1 f) →
    exec (c f) s = .next (s.issued f.toL1
      ((s.onGroup f.toL1).map fun x =>
        { memAccess s x.1 f f.scope.toNat .load (s.addrOf f idx x) (size f) (loc x.1) with
          dst := f.d.toNat, g := regs f, tag := BitVec.ofNat 4 (tag f), sext := sext })
      fun t => { (t.setPend f.d.toNat (regs f)) with ldn := t.ldn + 1 })

/-- The loads at issue (R183 to R185). -/
def LoadsLeaveReadsOutstanding : Prop :=
  (LoadForm .ldb true (fun _ => 1) (fun _ => 1) (fun _ => 0) true) ∧
  (LoadForm .ldbu true (fun _ => 1) (fun _ => 1) (fun _ => 0) false) ∧
  (LoadForm .ldh true (fun _ => 2) (fun _ => 1) (fun _ => 0) true) ∧
  (LoadForm .ldhu true (fun _ => 2) (fun _ => 1) (fun _ => 0) false) ∧
  (LoadForm .ldw true (fun f => 4 * gsz f.w) (fun f => gsz f.w) (fun _ => 0) false) ∧
  (LoadForm .ldt false (fun f => 4 * gsz f.w) (fun f => gsz f.w) (fun f => f.ix.toNat) false)

/-- A lane store outside a guarded task, or to a scratchpad: every guard-true thread whose address passes and whose STN has
room leaves a store of its data, read now, outstanding, with STN one higher; no byte of memory changes yet (R49, R186, R187). -/
def StoreForm (c : LM → Instr) (kind : AccKind) (size : LM → Nat) : Prop :=
  ∀ (f : LM) (s : State) (loc : ThreadId → Option Loc), (c f).WellFormed → s.gathered.ids.Nodup →
    (∀ x ∈ s.onGroup f.toL1, regCheck x.2 (accessOpds f true ⟨.src (gsz f.w), f.d.toNat⟩) = none ∧
      s.placed f true (size f) true x (loc x.1) ∧ x.2.stn < 63 ∧ s.unclamped x.1 f ∧
      (f.space = 1 ∨ f.space = 2 ∨ (s.team x.1.team).any Team.guarded = false)) →
    exec (c f) s = .next (s.issued f.toL1
      ((s.onGroup f.toL1).map fun x =>
        { memAccess s x.1 f f.scope.toNat kind (s.addrOf f true x) (size f) (loc x.1) with
          data := x.2.readReg (s.env x.1) f.d.toNat (gsz f.w) % 2 ^ (8 * size f) })
      fun t => { t with stn := t.stn + 1 })

/-- The stores at issue (R186, R187, R191). STE marks a line, and its address is not aligned. -/
def StoresLeaveWritesOutstanding : Prop :=
  (StoreForm .stb .store fun _ => 1) ∧ (StoreForm .sth .store fun _ => 2) ∧ (StoreForm .stw .store fun f => 4 * gsz f.w) ∧
  (StoreForm .stfe .stfe fun f => 4 * gsz f.w) ∧
  (∀ (f : LM) (s : State) (loc : ThreadId → Option Loc), (Instr.ste f).WellFormed → s.gathered.ids.Nodup →
    (∀ x ∈ s.onGroup f.toL1, regCheck x.2 [memBase f, ⟨.src 1, f.ix.toNat⟩] = none ∧
      s.placed f true 1 false x (loc x.1) ∧ x.2.stn < 63 ∧ s.unclamped x.1 f) →
    exec (.ste f) s = .next (s.issued f.toL1
      ((s.onGroup f.toL1).map fun x =>
        memAccess s x.1 f f.scope.toNat .ste (s.addrOf f true x) 128 ((loc x.1).map lineLoc))
      fun t => { t with stn := t.stn + 1 }))

end Sys2Proof.Claims

/-- Loads and stores at issue. -/
def Obligations.LoadsAndStoresStayOutstanding : Prop := LoadsLeaveReadsOutstanding ∧ StoresLeaveWritesOutstanding

/-- PREF, CFLUSH, PUTSIG outside a guarded task, and LDFE (R190, R193, R194, R225, R226). PREF completes whatever its address, and changes
nothing in its threads; an address that is not canonical or does not translate is dropped, one that is local-home brings its line into the
core's L1 and its L2 slice, of which a policy that keeps allocates in the slice like the normal one (log entry 101), and a remote-home one a read-only
copy in windowed visibility. A CFLUSH waits for the commit of a held write of its thread that it must follow. On a full line LDFE's value is fixed
at once, with its error if the bytes hold one, on an empty one the thread parks, and it waits while an earlier access it must follow is not
performed. -/
def Obligations.OtherLaneAccesses : Prop :=
  (∀ (f : LM) (s : State), (Instr.pref f).WellFormed → s.gathered.ids.Nodup →
    (∀ x ∈ s.onGroup f.toL1, regCheck x.2 [memBase f, ⟨.src 1, f.ix.toNat⟩] = none) →
    ∃ t, exec (.pref f) s = .next t ∧
      ∀ i, t.thread i = (s.thread i).map fun th => if i ∈ s.gathered.ids then th.step 2 else th) ∧
  (∀ (f : LM) (s : State) (l : ThreadId) (t : Thread) (c : CtxId), (Instr.pref f).WellFormed → s.gathered.ids = [l] →
    s.thread l = some t → t.guard f.g f.gn = true → regCheck t [memBase f, ⟨.src 1, f.ix.toNat⟩] = none → s.ctxOf l.team = some c →
    let a := s.addrOf f true (l, t)
    let v := viewAt c l.team.core
    (canonical a 1 = false ∨ (∃ m, s.translate v (addr64 a) false = .error m) →
      exec (.pref f) s = .next (s.updThread l fun t => t.step 2)) ∧
    ∀ p, canonical a 1 = true → s.translate v (addr64 a) false = .ok p →
      (p.home = l.team.core.pkg → exec (.pref f) s = .next
        ((if f.cp = 3 then (s.noteTlb v (addr64 a)).l2Use (s.partOfCtx c) p.gpa p.key 0 false
          else ((s.noteTlb v (addr64 a)).useLine l.team.core c (addr64 a) f.cp.toNat p).l2Use (s.partOfCtx c) p.gpa p.key
            (if f.cp = 1 then 1 else 0) false).updThread l fun t => t.step 2)) ∧
      (p.home ≠ l.team.core.pkg → exec (.pref f) s = .next
        (((s.noteTlb v (addr64 a)).fillCopy c l.team.core (addr64 a) f.cp.toNat p).updThread l fun t => t.step 2))) ∧
  (∀ (f : LM) (s : State), (Instr.cflush f).WellFormed → s.gathered.ids.Nodup →
    (∀ x ∈ s.onGroup f.toL1, regCheck x.2 [memBase f, ⟨.src 1, f.ix.toNat⟩] = none ∧
      s.placed f true 1 false x none ∧ s.unclamped x.1 f ∧
      s.heldBefore x.1 (memAccess s x.1 f f.scope.toNat .cflush (s.addrOf f true x / 128 * 128) 128 none) = false) →
    exec (.cflush f) s = .next (s.issued f.toL1
      ((s.onGroup f.toL1).map fun x =>
        memAccess s x.1 f f.scope.toNat .cflush (s.addrOf f true x / 128 * 128) 128 none) fun t => t)) ∧
  (∀ (f : LM) (s : State) (l : ThreadId) (t : Thread), (Instr.cflush f).WellFormed → s.gathered.ids = [l] → s.thread l = some t →
    t.guard f.g f.gn = true → regCheck t [memBase f, ⟨.src 1, f.ix.toNat⟩] = none → s.placed f true 1 false (l, t) none → s.unclamped l f →
    s.heldBefore l (memAccess s l f f.scope.toNat .cflush (s.addrOf f true (l, t) / 128 * 128) 128 none) = true →
    exec (.cflush f) s = .next (s.updTeam l.team fun tm => { tm with commitDue := true })) ∧
  (∀ (f : LM) (s : State), (Instr.putsig f).WellFormed → s.gathered.ids.Nodup →
    let pa := fun x : ThreadId × Thread => (x.2.readReg (s.env x.1) f.a.toNat 2 : Int) + f.off.toInt
    let sa := fun x : ThreadId × Thread => (x.2.readReg (s.env x.1) f.ix.toNat 2 : Int)
    (∀ x ∈ s.onGroup f.toL1,
      regCheck x.2 [⟨.src 2, f.a.toNat⟩, ⟨.src 2, f.ix.toNat⟩, ⟨.src (gsz f.w), f.d.toNat⟩] = none ∧
      s.place x.1 0 (pa x) (4 * gsz f.w) true = .ok none ∧ s.place x.1 0 (sa x) 4 true = .ok none ∧ x.2.stn < 63 ∧
      s.unclamped x.1 f ∧ (s.team x.1.team).any Team.guarded = false) →
    exec (.putsig f) s = .next (s.issued f.toL1
      ((s.onGroup f.toL1).flatMap fun x =>
        [{ memAccess s x.1 f f.scope.toNat .payload (pa x) (4 * gsz f.w) none with
            data := x.2.readReg (s.env x.1) f.d.toNat (gsz f.w) },
         { memAccess s x.1 f f.scope.toNat .signal (sa x) 4 none with data := 1 }])
      fun t => { t with stn := t.stn + 1 })) ∧
  (∀ (f : LM) (s : State) (l : ThreadId) (lt : Thread) (c : CoreId) (off : Nat), (Instr.ldfe f).WellFormed →
    s.gathered.ids = [l] → s.thread l = some lt → lt.guard f.g f.gn = true →
    regCheck lt (accessOpds f true ⟨.dst (gsz f.w), f.d.toNat⟩) = none →
    s.placed f true (4 * gsz f.w) true (l, lt) (some (.pad c off)) → lt.ldn < 63 → s.unclamped l f →
    let acc := { memAccess s l f f.scope.toNat .load (s.addrOf f true (l, lt)) (4 * gsz f.w) (some (.pad c off)) with
      seq := s.seq, dst := f.d.toNat, g := gsz f.w }
    (s.mayPerform acc = true → (s.core c).empty.contains (off / 128) = false →
      exec (.ldfe f) s = .next (s.issued f.toL1
        [{ acc with
            got := some (memRead (s.core c).scratch off (4 * gsz f.w)), word := if s.badPad c off (4 * gsz f.w) = true then 3 else 0 }]
        fun t => { (t.setPend f.d.toNat (gsz f.w)) with ldn := t.ldn + 1 })) ∧
    (s.mayPerform acc = true → (s.core c).empty.contains (off / 128) = true →
      exec (.ldfe f) s = .next (s.updThread l fun t => { t with park := .ldfe acc })) ∧
    (s.mayPerform acc = false → exec (.ldfe f) s = .next (s.updThread l fun t => { t with park := .ordered (.access acc) })))

/-- ULDW, ULDT and USTW: one access for the group, from the leader's operands, that serves every guard-true thread (R188). It takes a number for
each team it serves, which is the model's own order (log entry 84). A USTW to memory of a group with threads of guarded tasks is held by the first of
them, which is log entry 33's choice (R387). -/
def Obligations.UniformAccesses : Prop :=
  let load := fun (c : LM → Instr) (idx : Bool) (tag : LM → Nat) =>
    ∀ (f : LM) (s : State) (l : ThreadId) (lt : Thread) (loc : Option Loc), (c f).WellFormed →
      s.leads f.toL1 ([memBase f] ++ if idx then [⟨.src 1, f.ix.toNat⟩] else []) [⟨.dst (gsz f.w), f.d.toNat⟩] l lt →
      s.placed f idx (4 * gsz f.w) true (l, lt) loc → (∀ x ∈ s.onGroup f.toL1, x.2.ldn < 63) → s.unclamped l f →
      exec (c f) s = .next
        { s.uniNext f.toL1 2 fun t => { (t.setPend f.d.toNat (gsz f.w)) with ldn := t.ldn + 1 } with
          seq := s.seq + max 1 ((s.onIds f.toL1).map (·.team)).eraseDups.length
          accs := s.accs ++ [{ memAccess s l f f.scope.toNat .load (s.addrOf f idx (l, lt)) (4 * gsz f.w) loc with
            seq := s.seq, owners := s.onIds f.toL1, dst := f.d.toNat, g := gsz f.w, tag := BitVec.ofNat 4 (tag f) }] }
  load .uldw true (fun _ => 0) ∧ load .uldt false (fun f => f.ix.toNat) ∧
  (∀ (f : LM) (s : State) (l : ThreadId) (lt : Thread) (loc : Option Loc), (Instr.ustw f).WellFormed →
    s.leads f.toL1 [memBase f, ⟨.src 1, f.ix.toNat⟩, ⟨.src (gsz f.w), f.d.toNat⟩] [] l lt →
    s.placed f true (4 * gsz f.w) true (l, lt) loc → (∀ x ∈ s.onGroup f.toL1, x.2.stn < 63) → s.unclamped l f →
    (f.space = 1 ∨ f.space = 2 ∨ ∀ i ∈ s.onIds f.toL1, (s.team i.team).any Team.guarded = false) →
    exec (.ustw f) s = .next
      { s.uniNext f.toL1 2 fun t => { t with stn := t.stn + 1 } with
        seq := s.seq + max 1 ((s.onIds f.toL1).map (·.team)).eraseDups.length
        accs := s.accs ++ [{ memAccess s l f f.scope.toNat .store (s.addrOf f true (l, lt)) (4 * gsz f.w) loc with
          seq := s.seq, owners := s.onIds f.toL1, data := lt.readReg (s.env l) f.d.toNat (gsz f.w) }] }) ∧
  (∀ (f : LM) (s : State) (l i : ThreadId) (lt : Thread), (Instr.ustw f).WellFormed →
    s.leads f.toL1 [memBase f, ⟨.src 1, f.ix.toNat⟩, ⟨.src (gsz f.w), f.d.toNat⟩] [] l lt →
    s.placed f true (4 * gsz f.w) true (l, lt) none → (∀ x ∈ s.onGroup f.toL1, x.2.stn < 63) → s.unclamped l f →
    f.space = 0 ∨ f.space = 3 → (s.onIds f.toL1).find? (fun i => (s.team i.team).any Team.guarded) = some i →
    s.storeRoom i.team.core ≠ 0 →
    exec (.ustw f) s = .next
      ({ s.uniNext f.toL1 2 (fun t => { t with stn := t.stn + 1 }) with seq := s.seq + 1 }.updTeam i.team fun tm => { tm with
        held := tm.held ++ [{ memAccess s l f f.scope.toNat .store (s.addrOf f true (l, lt)) (4 * gsz f.w) none with
          seq := s.seq, owners := s.onIds f.toL1, data := lt.readReg (s.env l) f.d.toNat (gsz f.w), held := true }] }))

/-! ## Atomics and the performance of accesses -/

namespace Sys2Proof.Claims

/-- The access that an atomic of one thread issues (R241, R254 to R257). -/
def atomicAccess (op : NetOp) (f : LM) (s : State) (loc : Option Loc) (x : ThreadId × Thread) : Access :=
  { memAccess s x.1 f f.scope.toNat (.atomic op) (s.addrOf f false x) (4 * gsz f.w) loc with
    data := if op = .ld then 0 else x.2.readReg (s.env x.1) f.ix.toNat (gsz f.w)
    data2 := if op = .cas then x.2.readReg (s.env x.1) (f.ix.toNat + gsz f.w) (gsz f.w) else 0
    dst := f.d.toNat, g := gsz f.w, tag := if op = .fadd then 1 else 0 }

/-- A lane atomic outside a guarded task: every guard-true thread leaves it outstanding, a returning one with its destination
pending and LDN one higher, else STN one higher; the accesses with equal addresses leave the core as one request (R49, R241,
R254). The cores hold no read-only copies, which the access would drop (R231). -/
def AtomicForm (c : LM → Instr) (op : NetOp) : Prop :=
  ∀ (f : LM) (s : State) (loc : ThreadId → Option Loc), (c f).WellFormed → s.gathered.ids.Nodup →
    (∀ x ∈ s.onGroup f.toL1, regCheck x.2 ([memBase f] ++ atOperand op f ++ [⟨.dstZ (gsz f.w), f.d.toNat⟩]) = none ∧
      (op = .fadd → x.2.tagOf f.ix.toNat = 1) ∧ s.placed f false (4 * gsz f.w) true x (loc x.1) ∧
      (if f.d = 124 then x.2.stn < 63 else x.2.ldn < 63) ∧ s.unclamped x.1 f ∧
      (s.team x.1.team).any Team.guarded = false ∧
      (f.space = 1 ∨ f.space = 2 ∨ ∀ l ∈ (s.core x.1.team.core).l1, l.copy = none)) →
    let t := s.issued f.toL1 ((s.onGroup f.toL1).map fun x => atomicAccess op f s (loc x.1) x) fun t =>
      if f.d = 124 then { t with stn := t.stn + 1 }
      else { (t.setPend f.d.toNat (gsz f.w)) with ldn := t.ldn + 1 }
    exec (c f) s = .next (t.combineLanes op s.seq 32 (t.accs.filter fun a =>
      s.seq ≤ a.seq && (match a.kind with | .atomic _ => true | _ => false)))

end Sys2Proof.Claims

/-- The atomics at issue (R253 to R257). -/
def Obligations.AtomicsIssueRequests : Prop :=
  AtomicForm .atadd .add ∧ AtomicForm .atand .and ∧ AtomicForm .ator .or ∧ AtomicForm .atxor .xor ∧ AtomicForm .atmax .max ∧
  AtomicForm .atmin .min ∧ AtomicForm .atmaxu .maxu ∧ AtomicForm .atminu .minu ∧ AtomicForm .atswp .swp ∧
  AtomicForm .atld .ld ∧ AtomicForm .atfadd .fadd ∧ AtomicForm .atcas .cas

namespace Sys2Proof.Claims

/-- One thread's global store in a guarded task goes to the store buffer, not to memory; without room in STN a commit is
called for instead (R387, R388). -/
def HeldForm (c : LM → Instr) (size : LM → Nat) : Prop :=
  ∀ (f : LM) (s : State) (l : ThreadId) (t : Thread), (c f).WellFormed → s.gathered.ids = [l] → s.thread l = some t →
    t.guard f.g f.gn = true → regCheck t (accessOpds f true ⟨.src (gsz f.w), f.d.toNat⟩) = none →
    s.placed f true (size f) true (l, t) none → s.unclamped l f → (s.team l.team).any Team.guarded = true →
    (t.stn < 63 → s.storeRoom l.team.core ≠ 0 → exec (c f) s = .next
      ((((s.holdAccess l.team
        { memAccess s l f f.scope.toNat .store (s.addrOf f true (l, t)) (size f) none with
          data := t.readReg (s.env l) f.d.toNat (gsz f.w) % 2 ^ (8 * size f) }).updThreads [l] fun t =>
            { t with stn := t.stn + 1 }).updThread l fun t => t.step 2))) ∧
    (t.stn = 63 → exec (c f) s = .next (s.updTeam l.team fun tm => { tm with commitDue := true }))

end Sys2Proof.Claims

/-- Held writes (R387), and the irrevocable atomic of a guarded task that holds some: the commit comes first (R388). -/
def Obligations.GuardedWritesAreHeld : Prop :=
  (HeldForm .stb fun _ => 1) ∧ (HeldForm .sth fun _ => 2) ∧ (HeldForm .stw fun f => 4 * gsz f.w) ∧
  (∀ (f : LM) (s : State) (l : ThreadId) (t : Thread), (Instr.atadd f).WellFormed → f.d ≠ 124 → s.gathered.ids = [l] →
    s.thread l = some t → t.guard f.g f.gn = true →
    regCheck t ([memBase f] ++ [⟨.src (gsz f.w), f.ix.toNat⟩] ++ [⟨.dstZ (gsz f.w), f.d.toNat⟩]) = none →
    (∃ loc, s.placed f false (4 * gsz f.w) true (l, t) loc) → s.unclamped l f → s.mustCommit l.team = true →
    (∀ a ∈ s.accs, a.seq < s.seq) →
    exec (.atadd f) s = .next (s.updTeam l.team fun tm => { tm with commitDue := true }))

/-- LOAD_DATA_RETURN, STORE_PERFORMED, ATOMIC_VALUE_RETURN and PUTSIG_SIGNAL (R185, R187, R191, R194, R198, R212, R214, R226, R254): what an
outstanding access does once it may be performed. A local-home load that hits its core's L1 reads the line there, and one that does not takes the
bytes that memory then holds and brings in the line, behind what its quad holds dirty of it; a local-home store at quad scope or wider writes memory, and one
at a narrower scope its core's line, where its bytes keep the names of the stores they cover. A load that reads an uncorrectable error writes no register: its thread gets UNCORRECTABLE with
the error's source, and the error is counted (R379, R382). The model's choices: that a narrow store to a line of its core lands there (log entry 68), that a hit
moves its line to the most recent position and that a PUTSIG's payload is written to memory at every scope (log entry 76), and how the L2 slices
stand beside memory (log entry 101). -/
def Obligations.AccessesArePerformed : Prop :=
  let pad := fun (s : State) (x : Access) (c : CoreId) (off : Nat) => x.state = .waiting ∧ s.mayPerform x = true ∧
    x.loc = some (.pad c off) ∧ (x.space = 1 ∨ x.space = 2) ∧ s.lostPeer x = false
  let here := fun (s : State) (x : Access) => x.state = .waiting ∧ x.got = none ∧ s.mayPerform x = true ∧ x.loc = none ∧
    (x.space = 0 ∨ x.space = 3) ∧ s.homeOfAcc x = some x.core.pkg
  let brought := fun (s : State) (x : Access) (p : Place) => (s.noteTlb x.view x.addr).useLine x.core x.ctx x.addr x.cp p
  (∀ (s : State) (a v : Nat) (x : Access), s.access a = some x → x.kind = .load → x.state = .waiting ∨ x.state = .sent →
    x.got = some v →
    let w := if (x.space = 0 ∨ x.space = 3) ∧ x.state = .sent then s.globalBytes x (natToBytes x.size v) else v
    (x.word = 0 → exec (.loadDataReturn a) s = .next ((s.finishLoad x w).dropAccess a)) ∧
    (x.word ≠ 0 → exec (.loadDataReturn a) s = .next ((s.poisoned x (x.word.toNat - 1)).dropAccess a))) ∧
  (∀ (s : State) (a off : Nat) (c : CoreId) (x : Access), s.access a = some x → x.kind = .load → x.got = none → pad s x c off →
    (s.badPad c off x.size = false → exec (.loadDataReturn a) s = .next
      ((s.finishLoad x (memRead (s.core c).scratch off x.size)).dropAccess a)) ∧
    (s.badPad c off x.size = true → exec (.loadDataReturn a) s = .next ((s.poisoned x 2).dropAccess a))) ∧
  (∀ (s : State) (a : Nat) (p : Place) (x : Access), s.access a = some x → x.kind = .load → here s x → s.hitLine x = none →
    s.translate x.view x.addr false = .ok p →
    let u := brought s x p
    (s.forwards x = [] → u.badMem (s.partOfCtx x.ctx) p.gpa p.key x.size = none → exec (.loadDataReturn a) s = .next
      ((u.finishLoad x (memRead u.mem p.key x.size)).dropAccess a)) ∧
    ∀ src, u.badMem (s.partOfCtx x.ctx) p.gpa p.key x.size = some src → exec (.loadDataReturn a) s = .next
      ((u.poisoned x src).dropAccess a)) ∧
  (∀ (s : State) (a : Nat) (l : L1Line) (x : Access), s.access a = some x → x.kind = .load → here s x → x.cp ≠ 3 →
    s.hitLine x = some l → s.forwards x = [] → (s.lineRead l (x.addr % 128) x.size).2 = none →
    exec (.loadDataReturn a) s = .next (((s.updCore x.core fun k => k.touch l).finishLoad x
      (bytesToNat ((List.range x.size).map fun i => s.lineByte l (x.addr % 128 + i)))).dropAccess a)) ∧
  (∀ (s : State) (a : Nat) (p : Place) (x : Access), s.access a = some x → x.kind ∈ [.store, .payload, .engine] → here s x → x.held = false →
    s.translate x.view x.addr true = .ok p →
    let done := fun t : State => (if x.kind = .store then t.lowerStn x.owners else t).dropAccess a
    let u := brought s x p
    (3 ≤ x.scope ∨ x.kind = .payload ∨ u.l1Line x.core x.ctx x.addr = none → exec (.storePerformed a) s = .next
      (done (((u.l2Use (s.partOfCtx x.ctx) p.gpa p.key x.cp true).memStore p.key x.size x.data).passL1 x.core p.key x.size))) ∧
    ∀ l, x.scope < 3 → x.kind ≠ .payload → u.l1Line x.core x.ctx x.addr = some l →
      exec (.storePerformed a) s = .next (done (u.updCore x.core fun k =>
        k.updLine l fun y => y.write (x.addr % 128) x.size x.data ⟨a, x.owners, x.strm⟩))) ∧
  (∀ (s : State) (a off : Nat) (c : CoreId) (x : Access), s.access a = some x → x.kind = .store → x.got = none → x.held = false → pad s x c off →
    exec (.storePerformed a) s = .next
      ((((s.padWrite c off x.size x.data).noteLine x.owners c off).lowerStn x.owners).dropAccess a)) ∧
  (∀ (s : State) (a off : Nat) (c : CoreId) (x : Access), s.access a = some x → x.kind = .stfe → x.held = false → pad s x c off →
    exec (.storePerformed a) s = .next
      (((((s.padWrite c off x.size x.data).noteLine x.owners c off).lineFull c (off / 128)).lowerStn x.owners).dropAccess a)) ∧
  (∀ (s : State) (a off : Nat) (c : CoreId) (x : Access), s.access a = some x → x.kind = .ste → x.held = false → pad s x c off →
    (s.core c).empty.contains (off / 128) = false →
    exec (.storePerformed a) s = .next
      (((s.updCore c fun k => { k with empty := k.empty ++ [off / 128] }).lowerStn x.owners).dropAccess a)) ∧
  (∀ (s : State) (a : Nat) (x : Access), s.access a = some x → x.kind = .cflush → x.held = false → x.state = .waiting →
    x.space = 0 ∨ x.space = 3 → s.mayPerform x = true →
    let u := match s.l1Line x.core x.ctx x.addr with
      | some l => s.dropLines x.core fun y => y.same l
      | none => s
    (x.scope < 5 → exec (.storePerformed a) s = .next (u.dropAccess a)) ∧
    ∀ p l, 5 ≤ x.scope → u.translate x.view x.addr false = .ok p → u.l2Home (u.partOfCtx x.ctx) p.gpa p.key = some l →
      exec (.storePerformed a) s = .next ((u.l2DropAll fun y => y.same l).dropAccess a)) ∧
  (∀ (s : State) (a v : Nat) (x : Access) (op : NetOp), s.access a = some x → x.kind = .atomic op → op ≠ .arrive →
    x.got = some v →
    exec (.atomicValueReturn a) s = .next ((if x.dst = 124 then s.lowerStn x.owners
      else if x.word = 0 then s.finishLoad x v else s.poisoned x (x.word.toNat - 1)).dropAccess a)) ∧
  (∀ (s : State) (a v : Nat) (x : Access), s.access a = some x → x.kind = .signal → x.got = some v →
    exec (.atomicValueReturn a) s = .next ((s.lowerStn x.owners).dropAccess a)) ∧
  (∀ (s : State) (a : Nat) (p : Place) (x : Access), s.access a = some x → x.kind = .signal → x.state = .waiting →
    x.got = none → x.space = 0 → x.loc = none → s.mayPerform x = true → s.translate x.view x.addr true = .ok p →
    let part := s.partOfCtx x.ctx
    exec (.putsigSignal a) s = .next
      ((((({ s with seq := s.seq + 1 }.noteTlb x.view x.addr).exposeKey x.core p.key).updAccess a fun y => { y with state := .sent }).dropFlight
        s.seq).send
        ⟨{ rid := s.seq, grp := a, gpa := p.gpa, op := .add, loc := .glob (s.reach part p.gpa).part (s.reach part p.gpa).gpa, size := x.size,
           x := x.data, y := x.data2, src := x.core.pkg, home := p.home, leaves := [(a, x.data, x.data2)], part := part, ctx := x.ctx,
           waits := [] }, .toRace, colOf x.core.pkg, 0, false⟩))

/-- The path of a request (R239 to R252): REQUEST_LEAVE_CORE sends it to its race stage, an access with a remote home on its own, or performs it
at a scratchpad; STAGE_ARRIVAL takes it, in the order of its port, into the stage's output queue; STAGE_DEPART sends it on with its
contributions combined; HOME_PERFORM performs it on the word at its home; REPLY_SPLIT hands each contribution its value. -/
def Obligations.RequestsTravelAndPerform : Prop :=
  (∀ (s : State) (r : Nat) (f : Flight) (l : Nat × Nat × Nat) (ls : List (Nat × Nat × Nat)) (a : Access) (p : Place)
    (pt gpa : Nat), s.flight r = some f → f.at_ = .core → s.mayLeave f.req = true → f.req.loc = .glob pt gpa →
    f.req.leaves = l :: ls → s.access l.1 = some a → s.translate a.view a.addr a.writes = .ok p →
    let real := s.reach (s.partOfCtx a.ctx) p.gpa
    let u := (s.noteTlb a.view a.addr).exposeKey a.core p.key
    exec (.requestLeaveCore r) s = .next
      (((f.req.leaves.foldl (fun s l => s.updAccess l.1 fun a => { a with state := .sent })
        (if a.kind = .jadd ∨ a.kind = .atomic .arrive then u.exposeBefore a else u)).dropFlight f.req.rid).send
        ⟨{ f.req with loc := .glob real.part real.gpa, gpa := p.gpa, home := p.home, part := s.partOfCtx a.ctx }, .toRace,
          colOf f.req.src, 0, false⟩)) ∧
  (∀ (s : State) (a : Nat) (x : Access) (p : Place), s.flight a = none → s.access a = some x → x.state = .waiting → x.got = none →
    s.mayPerform x = true → x.kind ∈ [.load, .store, .payload, .engine, .jadd, .jrd] → x.space = 0 ∨ x.space = 3 → x.loc = none →
    s.homeOfAcc x = some p.home → p.home ≠ x.core.pkg ∨ x.kind ∈ [.jadd, .jrd] → s.translate x.view x.addr x.writes = .ok p →
    let part := s.partOfCtx x.ctx
    let op : NetOp := if x.kind = .load then .read else if x.kind = .jadd then .jadd else if x.kind = .jrd then .jrd else .write
    let u := ({ s with seq := s.seq + 1 }.noteTlb x.view x.addr).exposeKey x.core p.key
    exec (.requestLeaveCore a) s = .next
      ((((if x.kind = .jadd then u.exposeBefore x else u).updAccess a fun y => { y with state := .sent }).dropFlight
        s.seq).send
        ⟨{ rid := s.seq, grp := a, gpa := p.gpa, op := op, loc := .glob (s.reach part p.gpa).part (s.reach part p.gpa).gpa, size := x.size,
           x := x.data, y := x.data2, src := x.core.pkg, home := p.home, leaves := [(a, x.data, x.data2)], part := part, ctx := x.ctx,
           waits := [] }, .toRace, colOf x.core.pkg, 0, false⟩)) ∧
  (∀ (s : State) (r off : Nat) (c : CoreId) (f : Flight), s.flight r = some f → f.at_ = .core → s.mayLeave f.req = true →
    f.req.loc = .pad c off → f.req.op ≠ .ld → s.badPad c off f.req.size = false →
    (∀ l ∈ f.req.leaves, ∀ a, s.access l.1 = some a → s.lostPeer a = false) →
    let old := memRead (s.core c).scratch off f.req.size
    exec (.requestLeaveCore r) s = .next
      (((((s.padWrite c off f.req.size (netNew f.req.op f.req.size old f.req.x f.req.y)).noteLine
        ((s.leafAccs f.req).flatMap (·.owners)) c off).deliverLeaves f.req old).dropFlight f.req.rid))) ∧
  (∀ (s : State) (r : Nat) (f : Flight), s.flight r = some f → f.at_ = .toRace →
    s.linked f.req.src (racePkg f.req.src f.req.home) = true → s.firstOnPort f (racePkg f.req.src f.req.home) = true →
    let p := racePkg f.req.src f.req.home
    exec (.stageArrival r) s = .next
      { s.dropFlight r with races := setStage s.races p ((stageOf s.races p).arrive f.req f.port f.req.home) }) ∧
  (∀ (s : State) (r : Nat) (f : Flight), s.flight r = some f → f.at_ = .toWeir →
    s.linked (racePkg f.req.src f.req.home) f.req.home = true → s.firstOnPort f f.req.home = true →
    exec (.stageArrival r) s = .next
      { s.dropFlight r with weirs := setStage s.weirs f.req.home ((stageOf s.weirs f.req.home).arrive f.req f.port (s.weirOut f.req)) }) ∧
  (∀ (s : State) (r p : Nat) (st : Stage) (q : QEntry) (rest : Tbl Nat Stage), s.races = (p, st) :: rest →
    departs r [] st.queue = some q →
    exec (.stageDepart r) s = .next
      ({ s with races := setStage s.races p (st.depart q) }.send ⟨q.forward, .toWeir, rowOf p, 0, false⟩)) ∧
  (∀ (s : State) (r p : Nat) (st : Stage) (q : QEntry) (rest : Tbl Nat Stage),
    (∀ x ∈ s.races, departs r [] x.2.queue = none) → s.weirs = (p, st) :: rest → departs r [] st.queue = some q →
    exec (.stageDepart r) s = .next
      ({ s with weirs := setStage s.weirs p (st.depart q) }.send ⟨q.forward, .toHome, 0, 0, false⟩)) ∧
  (∀ (s : State) (r key : Nat) (f : Flight) (fs : List Flight), s.flights = f :: fs → f.req.rid = r → f.at_ = .toHome →
    s.overtakes f.req = false → s.stage2 f.req.part f.req.gpa (!netReads f.req.op) = .ok key →
    let u := s.dropFlight r
    let w := u.l2Use f.req.part f.req.gpa key 0 (f.req.op ≠ .ld && f.req.op ≠ .read)
    let old := memRead s.mem key f.req.size
    let back := { f with at_ := .backWeir, value := old }
    (s.badMem f.req.part f.req.gpa key f.req.size = none →
      (f.req.op ∈ [.add, .and, .or, .xor, .max, .min, .maxu, .minu, .swp, .fadd, .cas, .write] → exec (.homePerform r) s = .next
        (((w.memStore key f.req.size (netNew f.req.op f.req.size old f.req.x f.req.y)).dropCopiesAt f.req key).send back)) ∧
      (f.req.op = .ld → exec (.homePerform r) s = .next ((w.dropCopiesAt f.req key).send back)) ∧
      (f.req.op = .read → exec (.homePerform r) s = .next ((w.copyAt f.req key).send back)) ∧
      (f.req.op = .jadd → exec (.homePerform r) s = .next ((u.counterAdd f.req.ctx f.req.gpa key (sgn f.req.x 64)).1.send
        { back with value := (u.counterAdd f.req.ctx f.req.gpa key (sgn f.req.x 64)).2 })) ∧
      (f.req.op = .jrd → exec (.homePerform r) s = .next (u.send { back with value := memRead s.mem key 8 })) ∧
      (f.req.op = .arrive → exec (.homePerform r) s = .next
        ((u.memStore key 8 (barArrives f.req.x (memRead s.mem key 12) % 2 ^ 64)).send { back with value := memRead s.mem key 12 }))) ∧
    ∀ src, s.badMem f.req.part f.req.gpa key f.req.size = some src → f.req.op ≠ .write →
      exec (.homePerform r) s = .next ((u.spoilLeaves f.req src).send { back with value := 0 })) ∧
  (∀ (s : State) (r : Nat) (f : Flight) (fs : List Flight), s.flights = f :: fs → f.req.rid = r → f.at_ = .toHome →
    s.overtakes f.req = true ∨ (∃ m, s.stage2 f.req.part f.req.gpa (!netReads f.req.op) = .error m) →
    exec (.homePerform r) s = .next ((s.dropFlight r).send { f with at_ := .backWeir, faulted := true })) ∧
  (∀ (s : State) (r : Nat) (f : Flight), s.flight r = some f → f.at_ = .backWeir →
    (stageOf s.weirs f.req.home).pond.find? (·.rid = f.req.rid) = none →
    exec (.replySplit r) s = .next
      ({ s.dropFlight r with weirs := setStage s.weirs f.req.home (stageOf s.weirs f.req.home) }.send { f with at_ := .backRace })) ∧
  (∀ (s : State) (r : Nat) (f : Flight) (sp : Split), s.flight r = some f → f.at_ = .backRace → f.faulted = false →
    (stageOf s.races (racePkg f.req.src f.req.home)).pond.find? (·.rid = f.req.rid) = some sp →
    let p := racePkg f.req.src f.req.home
    let st := stageOf s.races p
    exec (.replySplit r) s = .next
      ((sp.kidReqs.zip (givenAll sp.op sp.size f.value [] (sp.kids.map (·.2)))).foldl (fun s k => s.deliverLeaves k.1 k.2)
        { s.dropFlight r with races := setStage s.races p { st with pond := st.pond.filter (·.rid ≠ f.req.rid) } }))

/-! ## Waits that end -/

/-- RENDEZVOUS_COMPLETE, YIELD_READY, THREAD_RETIRE, BARRIER_RELEASE and HELD_ACCESS_RELEASE (R115, R116, R121, R217, R221, R343):
what the end of a wait does to the threads that waited. A rendezvous is released as a set of its own, which its number keeps apart from
others; the end of a wait at a barrier word is an acquire; a satisfied fence writes to memory what it covers of the L1. -/
def Obligations.WaitsEnd : Prop :=
  (∀ (s : State) (t : TeamId) (pc : Pc) (pcs : List Pc) (ids : List ThreadId), s.arrivalPcs t = pc :: pcs →
    s.complete? t pc = some ids →
    exec (.rendezvousComplete t) s = .next ({ s with seq := s.seq + 1 }.updThreads ids fun th =>
      match th.park with
      | .arrived k => { th with park := .released s.seq k }
      | _ => th)) ∧
  (∀ (s : State) (i : ThreadId) (th : Thread), s.thread i = some th → th.park = .yielding →
    exec (.yieldReady i) s = .next (s.updThread i fun th =>
      if th.park = .yielding then { th with park := .ready } else th)) ∧
  (∀ (s : State) (i : ThreadId) (th : Thread), s.thread i = some th → th.park = .exiting → th.live = true → th.ldn = 0 → th.deferred = [] →
    (∃ j ∈ s.liveIds i.team, j ≠ i) → s.arrivalPcs i.team = [] →
    exec (.threadRetire i) s = .next (s.updThreads [i] fun th => { th with live := false, park := .ready })) ∧
  (∀ (s : State) (i : ThreadId) (th : Thread), s.thread i = some th → th.park = .exiting → th.live = true → th.ldn = 0 → th.deferred = [] →
    (∀ j ∈ s.liveIds i.team, j = i) → s.endCommits i.team = false →
    exec (.threadRetire i) s = .next
      ((s.updThreads [i] fun th => { th with live := false, park := .ready }).endTask i.team true)) ∧
  (∀ (s : State) (t : TeamId), (∀ x ∈ s.members t, ∀ a d, x.2.park ≠ .barWord a d) →
    exec (.barrierRelease t) s = .next (s.updThreads
      (((s.members t).filter fun x => x.2.live && (match x.2.park with
        | .bar b d => 1 ≤ ((s.bar b).phase - d).toNat && ((s.bar b).phase - d).toNat ≤ 2 ^ 31
        | _ => false)).map (·.1))
      fun th => { th.step 2 with park := .ready })) ∧
  (∀ (s : State) (t : TeamId) (i : ThreadId) (th : Thread) (a : Nat) (d : W32) (p : Place), s.members t = [(i, th)] → th.live = true →
    th.park = .barWord a d → s.translate (viewAt (s.ctxId i) t.core) (a + 4) false = .ok p →
    s.missVa (viewAt (s.ctxId i) t.core) (a + 4) 4 false = none →
    let ph : W32 := w32 (memRead s.mem p.key 4)
    1 ≤ (ph - d).toNat → (ph - d).toNat ≤ 2 ^ 31 →
    exec (.barrierRelease t) s = .next ((s.acquire t.core).updThreads [i] fun th => { th.step 2 with park := .ready })) ∧
  (∀ (s : State) (i : ThreadId) (th : Thread) (f : Fence), s.thread i = some th → th.fences = [f] →
    s.fenceDone i f = true →
    let u := if 6 ≤ f.scope then s.acquire i.team.core else s
    let v := if f.scope < 3 then u
      else u.expose i.team.core fun d => d.owners.contains i && d.seq < f.seq && f.x.getLsbD d.strm
    exec (.heldAccessRelease i) s = .next (v.updThread i fun th => { th with fences := th.fences.filter fun g => g ≠ f }))

/-! ## Barriers, fences and counters -/

/-- FENCE and XFENCE of one thread (R220 to R222): a fence with an earlier access of its sets still unperformed comes into
force and keeps the thread's later accesses back, without parking the thread; one with nothing to wait for only steps, after the
stores it covers that stand in the L1 are written to memory. At partition and pod scope it drops the core's read-only copies (R232). WAITC (R223) steps
when the counters meet the literal, else parks; a wait on STN for held writes has them committed (R387). -/
def Obligations.FencesAndWaitc : Prop :=
  let fence := fun (c : L2I → Instr) (scope : L2I → Nat) (x y : L2I → BitVec 16) =>
    ∀ (f : L2I) (s : State) (l : ThreadId) (t : Thread), (c f).WellFormed → s.gathered.ids = [l] → s.thread l = some t →
      t.guard f.g f.gn = true → (∀ k, s.ctxOf l.team = some k → s.clamp k l.team.core (scope f) = (s, scope f)) →
      s.fenceNeedsCommit l (x f) (scope f) = false →
      let n : Fence := ⟨x f, y f, scope f, s.seq⟩
      let u := if 6 ≤ scope f then { s with seq := s.seq + 1 }.acquire l.team.core else { s with seq := s.seq + 1 }
      exec (c f) s = .next ((if x f = 0 ∨ y f = 0 then u
        else if u.fenceDone l n = true then
          (if scope f < 3 then u else u.expose l.team.core fun d => d.owners.contains l && d.seq < s.seq && (x f).getLsbD d.strm)
        else u.updThread l fun t => { t with fences := t.fences ++ [n] }).updThread l fun t => t.step 2)
  (fence .fence (fun f => f.lit.toNat) (fun _ => 0xFFFF) fun _ => 0xFFFF) ∧
  (fence .xfence (fun f => f.d.toNat) (fun f => f.lit.extractLsb' 0 16) fun f => f.lit.extractLsb' 16 16) ∧
  (∀ (f : L2I) (s : State) (l : ThreadId) (t : Thread), (Instr.waitc f).WellFormed → s.gathered.ids = [l] →
    s.thread l = some t → t.guard f.g f.gn = true →
    let met := t.ldn ≤ (f.lit.extractLsb' 0 6).toNat ∧ t.stn ≤ (f.lit.extractLsb' 6 6).toNat ∧
      t.cpn ≤ (f.lit.extractLsb' 12 6).toNat ∧ t.mxn ≤ (f.lit.extractLsb' 18 6).toNat
    (met → exec (.waitc f) s = .next (s.updThread l fun t => t.step 2)) ∧
    (¬met → t.stn ≤ (f.lit.extractLsb' 6 6).toNat ∨ s.heldOf l.team = [] →
      exec (.waitc f) s = .next (s.updThread l fun t => { t with park := .waitc f.lit })) ∧
    (¬met → (f.lit.extractLsb' 6 6).toNat < t.stn → s.heldOf l.team ≠ [] →
      exec (.waitc f) s = .next (s.updTeam l.team fun tm => { tm with commitDue := true })))

/-- BAR, BARA and BARW (R341, R343). A gathered set arrives; a released set whose accesses the barrier's scope covers are all
performed acts; an arrival at quad scope or wider first writes to memory what its team's stores have left in the L1 (R217). BAR arrives and waits for the phase it read to end, BARA arrives, gives the phase to its guard-true
threads and goes on, BARW waits for the phase in D to end. At a barrier word
the arrival is a request of its own, and the team waits for its reply (R342). The first guard-true thread gives the operands, or the first thread when there is
none. An arrival of a guarded task is irrevocable (R388), and one that must wait for its accesses leaves the set standing as one. -/
def Obligations.BarriersArriveAndWait : Prop :=
  let lead := fun (f : L2I) (s : State) (l : ThreadId) (lt : Thread) (rest : List (ThreadId × Thread)) =>
    s.gathered.rdv = true ∧
    (s.readied.onGroup f.toL1 = (l, lt) :: rest ∨ (s.readied.onGroup f.toL1 = [] ∧ s.readied.group = (l, lt) :: rest)) ∧
    s.clamp (s.ctxId l) l.team.core (f.lit.extractLsb' 0 3).toNat = (s, (f.lit.extractLsb' 0 3).toNat)
  let free := fun (s : State) (l : ThreadId) (n : Nat) =>
    s.barWaits l.team n = false ∧ s.mustCommit l.team = false
  let shown := fun (f : L2I) (s : State) (l : ThreadId) => if (f.lit.extractLsb' 0 3).toNat < 3 then s.readied
    else s.readied.expose l.team.core fun d => d.owners.any (·.team = l.team)
  let bar := fun (f : L2I) (s : State) (l : ThreadId) =>
    s.readied.barId l (f.lit.extractLsb' 0 3).toNat (f.lit.extractLsb' 3 5).toNat
  (∀ c ∈ [Instr.bar, Instr.bara, Instr.barw], ∀ (f : L2I) (s : State), (c f).WellFormed → s.gathered.rdv = false →
    exec (c f) s = .next (s.arrive (s.gathered.ids.map fun i => (i, .barrier)))) ∧
  (∀ (f : L2I) (s : State) (l : ThreadId) (lt : Thread) (rest : List (ThreadId × Thread)), (Instr.bar f).WellFormed →
    lead f s l lt rest → (f.lit.extractLsb' 0 3).toNat < 6 → free s l (f.lit.extractLsb' 0 3).toNat →
    exec (.bar f) s = .next ((((shown f s l).barArrive (bar f s l) (f.lit.extractLsb' 8 24).toNat).updThreads s.gathered.ids fun t =>
      { t with park := .bar (bar f s l) (s.readied.bar (bar f s l)).phase }).commitAfter l.team)) ∧
  (∀ (f : L2I) (s : State) (l : ThreadId) (lt : Thread) (rest : List (ThreadId × Thread)), (Instr.bara f).WellFormed →
    lead f s l lt rest → (f.lit.extractLsb' 0 3).toNat < 6 → free s l (f.lit.extractLsb' 0 3).toNat →
    (∀ x ∈ s.readied.onGroup f.toL1, regCheck x.2 [⟨.dst 1, f.d.toNat⟩] = none) →
    exec (.bara f) s = .next (((((shown f s l).barArrive (bar f s l) (f.lit.extractLsb' 8 24).toNat).updThreads
      ((s.readied.onGroup f.toL1).map (·.1)) fun t =>
        t.writeReg f.d.toNat 1 (s.readied.bar (bar f s l)).phase.toNat 0).stepAll s.gathered.ids 2).commitAfter l.team)) ∧
  (∀ c ∈ [(Instr.bar, 0), (Instr.bara, 1)], ∀ (f : L2I) (s : State) (l : ThreadId) (lt : Thread) (rest : List (ThreadId × Thread)),
    (c.1 f).WellFormed → lead f s l lt rest → (f.lit.extractLsb' 0 3).toNat < 6 → s.mustCommit l.team = false →
    s.barWaits l.team (f.lit.extractLsb' 0 3).toNat = true →
    (c.2 = 1 → ∀ x ∈ s.readied.onGroup f.toL1, regCheck x.2 [⟨.dst 1, f.d.toNat⟩] = none) →
    exec (c.1 f) s = .next (s.readied.updThreads s.gathered.ids fun t =>
      { t with park := .team (.release (f.lit.extractLsb' 0 3).toNat) })) ∧
  (∀ (f : L2I) (s : State) (l : ThreadId) (lt : Thread) (rest : List (ThreadId × Thread)), (Instr.barw f).WellFormed →
    lead f s l lt rest → (f.lit.extractLsb' 0 3).toNat < 6 → regCheck lt [⟨.src 1, f.d.toNat⟩] = none →
    exec (.barw f) s = .next (s.readied.updThreads s.gathered.ids fun t =>
      { t with park := .bar (bar f s l) (w32 (lt.readReg (s.readied.env l) f.d.toNat 1)) })) ∧
  (∀ c ∈ [(Instr.bar, 0), (Instr.bara, 1)], ∀ (f : L2I) (s : State) (l : ThreadId) (lt : Thread)
    (rest : List (ThreadId × Thread)), (c.1 f).WellFormed → lead f s l lt rest → 6 ≤ (f.lit.extractLsb' 0 3).toNat →
    free s l (f.lit.extractLsb' 0 3).toNat → regCheck lt [⟨.src 2, f.a.toNat⟩] = none → (∀ a ∈ s.accs, a.seq ≠ s.seq) →
    (c.2 = 1 → ∀ x ∈ s.readied.onGroup f.toL1, regCheck x.2 [⟨.dst 1, f.d.toNat⟩] = none) →
    let addr := lt.readReg (s.readied.env l) f.a.toNat 2
    s.place l 0 addr 16 true = .ok none →
    let acc := { newAccess s l (.atomic .arrive) 0 addr 16 none with
      seq := s.seq, owners := s.gathered.ids, rcv := s.readied.onIds f.toL1, data := 1, dst := f.d.toNat, g := c.2, scope := 6 }
    exec (c.1 f) s = .next ((({ shown f s l with
      seq := s.seq + max 1 (s.gathered.ids.map fun i : ThreadId => i.team).eraseDups.length, accs := s.accs ++ [acc] }.addFlight s.seq [acc]).updThreads
      s.gathered.ids fun t => { t with park := .reply s.seq }).commitAfter l.team)) ∧
  (∀ (f : L2I) (s : State) (l : ThreadId) (lt : Thread) (rest : List (ThreadId × Thread)), (Instr.barw f).WellFormed →
    lead f s l lt rest → 6 ≤ (f.lit.extractLsb' 0 3).toNat →
    regCheck lt [⟨.src 2, f.a.toNat⟩, ⟨.src 1, f.d.toNat⟩] = none →
    let addr := lt.readReg (s.readied.env l) f.a.toNat 2
    s.place l 0 addr 16 true = .ok none → s.missVa (viewAt (s.ctxId l) l.team.core) addr 16 false = none →
    exec (.barw f) s = .next (s.readied.updThreads s.gathered.ids fun t =>
      { t with park := .barWord addr (w32 (lt.readReg (s.readied.env l) f.d.toNat 1)) }))

/-- One arrival at a barrier (R341): the count rises by one, the first arrival of a phase fixes the expected number, which at team scope is 1 and at
block scope the number of the block's teams that have a live thread, and the arrival that reaches it takes that number away and ends the phase. -/
def Obligations.BarrierCountsArrivals : Prop :=
  ∀ (s : State) (i : BarId) (n : Nat),
    let b := s.bar i
    let expect := if b.count = 0 then n else b.expect
    let need := match i.scope, i.block with
      | 0, _ => 1
      | 1, some k => (s.teams.filter fun x => x.2.block = k && (s.members x.1).any fun y => y.2.live).length
      | _, _ => expect
    (s.barArrive i n).bar i =
      (if need ≤ b.count + 1 then ⟨b.count + 1 - need, b.phase + 1, expect⟩ else ⟨b.count + 1, b.phase, expect⟩) ∧
    ∀ j, j ≠ i → (s.barArrive i n).bar j = s.bar j

/-! ## Copies and copy tags -/

namespace Sys2Proof.Claims

/-- The command that a leader's operands name (R265, R266), with the scope that its context leaves it (R22). -/
def copyOf (minor : Nat) (f : L2R) (s : State) (l : ThreadId) (lt : Thread) (scope : Nat) : CopyCmd :=
  s.copyCmd minor f ⟨l, lt, s.env l, s.onIds f.toL1, s.onIds f.toL1, []⟩ scope

/-- A copy instruction whose operands pass R267, whose tag is free and whose queue and counters have room is accepted (R268):
the lines of its destination turn empty, its tag loses CTAG and its error, CPN rises, every word is left to do, and no
byte is copied yet. A copy of no words completes at once (R266). A group whose tag or queue is taken parks until COPY_ACCEPT, one
without room in CPN stalls (R49), and held stores of the stream are committed first (R388). An operand that fails R267 traps in the
leader. -/
def CopyForm (c : L2R → Instr) (minor : Nat) : Prop :=
  ∀ (f : L2R) (s : State) (l : ThreadId) (lt : Thread), (c f).WellFormed → s.leads f.toL1 (copySrcs minor f) [] l lt →
    let u := s.stepAll (s.offIds f.toL1) 2
    let z := u.clamp (s.ctxId l) l.team.core f.d.toNat
    let k := copyOf minor f s l lt z.2
    let t := { z.1 with seq := z.1.seq + 1 }
    let x : Copy := ⟨z.1.seq, k, s.onIds f.toL1, z.1.copyOverlaps k, List.range k.words, [], [], [], z.1.copyLines k, none⟩
    let v := ((((z.1.copyLines k).foldl (fun v y => v.lineEmpty y.1 y.2) t).updCore k.block.core fun z => { z with
        copies := z.copies ++ [x]
        ctag := z.ctag &&& ~~~(BitVec.ofNat 64 (2 ^ k.tag)), errs := z.errs.filter (·.tag ≠ k.tag) }).updThreads
          (s.onIds f.toL1) fun t => { t with cpn := t.cpn + 1 })
    let free := s.heldFor l.team (s.onIds f.toL1) k.strm = false
    let room := s.copyRoom k.block.core k.tag
    let waits := fun p : Park => u.updThreads (s.onIds f.toL1) fun t => { t with park := p }
    (s.copyBad l k = none → free → room = true → (∀ x ∈ s.onGroup f.toL1, x.2.cpn < 63) →
      exec (c f) s = .next ((if k.words = 0 then v.copyEnd k.block.core x else v).stepAll (s.onIds f.toL1) 2)) ∧
    (s.copyBad l k = none → free → room = true → (∃ x ∈ s.onGroup f.toL1, 63 ≤ x.2.cpn) →
      exec (c f) s = .next (waits (.whole false false true false))) ∧
    (s.copyBad l k = none → free → room = false → exec (c f) s = .next (waits (.copy k.tag))) ∧
    (s.copyBad l k = none → ¬ free → exec (c f) s = .next (u.commitFirst l.team)) ∧
    (∀ r, s.copyBad l k = some r → exec (c f) s = .next (u.raises [(l, r)]))

end Sys2Proof.Claims

/-- The six copy instructions at issue (R265 to R268). -/
def Obligations.CopiesAreAccepted : Prop :=
  CopyForm .cpy 0 ∧ CopyForm .cpy2 1 ∧ CopyForm .cpyg 2 ∧ CopyForm .cpys 3 ∧ CopyForm .cpyx 4 ∧ CopyForm .cpyf 5

/-- The tag instructions (R275), for a leader whose mask names the tags `ts`: TWAIT goes on when none of them is busy, and raises
the error of the lowest that has one; TWANY and TFIRST give the lowest with CTAG set, plus 128 for an error, or 64; with MOD 1
they clear it; TCLR clears those that are not busy. -/
def Obligations.TagInstructions : Prop :=
  let lead := fun (f : L2R) (s : State) (l : ThreadId) (lt : Thread) (ds : List Opd) =>
    s.leads f.toL1 [⟨.src 2, f.a.toNat⟩] ds l lt
  let tags := fun (f : L2R) (s : State) (l : ThreadId) (lt : Thread) => bitList (lt.readReg (s.env l) f.a.toNat 2) 64
  let first := fun (k : Core) (ts : List Nat) => ts.find? fun t => k.ctag.getLsbD t
  let take := fun (f : L2R) (s : State) (l : ThreadId) (lt : Thread) =>
    let k := s.core l.team.core
    let n := first k (tags f s l lt)
    (if f.mod = 1 ∧ n.isSome then s.updCore l.team.core fun c => c.clearTags n.toList else s).uniNext f.toL1 2 fun t =>
      t.writeReg f.d.toNat 1 (n.elim 64 fun t => t + if k.errs.any (·.tag = t) then 128 else 0) 0
  (∀ (f : L2R) (s : State) (l : ThreadId) (lt : Thread), (Instr.twait f).WellFormed → lead f s l lt [] →
    (∀ t ∈ tags f s l lt, (s.core l.team.core).busy t = false ∧ ∀ e ∈ (s.core l.team.core).errs, e.tag ≠ t) →
    exec (.twait f) s = .next (s.uniNext f.toL1 2 fun t => t)) ∧
  (∀ (f : L2R) (s : State) (l : ThreadId) (lt : Thread) (t : Nat) (ts : List Nat) (e : TagErr),
    (Instr.twait f).WellFormed → lead f s l lt [] → tags f s l lt = t :: ts →
    (∀ t ∈ tags f s l lt, (s.core l.team.core).busy t = false) → (s.core l.team.core).errs.find? (·.tag = t) = some e →
    exec (.twait f) s = .next ((s.stepAll (s.offIds f.toL1) 2).raises [(l, trapR e.cause e.info e.addr)])) ∧
  (∀ (f : L2R) (s : State) (l : ThreadId) (lt : Thread), (Instr.twait f).WellFormed → lead f s l lt [] →
    (∃ t ∈ tags f s l lt, (s.core l.team.core).busy t = true) →
    exec (.twait f) s = .next ((s.stepAll (s.offIds f.toL1) 2).updThreads (s.onIds f.toL1) fun t =>
      { t with park := .tags (BitVec.ofNat 64 (lt.readReg (s.env l) f.a.toNat 2)) false })) ∧
  (∀ (f : L2R) (s : State) (l : ThreadId) (lt : Thread), (Instr.twany f).WellFormed → lead f s l lt [⟨.dst 1, f.d.toNat⟩] →
    (first (s.core l.team.core) (tags f s l lt)).isSome = true → exec (.twany f) s = .next (take f s l lt)) ∧
  (∀ (f : L2R) (s : State) (l : ThreadId) (lt : Thread), (Instr.tfirst f).WellFormed → lead f s l lt [⟨.dst 1, f.d.toNat⟩] →
    exec (.tfirst f) s = .next (take f s l lt)) ∧
  (∀ (f : L2R) (s : State) (l : ThreadId) (lt : Thread), (Instr.tclr f).WellFormed → lead f s l lt [] →
    exec (.tclr f) s = .next ((s.updCore l.team.core fun c => c.clearTags
      ((tags f s l lt).filter fun t => !(s.core l.team.core).busy t)).uniNext f.toL1 2 fun t => t))

/-- The copy engine (R228, R268, R269, R273), on a core whose partition owns an engine there (R394). COPY_ACCEPT lets a waiting group issue
again. COPY_COMPLETE visits some of the words left: a visit reads the word's index, reads its source or writes its destination, and a line that no word left
may still write is full. A copy with no word left ends: CPN falls, CTAG is set, the lines it marked are full, and an error is recorded and counted.
COPY_LINE_FULL fills a line whose words are all performed; COPY_PAGE_FAULT queues a request for a word that does not translate. At quad scope or wider an
operation first widens its issuers' earlier stores of its stream. Which words come first, and that a copy ends in a step after its last word's, are the model's choices
(log entries 14 and 108); a scatter's lines that acceptance could not know are marked with its index (log entry 44). -/
def Obligations.CopyEngineActs : Prop :=
  let may := fun (s : State) (c : CoreId) (tag : Nat) (x : Copy) => s.copyOn c tag = some x ∧
    (∃ sh, s.share (s.partOfCtx x.cmd.ctx) c.pkg = some sh ∧ sh.engines ≠ 0) ∧
    s.engineMay x.seq x.cmd.strm x.cmd.scope x.issuers = true
  let opened := fun (s : State) (x : Copy) => if x.cmd.scope < 3 then s
    else s.expose x.cmd.block.core fun d => d.seq < x.seq && d.strm = x.cmd.strm && d.owners.any x.issuers.contains
  (∀ (s : State) (i : ThreadId) (th : Thread) (tag : Nat), s.thread i = some th → th.park = .copy tag →
    s.copyRoom i.team.core tag = true →
    exec (.copyAccept i) s = .next (s.mapThreads fun j x =>
      if j.team = i.team ∧ x.pc = th.pc ∧ x.park = .copy tag then { x with park := .ready } else x)) ∧
  (∀ (s : State) (c : CoreId) (tag : Nat) (x : Copy), s.copyOn c tag = some x → x.cmd.tag = tag → x.todo = [] →
    let u := x.lines.foldl (fun u (y : CoreId × Nat) => if (u.core y.1).empty.contains y.2 then u.lineFull y.1 y.2 else u) s
    let v := if x.error.isSome then u.countPart (u.partOfCtx x.cmd.ctx) 10 else u
    exec (.copyComplete c tag) s = .next ((v.updCore c fun k => { k with
      copies := k.copies.filter fun y => y.cmd.tag ≠ tag, ctag := k.ctag ||| BitVec.ofNat 64 (2 ^ tag)
      errs := x.error.toList ++ k.errs.filter (·.tag ≠ tag) }).lowerCpn x.issuers)) ∧
  (∀ (s : State) (c : CoreId) (tag k v off : Nat) (i : Int) (core : CoreId) (x : Copy), may s c tag x → x.todo = [k] →
    k < x.cmd.words → x.error = none → x.index k = some i → (opened s x).copyElemBad x.cmd i = none →
    (if x.cmd.minor = 5 then some x.cmd.ext else tget x.vals k) = some v →
    (opened s x).copyLoc x.cmd x.cmd.dsp (x.cmd.dst + (x.cmd.offsets k i).1) 4 = .ok (some (core, off)) → x.cmd.tag = tag →
    exec (.copyComplete c tag) s = .next
      (((((opened s x).padWrite core off 4 (x.cmd.result v)).noteEngineLine x.cmd.ctx x.issuers core off).updCopy c tag fun y =>
        { y with todo := y.todo.filter (· ≠ k) }).copySettle c tag)) ∧
  (∀ (s w : State) (c : CoreId) (tag k v : Nat) (i : Int) (x : Copy), may s c tag x → x.todo = [k] → k < x.cmd.words → x.error = none →
    x.index k = some i → (opened s x).copyElemBad x.cmd i = none → x.cmd.minor ≠ 5 → tget x.vals k = none → x.cmd.tag = tag →
    (opened s x).copyRead x.cmd x.cmd.ssp (x.cmd.src + (x.cmd.offsets k i).2) = .got (w, v) →
    exec (.copyComplete c tag) s = .next ((w.updCopy c tag fun y => { y with vals := tset y.vals k v }).copySettle c tag)) ∧
  (∀ (s w : State) (c : CoreId) (tag k v : Nat) (x : Copy), may s c tag x → x.todo = [k] → k < x.cmd.words → x.error = none →
    x.index k = none → (opened s x).copyRead x.cmd x.cmd.isp (x.cmd.indexAt k) = .got (w, v) →
    exec (.copyComplete c tag) s = .next ((w.indexRead c x (x.cmd.elem k) v).copySettle c tag)) ∧
  (∀ (s : State) (c : CoreId) (tag line : Nat) (core : CoreId) (x : Copy), may s c tag x → x.error = none → x.todo ≠ [] →
    x.lines = [(core, line)] → (∀ k ∈ x.todo, (opened s x).wordOnLine x core line k = false) →
    ((opened s x).core core).empty.contains line = true →
    exec (.copyLineFull c tag line) s = .next (((opened s x).updCopy c x.cmd.tag fun x =>
      { x with lines := x.lines.filter (· ≠ (core, line)) }).lineFull core line)) ∧
  (∀ (s : State) (c : CoreId) (tag k va : Nat) (m : Miss) (x : Copy), may s c tag x → x.todo = [k] → k < x.cmd.words →
    s.copyVisit c x k = .miss m va → x.waits = [] →
    exec (.copyPageFault c tag) s = .next ((s.pageRequest x.cmd.ctx c 1 m).1.updCopy c tag fun x =>
      { x with waits := [((s.pageRequest x.cmd.ctx c 1 m).2, va)] }))

/-! ## Matrix commands -/

namespace Sys2Proof.Claims

/-- The command that a released team's leader issues (R277, R278): the set's first guard-true thread gives the operands, which
pass, no held write of its stream comes before it, and the queue and MXN have room. `z` is the released set's state after the scope check of R22, with the
scope that its context leaves; ACCZ has none. -/
def leadsMatrix (minor : Nat) (f : L2R) (s : State) (l : ThreadId) (lt : Thread) (z : State × Nat) (m : MatCmd) : Prop :=
  s.gathered.rdv = true ∧ (s.readied.onGroup f.toL1).head? = some (l, lt) ∧ regCheck lt (matSrcs minor f) = none ∧
  z = (if minor = 3 then (s.readied, 0) else s.readied.clamp (s.readied.ctxId l) l.team.core (f.imm.toNat / 512)) ∧
  m = s.readied.matCmd minor f l lt (s.readied.onIds f.toL1) z.2 ∧
  (minor = 3 ∨ s.readied.heldFor l.team (s.readied.onIds f.toL1) (m.ctl % 16) = false) ∧ (s.readied.teamMats l.team).length < 64 ∧
  ∀ x ∈ s.readied.onGroup f.toL1, x.2.mxn < 63

/-- Acceptance (R283, R301): the command joins the queue behind the others, MXN rises in the guard-true threads, and the whole set
steps past; ACCZ and ACCLD set the tags of their tiles at once. -/
def matrixAccepted (s : State) (m : MatCmd) : State :=
  (((({ s with seq := s.seq + 1 }.matTags m).updCore m.team.core fun k => { k with mq := k.mq ++ [m] }).updThreads m.issuers
    fun t => { t with mxn := t.mxn + 1 }).stepAll s.gathered.ids 2)

/-- The uniform pipe reads metadata or a card at issue (R287, R294): `w` is the state after the read, with the stores that landed meanwhile, and `v` has each
of its bytes as it was before them or as it is after (R228, R447; which, is free: log entry 14). -/
def cardRead (z : State) (m : MatCmd) (r : Run) (w : State) (v : Nat) : Prop :=
  z.engineMay m.seq (m.ctl % 16) m.scope m.issuers = true ∧
  ∃ u x a b, (z.engineOpens (m.engine m.team.core) m.seq).runRead m.ctx m.team.core r = .got u a ∧ w = u.racingStores ∧
    w.runRead m.ctx m.team.core r = .got x b ∧ v = mixBytes u.tick r.2.2 a b

end Sys2Proof.Claims

/-- The matrix commands at issue (R277, R283, R287, R291, R293 to R296, R301): a gathered group arrives; a released team's command
whose checks pass is accepted. MMAS and MWALK read their metadata or card first. MSTAT gives the unretired commands
and the progress of the oldest walk (R298). -/
def Obligations.MatrixCommandsAreAccepted : Prop :=
  (∀ c ∈ [Instr.mma, Instr.mmam, Instr.mmas, Instr.accz, Instr.accld, Instr.accst, Instr.mwalk, Instr.mstat],
    ∀ (f : L2R) (s : State), (c f).WellFormed → s.gathered.rdv = false →
      exec (c f) s = .next (s.arrive (s.gathered.ids.map fun i => (i, .matrix)))) ∧
  (∀ c ∈ [(Instr.mma, 0), (Instr.mmam, 1)], ∀ (f : L2R) (s : State) (l : ThreadId) (lt : Thread) (z : State × Nat) (m : MatCmd),
    (c.1 f).WellFormed → leadsMatrix c.2 f s l lt z m → s.readied.stepBad l m = none →
    exec (c.1 f) s = .next (matrixAccepted z.1 m)) ∧
  (∀ (f : L2R) (s w : State) (l : ThreadId) (lt : Thread) (z : State × Nat) (m : MatCmd) (v : Nat),
    (Instr.mmas f).WellFormed → leadsMatrix 2 f s l lt z m → s.readied.stepBad l m = none → cardRead z.1 m m.metaRun w v →
    metaBad ({ m with card := v }.step 0) = none → exec (.mmas f) s = .next (matrixAccepted w { m with card := v })) ∧
  (∀ (f : L2R) (s : State) (l : ThreadId) (lt : Thread) (z : State × Nat) (m : MatCmd), (Instr.accz f).WellFormed →
    leadsMatrix 3 f s l lt z m → exec (.accz f) s = .next (matrixAccepted z.1 m)) ∧
  (∀ c ∈ [(Instr.accld, 4), (Instr.accst, 5)], ∀ (f : L2R) (s : State) (l : ThreadId) (lt : Thread) (z : State × Nat) (m : MatCmd),
    (c.1 f).WellFormed → leadsMatrix c.2 f s l lt z m → s.readied.moveBad l m = none →
    exec (c.1 f) s = .next (matrixAccepted z.1 m)) ∧
  (∀ (f : L2R) (s w : State) (l : ThreadId) (lt : Thread) (z : State × Nat) (m : MatCmd) (v : Nat),
    (Instr.mwalk f).WellFormed → leadsMatrix 6 f s l lt z m → s.readied.cardBad l m = none → cardRead z.1 m m.cardRun w v →
    w.walkBad l { m with card := v } = none → exec (.mwalk f) s = .next (matrixAccepted w { m with card := v })) ∧
  (∀ (f : L2R) (s : State) (l : ThreadId) (lt : Thread), (Instr.mstat f).WellFormed → s.gathered.rdv = true →
    (s.readied.onGroup f.toL1).head? = some (l, lt) → (∀ x ∈ s.readied.onGroup f.toL1, regCheck x.2 [⟨.dst 1, f.d.toNat⟩] = none) →
    let mats := s.readied.teamMats l.team
    let progress := ((mats.find? (·.minor = 6)).map fun m => m.next % 2 ^ 24).getD 0
    ((f.mod = 1 → mats = []) →
      exec (.mstat f) s = .next ((s.readied.updThreads (s.readied.onIds f.toL1) fun t =>
        t.writeReg f.d.toNat 1 (mats.length + 256 * progress) 0).stepAll s.gathered.ids 2)) ∧
    (f.mod = 1 → mats ≠ [] →
      exec (.mstat f) s = .next (s.readied.updThreads s.gathered.ids fun t => { t with park := .team .retired })))

/-- MATRIX_STEP_RETIRE (R284, R288, R292, R293, R300, R301): a command that may act goes on by one part; but for ACCZ, at quad scope or wider its issuers' earlier stores of
its stream are widened first. It reads a piece of an operand; or, with
all of its operands read and every earlier command on the tile past its own tile action, it takes its tile action. A tile step leaves in every computed
cell the value of R288 for the cell as it was, leaves every other cell and tile, and ends its command with its last step, when MXN falls;
ACCZ clears its tiles, ACCLD loads its masked-in cells and clears the others, ACCST takes its cells from the tile and then writes them. A refused
command of a team that a trap has stopped retires. The pieces that are read at once, and their free order, are the model's
choices (log entries 21 and 14). -/
def Obligations.MatrixStepsRetire : Prop :=
  let acts := fun (s o : State) (c : CoreId) (k : Nat) (m : MatCmd) => s.matOn c k = some m ∧ s.matMay c m = true ∧ m.acted = false ∧
    o = if m.minor = 3 then s else s.engineOpens (m.engine c) m.seq
  let ready := fun (o : State) (c : CoreId) (m : MatCmd) => m.missing m.next = [] ∧ o.openPieces m = [] ∧ o.matTurn c m = true ∧
    (o.walkStops m = false ∨ m.begun m.next = true)
  (∀ (s o w : State) (c : CoreId) (k i n v : Nat) (r : Run) (m : MatCmd), acts s o c k m → m.missing m.next ≠ [] →
    o.openPieces m = [(i, n)] → (m.pieces i)[n]? = some r → o.pieceRead m.ctx c r = .got w v →
    exec (.matrixStepRetire c k) s = .next (w.updMat c k fun m => { m with got := m.got ++ [(i, n, v)] })) ∧
  (∀ (s o : State) (c : CoreId) (k : Nat) (m : MatCmd), acts s o c k m → ready o c m → m.minor ∈ [0, 1, 2, 6] →
    (o.ctx m.ctx).any (fun x => x.shdctl.getLsbD 1) = false →
    let p := m.step m.next
    let old := (o.core c).tile p.tile
    o.badTile c p.tile p.computes = false →
    ∃ t, exec (.matrixStepRetire c k) s = .next t ∧
      (∀ i < 16, ∀ j < 16, ((t.core c).tile p.tile).cell i j =
        if i ∈ p.rows ∧ j ∈ p.cols then (p.cell (p.vals (m.values m.next)) i j (old.cell i j)).val % 2 ^ 32 else old.cell i j) ∧
      ((t.core c).tile p.tile).tag = old.tag ∧ (∀ n, n ≠ p.tile → (t.core c).tile n = (o.core c).tile n) ∧
      (t.core c).mq = (if m.next + 1 = m.steps then (o.core c).mq.filter (·.key ≠ k)
        else (o.core c).mq.map fun x => if x.key = k then { x with next := x.next + 1, got := x.got.filter (·.1 ≠ x.next) } else x) ∧
      t.mem = o.mem) ∧
  (∀ (s o : State) (c : CoreId) (k : Nat) (m : MatCmd), acts s o c k m → m.minor = 3 → s.matTurn c m = true →
    exec (.matrixStepRetire c k) s = .next ((m.tiles.foldl (fun s t =>
      s.putTile c { (s.core c).tile t with cells := [] } fun _ => true) s).matRetire c m)) ∧
  (∀ (s o : State) (c : CoreId) (k : Nat) (m : MatCmd), acts s o c k m → ready o c m → m.minor = 4 →
    exec (.matrixStepRetire c k) s = .next ((o.putTile c (tileOf m.tile ((o.core c).tile m.tile).tag fun i j =>
      (((m.cells.zip (m.values 0)).find? fun y => y.1.1 = i && y.1.2.1 = j).map (·.2)).getD 0) fun _ => true).matRetire c m)) ∧
  (∀ (s o : State) (c : CoreId) (k : Nat) (m : MatCmd), acts s o c k m → m.minor = 5 → o.matTurn c m = true → m.cells ≠ [] →
    o.badTile c m.tile (fun n => m.cells.any fun x => 16 * x.1 + x.2.1 = n) = false →
    exec (.matrixStepRetire c k) s = .next (o.updMat c k fun x => { x with
      acted := true, todo := x.cells.map fun y => (16 * y.1 + y.2.1, ((o.core c).tile m.tile).cell y.1 y.2.1) })) ∧
  (∀ (s : State) (c : CoreId) (k n v i j sp size : Nat) (a : Int) (m : MatCmd), s.matOn c k = some m → s.matMay c m = true →
    m.acted = true → m.minor = 5 → m.todo = [(n, v)] → m.cells.find? (fun x => 16 * x.1 + x.2.1 = n) = some (i, j, sp, a, size) →
    let o := s.engineOpens (m.engine c) m.seq
    let done := fun w : State => (w.updMat c k fun x => { x with todo := x.todo.filter (·.1 ≠ n) }).matRetire c { m with todo := [] }
    (sp = 1 → exec (.matrixStepRetire c k) s = .next (done ((o.padWrite c a.toNat 4 v).noteEngineLine m.ctx m.issuers c a.toNat))) ∧
    (∀ w, sp ≠ 1 → o.engineStore (m.engine c) a v = .ok w → w.matOn c k = some m → exec (.matrixStepRetire c k) s = .next (done w))) ∧
  (∀ (s : State) (c : CoreId) (k : Nat) (m : MatCmd), s.matOn c k = some m → m.state = .refused →
    (s.team m.team).any Team.struck = true → exec (.matrixStepRetire c k) s = .next (s.matRetire c m))

/-! ## Queues and windows -/

namespace Sys2Proof.Claims

/-- The state in which a record has left a queue set for a pop (R315, R316, R321): O falls if it counted, a team pop ends the
team's task and starts the record's, and the delivery is an acquire. -/
def popped (s : State) (t : TeamId) (team steal : Bool) (q : QSetId) (x : QSet) (no : Nat) (r : QRec) : State :=
  let s := s.updQSet q fun x => x.take steal (if team then .running else .done) (.whole r)
  let s := if r.counted then s.updVf x.vf fun v => { v with out := v.out - 1 } else s
  (if team then (s.endTask t true).startTask t ⟨r.body, some q, no⟩ else s).acquire t.core

/-- What a pop of a team or of some threads of it finds on a die (R318, R327). -/
def finds (s : State) (t : TeamId) (team steal : Bool) (x : QSet) (d : DieId) : Option Cand :=
  pickCand steal (x.cands d steal (d = coreDieId t.core) fun k => team && s.mayCont t k)

/-- QPOP and QSTEAL (R327) with a handle that is valid and has the right, and nothing to commit first: a team pop takes
what its team may resume first (R204), and a continuation brings its frame's state back (R334), once nothing of the team is outstanding, which is the model's
choice (log entry 104); else the record found on the first die that holds something goes to the octet D of every guard-true thread, with predicate C set; with
nothing found, C is cleared. Each delivery is an acquire (R322); what a popped team commits first or after is log entry 30's reading of R388. -/
def PopForm (c : L2R → Instr) (steal : Bool) (right : Nat) : Prop :=
  ∀ (f : L2R) (s : State) (l : ThreadId) (lt : Thread) (x : QSet), (c f).WellFormed →
    s.leads f.toL1 [⟨.src 2, f.a.toNat⟩] [⟨.dst 8, f.d.toNat⟩] l lt →
    let u := s.stepAll (s.offIds f.toL1) 2
    let v := (s.ctxId l).vf
    let h := lt.readReg (s.env l) f.a.toNat 2
    let q := s.handleSet v h
    let team := (u.liveIds l.team).all (s.onIds f.toL1).contains
    let dies := if steal then s.stealOrder q.part (coreDieId l.team.core) else [coreDieId l.team.core]
    s.handleBad v h right = none → u.popCommits l.team team = false →
    (∀ w, team = true → u.takeResume l.team = some w →
      (u.quiet l.team = true → exec (c f) s = .next ((w.acquire l.team.core).commitAfter l.team)) ∧
      (u.quiet l.team = false → exec (c f) s = .next (u.updThreads (s.onIds f.toL1) fun t => { t with park := .ordered .quiet }))) ∧
    ((team = true → (u.takeResume l.team).isNone) → s.qset q = some x →
    ((∀ d ∈ dies, finds u l.team team steal x d = none) →
      exec (c f) s = .next (s.uniNext f.toL1 2 fun t => t.setPred f.c.toNat false)) ∧
    (∀ d cd r, dies.find? (fun d => (finds u l.team team steal x d).isSome) = some d → finds u l.team team steal x d = some cd →
      cd.what = .whole r →
      let w := (popped u l.team team steal q x cd.no r).updThreads (s.onIds f.toL1) fun t =>
        ((t.writeReg f.d.toNat 8 r.body.num 0).setPred f.c.toNat true).step 2
      exec (c f) s = .next (w.commitAfter l.team)) ∧
    (∀ d cd k, dies.find? (fun d => (finds u l.team team steal x d).isSome) = some d → finds u l.team team steal x d = some cd →
      cd.what = .cont k →
      (u.quiet l.team = false → exec (c f) s = .next (u.updThreads (s.onIds f.toL1) fun t => { t with park := .ordered .quiet })) ∧
      (∀ bs, u.quiet l.team = true → u.readVa (viewAt k.ctx l.team.core) k.frame (frameSize k.n) = .ok bs →
        exec (c f) s = .next ((((((u.noteLines k.ctx k.frame (frameSize k.n)).updQSet q fun x => x.take steal .running cd.what).acquire
          l.team.core).restoreCont l.team k (bytesToNat bs))).commitAfter l.team))))

end Sys2Proof.Claims

/-- QPOP, QSTEAL, QCAP and QBIND (R319, R327, R328): QCAP gives a handle with the rights that both the old one and IMM12[2:0] hold; QBIND
binds the window of the block, or unbinds it with A zero; a handle that is not valid traps with TINFO 1. The seal of a handle is a free function of what it covers (log
entry 12); that a commit follows a pop is the model's choice, by way of R388 (log entry 30). -/
def Obligations.QueuePopsAndHandles : Prop :=
  PopForm .qpop false 2 ∧ PopForm .qsteal true 4 ∧
  (∀ (f : L2R) (s : State) (l : ThreadId) (lt : Thread), (Instr.qcap f).WellFormed →
    s.leads f.toL1 [⟨.src 2, f.a.toNat⟩] [⟨.dst 2, f.d.toNat⟩] l lt →
    let v := (s.ctxId l).vf
    let h := lt.readReg (s.env l) f.a.toNat 2
    (s.handleValid v h = true → exec (.qcap f) s = .next (s.uniNext f.toL1 2 fun t => t.writeReg f.d.toNat 2
      (makeHandle (s.partOfVf v) v (h % 2 ^ 10) (h / 2 ^ 16 % 8 &&& f.imm.toNat) (h / 2 ^ 32 % 2 ^ 16)) 0)) ∧
    (s.handleValid v h = false →
      exec (.qcap f) s = .next ((s.stepAll (s.offIds f.toL1) 2).raises [(l, trapR 0x13 1 0)]))) ∧
  (∀ (f : L2R) (s : State) (l : ThreadId) (lt : Thread) (tm : Team), (Instr.qbind f).WellFormed →
    s.leads f.toL1 [⟨.srcZ 2, f.a.toNat⟩] [] l lt → s.team l.team = some tm →
    let h := lt.readReg (s.env l) f.a.toNat 2
    (f.a = 124 ∨ s.handleValid (s.ctxId l).vf h = true) →
    exec (.qbind f) s = .next ((s.updBlock tm.block fun b =>
      { b with windows := b.windows.set f.imm.toNat (BitVec.ofNat 64 (if f.a = 124 then 0 else h)) }).uniNext f.toL1 2 fun t => t))

/-- MOV and UMOV with a window (R36, R101, R325): UMOV pops one entry for its group, or waits on the window, a team pop ending the
team's task; MOV pops one entry for a thread, or pushes the record in its octet, which is a release (R322). What a popped or pushing team commits first or after is
the model's choice, by way of R388 (log entry 30). -/
def Obligations.WindowMoves : Prop :=
  (∀ (f : L1) (s : State) (l : ThreadId) (lt : Thread) (w : Nat) (x : QSet), (Instr.umov f).WellFormed →
    windowNo f.a = some w → s.leads f [] [⟨.dst 8, f.d.toNat⟩] l lt →
    let u := s.stepAll (s.offIds f) 1
    let q := s.handleSet (s.ctxId l).vf (s.windowOf l w)
    let team := (u.liveIds l.team).all (s.onIds f).contains
    let found := finds u l.team team false x (coreDieId l.team.core)
    s.windowBad l w 2 = none → u.popCommits l.team team = false → (team = true → (u.takeResume l.team).isNone) → s.qset q = some x →
    (found = none → exec (.umov f) s = .next ((if team then u.endTask l.team true else u).updThreads (s.onIds f) fun t =>
      { t with park := .window w .entry })) ∧
    (∀ cd r, found = some cd → cd.what = .whole r →
      let w := (popped u l.team team false q x cd.no r).updThreads (s.onIds f) fun t =>
        (t.writeReg f.d.toNat 8 r.body.num 0).step 1
      exec (.umov f) s = .next (w.commitAfter l.team))) ∧
  (∀ (f : L1) (s : State) (l : ThreadId) (t : Thread) (w : Nat) (x : QSet), (Instr.mov f).WellFormed → windowNo f.a = some w →
    s.gathered.ids = [l] → s.thread l = some t → t.guard f.g f.gn = true → regCheck t [⟨.dst 8, f.d.toNat⟩] = none →
    s.windowBad l w 2 = none → s.mustCommit l.team = false →
    let q := s.handleSet (s.ctxId l).vf (s.windowOf l w)
    let found := finds s l.team false false x (coreDieId l.team.core)
    s.qset q = some x →
    (found = none → exec (.mov f) s = .next (s.updThreads [l] fun t => { t with park := .window w (.pop 1) })) ∧
    (∀ cd r, found = some cd → cd.what = .whole r → exec (.mov f) s = .next
      ((((popped s l.team false false q x cd.no r).updThread l fun t => t.writeReg f.d.toNat 8 r.body.num 0).commitAfter
        l.team).updThread l fun t => t.step 1))) ∧
  (∀ (f : L1) (s : State) (l : ThreadId) (t : Thread) (w : Nat), (Instr.mov f).WellFormed → windowNo f.d = some w →
    s.gathered.ids = [l] → s.thread l = some t → t.guard f.g f.gn = true → regCheck t [⟨.src 8, f.a.toNat⟩] = none →
    s.windowBad l w 1 = none → s.mustCommit l.team = false →
    let r := recOf (t.readReg (s.env l) f.a.toNat 8)
    let q := s.handleSet (s.ctxId l).vf (s.windowOf l w)
    let u := s.expose l.team.core fun d => d.owners.contains l
    let parks := fun p : Park => s.updThreads [l] fun t => { t with park := p }
    (r.join = 0 ∨ s.place l 0 r.join.toNat 16 true = .ok none) →
    (r.kind = 0 → s.earlier [l] = [] → s.pushStatus q (coreDieId l.team.core) 1 true = 0 → exec (.mov f) s = .next
      (((u.queueRec q (coreDieId l.team.core) r (s.taskNo l.team)).commitAfter l.team).updThread l fun t => t.step 1)) ∧
    (r.kind = 0 → s.earlier [l] = [] → s.pushStatus q (coreDieId l.team.core) 1 true ≠ 0 →
      exec (.mov f) s = .next (parks (.window w (.push 1)))) ∧
    (5 ≤ r.kind → s.earlier [l] = [] → exec (.mov f) s = .next
      (((u.updQSet q fun x => { x with drops := x.drops + 1 }).commitAfter l.team).updThread l fun t => t.step 1)) ∧
    (r.kind = 0 ∨ 5 ≤ r.kind → s.earlier [l] ≠ [] → exec (.mov f) s = .next (parks (.ordered .earlier))))

/-! ## Launches, joins and team instructions -/

namespace Sys2Proof.Claims

/-- The teams that a group's guard-true threads belong to. -/
def teamsOf (s : State) (f : L1) : List TeamId := ((s.onIds f).map (·.team)).eraseDups

/-- TSPAWN, GRID and QPUSH (R324): the record, with kind 1 for a GRID, enters the core's pending-launch queue with the accesses its release
covers; the status register is pending and LDN one higher until the controller takes it. A guarded team commits first what it holds, and again after the push
(R388; log entry 30). With four entries in the queue the group parks. -/
def PushForm (c : L2R → Instr) (minor : Nat) : Prop :=
  ∀ (f : L2R) (s : State) (l : ThreadId) (lt : Thread), (c f).WellFormed →
    s.leads f.toL1 [⟨.src 2, f.a.toNat⟩, ⟨.src 8, f.b.toNat⟩] [⟨.dst 1, f.d.toNat⟩] l lt →
    let u := s.stepAll (s.offIds f.toL1) 2
    let h := lt.readReg (s.env l) f.a.toNat 2
    let r0 := recOf (lt.readReg (s.env l) f.b.toNat 8)
    let r := if minor = 1 then { r0 with frame := BitVec.ofNat 64 (setFld r0.frame.toNat 0 3 1) } else r0
    u.handleBad (u.ctxId l).vf h 1 = none → (minor = 1 ∨ r0.kind = 0 ∨ 5 ≤ r0.kind) →
    (r.join = 0 ∨ (u.place l 0 r.join.toNat 16 true = .ok none ∧ u.missVa (viewAt (u.ctxId l) l.team.core) r.join.toNat 16 true = none)) →
    u.mustCommits (teamsOf s f.toL1) = false →
    (4 ≤ (u.core l.team.core).launch.length →
      exec (c f) s = .next (u.updThreads (s.onIds f.toL1) fun t => { t with park := .launch })) ∧
    ((u.core l.team.core).launch.length < 4 → (∀ x ∈ s.onGroup f.toL1, x.2.ldn < 63) →
      let e : Launch :=
        ⟨minor, u.covered l.team.core (s.onIds f.toL1), u.taskNo l.team, u.handleSet (u.ctxId l).vf h, r,
          if minor = 1 then r.arg.toNat / 2 ^ 32 else 1, s.onIds f.toL1, f.d.toNat, l.team, u.ctxId l, [], false⟩
      exec (c f) s = .next ((((u.updCore l.team.core fun k => { k with launch := k.launch ++ [e] }).updThreads (s.onIds f.toL1) fun t =>
        { (t.setPend f.d.toNat 1) with ldn := t.ldn + 1 }).stepAll (s.onIds f.toL1) 2).commitsAfter (teamsOf s f.toL1)))

end Sys2Proof.Claims

/-- Pushes, counter accesses and fences of queue sets at issue (R324, R332, R337): JADD and JRD leave a counter access outstanding; QFENCE
appends a fence, whose sequence number returns later as a load's data does. How an access that serves several teams is numbered is log entry
84's choice. A guarded team commits first what it holds, and again after a JADD or a fence (R388; log entry 30). -/
def Obligations.PushesJoinsAndFences : Prop :=
  PushForm .tspawn 0 ∧ PushForm .grid 1 ∧ PushForm .qpush 2 ∧
  (∀ (f : L2R) (s : State) (l : ThreadId) (lt : Thread), (Instr.jadd f).WellFormed →
    s.leads f.toL1 [⟨.src 2, f.a.toNat⟩, ⟨.src 2, f.b.toNat⟩] [⟨.dstZ 2, f.d.toNat⟩] l lt →
    let u := s.stepAll (s.offIds f.toL1) 2
    let a := lt.readReg (s.env l) f.a.toNat 2
    u.place l 0 a 16 true = .ok none → u.mustCommits (teamsOf s f.toL1) = false →
    (∀ x ∈ s.onGroup f.toL1, if f.d = 124 then x.2.stn < 63 else x.2.ldn < 63) →
    let acc := { newAccess u l .jadd 0 a 16 none with
      seq := s.seq, owners := s.onIds f.toL1, rcv := s.onIds f.toL1, data := lt.readReg (s.env l) f.b.toNat 2, dst := f.d.toNat, g := 2
      scope := 6 }
    exec (.jadd f) s = .next (State.commitsAfter { s.uniNext f.toL1 2 (fun t =>
        if f.d = 124 then { t with stn := t.stn + 1 } else { (t.setPend f.d.toNat 2) with ldn := t.ldn + 1 }) with
      seq := s.seq + max 1 (teamsOf s f.toL1).length, accs := s.accs ++ [acc] } (teamsOf s f.toL1))) ∧
  (∀ (f : L2R) (s : State) (l : ThreadId) (lt : Thread), (Instr.jrd f).WellFormed →
    s.leads f.toL1 [⟨.src 2, f.a.toNat⟩] [⟨.dst 2, f.d.toNat⟩] l lt →
    let u := s.stepAll (s.offIds f.toL1) 2
    let a := lt.readReg (s.env l) f.a.toNat 2
    u.place l 0 a 16 true = .ok none → (∀ x ∈ s.onGroup f.toL1, x.2.ldn < 63) →
    let acc := { newAccess u l .jrd 0 a 16 none with
      seq := s.seq, owners := s.onIds f.toL1, rcv := s.onIds f.toL1, dst := f.d.toNat, g := 2, scope := 6 }
    exec (.jrd f) s = .next { s.uniNext f.toL1 2 (fun t => { (t.setPend f.d.toNat 2) with ldn := t.ldn + 1 }) with
      seq := s.seq + max 1 (teamsOf s f.toL1).length, accs := s.accs ++ [acc] }) ∧
  (∀ (f : L2R) (s : State) (l : ThreadId) (lt : Thread) (x : QSet), (Instr.qfence f).WellFormed →
    s.leads f.toL1 [⟨.src 2, f.a.toNat⟩] [⟨.dst 2, f.d.toNat⟩] l lt →
    let u := s.stepAll (s.offIds f.toL1) 2
    let h := lt.readReg (s.env l) f.a.toNat 2
    let q := u.handleSet (u.ctxId l).vf h
    u.handleBad (u.ctxId l).vf h 1 = none →
    ((∃ i ∈ teamsOf s f.toL1, u.teamLaunch i ≠ []) →
      exec (.qfence f) s = .next (u.updThreads (s.onIds f.toL1) fun t => { t with park := .ordered .launches })) ∧
    ((∀ i ∈ teamsOf s f.toL1, u.teamLaunch i = []) → u.mustCommits (teamsOf s f.toL1) = false → u.qset q = some x →
      (∀ x ∈ s.onGroup f.toL1, x.2.ldn < 63) →
      let acc := { newAccess u l .load 1 0 8 (some (.pad l.team.core 0)) with
        seq := s.seq + 1, owners := s.onIds f.toL1, dst := f.d.toNat, g := 2, got := some (x.fenceSeq + 1) }
      exec (.qfence f) s = .next (State.commitsAfter { (({ s with seq := s.seq + 1 }.updQSet q fun y =>
        { y with fenceSeq := x.fenceSeq + 1, fences := y.fences ++ [(x.fenceSeq + 1, s.seq, u.taskNo l.team)] }).uniNext f.toL1 2 fun t =>
          { (t.setPend f.d.toNat 2) with ldn := t.ldn + 1 }) with
        seq := s.seq + 1 + max 1 (teamsOf s f.toL1).length, accs := s.accs ++ [acc] } (teamsOf s f.toL1))))

/-- The instructions of a whole team (R333, R335, R389): a gathered set arrives. A released one acts: JWAIT of a team at rest ends the task
without its decrement, which is a release, writes the frame, queues the continuation at once when the counter is 0 or below, else puts
the frame at the head of the counter's list, and starts the team afresh; until then it waits as one (RESUME's 14 bits for an offset of 16,384 are log entry 79's choice,
the ended task's commit log entry 30's reading of R388); RGIVE and RCLAIM move N registers between the
team's allocation and the block's budget; SNAP gives 0 in a guarded task, after which a commit is due, and 1 in another. -/
def Obligations.TeamInstructions : Prop :=
  (∀ c ∈ [Instr.jwait, Instr.rgive, Instr.rclaim, Instr.snap], ∀ (f : L2R) (s : State), (c f).WellFormed →
    s.gathered.rdv = false → exec (c f) s = .next (s.arrive (s.gathered.ids.map fun i => (i, .team)))) ∧
  (∀ (f : L2R) (s : State) (l : ThreadId) (lt : Thread) (rest : List (ThreadId × Thread)) (p : Place), (Instr.jwait f).WellFormed →
    s.gathered.rdv = true → s.readied.group = (l, lt) :: rest →
    let u := s.readied
    let n := f.imm.toNat
    let cnt := lt.readReg (u.env l) f.a.toNat 2
    let h := lt.readReg (u.env l) f.b.toNat 2
    regCheck lt [⟨.src 2, f.a.toNat⟩, ⟨.src 2, f.b.toNat⟩] = none → u.jwaitBad l cnt h n = none → u.mustCommit l.team = false →
    (u.atRest l.team = false →
      exec (.jwait f) s = .next (u.updThreads u.gathered.ids fun t => { t with park := .team .rest })) ∧
    (u.atRest l.team = true → u.missVa (viewAt (u.ctxId l) l.team.core) (u.frameOf l) (frameSize n) true = none →
    u.translate (viewAt (u.ctxId l) l.team.core) cnt true = .ok p →
    let c := u.ctxId l
    let frame := u.frameOf l
    let task := (u.team l.team).bind (·.task)
    let q := u.handleSet c.vf h
    let bytes := u.frameBytes l.team (contRec (u.imageAt l lt.pc) frame ((task.map (·.body)).getD ⟨0, 0, 0, 0⟩)) (lt.pc.off + 2) n
      (q.idx + 2 ^ 10 * l.team.core.pkg + 2 ^ 18 * coreDie l.team.core)
    let here := viewAt c l.team.core
    let v := ((u.endTask l.team false).writeVa here frame bytes).updQSet q fun x => { x with waiting := x.waiting ++
      [⟨frame, c, task.bind fun k => k.q.map fun x => (x, k.no), ((u.blockOf l.team).map (·.descVa)).getD 0⟩] }
    exec (.jwait f) s = .next (State.freshStart
      ((if sgn (memRead v.mem p.key 8) 64 ≤ 0 then v.queueCont c frame (bytesToNat (bytes.take 0x34))
        else (v.writeVa here (frame + 0x20) (natToBytes 8 (memRead v.mem (p.key + 8) 8))).writeVa here (cnt + 8)
          (natToBytes 8 frame)).acquire l.team.core)
      l.team))) ∧
  (∀ (f : L2R) (s : State) (l : ThreadId) (ids : List ThreadId) (tm : Team) (b : Block), (Instr.rgive f).WellFormed →
    s.gathered.rdv = true → s.gathered.ids = l :: ids → s.team l.team = some tm → s.blockOf l.team = some b →
    let u := s.readied
    let n := f.imm.toNat
    let alloc := u.allocOf l.team
    n + 8 ≤ alloc → (f.d = 124 ∨ f.d.toNat < alloc - n) →
    (∀ i ∈ u.liveIds l.team, ∀ t, u.thread i = some t → hazardFail (t.resize (alloc - n)) [⟨.dst 1, f.d.toNat⟩] = none) →
    exec (.rgive f) s = .next (((u.updBlock tm.block fun x => { x with budget := b.budget + n }).mapThreads fun i t =>
      if i.team = l.team then t.resize (alloc - n) else t).updThreads (u.liveIds l.team) fun t =>
        (t.writeReg f.d.toNat 1 (alloc - n) 0).step 2)) ∧
  (∀ (f : L2R) (s : State) (l : ThreadId) (ids : List ThreadId) (tm : Team) (b : Block), (Instr.rclaim f).WellFormed →
    s.gathered.rdv = true → s.gathered.ids = l :: ids → s.team l.team = some tm → s.blockOf l.team = some b →
    let u := s.readied
    let n := f.imm.toNat
    let alloc := u.allocOf l.team
    let got := n ≤ b.budget
    let new := if got then alloc + n else alloc
    alloc + n ≤ 120 → (f.d = 124 ∨ f.d.toNat < new) →
    (∀ i ∈ u.liveIds l.team, ∀ t, u.thread i = some t → hazardFail (t.resize new) [⟨.dst 1, f.d.toNat⟩] = none) →
    exec (.rclaim f) s = .next (((u.updBlock tm.block fun x =>
      { x with budget := if got then b.budget - n else b.budget }).mapThreads fun i t =>
        if i.team = l.team then t.resize new else t).updThreads (u.liveIds l.team) fun t =>
          (t.writeReg f.d.toNat 1 (if got then new else 2 ^ 32 - 1) 0).step 2)) ∧
  (∀ (f : L2R) (s : State) (l : ThreadId) (ids : List ThreadId), (Instr.snap f).WellFormed → s.gathered.rdv = true →
    s.gathered.ids = l :: ids → s.readied.mustCommit l.team = false → s.readied.atRest l.team = true →
    (∀ x ∈ s.readied.group, regCheck x.2 [⟨.dst 1, f.d.toNat⟩] = none) →
    let guarded := (s.team l.team).any Team.guarded
    let v := s.readied.updThreads s.gathered.ids fun t => (t.writeReg f.d.toNat 1 (if guarded then 0 else 1) 0).step 2
    exec (.snap f) s = .next (v.commitAfter l.team))

/-- The queue controller (R316, R321, R324, R330, R336, R338): PENDING_LAUNCH_TAKE accepts or refuses the oldest entry, whose
release is done and widens the stores it covers, and delivers its status; JOIN_DECREMENT lowers the counter of an ended task and, in a step of its own (log entry 108), completes its record; STEAL_MESSAGE moves work to an empty shard that a
pop waits on; FENCE_COMPLETE logs the oldest fence once all before it is complete. How much a steal moves is log
entry 38's choice. -/
def Obligations.QueueControllerActs : Prop :=
  let told := fun (s : State) (c : CoreId) (e : Launch) (st : Nat) =>
    (s.updCore c fun k => { k with launch := k.launch.drop 1 }).settleThreads e.owners fun t =>
      { (t.writeReg e.dst 1 st 0) with ldn := t.ldn - 1 }
  let taken := fun (s w : State) (c : CoreId) (e : Launch) => (s.core c).launch.head? = some e ∧ e.waits = [] ∧
    s.released e.need = true ∧ w = s.expose c fun d => e.need.contains d.seq
  (∀ (s w : State) (c : CoreId) (e : Launch), taken s w c e → e.minor ≠ 1 → 5 ≤ e.body.kind →
    exec (.pendingLaunchTake c) s = .next (told (w.updQSet e.q fun x => { x with drops := x.drops + 1 }) c e 0)) ∧
  (∀ (s w : State) (c : CoreId) (e : Launch), taken s w c e → e.minor ≠ 1 → e.body.kind = 0 → e.n ≠ 0 →
    w.pushStatus e.q (coreDieId e.team.core) e.n true ≠ 0 →
    exec (.pendingLaunchTake c) s = .next (told w c e (w.pushStatus e.q (coreDieId e.team.core) e.n true))) ∧
  (∀ (s w : State) (c : CoreId) (e : Launch), taken s w c e → e.minor ≠ 1 → e.body.kind = 0 → e.n ≠ 0 →
    w.pushStatus e.q (coreDieId e.team.core) e.n true = 0 → (e.minor = 2 ∨ e.body.join = 0) →
    exec (.pendingLaunchTake c) s = .next (told (w.queueRec e.q (coreDieId e.team.core) e.body e.pusher) c e 0)) ∧
  (∀ (s w : State) (c : CoreId) (e : Launch) (p : Place), taken s w c e → e.minor = 0 → e.body.kind = 0 → e.n ≠ 0 →
    w.pushStatus e.q (coreDieId e.team.core) e.n true = 0 → e.body.join ≠ 0 →
    w.translate (viewOf e.ctx) e.body.join.toNat true = .ok p →
    exec (.pendingLaunchTake c) s = .next
      (told ((w.counterAdd e.ctx p.gpa p.key e.n).1.queueRec e.q (coreDieId e.team.core) e.body e.pusher) c e 0)) ∧
  (∀ (s w : State) (c : CoreId) (e : Launch), taken s w c e → e.minor = 1 → e.n ≠ 0 →
    let ds := w.shardDies e.q.part e.team.core.pkg
    w.pushStatus e.q (coreDieId e.team.core) e.n false = 0 → w.slicesFull ds e.n = false → e.body.join = 0 →
    exec (.pendingLaunchTake c) s = .next (told (w.queueGrid e.q ds e.body e.n e.pusher) c e 0)) ∧
  (∀ (s w : State) (c : CoreId) (e : Launch), taken s w c e → e.minor = 1 → e.n = 0 →
    exec (.pendingLaunchTake c) s = .next (told w c e 0)) ∧
  (∀ (s : State) (k : Nat) (j : Join), s.joins.find? (·.key = k) = some j → j.waits = [] → s.released j.need = true →
    s.behindHeld j = false → j.frame = false →
    let u := s.exposeAll fun d => j.need.contains d.seq
    (j.addr = 0 → exec (.joinDecrement k) s = .next ((u.dropJoin k).completeRec j.rec_)) ∧
    (∀ p, j.addr ≠ 0 → u.translate (viewOf j.ctx) j.addr true = .ok p → exec (.joinDecrement k) s = .next
      ((u.updJoin k fun j => { j with need := [], addr := 0 }).counterAdd j.ctx p.gpa p.key (-1)).1)) ∧
  (∀ (s : State) (q : QSetId) (d e : DieId) (x : QSet), s.qset q = some x → x.holds d = 0 → s.waitsOn q d = true →
    ((s.stealOrder q.part d).filter (· ≠ d)).find? (fun e => 2 ≤ x.holds e) = some e →
    exec (.stealMessage q d) s = .next (s.updQSet q fun x => x.steal e d)) ∧
  (∀ (s : State) (q : QSetId) (x : QSet) (k no key : Nat) (i : Option Nat) (rest : List (Nat × Nat × Option Nat)), s.qset q = some x →
    x.fences = (k, no, i) :: rest → x.logWaits = [] → x.completeTo no = true → s.stage2 q.part x.fenceLog true = .ok key →
    exec (.fenceComplete q) s = .next ((s.memStore key 8 k).updQSet q fun x =>
      { x with fences := rest, logged := k, lastFenceNo := no, recs := x.recs.filter fun r => no ≤ r.no || r.state ≠ .done }))

/-! ## Gates -/

namespace Sys2Proof.Claims

/-- A gate instruction on a valid gate (R348, R349): a request with the leader's operands goes to the gate's home, and the guard-true
threads park for its reply; GSIG and GADD first wait for what their threads have stored and write it out (R217). While the partition is quiesced for a migration
the group waits (R355). A guarded team waits until nothing of it is outstanding, and commits with its threads parked
(R356, R388; log entry 49). -/
def GateForm (c : L2R → Instr) (minor : Nat) : Prop :=
  ∀ (f : L2R) (s : State) (l : ThreadId) (lt : Thread), (c f).WellFormed → s.leads f.toL1 (gateSrcs minor f) [gateDst minor f] l lt →
    let num := lt.readReg (s.env l) f.a.toNat 1
    let u := s.stepAll (s.offIds f.toL1) 2
    let guarded := (teamsOf s f.toL1).filter fun t => (u.team t).any Team.guarded
    let releases := minor = 2 ∨ minor = 4
    let w := if releases then u.expose l.team.core fun d => d.owners.any (s.onIds f.toL1).contains else u
    let r : GateReq :=
      ⟨true, w.seq, minor, num, if minor = 0 then 0 else lt.readReg (s.env l) (f.a.toNat + 1) 1,
        if minor = 3 ∨ minor = 4 then lt.readReg (s.env l) f.b.toNat 2 else 0, (w.ctxId l).vf, w.ctxId l, s.onIds f.toL1, f.d.toNat,
        true, false, none⟩
    let waits := fun p : Park => u.updThreads (s.onIds f.toL1) fun t => { t with park := p }
    let valid := num < 65536 ∧ (u.gate num).any (·.valid) = true
    (u.quiescing (u.ctxId l) = true → exec (c f) s = .next (waits (.ordered .quiesce))) ∧
    (u.quiescing (u.ctxId l) = false → ¬ valid → exec (c f) s = .next (u.raises [(l, trapR 0x14 4 0)])) ∧
    (u.quiescing (u.ctxId l) = false → valid →
      (u.mustCommits (teamsOf s f.toL1) = true → exec (c f) s = .next (u.commitsFirst (teamsOf s f.toL1))) ∧
      (u.mustCommits (teamsOf s f.toL1) = false →
        ((∃ t ∈ guarded, u.quiet t = false) → exec (c f) s = .next (waits (.ordered .quiet))) ∧
        ((∀ t ∈ guarded, u.quiet t = true) →
          (releases → u.earlier (s.onIds f.toL1) ≠ [] → exec (c f) s = .next (waits (.ordered .earlier))) ∧
          ((releases → u.earlier (s.onIds f.toL1) = []) → exec (c f) s = .next (guarded.foldl State.commit
            ({ w with seq := w.seq + 1, gateReqs := w.gateReqs ++ [r] }.updThreads (s.onIds f.toL1) fun t =>
              { t with park := .gate w.seq }))))))

end Sys2Proof.Claims

/-- The gate instructions at issue (R348, R349, Table 3). That a guarded team first waits until it is quiet, and commits with its threads parked, is the model's choice
(log entry 49, by way of R356 and R388). -/
def Obligations.GateRequestsGoHome : Prop :=
  GateForm .gopen 0 ∧ GateForm .gclose 1 ∧ GateForm .gsig 2 ∧ GateForm .gwait 3 ∧ GateForm .gadd 4 ∧ GateForm .gpoll 5

/-- GATE_HOME_REQUEST on a gate that the request may use, not closed, whose bucket is off or holds a token (R346, R349): a token is
taken; GSIG and GADD raise COUNTER and release the waiters it has reached, GPOLL reads it, GWAIT answers at once or waits. Without a
token the request is refused with RATE; a closed gate answers CLOSED; GCLOSE releases every waiter with CLOSED; GOPEN
gives the handle. GATE_REPLY writes the answer in the threads of its request that are on a core, and in a guarded team's snapshot of them, and they go on past, the request staying for
the others; a
GWAIT, GADD or GPOLL that ends DONE is an acquire (R350); a GATE trap is the leader's alone, and the others issue again.
BUCKET_REFILL brings a bucket up to date. That a request finds the tokens of the periods passed, and what a reply does to a snapshot and to a guarded team, are
the model's choices (log entries 69 and 49). -/
def Obligations.GateHomeAndReply : Prop :=
  let asks := fun (s : State) (r : Nat) (q : GateReq) (g : Gate) =>
    s.gateReqs.find? (·.key = r) = some q ∧ q.sent = true ∧ q.waiting = false ∧ q.ans = none ∧ s.gate q.num = some g ∧
    q.num < 65536 ∧ g.valid = true ∧ (q.minor = 0 ∨ q.gen = g.gen.toNat)
  let now := fun (s : State) (q : GateReq) => s.updGate q.num fun g => g.refilled s.clkw
  let may := fun (s : State) (q : GateReq) (g : Gate) (k : Nat) (e : AclEnt) =>
    (g.refilled s.clkw).entryOf q.caller = some k ∧ (g.refilled s.clkw).acl[k]? = some e ∧ e.allows q.minor = true
  let paid := fun (s : State) (q : GateReq) (k : Nat) (e : AclEnt) => (now s q).updGate q.num fun x =>
    { x with acl := x.acl.set k (if e.period = 0 then e else { e with tokens := e.tokens - 1 }) }
  (∀ (s : State) (r k : Nat) (q : GateReq) (g : Gate) (e : AclEnt), asks s r q g → may s q g k e → g.closed = false →
    (e.period = 0 ∨ e.tokens ≠ 0) →
    (q.minor = 2 → exec (.gateHomeRequest r) s = .next
      (((paid s q k e).setCounter q.num (g.counter.toNat + 1)).gateAnswer r (.status 0 0))) ∧
    (q.minor = 4 → exec (.gateHomeRequest r) s = .next
      (((paid s q k e).setCounter q.num (g.counter.toNat + q.x)).gateAnswer r (.status 0 g.counter.toNat))) ∧
    (q.minor = 5 → exec (.gateHomeRequest r) s = .next ((paid s q k e).gateAnswer r (.status 0 g.counter.toNat))) ∧
    (q.minor = 3 → q.x ≤ g.counter.toNat → exec (.gateHomeRequest r) s = .next ((paid s q k e).gateAnswer r (.status 0 0))) ∧
    (q.minor = 3 → g.counter.toNat < q.x → exec (.gateHomeRequest r) s = .next
      { (paid s q k e).updGate q.num fun x => { x with waiters := x.waiters ++ [⟨q.x, q.caller, r⟩] } with
        gateReqs := s.gateReqs.map fun y => if y.key = r then { y with waiting := true } else y })) ∧
  (∀ (s : State) (r k : Nat) (q : GateReq) (g : Gate) (e : AclEnt), asks s r q g → may s q g k e → q.minor ∈ [2, 3, 4, 5] →
    (g.closed = true →
      exec (.gateHomeRequest r) s = .next ((now s q).gateAnswer r (.status 2 g.counter.toNat))) ∧
    (g.closed = false → e.period ≠ 0 → e.tokens = 0 →
      exec (.gateHomeRequest r) s = .next (((now s q).updGate q.num fun x =>
        { x with acl := x.acl.set k { e with refused := min (e.refused + 1) 0xFFFF } }).gateAnswer r (.status 1 0)))) ∧
  (∀ (s : State) (r : Nat) (q : GateReq) (g : Gate), asks s r q g → q.minor = 1 → q.caller = g.owner → g.closed = false →
    exec (.gateHomeRequest r) s = .next ((((now s q).updGate q.num fun x =>
      { x with closed := true }).releaseWaiters q.num (fun _ => true) 2).gateAnswer r (.status 0 0))) ∧
  (∀ (s : State) (r k : Nat) (q : GateReq) (g : Gate) (e : AclEnt), asks s r q g → q.minor = 0 → may s q g k e →
    exec (.gateHomeRequest r) s = .next ((now s q).gateAnswer r (.status 0 (q.num + 2 ^ 32 * g.gen.toNat)))) ∧
  (∀ (s : State) (r : Nat) (q : GateReq) (a : GateAns) (l : ThreadId) (ls : List ThreadId), s.gateReqs.find? (·.key = r) = some q →
    q.ans = some a → q.owners = l :: ls →
    let here := q.owners.filter fun i => (s.thread i).any fun t => t.live && t.park = .gate q.key
    let rest := q.owners.filter fun i => !here.contains i
    let u : State := { s with gateReqs := if rest = [] then s.gateReqs.filter (·.key ≠ q.key) else s.gateReqs.map fun y =>
      if y.key = q.key then { q with owners := rest, lead := q.lead && !here.contains l } else y }
    let teams := (here.map (·.team)).eraseDups
    let told := fun e : Thread → Thread => (teams.foldl (fun s t => s.recordReply t q.key e) u).updThreads here e
    (here = [] → exec (.gateReply r) s = .next s) ∧
    (∀ code v, here ≠ [] → a = .status code v →
      let z := told fun t =>
        (if q.minor = 0 then t.writeReg q.dst 2 v 0
         else if q.minor = 4 ∨ q.minor = 5 then t.writeReg q.dst 4 (code + 2 ^ 64 * v) 0
         else t.writeReg q.dst 1 code 0).pastGate
      exec (.gateReply r) s = .next ((if code = 0 ∧ q.minor ∈ [3, 4, 5] then
        (teams.map (·.core)).eraseDups.foldl State.acquire z else z).commitsAfter teams)) ∧
    (∀ i, here ≠ [] → a = .trap i →
      exec (.gateReply r) s = .next ((told fun t => { t with park := .ready }).raises
        (if q.lead = true ∧ l ∈ here then [(l, trapR 0x14 i 0)] else [])))) ∧
  (∀ (s : State) (n k : Nat), exec (.bucketRefill n k) s = .next (s.updGate n fun g => { g with
    acl := g.acl.zipIdx.map fun x => if x.2 = k ∧ x.1.valid then
      (if x.1.period = 0 then x.1
       else { x.1 with tokens := min x.1.cap (x.1.tokens + (s.clkw / x.1.period - x.1.filled))
                       filled := max x.1.filled (s.clkw / x.1.period) })
      else x.1 }))

/-! ## Overlays -/

/-- The overlay instructions (R365 to R369). OVLD of an image in the store takes a reference and gives its token, else a header read
begins and the group waits; OVWAIT, OVPIN, OVUNPIN and OVREL on a token that is not current for the context give STALE, and OVPIN past its limits gives LIMIT. CALLO to
an image in the store lands every guard-true thread of its group at the entry, with its return point in the pair D; an image that is not there is filled first; an entry
number that the image does not have traps. -/
def Obligations.OverlayInstructions : Prop :=
  let lead := fun (f : L2R) (s : State) (l : ThreadId) (lt : Thread) =>
    s.leads f.toL1 [⟨.src 1, f.a.toNat⟩] [⟨.dst 1, f.d.toNat⟩] l lt
  let u := fun (f : L2R) (s : State) => s.stepAll (s.offIds f.toL1) 2
  let own := fun (f : L2R) (s : State) (l : ThreadId) (lt : Thread) =>
    (u f s).ownOverlay l.team.core ((u f s).ctxId l) (lt.readReg (s.env l) f.a.toNat 1)
  let gives := fun (f : L2R) (w : State) (s : State) (v : Nat) => w.updThreads (s.onIds f.toL1) fun t =>
    (t.writeReg f.d.toNat 1 v 0).step 2
  let parks := fun (f : L2R) (s : State) (p : Park) => (u f s).updThreads (s.onIds f.toL1) fun t => { t with park := p }
  let found := fun (f : L2R) (s : State) (l : ThreadId) (i : Nat) =>
    ((u f s).core l.team.core).tagged ((u f s).ctxId l).vf ((u f s).pasid ((u f s).ctxId l)) i
  let holds := fun (f : L2R) (s : State) => ∃ t ∈ teamsOf s f.toL1, (u f s).heldFor t (s.onIds f.toL1) 0 = true
  (∀ (f : L2R) (s : State) (l : ThreadId) (lt : Thread), (Instr.ovld f).WellFormed →
    s.leads f.toL1 [⟨.src 2, f.a.toNat⟩] [⟨.dst 1, f.d.toNat⟩] l lt →
    let i := lt.readReg (s.env l) f.a.toNat 2
    let c := l.team.core
    canonical i 1 = true → i % 4096 = 0 →
    (∀ o, found f s l i = some o →
      exec (.ovld f) s = .next (gives f (((u f s).updCore c fun k => k.updOverlay o.first fun x =>
        x.addRef ((u f s).ctxId l)).stampOverlay c o) s (((u f s).core c).tokenOf o))) ∧
    (found f s l i = none → ¬ holds f s →
      exec (.ovld f) s = .next ({ u f s with seq := s.seq + 1, fills := s.fills ++
        [(⟨s.seq, c, (u f s).ctxId l, i, s.onIds f.toL1, some (s.onIds f.toL1, f.d.toNat), none, [], false, 0⟩ : Fill)] }.updThreads
          (s.onIds f.toL1) fun t => { t with park := .ovld s.seq f.d.toNat }))) ∧
  (∀ (f : L2R) (s : State) (l : ThreadId) (lt : Thread), (Instr.ovwait f).WellFormed → lead f s l lt →
    (own f s l lt = none → exec (.ovwait f) s = .next (gives f (u f s) s 4)) ∧
    (∀ o, own f s l lt = some o → o.state = .resident → exec (.ovwait f) s = .next (gives f (u f s) s 0)) ∧
    (∀ o x, own f s l lt = some o → o.state = .filling →
      s.fills.find? (fun x => x.core = l.team.core && x.slot = some o.first) = some x →
      exec (.ovwait f) s = .next (parks f s (.ovwait x.key f.d.toNat)))) ∧
  (∀ (f : L2R) (s : State) (l : ThreadId) (lt : Thread), (Instr.ovpin f).WellFormed → lead f s l lt →
    (own f s l lt = none → exec (.ovpin f) s = .next (gives f (u f s) s 4)) ∧
    (∀ o, own f s l lt = some o →
      let full := o.pins = 65535 ∨ 56 < o.slots.length + ((u f s).core l.team.core).pinned o
      (full → exec (.ovpin f) s = .next (gives f (u f s) s 5)) ∧
      (¬ full → exec (.ovpin f) s = .next
        (gives f ((u f s).updCore l.team.core fun k => k.updOverlay o.first fun x => x.addPin ((u f s).ctxId l)) s 0)))) ∧
  (∀ c ∈ [(Instr.ovunpin, Overlay.dropPin), (Instr.ovrel, Overlay.dropRef)],
    ∀ (f : L2R) (s : State) (l : ThreadId) (lt : Thread), (c.1 f).WellFormed → lead f s l lt →
      (own f s l lt = none → exec (c.1 f) s = .next (gives f (u f s) s 4)) ∧
      (∀ o, own f s l lt = some o → exec (c.1 f) s = .next
        (gives f ((u f s).updCore l.team.core fun k => k.updOverlay o.first fun x => c.2 x ((u f s).ctxId l)) s 0))) ∧
  (∀ (f : L2R) (s : State) (l : ThreadId) (lt : Thread), (Instr.callo f).WellFormed →
    s.leads f.toL1 [⟨.src 2, f.a.toNat⟩] [⟨.dstZ 2, f.d.toNat⟩] l lt → (s.onIds f.toL1).Nodup →
    let e := lt.readReg (s.env l) f.a.toNat 2
    let image := e / 4096 * 4096
    let c := (u f s).ctxId l
    (∀ x ∈ s.onGroup f.toL1, x.1.team.core = l.team.core ∧ (u f s).ctxOf x.1.team = some c ∧
      ∃ tm, (u f s).team x.1.team = some tm ∧ tm.stop = .running) →
    canonical image 1 = true →
    (∀ o off, found f s l image = some o → o.state = .resident → o.entries[e % 4096]? = some off →
      exec (.callo f) s = .next ((s.onGroup f.toL1).foldl (fun v x => (v.updThread x.1 fun _ =>
        { x.2 with regs := (x.2.writeReg f.d.toNat 2 (pairOf x.2.pc.tok.toNat (x.2.pc.off + 2)) 0).regs
                   pc := (⟨BitVec.ofNat 16 (((u f s).core l.team.core).tokenOf o), off⟩ : Pc)
                   park := .ready }).stampOverlay l.team.core o) (u f s))) ∧
    (∀ o, found f s l image = some o → o.state = .resident → o.entries[e % 4096]? = none → s.onGroup f.toL1 = [(l, lt)] →
      exec (.callo f) s = .next ((((u f s).updThread l fun t => { t with park := .ready }).stampOverlay l.team.core o).deliver l
        (trapR 0x06 (e % 4096) 0))) ∧
    (found f s l image = none → ¬ holds f s →
      exec (.callo f) s = .next ((s.onIds f.toL1).foldl (fun v i =>
        v.awaitFill i c image (.call f.d.toNat (e % 4096) (i = l))) (u f s))))

/-- The hoist (R366): OVERLAY_HEADER_READ of a faulty header fails the fill, of a good one takes frames and starts the body;
OVERLAY_FILL_COMPLETE makes the overlay resident when BODYCRC matches, else the overlay turns faulty and the fill fails. A core's
header reads are taken in the order received (R363). An image that an uncorrectable error has struck counts as faulty: the model's choice (log entry 103). -/
def Obligations.HoistFills : Prop :=
  let reads := fun (s : State) (k : Nat) (x : Fill) (v : Nat) =>
    s.fills.find? (·.key = k) = some x ∧ x.slot = none ∧ x.waits = [] ∧ s.fillMay x = true ∧
    (s.fills.takeWhile (·.key ≠ k)).any (fun y => y.core = x.core && (y.slot.isNone && y.waits.isEmpty && s.fillMay y)) = false ∧
    (s.core x.core).tagged x.ctx.vf (s.pasid x.ctx) x.image = none ∧ s.readHeader (viewAt x.ctx x.core) x.image = .ok v
  let sound := fun (s : State) (x : Fill) (va lines : Nat) => s.badLines (viewAt x.ctx x.core) va lines = none
  let fills := fun (s : State) (k : Nat) (x : Fill) (o : Overlay) (bs : List Byte) =>
    s.fills.find? (·.key = k) = some x ∧ x.slot = some o.first ∧ x.waits = [] ∧
    (s.core x.core).overlayAt o.first = some o ∧
    s.missVa (viewAt x.ctx x.core) (x.image + 0x400) (4 * o.len) false = none ∧
    s.readVa (viewAt x.ctx x.core) (x.image + 0x400) (4 * o.len) = .ok bs
  (∀ (s : State) (k v : Nat) (x : Fill), reads s k x v → sound s x x.image 8 → headerOf v = none →
    exec (.overlayHeaderRead k) s = .next (s.failFill x 2)) ∧
  (∀ (s : State) (k v : Nat) (x : Fill) (h : Header), reads s k x v → sound s x x.image 8 → headerOf v = some h →
    exec (.overlayHeaderRead k) s = .next (s.startFill x h)) ∧
  (∀ (s : State) (k v gpa src : Nat) (x : Fill), reads s k x v → s.badLines (viewAt x.ctx x.core) x.image 8 = some (gpa, src) →
    exec (.overlayHeaderRead k) s = .next ((s.countBad x.ctx gpa src).failFill x 2)) ∧
  (∀ (s : State) (k : Nat) (x : Fill) (o : Overlay) (bs : List Byte), fills s k x o bs →
    sound s x (x.image + 0x400) ((4 * o.len + 127) / 128) → crc32 bs = x.crc →
    exec (.overlayFillComplete k) s = .next ((s.fillers x.key).foldl
      (fun u y => u.fillEnds y.1 y.2 fun u => u.land y.1 { o with state := .resident, body := wordsOf bs } y.2)
      ({ s.updCore x.core fun c => c.updOverlay o.first fun y => { y with state := .resident, body := wordsOf bs } with
        fills := s.fills.filter (·.key ≠ x.key) }.endWaits x.key 0))) ∧
  (∀ (s : State) (k : Nat) (x : Fill) (o : Overlay) (bs : List Byte), fills s k x o bs →
    sound s x (x.image + 0x400) ((4 * o.len + 127) / 128) → crc32 bs ≠ x.crc →
    exec (.overlayFillComplete k) s = .next ((s.updCore x.core fun c => c.spoilOverlay o.first).failFill x 2))

/-! ## System registers -/

/-- SRD and SWR of every number of Table 1 (R373 to R377): each thread reads its own view before a read-to-clear field is cleared
once; a write takes the leader's value, changes only the fields of the table that are writable, and is written once where threads
share the register. CLKW and CLKR read the clocks, ERRD an error counter, once for the group (R378, R379); TRAP raises SOFTWARE with
its literal and resumes after it (R376). -/
def Obligations.SystemInstructions : Prop :=
  (∀ (f : L2R) (s : State) (l : ThreadId) (lt : Thread), (Instr.srd f).WellFormed → s.leads f.toL1 [] [⟨.dst 1, f.d.toNat⟩] l lt →
    let n := f.imm.toNat
    let u := s.stepAll (s.offIds f.toL1) 2
    let v := u.mapThreads fun i t =>
      if i ∈ s.onIds f.toL1 then (t.writeReg f.d.toNat 1 (u.sysRead i t n) 0).step 2 else t
    exec (.srd f) s = .next (
      if n = 0x071 then v.updCtx (s.ctxId l) fun x => { x with vdiv := 0, mfail := 0 }
      else if n = 0x031 then
        ((s.onIds f.toL1).map (·.team)).eraseDups.foldl (fun z i => z.updTeam i fun t => { t with unchk := 0 }) v
      else v)) ∧
  (∀ (f : L2R) (s : State) (l : ThreadId) (lt : Thread), (Instr.swr f).WellFormed → s.leads f.toL1 [⟨.src 1, f.a.toNat⟩] [] l lt →
    let n := f.imm.toNat
    let x := w32 (lt.readReg (s.env l) f.a.toNat 1)
    let shared :=
      if n = 0x031 then ((s.onIds f.toL1).map (·.team)).eraseDups.foldl (fun z i => z.updTeam i fun t =>
        { t with mnv := t.mnv && !x.getLsbD 16, mof := t.mof && !x.getLsbD 17, msat := t.msat && !x.getLsbD 18 }) s
      else if n = 0x050 then s.updCtx (s.ctxId l) fun c => { c with clamp := c.clamp &&& ~~~(x.extractLsb' 0 8) }
      else if n = 0x070 then s.updCtx (s.ctxId l) fun c => if c.sup then { c with shdctl := x.extractLsb' 0 2 } else c
      else s
    exec (.swr f) s = .next (shared.uniNext f.toL1 2 fun t =>
      if n = 0x020 then { t with cause := x.extractLsb' 0 8 }
      else if n = 0x021 then { t with tinfo := x }
      else if n = 0x022 then { t with taddr := t.taddr.extractLsb' 32 32 ++ x }
      else if n = 0x023 then { t with taddr := x ++ t.taddr.extractLsb' 0 32 }
      else if n = 0x024 then { t with tlinkLo := x.extractLsb' 0 16 }
      else if n = 0x025 then { t with tlinkHi := x.extractLsb' 0 14 }
      else if n = 0x040 then { t with fflags := t.fflags &&& ~~~(x.extractLsb' 0 6) }
      else if n = 0x041 then { t with fmode := x.extractLsb' 0 2 }
      else t)) ∧
  (∀ (f : L2R) (s : State) (l : ThreadId) (lt : Thread), (Instr.clkw f).WellFormed → s.leads f.toL1 [] [⟨.dst 2, f.d.toNat⟩] l lt →
    exec (.clkw f) s = .next (s.uniNext f.toL1 2 fun t => t.writeReg f.d.toNat 2 s.clkw 0)) ∧
  (∀ (f : L2R) (s : State) (l : ThreadId) (lt : Thread), (Instr.clkr f).WellFormed → s.leads f.toL1 [] [⟨.dst 2, f.d.toNat⟩] l lt →
    exec (.clkr f) s = .next (s.uniNext f.toL1 2 fun t =>
      t.writeReg f.d.toNat 2 (((s.part (s.partOfCtx (s.ctxId l))).map (·.clkr)).getD 0) 0)) ∧
  (∀ (f : L2R) (s : State) (l : ThreadId) (lt : Thread) (v : Vf), (Instr.errd f).WellFormed →
    s.leads f.toL1 [] [⟨.dst 2, f.d.toNat⟩] l lt → s.vf (s.ctxId l).vf = some v →
    exec (.errd f) s = .next (s.uniNext f.toL1 2 fun t => t.writeReg f.d.toNat 2 (v.errs.getD f.imm.toNat 0) 0)) ∧
  (∀ (f : L2R) (s : State) (l : ThreadId) (lt : Thread), (Instr.trap f).WellFormed → s.leads f.toL1 [] [] l lt →
    exec (.trap f) s = .next ((s.stepAll (s.offIds f.toL1) 2).raises ((s.onGroup f.toL1).map fun x =>
      (x.1, { trapR 0x31 f.imm.toNat 0 with link := some { x.2.pc with off := x.2.pc.off + 2 } }))))

/-! ## Page faults, recovery and slices -/

/-- Page faults of a team (R201, R202, R203, R252): PAGE_FAULT of an access of a running team marks it faulted, withholds what must follow it and
stops the team; FAULT_FRAME_SAVE of a stopped team whose accesses are all settled writes the fault frame and keeps the team with its unperformed
accesses under the requests raised for them, and a slot with a window bound starts afresh while another is kept; a deferred trap leaves a rendezvous
set standing as it arrived, and one of a recovery cause waits for a commit that follows an irrevocable operation. How a frame's elements lie is log
entry 88's, what becomes of the set log entry 85's reading, the wait log entry 48's. -/
def Obligations.PageFaultsSuspendTeams : Prop :=
  (∀ (s : State) (a : Nat) (x : Access) (m : Miss) (t : TeamId), s.access a = some x → x.state = .waiting → x.got = none →
    x.kind ≠ .cflush → s.mayPerform x = true → s.accessMiss x = some m → s.flightOf a = none →
    (x.owners.map (·.team)).eraseDups = [t] → (s.team t).any (fun tm => tm.stop = .running || tm.stop = .replaying) = true →
    let u := { s with accs := s.accs.map fun y => if y.seq = a then { x with state := .faulted } else y }
    exec (.pageFault a) s = .next (((markWithheld u t u.accs).stopFaulting t).trimFlights)) ∧
  (∀ (s : State) (t : TeamId) (tm : Team) (c : CtxId) (waits : List Nat) (u : State), s.team t = some tm → s.ctxOf t = some c →
    tm.stop = .faulting → s.drained t = true → s.matsHeld t = true →
    requestAll ((s.holdTeamMats t).dropOvld t) (s.teamAccs t) = (u, waits) →
    let v := u.saveTeam t tm (u.teamAccs t)
    let w := u.writeFrame c v (u.teamMats t)
    let bound := (w.block tm.block).any fun b => b.windows.any (· ≠ 0)
    let p : Susp := ⟨w.seq, v, !bound, waits ++ (u.teamMats t).flatMap (·.waits), false⟩
    let z := ({ w with seq := w.seq + 1, accs := w.accs.filter fun a => !a.ofTeam t }.updCtx c fun x =>
      { x with susp := x.susp ++ [p] }).renameTeam t (heldTeam t.core w.seq)
    exec (.faultFrameSave t) s = .next
      ((if bound then z.startSlot t else z.updTeam t fun tm => { tm with stop := .kept }).suspReady c p)) ∧
  (∀ (s : State) (i : ThreadId) (t : Thread) (r : Raise), s.thread i = some t → nextDeferred t.deferred = some r → t.live = true →
    (s.team i.team).any (fun tm => tm.stop = .running && !(recoveryCause r.cause && tm.irrevocable)) = true →
    (atBoundary t.park = true ∨ wordRefused r t.park = true) →
    exec (.deferredTrap i) s = .next (((s.dissolve i.team t.park).updThread i fun t =>
      { t with deferred := t.deferred.erase r, park := .ready }).deliver i { r with defer := true })) ∧
  (∀ (s : State) (i : ThreadId) (t : Thread) (r : Raise), s.thread i = some t → nextDeferred t.deferred = some r →
    recoveryCause r.cause = true → (s.team i.team).all (·.irrevocable) = true → exec (.deferredTrap i) s = .next s)

/-- FRESH_START, ROLLBACK, WATCHDOG_FIRE and WINDOW_END (R231, R316, R333, R381, R390 to R392): a team whose task ended by trap is reported and starts again at
ENTRY once nothing of it is outstanding, its task ended; one that still stands in a fault frame takes its elements back first; a team that rolls back, after a commit that an irrevocable operation made due (log entry
48), drops what it had begun, is counted and told, and takes its snapshot back, or, without one, queues its task again and starts afresh, and a gang
answers again once all of it is handled; a snapshot that cannot be read resets the partition, as does a watchdog that expires; copies of a window
that has ended go. What a snapshot holds is log entry 47's reading, how it lies in its slot log entry 88's. -/
def Obligations.RecoveryActs : Prop :=
  (∀ (s : State) (t : TeamId) (tm : Team) (i : ThreadId) (r : Raise), s.team t = some tm → tm.stop = .fresh i r →
    (s.quiet t = false → exec (.freshStart t) s = .next (s.unfault t)) ∧
    (s.quiet t = true → s.keeps t = true → exec (.freshStart t) s = .next (s.unkeep t)) ∧
    (s.quiet t = true → s.keeps t = false → exec (.freshStart t) s = .next
      (((((((s.orphanGates t).dropHeld t).reportKill i r).endTask t true).freshStart t).killSusps t).gangHandled t))) ∧
  (∀ (s : State) (t : TeamId) (tm : Team) (c : CtxId) (x : Ctx) (i : ThreadId) (r : Raise), s.team t = some tm →
    s.ctxOf t = some c → tm.stop = .rolling i r → tm.irrevocable = false → s.rollReady t = true →
    let u := (s.rollDrop t).rollSusps t
    let v := (u.countVf c.vf 8).trapEvent i r.cause r.addr
    u.ctx c = some x →
    (s.keeps t = true → exec (.rollback t) s = .next (s.unkeep t)) ∧
    (s.keeps t = false → x.snaps.find? (fun n => some n.key = tm.snap) = none →
      exec (.rollback t) s = .next ((((v.requeueTask t c).orphanGates t).rollFresh t).gangHandled t)) ∧
    (∀ n, s.keeps t = false → x.snaps.find? (fun n => some n.key = tm.snap) = some n →
      let bad := v.badImage (v.partOfCtx c) (v.snapAddr c n.saved.id n.slot) n.size (pagesOf n.size)
      let z := v.putSnap t.core n
      (bad = true → exec (.rollback t) s = .next (v.resetPart (v.partOfCtx c))) ∧
      (bad = false → z.rollsInPlace t = true →
        exec (.rollback t) s = .next (((z.gatesTo t n (heldTeam t.core n.key)).resumeSnap t c n).gangHandled t)) ∧
      (bad = false → z.rollsInPlace t = false →
        exec (.rollback t) s = .next (((z.updCtx c fun x => { x with
          resumes := x.resumes ++ [⟨n.key, z.shardDies (z.partOfCtx c) t.core.pkg, true⟩] }).gatesTo t n
            (heldTeam n.saved.id.core n.key)).rollFresh t)))) ∧
  (∀ (s : State) (t : TeamId) (tm : Team) (c : CtxId) (i : ThreadId) (r : Raise), s.team t = some tm → s.ctxOf t = some c →
    tm.stop = .rolling i r → tm.irrevocable = true → exec (.rollback t) s = .next (s.unfault t)) ∧
  (∀ (s : State) (p : Nat) (x : Part), s.part p = some x → s.busyPart p = true → x.watchdog ≠ 0 →
    x.progress + x.watchdog ≤ s.clkw → exec (.watchdogFire p) s = .next (s.resetPart p)) ∧
  (∀ (s : State) (c : CoreId), (s.core c).l1.any (·.copy.isSome) = true →
    let open_ := fun l : L1Line =>
      let len := ((s.share l.part c.pkg).map (·.window)).getD 0
      l.copy.all fun x => len ≠ 0 && x.1 = s.clkw / len
    exec (.windowEnd c) s = .next (s.updCore c fun k => { k with l1 := k.l1.filter open_ }))

/-- Slices (R384, R397, R399, R400): SLICE_BOUNDARY gives an idle partition its next context, keeps a context that is its own successor, and
otherwise begins the stop; PREEMPT_FORCED_STOP stops the rest after 10 µs; CONTEXT_SAVE of a drained context, whose guarded tasks have committed, saves it, its
copies at line boundaries, and the next context runs; one that is ending ends. What a save without a commit leaves is log entry 106's. How the save area lies is log entry 88's. -/
def Obligations.SlicesRotateContexts : Prop :=
  (∀ (s : State) (p : Nat) (x : Part), s.part p = some x → x.running = none → x.paused = false → x.pausing = false → x.boundary ≤ s.clkw →
    exec (.sliceBoundary p) s = .next (match s.nextCtx p x x.quanta with
      | none => s.updPart p fun y => { y with quanta := x.quanta, boundary := y.nextBoundary s.clkw }
      | some (c, stay) => s.startSlice p c (if stay then x.quanta else 0))) ∧
  (∀ (s : State) (p : Nat) (x : Part) (c : CtxId), s.part p = some x → x.running = some c → x.slicing = .none → x.boundary ≤ s.clkw →
    (∀ stay, s.nextCtx p x (x.quanta + 1) = some (c, stay) → (s.ctx c).any (·.ending) = false → x.pausing = false →
      exec (.sliceBoundary p) s = .next (s.updPart p fun y =>
        { y with quanta := if stay then y.quanta + 1 else 0, boundary := y.nextBoundary s.clkw })) ∧
    (x.pausing = true ∨ (s.ctx c).any (·.ending) = true ∨ (∀ stay, s.nextCtx p x (x.quanta + 1) ≠ some (c, stay)) →
      exec (.sliceBoundary p) s = .next ((s.updPart p fun y => { y with slicing := .stopping x.boundary }).settleSlices))) ∧
  (∀ (s : State) (p since : Nat) (x : Part) (c : CtxId), s.part p = some x → x.running = some c → x.slicing = .stopping since →
    since + 10000 ≤ s.clkw →
    exec (.preemptForcedStop p) s = .next (((s.teamsOf c).foldl (fun u t =>
      let ends := ((u.ctxOf t).bind u.ctx).any (·.ending)
      u.updTeam t fun tm => if tm.stop = .running then
        { tm with stop := .sliced true, commitDue := tm.commitDue || (tm.guarded && !ends) } else tm) s).updPart p fun y =>
      { y with slicing := .stopped })) ∧
  (∀ (s : State) (p : Nat) (x : Part) (c : CtxId), s.part p = some x → x.running = some c → x.slicing ≠ .none →
    s.drainedCtx p c = true → (s.ctx c).any (·.ending) = false →
    exec (.contextSave p) s = .next ((((s.haltAll p c).saveCtx p c).updPart p fun y =>
      { y with running := none, slicing := .none }).afterSlice p (x.quanta + 1))) ∧
  (∀ (s : State) (p : Nat) (x : Part) (c : CtxId), s.part p = some x → x.running = some c → x.slicing ≠ .none →
    s.drainedCtx p c = true → (s.ctx c).any (·.ending) = true →
    exec (.contextSave p) s = .next ((((s.haltAll p c).endCtx p c).updPart p fun y => { y with running := none, slicing := .none }).afterSlice p
      (x.quanta + 1)))

/-! ## The host interface -/

/-- A write to BAR 0 completes in every state, whatever is written (R414, R415, R419, R429): a doorbell takes the ring's new tail, unless the ring is
disabled or has no room, and rings no bell for no new record; a size that is no size changes nothing, disabling or
enabling a ring empties it, and a command ring is disabled once the command taken from it has completed; a head moves on to the value
written, and records and page requests held for their ring enter it; a base is taken while its ring is disabled, or is to be. EVENT_COALESCE_TIMEOUT
raises the interrupt that is due, and changes nothing when none is (R420). What is left as it is for a value that R429 does not give, the free-running indices, and the count
of interrupts are the model's choices (log entries 100, 9 and 72). -/
def Obligations.Bar0Writes : Prop :=
  (∀ (s : State) (fn : FnId) (v : Nat),
    let f := s.fn fn
    let tail := f.crTail + (v % 2 ^ f.crSize + 2 ^ f.crSize - f.crTail % 2 ^ f.crSize) % 2 ^ f.crSize
    exec (.crdoor fn v) s = .next (if f.crSize = 0 ∨ tail = f.crTail ∨ 2 ^ f.crSize < tail - f.crHead then s
      else { s with seq := s.seq + 1 }.updFn fn fun f => { f with crTail := tail, bells := f.bells ++ [(s.seq, tail)] })) ∧
  (∀ (s : State) (fn : FnId) (v : Nat),
    exec (.crsize fn v) s = .next (if v = 0 ∧ s.commandOpen fn = true then s.updFn fn fun f => { f with crOff := true }
      else if v = 0 ∨ (6 ≤ v ∧ v ≤ 16) then s.updFn fn fun f =>
        if v = 0 ∨ f.crSize = 0 ∨ f.crOff = true then { f with crSize := v, crHead := 0, crTail := 0, bells := [], crOff := false }
        else { f with crSize := v }
      else s)) ∧
  (∀ (s : State) (fn : FnId) (v : Nat),
    exec (.ersize fn v) s = .next (if v = 0 ∨ (6 ≤ v ∧ v ≤ 16) then (s.updFn fn fun f =>
      if v = 0 ∨ f.erSize = 0 then { f with erSize := v, erHead := 0, erTail := 0 } else { f with erSize := v }).flushEvents fn
        (Config.heldRecords + 1)
    else s)) ∧
  (∀ (s : State) (fn : FnId) (v : Nat),
    let f := s.fn fn
    let head := f.erHead + (v % 2 ^ f.erSize + 2 ^ f.erSize - f.erHead % 2 ^ f.erSize) % 2 ^ f.erSize
    exec (.erhead fn v) s = .next (if f.erSize = 0 ∨ f.erTail < head then s
      else (s.updFn fn fun f => { f with erHead := head }).flushEvents fn (Config.heldRecords + 1))) ∧
  (∀ (s : State) (fn : FnId) (v : Nat),
    let f := s.fn fn
    let head := f.prHead + (v % 4096 + 4096 - f.prHead % 4096) % 4096
    exec (.prhead fn v) s = .next (if fn.vf.isNone ∨ f.prTail < head then s
      else (s.updFn fn fun f => { f with prHead := head }).flushPages fn f.prWait.length)) ∧
  (∀ (s : State) (fn : FnId) (off v : Nat),
    exec (.bar0RegisterWrite fn off v) s = .next (s.updFn fn fun f =>
      if off = 0x000 ∧ (f.crSize = 0 ∨ f.crOff = true) then { f with crBase := v / 4096 * 4096 % 2 ^ 64 }
      else if off = 0x018 ∧ f.erSize = 0 then { f with erBase := v / 4096 * 4096 % 2 ^ 64 }
      else if off = 0x030 ∧ fn.vf.isSome = true then { f with prBase := v / 4096 * 4096 % 2 ^ 64 }
      else f)) ∧
  (∀ (s : State) (fn : FnId),
    let f := s.fn fn
    exec (.eventCoalesceTimeout fn) s = .next (if f.time ≠ 0 ∧ f.oldest.any (fun t => t + 1000 * f.time ≤ s.clkw) = true then
      s.updFn fn fun f => { f with irqs := f.irqs + 1, fresh := 0, oldest := none }
    else s)) ∧
  (∀ (s : State) (fn : FnId) (tag : W32) (status result : Nat), (s.fn fn).crOff = true →
    let f := (s.complete fn tag status result).fn fn
    f.crSize = 0 ∧ f.crHead = 0 ∧ f.crTail = 0 ∧ f.bells = [] ∧ f.crOff = false)

namespace Sys2Proof.Claims

/-- The command of a record is one that its function may issue, in the form that R430 gives it. -/
def formed (c : Cmd) (pf vf : Bool) (sub : Nat) (used : List (Nat × Nat)) : Prop :=
  (if c.fn.vf.isNone then pf else vf) = true ∧ c.sub = sub ∧ cmdClean c used = true

/-- The commands with who may issue them, their SUB and their operands (R416 Table 2, R430): each is given as constructor, physical function,
virtual function, SUB, and the byte offsets and widths of its operands. CTX_START, which may wait on page replies first, is apart. -/
def commandForms : List ((Cmd → Instr) × Bool × Bool × Nat × List (Nat × Nat)) :=
  [(.partSet, true, false, 0, [(0x08, 5), (0x10, 64)]), (.partPause, true, false, 0, [(0x08, 5)]),
   (.partResume, true, false, 1, [(0x08, 5)]), (.partReset, true, false, 0, [(0x08, 5)]), (.rehome, true, false, 0, [(0x08, 5)]),
   (.vfBind, true, false, 0, [(0x08, 10), (0x0A, 5), (0x0C, 32), (0x10, 64), (0x18, 64), (0x20, 64), (0x28, 64)]),
   (.vfUnbind, true, false, 1, [(0x08, 10)]),
   (.grant, true, false, 0, [(0x08, 5), (0x09, 5), (0x0A, 1), (0x10, 64), (0x18, 64)]),
   (.revoke, true, false, 1, [(0x08, 5), (0x09, 5), (0x10, 64), (0x18, 64)]), (.s2Root, true, false, 0, [(0x08, 5), (0x10, 64)]),
   (.s2Inval, true, false, 1, [(0x08, 5), (0x10, 64), (0x18, 64)]),
   (.gateCreate, true, false, 0, [(0x08, 16), (0x0C, 8), (0x10, 64)]), (.gateConfigure, true, false, 1, [(0x08, 16), (0x10, 64)]),
   (.gateRecycle, true, false, 2, [(0x08, 16), (0x10, 64)]), (.gateDelete, true, false, 3, [(0x08, 16)]),
   (.migrateQuiesce, true, false, 0, [(0x08, 5)]), (.migrateStart, true, false, 1, [(0x08, 5), (0x10, 64), (0x18, 64)]),
   (.errread, true, false, 0, [(0x10, 64)]), (.ctxCreate, true, true, 0, [(0x08, 8), (0x0C, 20), (0x10, 64), (0x18, 2)]),
   (.ctxEnd, true, true, 0, [(0x08, 8)]), (.s1Inval, true, true, 0, [(0x08, 8), (0x10, 64), (0x18, 64)]),
   (.qsetCreate, false, true, 0, [(0x08, 8), (0x10, 64), (0x18, 64)]), (.qsetDelete, false, true, 1, [(0x08, 10)]),
   (.qsubmit, false, true, 0, [(0x08, 64), (0x10, 256), (0x30, 2)]),
   (.pageReply, true, true, 0, [(0x08, 32), (0x0C, 16), (0x0E, 10)]),
   (.ringSet, true, true, 0, [(0x08, 64), (0x10, 16), (0x12, 16), (0x14, 32), (0x18, 32)]),
   (.selftest, true, false, 0, [(0x08, 8), (0x0A, 16), (0x10, 64)]), (.fwUpdate, true, false, 0, [(0x08, 1), (0x10, 64), (0x18, 64)]),
   (.fwRecover, true, false, 1, [(0x08, 1)]), (.attest, true, true, 0, [(0x08, 256), (0x28, 64), (0x30, 64)])]

end Sys2Proof.Claims

/-- A command of the wrong function completes with DENIED, one of a wrong form with BADCMD, and neither changes anything else (R416, R417). That the function is checked
before SUB and the zero fields is the model's choice (log entry 65). -/
def Obligations.CommandsAreCheckedFirst : Prop :=
  ∀ k ∈ commandForms, ∀ (c : Cmd) (s : State),
    ((if c.fn.vf.isNone then k.2.1 else k.2.2.1) = false → exec (k.1 c) s = .next (s.complete c.fn c.tag 2 0)) ∧
    ((if c.fn.vf.isNone then k.2.1 else k.2.2.1) = true → (c.sub ≠ k.2.2.2.1 ∨ cmdClean c k.2.2.2.2 = false) →
      exec (k.1 c) s = .next (s.complete c.fn c.tag 1 0))

/-- The commands on partitions, VFs, windows and stage 2 that succeed (R394, R397, R398, R406, R411). A number names a partition as its package
numbers it (log entry 22). When PART_SET asks for a pause is log entry 53's reading, and the ranges of the channels log entry 17's; that
shares that own too little give CONFLICT, and only at PART_RESUME where a home set names more, is log entries 52 and 92's. -/
def Obligations.PartitionCommandsAct : Prop :=
  let num := fun (c : Cmd) (s : State) (n : Nat) (p : Part) => s.partOn c.fn.pkg (cmdArg c 0x08 1) = some n ∧ s.part n = some p
  let pfOnly := [(0x08, 5)]
  let invalid := fun (c : Cmd) (parts way : List Nat) (w : State) =>
    if way = [] then w.complete c.fn c.tag 0 0 else w.updFn c.fn fun f => { f with pending := some ⟨c, parts, way, false, .inval⟩ }
  let onTheWay := fun (s : State) (p : CtxId → Bool) => (s.accs.filter fun a => a.state = .sent && p a.ctx).map (·.seq)
  (∀ (c : Cmd) (s : State) (b : ShareBlock), formed c true false 0 [(0x08, 5), (0x10, 64)] →
    s.shareBlock c.fn.pkg (cmdArg c 0x10 8) = some b →
    let n := s.partFor c.fn.pkg (cmdArg c 0x08 1) b
    (∀ x ∈ s.parts, x.1 ≠ n → ∀ o ∈ x.2.shares, o.pkg = c.fn.pkg → o.clash b.share = false) →
    s.underTest c.fn.pkg b.share = false → (∀ u ∈ (s.pkg c.fn.pkg).failed, (unitOf u).any b.share.names = false) →
    homesMatch b.homing.set c.fn.pkg b.share.channels.toNat = true →
    (∀ p, s.part n = some p → p.paused = true ∨ p.needsPause b = false) →
    let p := match s.part n with
      | some p => p.withShare b
      | none => { (Part.new b.homing).withShare b with boundary := ((Part.new b.homing).withShare b).nextBoundary s.clkw }
    p.legal = true → exec (.partSet c) s = .next ((State.partLeaves { s with parts := tset s.parts n p } n s).complete c.fn c.tag 0 0)) ∧
  (∀ (c : Cmd) (s : State) (n : Nat) (p : Part), formed c true false 0 pfOnly → num c s n p →
    (p.paused = true → exec (.partPause c) s = .next (s.complete c.fn c.tag 0 0)) ∧
    (p.paused = false → p.running.isSome = true → exec (.partPause c) s = .next (s.updPart n fun p =>
      { p with pausing := true, pauseTag := some (c.fn, c.tag) })) ∧
    (p.paused = false → p.running = none → exec (.partPause c) s = .next ((s.updPart n fun p =>
      { p with pausing := true, pauseTag := some (c.fn, c.tag) }).pauseNow n))) ∧
  (∀ (c : Cmd) (s : State) (n : Nat) (p : Part), formed c true false 1 pfOnly → num c s n p → p.oldHoming = none →
    p.quiesced = false →
    (p.whole = true → exec (.partResume c) s = .next ((s.updPart n fun p =>
      if p.paused then { p with paused := false, boundary := p.nextBoundary s.clkw } else p).complete c.fn c.tag 0 0)) ∧
    (p.whole = false → exec (.partResume c) s = .next (s.complete c.fn c.tag 4 0))) ∧
  (∀ (c : Cmd) (s : State) (n : Nat) (p : Part), formed c true false 0 pfOnly → num c s n p →
    exec (.partReset c) s = .next ((s.resetPart n).complete c.fn c.tag 0 0)) ∧
  (∀ (c : Cmd) (s : State) (n : Nat) (p : Part), formed c true false 0 pfOnly → num c s n p → p.paused = true →
    (p.oldHoming = none → exec (.rehome c) s = .next (s.complete c.fn c.tag 0 0)) ∧
    (∀ old moves, p.oldHoming = some old →
      s.rehomeMoves p p.homing ((s.homedLines p old).filter fun x => old.homeOf x.1 ≠ p.homing.homeOf x.1) = some moves →
      let t := (s.moveLines moves).updPart n fun p => { p with oldHoming := none }
      exec (.rehome c) s = .next ({ t with s2tlb := t.s2tlb.filter (·.part ≠ n) }.complete c.fn c.tag 0 moves.length))) ∧
  (∀ (c : Cmd) (s : State) (n : Nat),
    formed c true false 0 [(0x08, 10), (0x0A, 5), (0x0C, 32), (0x10, 64), (0x18, 64), (0x20, 64), (0x28, 64)] →
    s.partOn c.fn.pkg (cmdArg c 0x0A 1) = some n → (s.vf ⟨c.fn.pkg, cmdArg c 0x08 2⟩).isNone = true →
    let f : Vf :=
      ⟨n, cmdArg c 0x0C 4, 0, cmdArg c 0x10 8, cmdArg c 0x18 8, cmdArg c 0x20 8, cmdArg c 0x28 2, cmdArg c 0x2A 2,
        cmdArg c 0x2C 4, List.replicate 12 0⟩
    exec (.vfBind c) s = .next ({ s with vfs := tset s.vfs ⟨c.fn.pkg, cmdArg c 0x08 2⟩ f }.complete c.fn c.tag 0 0)) ∧
  (∀ (c : Cmd) (s : State), formed c true false 1 [(0x08, 10)] →
    let v : VfId := ⟨c.fn.pkg, cmdArg c 0x08 2⟩
    (s.vf v).isSome = true → (∀ x ∈ s.ctxs, x.1.vf = v → x.2.started = false) →
    exec (.vfUnbind c) s = .next
      ({ s with vfs := tdel s.vfs v, ctxs := s.ctxs.filter fun x => x.1.vf ≠ v }.complete c.fn c.tag 0 0)) ∧
  (∀ (c : Cmd) (s : State) (giver taker : Nat), formed c true false 0 [(0x08, 5), (0x09, 5), (0x0A, 1), (0x10, 64), (0x18, 64)] →
    s.partOn c.fn.pkg (cmdArg c 0x08 1) = some giver → s.partOn c.fn.pkg (cmdArg c 0x09 1) = some taker →
    let g : Grant := ⟨giver, taker, cmdArg c 0x0A 1 = 1, cmdArg c 0x10 8, cmdArg c 0x18 8⟩
    g.from_ % 2 ^ 30 = 0 → g.into % 2 ^ 30 = 0 →
    (∀ o ∈ s.grants, o.taker = g.taker → o.into = g.into → o.giver = g.giver ∧ o.from_ = g.from_) →
    exec (.grant c) s = .next ({ s with grants := g :: s.grants.filter fun o =>
      !(o.taker = g.taker && o.into = g.into) }.complete c.fn c.tag 0 0)) ∧
  (∀ (c : Cmd) (s : State) (giver taker : Nat), formed c true false 1 [(0x08, 5), (0x09, 5), (0x10, 64), (0x18, 64)] →
    s.partOn c.fn.pkg (cmdArg c 0x08 1) = some giver → s.partOn c.fn.pkg (cmdArg c 0x09 1) = some taker →
    let same := fun o : Grant => giver = o.giver && taker = o.taker && o.from_ = cmdArg c 0x10 8 && o.into = cmdArg c 0x18 8
    s.grants.any same = true →
    let w := s.dropAllLines fun _ l => l.part = taker && inRange (cmdArg c 0x18 8) (2 ^ 30) l.gpa
    exec (.revoke c) s = .next (invalid c [giver, taker] (onTheWay s fun x => s.partOfCtx x = taker)
      { w with grants := w.grants.filter fun o => !same o })) ∧
  (∀ (c : Cmd) (s : State) (n : Nat) (p : Part) (sh : Share), formed c true false 0 [(0x08, 5), (0x10, 64)] → num c s n p →
    s.share n c.fn.pkg = some sh →
    cmdArg c 0x10 8 % 4096 = 0 → sh.channels.toNat.testBit (cmdArg c 0x10 8 / Config.channelSpan) = true →
    exec (.s2Root c) s = .next ((s.updPart n fun p => { p with shares := p.shares.map fun x =>
      if x.pkg = c.fn.pkg then { x with s2root := cmdArg c 0x10 8 } else x }).complete c.fn c.tag 0 0)) ∧
  (∀ (c : Cmd) (s : State) (n : Nat) (p : Part), formed c true false 1 [(0x08, 5), (0x10, 64), (0x18, 64)] → num c s n p →
    cmdArg c 0x10 8 % 4096 = 0 → cmdArg c 0x18 8 % 4096 = 0 →
    exec (.s2Inval c) s = .next (invalid c [n]
      (onTheWay s fun x => s.partOfCtx x = n || s.grants.any fun g => g.giver = n && g.taker = s.partOfCtx x)
      (s.s2Forget n (cmdArg c 0x10 8) (cmdArg c 0x18 8))))

/-- The commands on gates and migration, and ERRREAD, that succeed (R345, R346, R353, R355, R431). That a gate keeps its GEN
over delete and create, that a migration ends the quiesce, and how it rewrites the identities are log entries 56, 70 and 93. -/
def Obligations.GateCommandsAct : Prop :=
  let gate := fun c : Cmd => cmdArg c 0x08 2
  let image := fun (c : Cmd) (s : State) => bytesToNat (s.hostBytes c.fn.pkg (cmdArg c 0x10 8) 256)
  let owner := fun (c : Cmd) (s : State) => identity (byteFld (image c s) 0x0C 4)
  (∀ (c : Cmd) (s : State), formed c true false 0 [(0x08, 16), (0x0C, 8), (0x10, 64)] → (s.gate (gate c)).any (·.valid) = false →
    gateImageOk (image c s) = true → s.hasPkg (cmdArg c 0x0C 1) = true →
    let g : Gate :=
      ⟨0, ((s.gate (gate c)).map (·.gen)).getD 0, owner c s, true, false, [], aclOf (image c s) s.clkw, cmdArg c 0x0C 1⟩
    exec (.gateCreate c) s = .next ({ s with gates := tset s.gates (gate c) g }.complete c.fn c.tag 0 0)) ∧
  (∀ (c : Cmd) (s : State) (g : Gate), formed c true false 1 [(0x08, 16), (0x10, 64)] → s.gate (gate c) = some g →
    g.valid = true → gateImageOk (image c s) = true →
    let pairs := (g.refilled s.clkw).acl.zip (aclOf (image c s) s.clkw)
    let lost := (pairs.filter fun x => aclChanged x.1 x.2).map fun x => x.1.vf
    exec (.gateConfigure c) s = .next (((s.updGate (gate c) fun g =>
      { g with owner := owner c s, acl := pairs.map fun x => aclMerge x.1 x.2 }).releaseWaiters (gate c)
        (fun w => lost.contains w.vf) 2).complete c.fn c.tag 0 0)) ∧
  (∀ (c : Cmd) (s : State) (g : Gate), formed c true false 2 [(0x08, 16), (0x10, 64)] → s.gate (gate c) = some g →
    g.valid = true → gateImageOk (image c s) = true →
    exec (.gateRecycle c) s = .next (((s.releaseWaiters (gate c) (fun _ => true) 2).updGate (gate c) fun g =>
      { g with gen := g.gen + 1, closed := false, counter := 0, owner := owner c s
               acl := aclOf (image c s) s.clkw }).complete c.fn c.tag 0 0)) ∧
  (∀ (c : Cmd) (s : State) (g : Gate), formed c true false 3 [(0x08, 16)] → s.gate (gate c) = some g → g.valid = true →
    exec (.gateDelete c) s = .next (((s.releaseWaiters (gate c) (fun _ => true) 2).updGate (gate c) fun g =>
      { g with valid := false }).complete c.fn c.tag 0 0)) ∧
  (∀ (c : Cmd) (s : State) (n : Nat) (p : Part), formed c true false 0 [(0x08, 5)] →
    s.partOn c.fn.pkg (cmdArg c 0x08 1) = some n → s.part n = some p →
    (p.paused = true → exec (.migrateQuiesce c) s = .next ((s.updPart n fun p =>
      { p with quiesced := true }).complete c.fn c.tag 0 p.clkr)) ∧
    (p.paused = false → p.running.isSome = true → exec (.migrateQuiesce c) s = .next (s.updPart n fun p =>
      { p with quiesced := true, pausing := true, pauseTag := some (c.fn, c.tag) }))) ∧
  (∀ (c : Cmd) (s : State) (n : Nat) (p : Part), formed c true false 1 [(0x08, 5), (0x10, 64), (0x18, 64)] →
    s.partOn c.fn.pkg (cmdArg c 0x08 1) = some n → s.part n = some p → p.quiesced = true → p.paused = true → cmdArg c 0x18 8 ≠ 0 → cmdArg c 0x18 8 ≤ 1024 →
    (∀ i < cmdArg c 0x18 8, fld (s.hostRead c.fn.pkg (cmdArg c 0x10 8 + 8 * i) 8) 18 14 = 0 ∧
      fld (s.hostRead c.fn.pkg (cmdArg c 0x10 8 + 8 * i) 8) 50 14 = 0) →
    let m := s.identityMap c.fn.pkg (cmdArg c 0x10 8) (cmdArg c 0x18 8)
    (∀ e ∈ m, e.1 = e.2 ∨ (s.vf e.2).isSome = false ∨ ∃ x ∈ m, x.1 = e.2) →
    exec (.migrateStart c) s = .next (((s.migrate m).updPart n fun p =>
      { p with quiesced := false, paused := false, boundary := p.nextBoundary s.clkw }).complete c.fn c.tag 0 0)) ∧
  (∀ (c : Cmd) (s : State), formed c true false 0 [(0x10, 64)] →
    exec (.errread c) s = .next ((s.hostPut c.fn.pkg (cmdArg c 0x10 8) ((List.range 32).flatMap fun i =>
      natToBytes 8 ((s.pkg c.fn.pkg).errs.getD i 0))).complete c.fn c.tag 0 0))

/-- The commands on contexts, queue sets, page replies and rings that succeed (R318, R319, R398, R406, R409, R420, R456). These clauses hold the model's
choices: the GEN of a new set (log entry 8), the slots of a placed team (67), the physical function acting for VF 0 of its package (61), a start that waits on page
replies (60), the end of a context that does not run (54), O after the deletion of a set (39), and the status of a reply to no request (98). -/
def Obligations.ContextCommandsAct : Prop :=
  let ctx := fun c : Cmd => (⟨⟨c.fn.pkg, c.fn.vf.getD 0⟩, cmdArg c 0x08 1⟩ : CtxId)
  (∀ (c : Cmd) (s : State), formed c true true 0 [(0x08, 8), (0x0C, 20), (0x10, 64), (0x18, 2)] →
    (s.vf (ctx c).vf).isSome = true → (s.ctx (ctx c)).isNone = true → cmdArg c 0x10 8 % 4096 = 0 →
    (∀ x ∈ s.ctxs, x.1.vf = (ctx c).vf → x.2.pasid ≠ cmdArg c 0x0C 4) →
    let modes := BitVec.ofNat 2 (cmdArg c 0x18 1)
    let k : Ctx :=
      ⟨cmdArg c 0x0C 4, cmdArg c 0x10 8, modes, modes, c.fn.vf.isNone, 0, 0, 0, false, false, [], 0, none, [], [], []⟩
    exec (.ctxCreate c) s = .next ({ s with ctxs := tset s.ctxs (ctx c) k }.complete c.fn c.tag 0 0)) ∧
  (∀ (c : Cmd) (s : State) (k : Ctx) (v : Vf) (es : List (StartEnt × Nat)) (ps : List Placed),
    formed c true true 0 [(0x08, 8), (0x09, 2), (0x10, 64), (0x18, 64)] → (s.fn c.fn).pending = none →
    let u := s.updFn c.fn fun f => { f with pending := none }
    u.ctx (ctx c) = some k → u.vf (ctx c).vf = some v → k.started = false → (u.part v.part).any Part.whole = true →
    cmdArg c 0x18 8 ≠ 0 → cmdArg c 0x18 8 ≤ 1024 →
    u.startListOk v.part (u.startList c.fn.pkg (cmdArg c 0x10 8) (cmdArg c 0x18 8)) = true →
    u.lookAll (ctx c) (u.startList c.fn.pkg (cmdArg c 0x10 8) (cmdArg c 0x18 8)) = .got es →
    u.placeAll v.part es es [] = some ps → v.fits ps = true →
    exec (.ctxStart c) s = .next ((u.updCtx (ctx c) fun k => { k with
      started := true, sup := c.fn.vf.isNone, prio := cmdArg c 0x09 1, shdctl := k.shdnew, vdiv := 0, mfail := 0, clamp := 0
      saved := some (startSave (ctx c) ps), susp := [], snaps := [], resumes := [] }).complete c.fn c.tag 0 0)) ∧
  (∀ (c : Cmd) (s : State), formed c true true 0 [(0x08, 8)] → (s.ctx (ctx c)).isSome = true →
    let t := s.updCtx (ctx c) fun k => { k with ending := true, endTags := k.endTags ++ [(c.fn, c.tag)] }
    exec (.ctxEnd c) s = .next (if s.ctxRuns (ctx c) then t else t.endCtx (s.partOfCtx (ctx c)) (ctx c))) ∧
  (∀ (c : Cmd) (s : State) (x : Ctx), formed c true true 0 [(0x08, 8), (0x10, 64), (0x18, 64)] → s.ctx (ctx c) = some x →
    let start := cmdArg c 0x10 8
    let len := cmdArg c 0x18 8
    start % 4096 = 0 → len % 4096 = 0 →
    let hit := fun a : Nat => len = 0 || (start ≤ a && a < start + len)
    let w := s.dropAllLines fun _ l => l.vf = (ctx c).vf && l.pasid = x.pasid && hit (l.line * 128)
    let t := { w with tlb := w.tlb.filter fun e => !(e.space = some ((ctx c).vf, x.pasid) && hit (e.page * 4096)) }
    let way := (s.accs.filter fun a => a.state = .sent && a.ctx = ctx c).map (·.seq)
    (way = [] → exec (.s1Inval c) s = .next (t.complete c.fn c.tag 0 0)) ∧
    (way ≠ [] → exec (.s1Inval c) s = .next (t.updFn c.fn fun f => { f with pending := some ⟨c, [], way, false, .inval⟩ }))) ∧
  (∀ (c : Cmd) (s : State) (i : Nat), formed c false true 0 [(0x08, 8), (0x10, 64), (0x18, 64)] →
    let v := (ctx c).vf
    let part := s.partOfVf v
    (s.vf v).isSome = true → 6 ≤ cmdArg c 0x08 1 → cmdArg c 0x08 1 ≤ 16 → cmdArg c 0x10 8 % 4096 = 0 → cmdArg c 0x18 8 % 8 = 0 →
    (List.range 1024).find? (fun i => (s.qset ⟨part, i⟩).isNone) = some i →
    let q : QSet := ⟨s.seq % 65536, v, cmdArg c 0x08 1, cmdArg c 0x10 8, cmdArg c 0x18 8, 0, 0, 0, [], 0, [], [], [], [], []⟩
    exec (.qsetCreate c) s = .next ({ s with seq := s.seq + 1, qsets := tset s.qsets ⟨part, i⟩ q }.complete c.fn c.tag 0
      (makeHandle part v i 7 (s.seq % 65536)))) ∧
  (∀ (c : Cmd) (s : State) (x : QSet), formed c false true 1 [(0x08, 10)] →
    let v := (ctx c).vf
    let q : QSetId := ⟨s.partOfVf v, cmdArg c 0x08 2⟩
    (s.vf v).isSome = true → s.qset q = some x → x.vf = v →
    exec (.qsetDelete c) s = .next (({ s with qsets := tdel s.qsets q }.updVf v fun f =>
      { f with out := f.out - x.outstanding }).complete c.fn c.tag 0 0)) ∧
  (∀ (c : Cmd) (s : State), formed c false true 0 [(0x08, 64), (0x10, 256), (0x30, 2)] →
    let v := (ctx c).vf
    let q := s.handleSet v (cmdArg c 0x08 8)
    let r := recOf (cmdArg c 0x10 32)
    let d : DieId := ⟨c.fn.pkg, cmdArg c 0x30 1⟩
    (s.vf v).isSome = true → (s.qset q).isSome = true → s.handleBad v (cmdArg c 0x08 8) 1 = none → (s.shardDies q.part d.pkg).contains d = true →
    (r.kind = 0 → s.pushStatus q d 1 true = 0 → exec (.qsubmit c) s = .next ((s.queueRec q d r none).complete c.fn c.tag 0 0)) ∧
    (r.kind = 0 → s.pushStatus q d 1 true ≠ 0 →
      exec (.qsubmit c) s = .next (s.complete c.fn c.tag 0 (s.pushStatus q d 1 true)))) ∧
  (∀ (c : Cmd) (s : State), formed c true true 0 [(0x08, 32), (0x0C, 16), (0x0E, 10)] →
    let v : VfId := ⟨c.fn.pkg, if c.fn.vf.isSome then c.fn.vf.getD 0 else cmdArg c 0x0E 2⟩
    cmdArg c 0x0C 2 ≤ 1 → (c.fn.vf.isSome = true → cmdArg c 0x0E 2 = 0) → (s.vf v).isSome = true →
    let found := s.pages.find? fun r => r.vf = v && r.tag % 2 ^ 32 = cmdArg c 0x08 4
    (found = none → exec (.pageReply c) s = .next ((s.countPkg c.fn.pkg 14).complete c.fn c.tag 0 0)) ∧
    (∀ r, found = some r → r.stage = (if c.fn.vf.isSome then 0 else 1) →
      exec (.pageReply c) s = .next ((s.pageAnswer r.tag (cmdArg c 0x0C 2 = 1)).complete c.fn c.tag 0 0))) ∧
  (∀ (c : Cmd) (s : State), formed c true true 0 [(0x08, 64), (0x10, 16), (0x12, 16), (0x14, 32), (0x18, 32)] →
    cmdArg c 0x08 8 % 4096 = 0 → 6 ≤ cmdArg c 0x10 2 → cmdArg c 0x10 2 ≤ 16 → 1 ≤ cmdArg c 0x12 2 → cmdArg c 0x12 2 ≤ 256 →
    cmdArg c 0x14 4 ≤ 65535 → (s.fn c.fn).waiting = [] → (s.fn c.fn).dropped = 0 →
    exec (.ringSet c) s = .next ((s.updFn c.fn fun f => { f with
      erBase := cmdArg c 0x08 8, erSize := cmdArg c 0x10 2, erHead := 0, erTail := 0, count := cmdArg c 0x12 2
      time := cmdArg c 0x14 4, vector := cmdArg c 0x18 4 }).complete c.fn c.tag 0 0))

/-- Firmware, self-test, attestation, power, links and the Ethernet interface (R412, R422 to R428, R431); the five events complete in
every state. The images that verify, the version an image has and the reports are
free values of Config: the statement holds whatever they are (log entries 10 and 15). A SELFTEST begins, and ends in a later step, in which each failing unit gives a
finding; an FW_RECOVER waits for the commands that are open. What a
self-test destroys and the status of a failed one, the steps of a test, what a shutdown leaves and what its report holds, and the count of received frames are the model's
choices (log entries 16, 98, 99, 57 and 72). -/
def Obligations.FirmwareAndPackageEvents : Prop :=
  (∀ (c : Cmd) (s : State), formed c true false 0 [(0x08, 1), (0x10, 64), (0x18, 64)] →
    let bs := s.hostBytes c.fn.pkg (cmdArg c 0x10 8) (cmdArg c 0x18 8)
    exec (.fwUpdate c) s = .next (if Config.lmsVerifies bs then (s.updPkg c.fn.pkg fun p =>
      { p with flash := some bs, raise := cmdArg c 0x08 1 = 1 }).complete c.fn c.tag 0 0
      else s.complete c.fn c.tag 8 0)) ∧
  (∀ (p : Pkg), p.raiseFloor = match p.raise, p.flash with
    | true, some bs => { p with floor := max p.floor (Config.imageVersion bs), raise := false }
    | _, _ => p) ∧
  (∀ (c : Cmd) (s : State), formed c true false 1 [(0x08, 1)] →
    let u := s.updFn c.fn fun f => { f with pending := none }
    (u.othersOpen c.fn = false → exec (.fwRecover c) s = .next ((u.updPkg c.fn.pkg fun p =>
      { p.raiseFloor with rom := true, image := Config.romImage
                          flash := if cmdArg c 0x08 1 = 1 then some Config.romImage else p.flash }).complete c.fn c.tag 0 0)) ∧
    (u.othersOpen c.fn = true → exec (.fwRecover c) s = .next (u.updFn c.fn fun f =>
      { f with pending := some ⟨c, [], [], false, .restart⟩ }))) ∧
  (∀ (c : Cmd) (s : State), formed c true true 0 [(0x08, 256), (0x28, 64), (0x30, 64)] →
    let k := (s.pkg c.fn.pkg).keysUsed
    let v := s.attestValues c
    let n := Config.attestLength k v
    exec (.attest c) s = .next (if Config.attestKeys ≤ k then s.complete c.fn c.tag 7 0
      else if cmdArg c 0x30 8 < n then s.complete c.fn c.tag 1 0
      else ((s.hostPut c.fn.pkg (cmdArg c 0x28 8) ((List.range n).map (Config.attestByte k v))).updPkg
        c.fn.pkg fun p => { p with keysUsed := p.keysUsed + 1 }).complete c.fn c.tag 0 n)) ∧
  (∀ (c : Cmd) (s : State), formed c true false 0 [(0x08, 8), (0x0A, 16), (0x10, 64)] →
    let u := s.updFn c.fn fun f => { f with pending := none }
    let n := cmdArg c 0x0A 2
    let paths := ((List.range n).map fun i => u.hostRead c.fn.pkg (cmdArg c 0x10 8 + 2 * i) 2).eraseDups
    (s.testing c = none → cmdArg c 0x08 1 ≤ 1 → 1 ≤ n → n ≤ 4096 → (∀ p ∈ paths, (unitOf p).isSome = true) →
      ((∀ p ∈ paths, (unitOf p).any (u.unitOwned c.fn.pkg) = false) →
        exec (.selftest c) s = .next (u.updFn c.fn fun f => { f with pending := some ⟨c, [], [], false, .test paths⟩ })) ∧
      ((∃ p ∈ paths, (unitOf p).any (u.unitOwned c.fn.pkg) = true) → exec (.selftest c) s = .next (u.complete c.fn c.tag 3 0))) ∧
    (∀ units, s.testing c = some units →
      let bad := (units.filter fun p => s.defects.contains (c.fn.pkg, p)).length
      let test := fun (v : State) (p : Nat) =>
        let w := if cmdArg c 0x08 1 = 1 then v.destroyUnit c.fn.pkg p else v
        let fails := w.defects.contains (c.fn.pkg, p)
        let z := w.updPkg c.fn.pkg fun q => { q with failed := q.failed.filter (· ≠ p) ++ if fails then [p] else [] }
        if fails then z.postEvent ⟨c.fn.pkg, none⟩ ⟨c.tag, 9, 3, z.clkw, 0, 0, BitVec.ofNat 64 p⟩ else z
      exec (.selftest c) s = .next ((units.foldl test u).complete c.fn c.tag (if bad = 0 then 0 else 9) bad))) ∧
  (∀ (s : State) (pkg : Nat),
    let t := s.updPkg pkg fun p =>
      { p.raiseFloor with ready := true, rom := !p.flashStarts, image := if p.flashStarts then p.flash.getD [] else Config.romImage
                          booted := true, down := false, downNoted := p.downNoted || p.down }
    exec (.firmwareBoot pkg) s = .next (if (s.pkg pkg).booted = true ∨ s.hasPkg pkg = false then s
      else if (s.pkg pkg).down then t.postEvent ⟨pkg, none⟩ ⟨0, 9, 3, s.clkw, 0, 0, 0⟩ else t)) ∧
  (∀ (s : State) (pkg : Nat) (on : Bool), exec (.powerLimit pkg on) s = .next (s.updPkg pkg fun p => { p with limited := on })) ∧
  (∀ (s : State) (pkg : Nat), exec (.thermalShutdown pkg) s = .next (s.updPkg pkg fun p =>
    { p with ready := false, booted := false, down := true })) ∧
  (∀ (s : State) (pkg : Nat) (l : Link),
    exec (.linkFlitReplay pkg l true) s = .next (s.updPkg pkg fun p =>
      { p with errs := bump p.errs (match l with | .boundary => 0 | .podLink => 8 | .sprinkel => 10) }) ∧
    exec (.linkFlitReplay pkg l false) s = .next ((s.updPkg pkg fun p =>
      { p with errs := bump p.errs (match l with | .boundary => 1 | .podLink => 9 | .sprinkel => 10) }).postEvent ⟨pkg, none⟩
        ⟨0, 9, 3, s.clkw, 0, 0, 0⟩)) ∧
  (∀ (s : State) (pkg : Nat), exec (.ethernetFrameReceived pkg true) s = .next (s.updPkg pkg fun p =>
      { p with frames := p.frames + 1 }) ∧
    exec (.ethernetFrameReceived pkg false) s = .next (s.updPkg pkg fun p => { p with errs := bump p.errs 15 }))
end

