-- ==== Sys2Proof/Laws/State.lean ====
section
/-! SUPPORT. What each update of the state leaves: one lemma per field per update. -/
namespace Sys2Proof.Machine

variable (s : State)

/-! ## mapThreads -/

@[simp] theorem State.mapThreads_rows (f : ThreadId → Thread → Thread) :
    (s.mapThreads f).rows = s.rows := rfl
@[simp] theorem State.mapThreads_cols (f : ThreadId → Thread → Thread) :
    (s.mapThreads f).cols = s.cols := rfl
@[simp] theorem State.mapThreads_tick (f : ThreadId → Thread → Thread) :
    (s.mapThreads f).tick = s.tick := rfl
@[simp] theorem State.mapThreads_cycle (f : ThreadId → Thread → Thread) :
    (s.mapThreads f).cycle = s.cycle := rfl
@[simp] theorem State.mapThreads_seq (f : ThreadId → Thread → Thread) :
    (s.mapThreads f).seq = s.seq := rfl
@[simp] theorem State.mapThreads_clkw (f : ThreadId → Thread → Thread) :
    (s.mapThreads f).clkw = s.clkw := rfl
@[simp] theorem State.mapThreads_gathered (f : ThreadId → Thread → Thread) :
    (s.mapThreads f).gathered = s.gathered := rfl
@[simp] theorem State.mapThreads_words (f : ThreadId → Thread → Thread) :
    (s.mapThreads f).words = s.words := rfl
@[simp] theorem State.mapThreads_inputs (f : ThreadId → Thread → Thread) :
    (s.mapThreads f).inputs = s.inputs := rfl
@[simp] theorem State.mapThreads_mem (f : ThreadId → Thread → Thread) :
    (s.mapThreads f).mem = s.mem := rfl
@[simp] theorem State.mapThreads_hostMem (f : ThreadId → Thread → Thread) :
    (s.mapThreads f).hostMem = s.hostMem := rfl
@[simp] theorem State.mapThreads_poison (f : ThreadId → Thread → Thread) :
    (s.mapThreads f).poison = s.poison := rfl
@[simp] theorem State.mapThreads_upsets (f : ThreadId → Thread → Thread) :
    (s.mapThreads f).upsets = s.upsets := rfl
@[simp] theorem State.mapThreads_defects (f : ThreadId → Thread → Thread) :
    (s.mapThreads f).defects = s.defects := rfl
@[simp] theorem State.mapThreads_teams (f : ThreadId → Thread → Thread) :
    (s.mapThreads f).teams = s.teams := rfl
@[simp] theorem State.mapThreads_blocks (f : ThreadId → Thread → Thread) :
    (s.mapThreads f).blocks = s.blocks := rfl
@[simp] theorem State.mapThreads_cores (f : ThreadId → Thread → Thread) :
    (s.mapThreads f).cores = s.cores := rfl
@[simp] theorem State.mapThreads_bars (f : ThreadId → Thread → Thread) :
    (s.mapThreads f).bars = s.bars := rfl
@[simp] theorem State.mapThreads_accs (f : ThreadId → Thread → Thread) :
    (s.mapThreads f).accs = s.accs := rfl
@[simp] theorem State.mapThreads_flights (f : ThreadId → Thread → Thread) :
    (s.mapThreads f).flights = s.flights := rfl
@[simp] theorem State.mapThreads_races (f : ThreadId → Thread → Thread) :
    (s.mapThreads f).races = s.races := rfl
@[simp] theorem State.mapThreads_weirs (f : ThreadId → Thread → Thread) :
    (s.mapThreads f).weirs = s.weirs := rfl
@[simp] theorem State.mapThreads_joins (f : ThreadId → Thread → Thread) :
    (s.mapThreads f).joins = s.joins := rfl
@[simp] theorem State.mapThreads_fills (f : ThreadId → Thread → Thread) :
    (s.mapThreads f).fills = s.fills := rfl
@[simp] theorem State.mapThreads_l2 (f : ThreadId → Thread → Thread) :
    (s.mapThreads f).l2 = s.l2 := rfl
@[simp] theorem State.mapThreads_tlb (f : ThreadId → Thread → Thread) :
    (s.mapThreads f).tlb = s.tlb := rfl
@[simp] theorem State.mapThreads_s2tlb (f : ThreadId → Thread → Thread) :
    (s.mapThreads f).s2tlb = s.s2tlb := rfl
@[simp] theorem State.mapThreads_pages (f : ThreadId → Thread → Thread) :
    (s.mapThreads f).pages = s.pages := rfl
@[simp] theorem State.mapThreads_qsets (f : ThreadId → Thread → Thread) :
    (s.mapThreads f).qsets = s.qsets := rfl
@[simp] theorem State.mapThreads_gates (f : ThreadId → Thread → Thread) :
    (s.mapThreads f).gates = s.gates := rfl
@[simp] theorem State.mapThreads_gateReqs (f : ThreadId → Thread → Thread) :
    (s.mapThreads f).gateReqs = s.gateReqs := rfl
@[simp] theorem State.mapThreads_grants (f : ThreadId → Thread → Thread) :
    (s.mapThreads f).grants = s.grants := rfl
@[simp] theorem State.mapThreads_ctxs (f : ThreadId → Thread → Thread) :
    (s.mapThreads f).ctxs = s.ctxs := rfl
@[simp] theorem State.mapThreads_vfs (f : ThreadId → Thread → Thread) :
    (s.mapThreads f).vfs = s.vfs := rfl
@[simp] theorem State.mapThreads_parts (f : ThreadId → Thread → Thread) :
    (s.mapThreads f).parts = s.parts := rfl
@[simp] theorem State.mapThreads_fns (f : ThreadId → Thread → Thread) :
    (s.mapThreads f).fns = s.fns := rfl
@[simp] theorem State.mapThreads_pkgs (f : ThreadId → Thread → Thread) :
    (s.mapThreads f).pkgs = s.pkgs := rfl

/-! ## updThread -/

@[simp] theorem State.updThread_rows (t : ThreadId) (f : Thread → Thread) :
    (s.updThread t f).rows = s.rows := rfl
@[simp] theorem State.updThread_cols (t : ThreadId) (f : Thread → Thread) :
    (s.updThread t f).cols = s.cols := rfl
@[simp] theorem State.updThread_tick (t : ThreadId) (f : Thread → Thread) :
    (s.updThread t f).tick = s.tick := rfl
@[simp] theorem State.updThread_cycle (t : ThreadId) (f : Thread → Thread) :
    (s.updThread t f).cycle = s.cycle := rfl
@[simp] theorem State.updThread_seq (t : ThreadId) (f : Thread → Thread) :
    (s.updThread t f).seq = s.seq := rfl
@[simp] theorem State.updThread_clkw (t : ThreadId) (f : Thread → Thread) :
    (s.updThread t f).clkw = s.clkw := rfl
@[simp] theorem State.updThread_gathered (t : ThreadId) (f : Thread → Thread) :
    (s.updThread t f).gathered = s.gathered := rfl
@[simp] theorem State.updThread_words (t : ThreadId) (f : Thread → Thread) :
    (s.updThread t f).words = s.words := rfl
@[simp] theorem State.updThread_inputs (t : ThreadId) (f : Thread → Thread) :
    (s.updThread t f).inputs = s.inputs := rfl
@[simp] theorem State.updThread_mem (t : ThreadId) (f : Thread → Thread) :
    (s.updThread t f).mem = s.mem := rfl
@[simp] theorem State.updThread_hostMem (t : ThreadId) (f : Thread → Thread) :
    (s.updThread t f).hostMem = s.hostMem := rfl
@[simp] theorem State.updThread_poison (t : ThreadId) (f : Thread → Thread) :
    (s.updThread t f).poison = s.poison := rfl
@[simp] theorem State.updThread_upsets (t : ThreadId) (f : Thread → Thread) :
    (s.updThread t f).upsets = s.upsets := rfl
@[simp] theorem State.updThread_defects (t : ThreadId) (f : Thread → Thread) :
    (s.updThread t f).defects = s.defects := rfl
@[simp] theorem State.updThread_teams (t : ThreadId) (f : Thread → Thread) :
    (s.updThread t f).teams = s.teams := rfl
@[simp] theorem State.updThread_blocks (t : ThreadId) (f : Thread → Thread) :
    (s.updThread t f).blocks = s.blocks := rfl
@[simp] theorem State.updThread_cores (t : ThreadId) (f : Thread → Thread) :
    (s.updThread t f).cores = s.cores := rfl
@[simp] theorem State.updThread_bars (t : ThreadId) (f : Thread → Thread) :
    (s.updThread t f).bars = s.bars := rfl
@[simp] theorem State.updThread_accs (t : ThreadId) (f : Thread → Thread) :
    (s.updThread t f).accs = s.accs := rfl
@[simp] theorem State.updThread_flights (t : ThreadId) (f : Thread → Thread) :
    (s.updThread t f).flights = s.flights := rfl
@[simp] theorem State.updThread_races (t : ThreadId) (f : Thread → Thread) :
    (s.updThread t f).races = s.races := rfl
@[simp] theorem State.updThread_weirs (t : ThreadId) (f : Thread → Thread) :
    (s.updThread t f).weirs = s.weirs := rfl
@[simp] theorem State.updThread_joins (t : ThreadId) (f : Thread → Thread) :
    (s.updThread t f).joins = s.joins := rfl
@[simp] theorem State.updThread_fills (t : ThreadId) (f : Thread → Thread) :
    (s.updThread t f).fills = s.fills := rfl
@[simp] theorem State.updThread_l2 (t : ThreadId) (f : Thread → Thread) :
    (s.updThread t f).l2 = s.l2 := rfl
@[simp] theorem State.updThread_tlb (t : ThreadId) (f : Thread → Thread) :
    (s.updThread t f).tlb = s.tlb := rfl
@[simp] theorem State.updThread_s2tlb (t : ThreadId) (f : Thread → Thread) :
    (s.updThread t f).s2tlb = s.s2tlb := rfl
@[simp] theorem State.updThread_pages (t : ThreadId) (f : Thread → Thread) :
    (s.updThread t f).pages = s.pages := rfl
@[simp] theorem State.updThread_qsets (t : ThreadId) (f : Thread → Thread) :
    (s.updThread t f).qsets = s.qsets := rfl
@[simp] theorem State.updThread_gates (t : ThreadId) (f : Thread → Thread) :
    (s.updThread t f).gates = s.gates := rfl
@[simp] theorem State.updThread_gateReqs (t : ThreadId) (f : Thread → Thread) :
    (s.updThread t f).gateReqs = s.gateReqs := rfl
@[simp] theorem State.updThread_grants (t : ThreadId) (f : Thread → Thread) :
    (s.updThread t f).grants = s.grants := rfl
@[simp] theorem State.updThread_ctxs (t : ThreadId) (f : Thread → Thread) :
    (s.updThread t f).ctxs = s.ctxs := rfl
@[simp] theorem State.updThread_vfs (t : ThreadId) (f : Thread → Thread) :
    (s.updThread t f).vfs = s.vfs := rfl
@[simp] theorem State.updThread_parts (t : ThreadId) (f : Thread → Thread) :
    (s.updThread t f).parts = s.parts := rfl
@[simp] theorem State.updThread_fns (t : ThreadId) (f : Thread → Thread) :
    (s.updThread t f).fns = s.fns := rfl
@[simp] theorem State.updThread_pkgs (t : ThreadId) (f : Thread → Thread) :
    (s.updThread t f).pkgs = s.pkgs := rfl

/-! ## updThreads -/

@[simp] theorem State.updThreads_rows (ts : List ThreadId) (f : Thread → Thread) :
    (s.updThreads ts f).rows = s.rows := rfl
@[simp] theorem State.updThreads_cols (ts : List ThreadId) (f : Thread → Thread) :
    (s.updThreads ts f).cols = s.cols := rfl
@[simp] theorem State.updThreads_tick (ts : List ThreadId) (f : Thread → Thread) :
    (s.updThreads ts f).tick = s.tick := rfl
@[simp] theorem State.updThreads_cycle (ts : List ThreadId) (f : Thread → Thread) :
    (s.updThreads ts f).cycle = s.cycle := rfl
@[simp] theorem State.updThreads_seq (ts : List ThreadId) (f : Thread → Thread) :
    (s.updThreads ts f).seq = s.seq := rfl
@[simp] theorem State.updThreads_clkw (ts : List ThreadId) (f : Thread → Thread) :
    (s.updThreads ts f).clkw = s.clkw := rfl
@[simp] theorem State.updThreads_gathered (ts : List ThreadId) (f : Thread → Thread) :
    (s.updThreads ts f).gathered = s.gathered := rfl
@[simp] theorem State.updThreads_words (ts : List ThreadId) (f : Thread → Thread) :
    (s.updThreads ts f).words = s.words := rfl
@[simp] theorem State.updThreads_inputs (ts : List ThreadId) (f : Thread → Thread) :
    (s.updThreads ts f).inputs = s.inputs := rfl
@[simp] theorem State.updThreads_mem (ts : List ThreadId) (f : Thread → Thread) :
    (s.updThreads ts f).mem = s.mem := rfl
@[simp] theorem State.updThreads_hostMem (ts : List ThreadId) (f : Thread → Thread) :
    (s.updThreads ts f).hostMem = s.hostMem := rfl
@[simp] theorem State.updThreads_poison (ts : List ThreadId) (f : Thread → Thread) :
    (s.updThreads ts f).poison = s.poison := rfl
@[simp] theorem State.updThreads_upsets (ts : List ThreadId) (f : Thread → Thread) :
    (s.updThreads ts f).upsets = s.upsets := rfl
@[simp] theorem State.updThreads_defects (ts : List ThreadId) (f : Thread → Thread) :
    (s.updThreads ts f).defects = s.defects := rfl
@[simp] theorem State.updThreads_teams (ts : List ThreadId) (f : Thread → Thread) :
    (s.updThreads ts f).teams = s.teams := rfl
@[simp] theorem State.updThreads_blocks (ts : List ThreadId) (f : Thread → Thread) :
    (s.updThreads ts f).blocks = s.blocks := rfl
@[simp] theorem State.updThreads_cores (ts : List ThreadId) (f : Thread → Thread) :
    (s.updThreads ts f).cores = s.cores := rfl
@[simp] theorem State.updThreads_bars (ts : List ThreadId) (f : Thread → Thread) :
    (s.updThreads ts f).bars = s.bars := rfl
@[simp] theorem State.updThreads_accs (ts : List ThreadId) (f : Thread → Thread) :
    (s.updThreads ts f).accs = s.accs := rfl
@[simp] theorem State.updThreads_flights (ts : List ThreadId) (f : Thread → Thread) :
    (s.updThreads ts f).flights = s.flights := rfl
@[simp] theorem State.updThreads_races (ts : List ThreadId) (f : Thread → Thread) :
    (s.updThreads ts f).races = s.races := rfl
@[simp] theorem State.updThreads_weirs (ts : List ThreadId) (f : Thread → Thread) :
    (s.updThreads ts f).weirs = s.weirs := rfl
@[simp] theorem State.updThreads_joins (ts : List ThreadId) (f : Thread → Thread) :
    (s.updThreads ts f).joins = s.joins := rfl
@[simp] theorem State.updThreads_fills (ts : List ThreadId) (f : Thread → Thread) :
    (s.updThreads ts f).fills = s.fills := rfl
@[simp] theorem State.updThreads_l2 (ts : List ThreadId) (f : Thread → Thread) :
    (s.updThreads ts f).l2 = s.l2 := rfl
@[simp] theorem State.updThreads_tlb (ts : List ThreadId) (f : Thread → Thread) :
    (s.updThreads ts f).tlb = s.tlb := rfl
@[simp] theorem State.updThreads_s2tlb (ts : List ThreadId) (f : Thread → Thread) :
    (s.updThreads ts f).s2tlb = s.s2tlb := rfl
@[simp] theorem State.updThreads_pages (ts : List ThreadId) (f : Thread → Thread) :
    (s.updThreads ts f).pages = s.pages := rfl
@[simp] theorem State.updThreads_qsets (ts : List ThreadId) (f : Thread → Thread) :
    (s.updThreads ts f).qsets = s.qsets := rfl
@[simp] theorem State.updThreads_gates (ts : List ThreadId) (f : Thread → Thread) :
    (s.updThreads ts f).gates = s.gates := rfl
@[simp] theorem State.updThreads_gateReqs (ts : List ThreadId) (f : Thread → Thread) :
    (s.updThreads ts f).gateReqs = s.gateReqs := rfl
@[simp] theorem State.updThreads_grants (ts : List ThreadId) (f : Thread → Thread) :
    (s.updThreads ts f).grants = s.grants := rfl
@[simp] theorem State.updThreads_ctxs (ts : List ThreadId) (f : Thread → Thread) :
    (s.updThreads ts f).ctxs = s.ctxs := rfl
@[simp] theorem State.updThreads_vfs (ts : List ThreadId) (f : Thread → Thread) :
    (s.updThreads ts f).vfs = s.vfs := rfl
@[simp] theorem State.updThreads_parts (ts : List ThreadId) (f : Thread → Thread) :
    (s.updThreads ts f).parts = s.parts := rfl
@[simp] theorem State.updThreads_fns (ts : List ThreadId) (f : Thread → Thread) :
    (s.updThreads ts f).fns = s.fns := rfl
@[simp] theorem State.updThreads_pkgs (ts : List ThreadId) (f : Thread → Thread) :
    (s.updThreads ts f).pkgs = s.pkgs := rfl

/-! ## stepAll -/

@[simp] theorem State.stepAll_rows (ts : List ThreadId) (k : Nat) :
    (s.stepAll ts k).rows = s.rows := rfl
@[simp] theorem State.stepAll_cols (ts : List ThreadId) (k : Nat) :
    (s.stepAll ts k).cols = s.cols := rfl
@[simp] theorem State.stepAll_tick (ts : List ThreadId) (k : Nat) :
    (s.stepAll ts k).tick = s.tick := rfl
@[simp] theorem State.stepAll_cycle (ts : List ThreadId) (k : Nat) :
    (s.stepAll ts k).cycle = s.cycle := rfl
@[simp] theorem State.stepAll_seq (ts : List ThreadId) (k : Nat) :
    (s.stepAll ts k).seq = s.seq := rfl
@[simp] theorem State.stepAll_clkw (ts : List ThreadId) (k : Nat) :
    (s.stepAll ts k).clkw = s.clkw := rfl
@[simp] theorem State.stepAll_gathered (ts : List ThreadId) (k : Nat) :
    (s.stepAll ts k).gathered = s.gathered := rfl
@[simp] theorem State.stepAll_words (ts : List ThreadId) (k : Nat) :
    (s.stepAll ts k).words = s.words := rfl
@[simp] theorem State.stepAll_inputs (ts : List ThreadId) (k : Nat) :
    (s.stepAll ts k).inputs = s.inputs := rfl
@[simp] theorem State.stepAll_mem (ts : List ThreadId) (k : Nat) :
    (s.stepAll ts k).mem = s.mem := rfl
@[simp] theorem State.stepAll_hostMem (ts : List ThreadId) (k : Nat) :
    (s.stepAll ts k).hostMem = s.hostMem := rfl
@[simp] theorem State.stepAll_poison (ts : List ThreadId) (k : Nat) :
    (s.stepAll ts k).poison = s.poison := rfl
@[simp] theorem State.stepAll_upsets (ts : List ThreadId) (k : Nat) :
    (s.stepAll ts k).upsets = s.upsets := rfl
@[simp] theorem State.stepAll_defects (ts : List ThreadId) (k : Nat) :
    (s.stepAll ts k).defects = s.defects := rfl
@[simp] theorem State.stepAll_teams (ts : List ThreadId) (k : Nat) :
    (s.stepAll ts k).teams = s.teams := rfl
@[simp] theorem State.stepAll_blocks (ts : List ThreadId) (k : Nat) :
    (s.stepAll ts k).blocks = s.blocks := rfl
@[simp] theorem State.stepAll_cores (ts : List ThreadId) (k : Nat) :
    (s.stepAll ts k).cores = s.cores := rfl
@[simp] theorem State.stepAll_bars (ts : List ThreadId) (k : Nat) :
    (s.stepAll ts k).bars = s.bars := rfl
@[simp] theorem State.stepAll_accs (ts : List ThreadId) (k : Nat) :
    (s.stepAll ts k).accs = s.accs := rfl
@[simp] theorem State.stepAll_flights (ts : List ThreadId) (k : Nat) :
    (s.stepAll ts k).flights = s.flights := rfl
@[simp] theorem State.stepAll_races (ts : List ThreadId) (k : Nat) :
    (s.stepAll ts k).races = s.races := rfl
@[simp] theorem State.stepAll_weirs (ts : List ThreadId) (k : Nat) :
    (s.stepAll ts k).weirs = s.weirs := rfl
@[simp] theorem State.stepAll_joins (ts : List ThreadId) (k : Nat) :
    (s.stepAll ts k).joins = s.joins := rfl
@[simp] theorem State.stepAll_fills (ts : List ThreadId) (k : Nat) :
    (s.stepAll ts k).fills = s.fills := rfl
@[simp] theorem State.stepAll_l2 (ts : List ThreadId) (k : Nat) :
    (s.stepAll ts k).l2 = s.l2 := rfl
@[simp] theorem State.stepAll_tlb (ts : List ThreadId) (k : Nat) :
    (s.stepAll ts k).tlb = s.tlb := rfl
@[simp] theorem State.stepAll_s2tlb (ts : List ThreadId) (k : Nat) :
    (s.stepAll ts k).s2tlb = s.s2tlb := rfl
@[simp] theorem State.stepAll_pages (ts : List ThreadId) (k : Nat) :
    (s.stepAll ts k).pages = s.pages := rfl
@[simp] theorem State.stepAll_qsets (ts : List ThreadId) (k : Nat) :
    (s.stepAll ts k).qsets = s.qsets := rfl
@[simp] theorem State.stepAll_gates (ts : List ThreadId) (k : Nat) :
    (s.stepAll ts k).gates = s.gates := rfl
@[simp] theorem State.stepAll_gateReqs (ts : List ThreadId) (k : Nat) :
    (s.stepAll ts k).gateReqs = s.gateReqs := rfl
@[simp] theorem State.stepAll_grants (ts : List ThreadId) (k : Nat) :
    (s.stepAll ts k).grants = s.grants := rfl
@[simp] theorem State.stepAll_ctxs (ts : List ThreadId) (k : Nat) :
    (s.stepAll ts k).ctxs = s.ctxs := rfl
@[simp] theorem State.stepAll_vfs (ts : List ThreadId) (k : Nat) :
    (s.stepAll ts k).vfs = s.vfs := rfl
@[simp] theorem State.stepAll_parts (ts : List ThreadId) (k : Nat) :
    (s.stepAll ts k).parts = s.parts := rfl
@[simp] theorem State.stepAll_fns (ts : List ThreadId) (k : Nat) :
    (s.stepAll ts k).fns = s.fns := rfl
@[simp] theorem State.stepAll_pkgs (ts : List ThreadId) (k : Nat) :
    (s.stepAll ts k).pkgs = s.pkgs := rfl

/-! ## updTeam -/

@[simp] theorem State.updTeam_rows (t : TeamId) (f : Team → Team) :
    (s.updTeam t f).rows = s.rows := rfl
@[simp] theorem State.updTeam_cols (t : TeamId) (f : Team → Team) :
    (s.updTeam t f).cols = s.cols := rfl
@[simp] theorem State.updTeam_tick (t : TeamId) (f : Team → Team) :
    (s.updTeam t f).tick = s.tick := rfl
@[simp] theorem State.updTeam_cycle (t : TeamId) (f : Team → Team) :
    (s.updTeam t f).cycle = s.cycle := rfl
@[simp] theorem State.updTeam_seq (t : TeamId) (f : Team → Team) :
    (s.updTeam t f).seq = s.seq := rfl
@[simp] theorem State.updTeam_clkw (t : TeamId) (f : Team → Team) :
    (s.updTeam t f).clkw = s.clkw := rfl
@[simp] theorem State.updTeam_gathered (t : TeamId) (f : Team → Team) :
    (s.updTeam t f).gathered = s.gathered := rfl
@[simp] theorem State.updTeam_words (t : TeamId) (f : Team → Team) :
    (s.updTeam t f).words = s.words := rfl
@[simp] theorem State.updTeam_inputs (t : TeamId) (f : Team → Team) :
    (s.updTeam t f).inputs = s.inputs := rfl
@[simp] theorem State.updTeam_mem (t : TeamId) (f : Team → Team) :
    (s.updTeam t f).mem = s.mem := rfl
@[simp] theorem State.updTeam_hostMem (t : TeamId) (f : Team → Team) :
    (s.updTeam t f).hostMem = s.hostMem := rfl
@[simp] theorem State.updTeam_poison (t : TeamId) (f : Team → Team) :
    (s.updTeam t f).poison = s.poison := rfl
@[simp] theorem State.updTeam_upsets (t : TeamId) (f : Team → Team) :
    (s.updTeam t f).upsets = s.upsets := rfl
@[simp] theorem State.updTeam_defects (t : TeamId) (f : Team → Team) :
    (s.updTeam t f).defects = s.defects := rfl
@[simp] theorem State.updTeam_threads (t : TeamId) (f : Team → Team) :
    (s.updTeam t f).threads = s.threads := rfl
@[simp] theorem State.updTeam_blocks (t : TeamId) (f : Team → Team) :
    (s.updTeam t f).blocks = s.blocks := rfl
@[simp] theorem State.updTeam_cores (t : TeamId) (f : Team → Team) :
    (s.updTeam t f).cores = s.cores := rfl
@[simp] theorem State.updTeam_bars (t : TeamId) (f : Team → Team) :
    (s.updTeam t f).bars = s.bars := rfl
@[simp] theorem State.updTeam_accs (t : TeamId) (f : Team → Team) :
    (s.updTeam t f).accs = s.accs := rfl
@[simp] theorem State.updTeam_flights (t : TeamId) (f : Team → Team) :
    (s.updTeam t f).flights = s.flights := rfl
@[simp] theorem State.updTeam_races (t : TeamId) (f : Team → Team) :
    (s.updTeam t f).races = s.races := rfl
@[simp] theorem State.updTeam_weirs (t : TeamId) (f : Team → Team) :
    (s.updTeam t f).weirs = s.weirs := rfl
@[simp] theorem State.updTeam_joins (t : TeamId) (f : Team → Team) :
    (s.updTeam t f).joins = s.joins := rfl
@[simp] theorem State.updTeam_fills (t : TeamId) (f : Team → Team) :
    (s.updTeam t f).fills = s.fills := rfl
@[simp] theorem State.updTeam_l2 (t : TeamId) (f : Team → Team) :
    (s.updTeam t f).l2 = s.l2 := rfl
@[simp] theorem State.updTeam_tlb (t : TeamId) (f : Team → Team) :
    (s.updTeam t f).tlb = s.tlb := rfl
@[simp] theorem State.updTeam_s2tlb (t : TeamId) (f : Team → Team) :
    (s.updTeam t f).s2tlb = s.s2tlb := rfl
@[simp] theorem State.updTeam_pages (t : TeamId) (f : Team → Team) :
    (s.updTeam t f).pages = s.pages := rfl
@[simp] theorem State.updTeam_qsets (t : TeamId) (f : Team → Team) :
    (s.updTeam t f).qsets = s.qsets := rfl
@[simp] theorem State.updTeam_gates (t : TeamId) (f : Team → Team) :
    (s.updTeam t f).gates = s.gates := rfl
@[simp] theorem State.updTeam_gateReqs (t : TeamId) (f : Team → Team) :
    (s.updTeam t f).gateReqs = s.gateReqs := rfl
@[simp] theorem State.updTeam_grants (t : TeamId) (f : Team → Team) :
    (s.updTeam t f).grants = s.grants := rfl
@[simp] theorem State.updTeam_ctxs (t : TeamId) (f : Team → Team) :
    (s.updTeam t f).ctxs = s.ctxs := rfl
@[simp] theorem State.updTeam_vfs (t : TeamId) (f : Team → Team) :
    (s.updTeam t f).vfs = s.vfs := rfl
@[simp] theorem State.updTeam_parts (t : TeamId) (f : Team → Team) :
    (s.updTeam t f).parts = s.parts := rfl
@[simp] theorem State.updTeam_fns (t : TeamId) (f : Team → Team) :
    (s.updTeam t f).fns = s.fns := rfl
@[simp] theorem State.updTeam_pkgs (t : TeamId) (f : Team → Team) :
    (s.updTeam t f).pkgs = s.pkgs := rfl

/-! ## updBlock -/

@[simp] theorem State.updBlock_rows (b : BlockId) (f : Block → Block) :
    (s.updBlock b f).rows = s.rows := rfl
@[simp] theorem State.updBlock_cols (b : BlockId) (f : Block → Block) :
    (s.updBlock b f).cols = s.cols := rfl
@[simp] theorem State.updBlock_tick (b : BlockId) (f : Block → Block) :
    (s.updBlock b f).tick = s.tick := rfl
@[simp] theorem State.updBlock_cycle (b : BlockId) (f : Block → Block) :
    (s.updBlock b f).cycle = s.cycle := rfl
@[simp] theorem State.updBlock_seq (b : BlockId) (f : Block → Block) :
    (s.updBlock b f).seq = s.seq := rfl
@[simp] theorem State.updBlock_clkw (b : BlockId) (f : Block → Block) :
    (s.updBlock b f).clkw = s.clkw := rfl
@[simp] theorem State.updBlock_gathered (b : BlockId) (f : Block → Block) :
    (s.updBlock b f).gathered = s.gathered := rfl
@[simp] theorem State.updBlock_words (b : BlockId) (f : Block → Block) :
    (s.updBlock b f).words = s.words := rfl
@[simp] theorem State.updBlock_inputs (b : BlockId) (f : Block → Block) :
    (s.updBlock b f).inputs = s.inputs := rfl
@[simp] theorem State.updBlock_mem (b : BlockId) (f : Block → Block) :
    (s.updBlock b f).mem = s.mem := rfl
@[simp] theorem State.updBlock_hostMem (b : BlockId) (f : Block → Block) :
    (s.updBlock b f).hostMem = s.hostMem := rfl
@[simp] theorem State.updBlock_poison (b : BlockId) (f : Block → Block) :
    (s.updBlock b f).poison = s.poison := rfl
@[simp] theorem State.updBlock_upsets (b : BlockId) (f : Block → Block) :
    (s.updBlock b f).upsets = s.upsets := rfl
@[simp] theorem State.updBlock_defects (b : BlockId) (f : Block → Block) :
    (s.updBlock b f).defects = s.defects := rfl
@[simp] theorem State.updBlock_threads (b : BlockId) (f : Block → Block) :
    (s.updBlock b f).threads = s.threads := rfl
@[simp] theorem State.updBlock_teams (b : BlockId) (f : Block → Block) :
    (s.updBlock b f).teams = s.teams := rfl
@[simp] theorem State.updBlock_cores (b : BlockId) (f : Block → Block) :
    (s.updBlock b f).cores = s.cores := rfl
@[simp] theorem State.updBlock_bars (b : BlockId) (f : Block → Block) :
    (s.updBlock b f).bars = s.bars := rfl
@[simp] theorem State.updBlock_accs (b : BlockId) (f : Block → Block) :
    (s.updBlock b f).accs = s.accs := rfl
@[simp] theorem State.updBlock_flights (b : BlockId) (f : Block → Block) :
    (s.updBlock b f).flights = s.flights := rfl
@[simp] theorem State.updBlock_races (b : BlockId) (f : Block → Block) :
    (s.updBlock b f).races = s.races := rfl
@[simp] theorem State.updBlock_weirs (b : BlockId) (f : Block → Block) :
    (s.updBlock b f).weirs = s.weirs := rfl
@[simp] theorem State.updBlock_joins (b : BlockId) (f : Block → Block) :
    (s.updBlock b f).joins = s.joins := rfl
@[simp] theorem State.updBlock_fills (b : BlockId) (f : Block → Block) :
    (s.updBlock b f).fills = s.fills := rfl
@[simp] theorem State.updBlock_l2 (b : BlockId) (f : Block → Block) :
    (s.updBlock b f).l2 = s.l2 := rfl
@[simp] theorem State.updBlock_tlb (b : BlockId) (f : Block → Block) :
    (s.updBlock b f).tlb = s.tlb := rfl
@[simp] theorem State.updBlock_s2tlb (b : BlockId) (f : Block → Block) :
    (s.updBlock b f).s2tlb = s.s2tlb := rfl
@[simp] theorem State.updBlock_pages (b : BlockId) (f : Block → Block) :
    (s.updBlock b f).pages = s.pages := rfl
@[simp] theorem State.updBlock_qsets (b : BlockId) (f : Block → Block) :
    (s.updBlock b f).qsets = s.qsets := rfl
@[simp] theorem State.updBlock_gates (b : BlockId) (f : Block → Block) :
    (s.updBlock b f).gates = s.gates := rfl
@[simp] theorem State.updBlock_gateReqs (b : BlockId) (f : Block → Block) :
    (s.updBlock b f).gateReqs = s.gateReqs := rfl
@[simp] theorem State.updBlock_grants (b : BlockId) (f : Block → Block) :
    (s.updBlock b f).grants = s.grants := rfl
@[simp] theorem State.updBlock_ctxs (b : BlockId) (f : Block → Block) :
    (s.updBlock b f).ctxs = s.ctxs := rfl
@[simp] theorem State.updBlock_vfs (b : BlockId) (f : Block → Block) :
    (s.updBlock b f).vfs = s.vfs := rfl
@[simp] theorem State.updBlock_parts (b : BlockId) (f : Block → Block) :
    (s.updBlock b f).parts = s.parts := rfl
@[simp] theorem State.updBlock_fns (b : BlockId) (f : Block → Block) :
    (s.updBlock b f).fns = s.fns := rfl
@[simp] theorem State.updBlock_pkgs (b : BlockId) (f : Block → Block) :
    (s.updBlock b f).pkgs = s.pkgs := rfl

/-! ## updCore -/

@[simp] theorem State.updCore_rows (c : CoreId) (f : Core → Core) :
    (s.updCore c f).rows = s.rows := rfl
@[simp] theorem State.updCore_cols (c : CoreId) (f : Core → Core) :
    (s.updCore c f).cols = s.cols := rfl
@[simp] theorem State.updCore_tick (c : CoreId) (f : Core → Core) :
    (s.updCore c f).tick = s.tick := rfl
@[simp] theorem State.updCore_cycle (c : CoreId) (f : Core → Core) :
    (s.updCore c f).cycle = s.cycle := rfl
@[simp] theorem State.updCore_seq (c : CoreId) (f : Core → Core) :
    (s.updCore c f).seq = s.seq := rfl
@[simp] theorem State.updCore_clkw (c : CoreId) (f : Core → Core) :
    (s.updCore c f).clkw = s.clkw := rfl
@[simp] theorem State.updCore_gathered (c : CoreId) (f : Core → Core) :
    (s.updCore c f).gathered = s.gathered := rfl
@[simp] theorem State.updCore_words (c : CoreId) (f : Core → Core) :
    (s.updCore c f).words = s.words := rfl
@[simp] theorem State.updCore_inputs (c : CoreId) (f : Core → Core) :
    (s.updCore c f).inputs = s.inputs := rfl
@[simp] theorem State.updCore_mem (c : CoreId) (f : Core → Core) :
    (s.updCore c f).mem = s.mem := rfl
@[simp] theorem State.updCore_hostMem (c : CoreId) (f : Core → Core) :
    (s.updCore c f).hostMem = s.hostMem := rfl
@[simp] theorem State.updCore_poison (c : CoreId) (f : Core → Core) :
    (s.updCore c f).poison = s.poison := rfl
@[simp] theorem State.updCore_upsets (c : CoreId) (f : Core → Core) :
    (s.updCore c f).upsets = s.upsets := rfl
@[simp] theorem State.updCore_defects (c : CoreId) (f : Core → Core) :
    (s.updCore c f).defects = s.defects := rfl
@[simp] theorem State.updCore_threads (c : CoreId) (f : Core → Core) :
    (s.updCore c f).threads = s.threads := rfl
@[simp] theorem State.updCore_teams (c : CoreId) (f : Core → Core) :
    (s.updCore c f).teams = s.teams := rfl
@[simp] theorem State.updCore_blocks (c : CoreId) (f : Core → Core) :
    (s.updCore c f).blocks = s.blocks := rfl
@[simp] theorem State.updCore_bars (c : CoreId) (f : Core → Core) :
    (s.updCore c f).bars = s.bars := rfl
@[simp] theorem State.updCore_accs (c : CoreId) (f : Core → Core) :
    (s.updCore c f).accs = s.accs := rfl
@[simp] theorem State.updCore_flights (c : CoreId) (f : Core → Core) :
    (s.updCore c f).flights = s.flights := rfl
@[simp] theorem State.updCore_races (c : CoreId) (f : Core → Core) :
    (s.updCore c f).races = s.races := rfl
@[simp] theorem State.updCore_weirs (c : CoreId) (f : Core → Core) :
    (s.updCore c f).weirs = s.weirs := rfl
@[simp] theorem State.updCore_joins (c : CoreId) (f : Core → Core) :
    (s.updCore c f).joins = s.joins := rfl
@[simp] theorem State.updCore_fills (c : CoreId) (f : Core → Core) :
    (s.updCore c f).fills = s.fills := rfl
@[simp] theorem State.updCore_l2 (c : CoreId) (f : Core → Core) :
    (s.updCore c f).l2 = s.l2 := rfl
@[simp] theorem State.updCore_tlb (c : CoreId) (f : Core → Core) :
    (s.updCore c f).tlb = s.tlb := rfl
@[simp] theorem State.updCore_s2tlb (c : CoreId) (f : Core → Core) :
    (s.updCore c f).s2tlb = s.s2tlb := rfl
@[simp] theorem State.updCore_pages (c : CoreId) (f : Core → Core) :
    (s.updCore c f).pages = s.pages := rfl
@[simp] theorem State.updCore_qsets (c : CoreId) (f : Core → Core) :
    (s.updCore c f).qsets = s.qsets := rfl
@[simp] theorem State.updCore_gates (c : CoreId) (f : Core → Core) :
    (s.updCore c f).gates = s.gates := rfl
@[simp] theorem State.updCore_gateReqs (c : CoreId) (f : Core → Core) :
    (s.updCore c f).gateReqs = s.gateReqs := rfl
@[simp] theorem State.updCore_grants (c : CoreId) (f : Core → Core) :
    (s.updCore c f).grants = s.grants := rfl
@[simp] theorem State.updCore_ctxs (c : CoreId) (f : Core → Core) :
    (s.updCore c f).ctxs = s.ctxs := rfl
@[simp] theorem State.updCore_vfs (c : CoreId) (f : Core → Core) :
    (s.updCore c f).vfs = s.vfs := rfl
@[simp] theorem State.updCore_parts (c : CoreId) (f : Core → Core) :
    (s.updCore c f).parts = s.parts := rfl
@[simp] theorem State.updCore_fns (c : CoreId) (f : Core → Core) :
    (s.updCore c f).fns = s.fns := rfl
@[simp] theorem State.updCore_pkgs (c : CoreId) (f : Core → Core) :
    (s.updCore c f).pkgs = s.pkgs := rfl

/-! ## updCtx -/

@[simp] theorem State.updCtx_rows (c : CtxId) (f : Ctx → Ctx) :
    (s.updCtx c f).rows = s.rows := rfl
@[simp] theorem State.updCtx_cols (c : CtxId) (f : Ctx → Ctx) :
    (s.updCtx c f).cols = s.cols := rfl
@[simp] theorem State.updCtx_tick (c : CtxId) (f : Ctx → Ctx) :
    (s.updCtx c f).tick = s.tick := rfl
@[simp] theorem State.updCtx_cycle (c : CtxId) (f : Ctx → Ctx) :
    (s.updCtx c f).cycle = s.cycle := rfl
@[simp] theorem State.updCtx_seq (c : CtxId) (f : Ctx → Ctx) :
    (s.updCtx c f).seq = s.seq := rfl
@[simp] theorem State.updCtx_clkw (c : CtxId) (f : Ctx → Ctx) :
    (s.updCtx c f).clkw = s.clkw := rfl
@[simp] theorem State.updCtx_gathered (c : CtxId) (f : Ctx → Ctx) :
    (s.updCtx c f).gathered = s.gathered := rfl
@[simp] theorem State.updCtx_words (c : CtxId) (f : Ctx → Ctx) :
    (s.updCtx c f).words = s.words := rfl
@[simp] theorem State.updCtx_inputs (c : CtxId) (f : Ctx → Ctx) :
    (s.updCtx c f).inputs = s.inputs := rfl
@[simp] theorem State.updCtx_mem (c : CtxId) (f : Ctx → Ctx) :
    (s.updCtx c f).mem = s.mem := rfl
@[simp] theorem State.updCtx_hostMem (c : CtxId) (f : Ctx → Ctx) :
    (s.updCtx c f).hostMem = s.hostMem := rfl
@[simp] theorem State.updCtx_poison (c : CtxId) (f : Ctx → Ctx) :
    (s.updCtx c f).poison = s.poison := rfl
@[simp] theorem State.updCtx_upsets (c : CtxId) (f : Ctx → Ctx) :
    (s.updCtx c f).upsets = s.upsets := rfl
@[simp] theorem State.updCtx_defects (c : CtxId) (f : Ctx → Ctx) :
    (s.updCtx c f).defects = s.defects := rfl
@[simp] theorem State.updCtx_threads (c : CtxId) (f : Ctx → Ctx) :
    (s.updCtx c f).threads = s.threads := rfl
@[simp] theorem State.updCtx_teams (c : CtxId) (f : Ctx → Ctx) :
    (s.updCtx c f).teams = s.teams := rfl
@[simp] theorem State.updCtx_blocks (c : CtxId) (f : Ctx → Ctx) :
    (s.updCtx c f).blocks = s.blocks := rfl
@[simp] theorem State.updCtx_cores (c : CtxId) (f : Ctx → Ctx) :
    (s.updCtx c f).cores = s.cores := rfl
@[simp] theorem State.updCtx_bars (c : CtxId) (f : Ctx → Ctx) :
    (s.updCtx c f).bars = s.bars := rfl
@[simp] theorem State.updCtx_accs (c : CtxId) (f : Ctx → Ctx) :
    (s.updCtx c f).accs = s.accs := rfl
@[simp] theorem State.updCtx_flights (c : CtxId) (f : Ctx → Ctx) :
    (s.updCtx c f).flights = s.flights := rfl
@[simp] theorem State.updCtx_races (c : CtxId) (f : Ctx → Ctx) :
    (s.updCtx c f).races = s.races := rfl
@[simp] theorem State.updCtx_weirs (c : CtxId) (f : Ctx → Ctx) :
    (s.updCtx c f).weirs = s.weirs := rfl
@[simp] theorem State.updCtx_joins (c : CtxId) (f : Ctx → Ctx) :
    (s.updCtx c f).joins = s.joins := rfl
@[simp] theorem State.updCtx_fills (c : CtxId) (f : Ctx → Ctx) :
    (s.updCtx c f).fills = s.fills := rfl
@[simp] theorem State.updCtx_l2 (c : CtxId) (f : Ctx → Ctx) :
    (s.updCtx c f).l2 = s.l2 := rfl
@[simp] theorem State.updCtx_tlb (c : CtxId) (f : Ctx → Ctx) :
    (s.updCtx c f).tlb = s.tlb := rfl
@[simp] theorem State.updCtx_s2tlb (c : CtxId) (f : Ctx → Ctx) :
    (s.updCtx c f).s2tlb = s.s2tlb := rfl
@[simp] theorem State.updCtx_pages (c : CtxId) (f : Ctx → Ctx) :
    (s.updCtx c f).pages = s.pages := rfl
@[simp] theorem State.updCtx_qsets (c : CtxId) (f : Ctx → Ctx) :
    (s.updCtx c f).qsets = s.qsets := rfl
@[simp] theorem State.updCtx_gates (c : CtxId) (f : Ctx → Ctx) :
    (s.updCtx c f).gates = s.gates := rfl
@[simp] theorem State.updCtx_gateReqs (c : CtxId) (f : Ctx → Ctx) :
    (s.updCtx c f).gateReqs = s.gateReqs := rfl
@[simp] theorem State.updCtx_grants (c : CtxId) (f : Ctx → Ctx) :
    (s.updCtx c f).grants = s.grants := rfl
@[simp] theorem State.updCtx_vfs (c : CtxId) (f : Ctx → Ctx) :
    (s.updCtx c f).vfs = s.vfs := rfl
@[simp] theorem State.updCtx_parts (c : CtxId) (f : Ctx → Ctx) :
    (s.updCtx c f).parts = s.parts := rfl
@[simp] theorem State.updCtx_fns (c : CtxId) (f : Ctx → Ctx) :
    (s.updCtx c f).fns = s.fns := rfl
@[simp] theorem State.updCtx_pkgs (c : CtxId) (f : Ctx → Ctx) :
    (s.updCtx c f).pkgs = s.pkgs := rfl

/-! ## updVf -/

@[simp] theorem State.updVf_rows (v : VfId) (f : Vf → Vf) :
    (s.updVf v f).rows = s.rows := rfl
@[simp] theorem State.updVf_cols (v : VfId) (f : Vf → Vf) :
    (s.updVf v f).cols = s.cols := rfl
@[simp] theorem State.updVf_tick (v : VfId) (f : Vf → Vf) :
    (s.updVf v f).tick = s.tick := rfl
@[simp] theorem State.updVf_cycle (v : VfId) (f : Vf → Vf) :
    (s.updVf v f).cycle = s.cycle := rfl
@[simp] theorem State.updVf_seq (v : VfId) (f : Vf → Vf) :
    (s.updVf v f).seq = s.seq := rfl
@[simp] theorem State.updVf_clkw (v : VfId) (f : Vf → Vf) :
    (s.updVf v f).clkw = s.clkw := rfl
@[simp] theorem State.updVf_gathered (v : VfId) (f : Vf → Vf) :
    (s.updVf v f).gathered = s.gathered := rfl
@[simp] theorem State.updVf_words (v : VfId) (f : Vf → Vf) :
    (s.updVf v f).words = s.words := rfl
@[simp] theorem State.updVf_inputs (v : VfId) (f : Vf → Vf) :
    (s.updVf v f).inputs = s.inputs := rfl
@[simp] theorem State.updVf_mem (v : VfId) (f : Vf → Vf) :
    (s.updVf v f).mem = s.mem := rfl
@[simp] theorem State.updVf_hostMem (v : VfId) (f : Vf → Vf) :
    (s.updVf v f).hostMem = s.hostMem := rfl
@[simp] theorem State.updVf_poison (v : VfId) (f : Vf → Vf) :
    (s.updVf v f).poison = s.poison := rfl
@[simp] theorem State.updVf_upsets (v : VfId) (f : Vf → Vf) :
    (s.updVf v f).upsets = s.upsets := rfl
@[simp] theorem State.updVf_defects (v : VfId) (f : Vf → Vf) :
    (s.updVf v f).defects = s.defects := rfl
@[simp] theorem State.updVf_threads (v : VfId) (f : Vf → Vf) :
    (s.updVf v f).threads = s.threads := rfl
@[simp] theorem State.updVf_teams (v : VfId) (f : Vf → Vf) :
    (s.updVf v f).teams = s.teams := rfl
@[simp] theorem State.updVf_blocks (v : VfId) (f : Vf → Vf) :
    (s.updVf v f).blocks = s.blocks := rfl
@[simp] theorem State.updVf_cores (v : VfId) (f : Vf → Vf) :
    (s.updVf v f).cores = s.cores := rfl
@[simp] theorem State.updVf_bars (v : VfId) (f : Vf → Vf) :
    (s.updVf v f).bars = s.bars := rfl
@[simp] theorem State.updVf_accs (v : VfId) (f : Vf → Vf) :
    (s.updVf v f).accs = s.accs := rfl
@[simp] theorem State.updVf_flights (v : VfId) (f : Vf → Vf) :
    (s.updVf v f).flights = s.flights := rfl
@[simp] theorem State.updVf_races (v : VfId) (f : Vf → Vf) :
    (s.updVf v f).races = s.races := rfl
@[simp] theorem State.updVf_weirs (v : VfId) (f : Vf → Vf) :
    (s.updVf v f).weirs = s.weirs := rfl
@[simp] theorem State.updVf_joins (v : VfId) (f : Vf → Vf) :
    (s.updVf v f).joins = s.joins := rfl
@[simp] theorem State.updVf_fills (v : VfId) (f : Vf → Vf) :
    (s.updVf v f).fills = s.fills := rfl
@[simp] theorem State.updVf_l2 (v : VfId) (f : Vf → Vf) :
    (s.updVf v f).l2 = s.l2 := rfl
@[simp] theorem State.updVf_tlb (v : VfId) (f : Vf → Vf) :
    (s.updVf v f).tlb = s.tlb := rfl
@[simp] theorem State.updVf_s2tlb (v : VfId) (f : Vf → Vf) :
    (s.updVf v f).s2tlb = s.s2tlb := rfl
@[simp] theorem State.updVf_pages (v : VfId) (f : Vf → Vf) :
    (s.updVf v f).pages = s.pages := rfl
@[simp] theorem State.updVf_qsets (v : VfId) (f : Vf → Vf) :
    (s.updVf v f).qsets = s.qsets := rfl
@[simp] theorem State.updVf_gates (v : VfId) (f : Vf → Vf) :
    (s.updVf v f).gates = s.gates := rfl
@[simp] theorem State.updVf_gateReqs (v : VfId) (f : Vf → Vf) :
    (s.updVf v f).gateReqs = s.gateReqs := rfl
@[simp] theorem State.updVf_grants (v : VfId) (f : Vf → Vf) :
    (s.updVf v f).grants = s.grants := rfl
@[simp] theorem State.updVf_ctxs (v : VfId) (f : Vf → Vf) :
    (s.updVf v f).ctxs = s.ctxs := rfl
@[simp] theorem State.updVf_parts (v : VfId) (f : Vf → Vf) :
    (s.updVf v f).parts = s.parts := rfl
@[simp] theorem State.updVf_fns (v : VfId) (f : Vf → Vf) :
    (s.updVf v f).fns = s.fns := rfl
@[simp] theorem State.updVf_pkgs (v : VfId) (f : Vf → Vf) :
    (s.updVf v f).pkgs = s.pkgs := rfl

/-! ## updPart -/

@[simp] theorem State.updPart_rows (p : Nat) (f : Part → Part) :
    (s.updPart p f).rows = s.rows := rfl
@[simp] theorem State.updPart_cols (p : Nat) (f : Part → Part) :
    (s.updPart p f).cols = s.cols := rfl
@[simp] theorem State.updPart_tick (p : Nat) (f : Part → Part) :
    (s.updPart p f).tick = s.tick := rfl
@[simp] theorem State.updPart_cycle (p : Nat) (f : Part → Part) :
    (s.updPart p f).cycle = s.cycle := rfl
@[simp] theorem State.updPart_seq (p : Nat) (f : Part → Part) :
    (s.updPart p f).seq = s.seq := rfl
@[simp] theorem State.updPart_clkw (p : Nat) (f : Part → Part) :
    (s.updPart p f).clkw = s.clkw := rfl
@[simp] theorem State.updPart_gathered (p : Nat) (f : Part → Part) :
    (s.updPart p f).gathered = s.gathered := rfl
@[simp] theorem State.updPart_words (p : Nat) (f : Part → Part) :
    (s.updPart p f).words = s.words := rfl
@[simp] theorem State.updPart_inputs (p : Nat) (f : Part → Part) :
    (s.updPart p f).inputs = s.inputs := rfl
@[simp] theorem State.updPart_mem (p : Nat) (f : Part → Part) :
    (s.updPart p f).mem = s.mem := rfl
@[simp] theorem State.updPart_hostMem (p : Nat) (f : Part → Part) :
    (s.updPart p f).hostMem = s.hostMem := rfl
@[simp] theorem State.updPart_poison (p : Nat) (f : Part → Part) :
    (s.updPart p f).poison = s.poison := rfl
@[simp] theorem State.updPart_upsets (p : Nat) (f : Part → Part) :
    (s.updPart p f).upsets = s.upsets := rfl
@[simp] theorem State.updPart_defects (p : Nat) (f : Part → Part) :
    (s.updPart p f).defects = s.defects := rfl
@[simp] theorem State.updPart_threads (p : Nat) (f : Part → Part) :
    (s.updPart p f).threads = s.threads := rfl
@[simp] theorem State.updPart_teams (p : Nat) (f : Part → Part) :
    (s.updPart p f).teams = s.teams := rfl
@[simp] theorem State.updPart_blocks (p : Nat) (f : Part → Part) :
    (s.updPart p f).blocks = s.blocks := rfl
@[simp] theorem State.updPart_cores (p : Nat) (f : Part → Part) :
    (s.updPart p f).cores = s.cores := rfl
@[simp] theorem State.updPart_bars (p : Nat) (f : Part → Part) :
    (s.updPart p f).bars = s.bars := rfl
@[simp] theorem State.updPart_accs (p : Nat) (f : Part → Part) :
    (s.updPart p f).accs = s.accs := rfl
@[simp] theorem State.updPart_flights (p : Nat) (f : Part → Part) :
    (s.updPart p f).flights = s.flights := rfl
@[simp] theorem State.updPart_races (p : Nat) (f : Part → Part) :
    (s.updPart p f).races = s.races := rfl
@[simp] theorem State.updPart_weirs (p : Nat) (f : Part → Part) :
    (s.updPart p f).weirs = s.weirs := rfl
@[simp] theorem State.updPart_joins (p : Nat) (f : Part → Part) :
    (s.updPart p f).joins = s.joins := rfl
@[simp] theorem State.updPart_fills (p : Nat) (f : Part → Part) :
    (s.updPart p f).fills = s.fills := rfl
@[simp] theorem State.updPart_l2 (p : Nat) (f : Part → Part) :
    (s.updPart p f).l2 = s.l2 := rfl
@[simp] theorem State.updPart_tlb (p : Nat) (f : Part → Part) :
    (s.updPart p f).tlb = s.tlb := rfl
@[simp] theorem State.updPart_s2tlb (p : Nat) (f : Part → Part) :
    (s.updPart p f).s2tlb = s.s2tlb := rfl
@[simp] theorem State.updPart_pages (p : Nat) (f : Part → Part) :
    (s.updPart p f).pages = s.pages := rfl
@[simp] theorem State.updPart_qsets (p : Nat) (f : Part → Part) :
    (s.updPart p f).qsets = s.qsets := rfl
@[simp] theorem State.updPart_gates (p : Nat) (f : Part → Part) :
    (s.updPart p f).gates = s.gates := rfl
@[simp] theorem State.updPart_gateReqs (p : Nat) (f : Part → Part) :
    (s.updPart p f).gateReqs = s.gateReqs := rfl
@[simp] theorem State.updPart_grants (p : Nat) (f : Part → Part) :
    (s.updPart p f).grants = s.grants := rfl
@[simp] theorem State.updPart_ctxs (p : Nat) (f : Part → Part) :
    (s.updPart p f).ctxs = s.ctxs := rfl
@[simp] theorem State.updPart_vfs (p : Nat) (f : Part → Part) :
    (s.updPart p f).vfs = s.vfs := rfl
@[simp] theorem State.updPart_fns (p : Nat) (f : Part → Part) :
    (s.updPart p f).fns = s.fns := rfl
@[simp] theorem State.updPart_pkgs (p : Nat) (f : Part → Part) :
    (s.updPart p f).pkgs = s.pkgs := rfl

/-! ## updFn -/

@[simp] theorem State.updFn_rows (i : FnId) (f : Fn → Fn) :
    (s.updFn i f).rows = s.rows := rfl
@[simp] theorem State.updFn_cols (i : FnId) (f : Fn → Fn) :
    (s.updFn i f).cols = s.cols := rfl
@[simp] theorem State.updFn_tick (i : FnId) (f : Fn → Fn) :
    (s.updFn i f).tick = s.tick := rfl
@[simp] theorem State.updFn_cycle (i : FnId) (f : Fn → Fn) :
    (s.updFn i f).cycle = s.cycle := rfl
@[simp] theorem State.updFn_seq (i : FnId) (f : Fn → Fn) :
    (s.updFn i f).seq = s.seq := rfl
@[simp] theorem State.updFn_clkw (i : FnId) (f : Fn → Fn) :
    (s.updFn i f).clkw = s.clkw := rfl
@[simp] theorem State.updFn_gathered (i : FnId) (f : Fn → Fn) :
    (s.updFn i f).gathered = s.gathered := rfl
@[simp] theorem State.updFn_words (i : FnId) (f : Fn → Fn) :
    (s.updFn i f).words = s.words := rfl
@[simp] theorem State.updFn_inputs (i : FnId) (f : Fn → Fn) :
    (s.updFn i f).inputs = s.inputs := rfl
@[simp] theorem State.updFn_mem (i : FnId) (f : Fn → Fn) :
    (s.updFn i f).mem = s.mem := rfl
@[simp] theorem State.updFn_hostMem (i : FnId) (f : Fn → Fn) :
    (s.updFn i f).hostMem = s.hostMem := rfl
@[simp] theorem State.updFn_poison (i : FnId) (f : Fn → Fn) :
    (s.updFn i f).poison = s.poison := rfl
@[simp] theorem State.updFn_upsets (i : FnId) (f : Fn → Fn) :
    (s.updFn i f).upsets = s.upsets := rfl
@[simp] theorem State.updFn_defects (i : FnId) (f : Fn → Fn) :
    (s.updFn i f).defects = s.defects := rfl
@[simp] theorem State.updFn_threads (i : FnId) (f : Fn → Fn) :
    (s.updFn i f).threads = s.threads := rfl
@[simp] theorem State.updFn_teams (i : FnId) (f : Fn → Fn) :
    (s.updFn i f).teams = s.teams := rfl
@[simp] theorem State.updFn_blocks (i : FnId) (f : Fn → Fn) :
    (s.updFn i f).blocks = s.blocks := rfl
@[simp] theorem State.updFn_cores (i : FnId) (f : Fn → Fn) :
    (s.updFn i f).cores = s.cores := rfl
@[simp] theorem State.updFn_bars (i : FnId) (f : Fn → Fn) :
    (s.updFn i f).bars = s.bars := rfl
@[simp] theorem State.updFn_accs (i : FnId) (f : Fn → Fn) :
    (s.updFn i f).accs = s.accs := rfl
@[simp] theorem State.updFn_flights (i : FnId) (f : Fn → Fn) :
    (s.updFn i f).flights = s.flights := rfl
@[simp] theorem State.updFn_races (i : FnId) (f : Fn → Fn) :
    (s.updFn i f).races = s.races := rfl
@[simp] theorem State.updFn_weirs (i : FnId) (f : Fn → Fn) :
    (s.updFn i f).weirs = s.weirs := rfl
@[simp] theorem State.updFn_joins (i : FnId) (f : Fn → Fn) :
    (s.updFn i f).joins = s.joins := rfl
@[simp] theorem State.updFn_fills (i : FnId) (f : Fn → Fn) :
    (s.updFn i f).fills = s.fills := rfl
@[simp] theorem State.updFn_l2 (i : FnId) (f : Fn → Fn) :
    (s.updFn i f).l2 = s.l2 := rfl
@[simp] theorem State.updFn_tlb (i : FnId) (f : Fn → Fn) :
    (s.updFn i f).tlb = s.tlb := rfl
@[simp] theorem State.updFn_s2tlb (i : FnId) (f : Fn → Fn) :
    (s.updFn i f).s2tlb = s.s2tlb := rfl
@[simp] theorem State.updFn_pages (i : FnId) (f : Fn → Fn) :
    (s.updFn i f).pages = s.pages := rfl
@[simp] theorem State.updFn_qsets (i : FnId) (f : Fn → Fn) :
    (s.updFn i f).qsets = s.qsets := rfl
@[simp] theorem State.updFn_gates (i : FnId) (f : Fn → Fn) :
    (s.updFn i f).gates = s.gates := rfl
@[simp] theorem State.updFn_gateReqs (i : FnId) (f : Fn → Fn) :
    (s.updFn i f).gateReqs = s.gateReqs := rfl
@[simp] theorem State.updFn_grants (i : FnId) (f : Fn → Fn) :
    (s.updFn i f).grants = s.grants := rfl
@[simp] theorem State.updFn_ctxs (i : FnId) (f : Fn → Fn) :
    (s.updFn i f).ctxs = s.ctxs := rfl
@[simp] theorem State.updFn_vfs (i : FnId) (f : Fn → Fn) :
    (s.updFn i f).vfs = s.vfs := rfl
@[simp] theorem State.updFn_parts (i : FnId) (f : Fn → Fn) :
    (s.updFn i f).parts = s.parts := rfl
@[simp] theorem State.updFn_pkgs (i : FnId) (f : Fn → Fn) :
    (s.updFn i f).pkgs = s.pkgs := rfl

/-! ## updPkg -/

@[simp] theorem State.updPkg_rows (p : Nat) (f : Pkg → Pkg) :
    (s.updPkg p f).rows = s.rows := rfl
@[simp] theorem State.updPkg_cols (p : Nat) (f : Pkg → Pkg) :
    (s.updPkg p f).cols = s.cols := rfl
@[simp] theorem State.updPkg_tick (p : Nat) (f : Pkg → Pkg) :
    (s.updPkg p f).tick = s.tick := rfl
@[simp] theorem State.updPkg_cycle (p : Nat) (f : Pkg → Pkg) :
    (s.updPkg p f).cycle = s.cycle := rfl
@[simp] theorem State.updPkg_seq (p : Nat) (f : Pkg → Pkg) :
    (s.updPkg p f).seq = s.seq := rfl
@[simp] theorem State.updPkg_clkw (p : Nat) (f : Pkg → Pkg) :
    (s.updPkg p f).clkw = s.clkw := rfl
@[simp] theorem State.updPkg_gathered (p : Nat) (f : Pkg → Pkg) :
    (s.updPkg p f).gathered = s.gathered := rfl
@[simp] theorem State.updPkg_words (p : Nat) (f : Pkg → Pkg) :
    (s.updPkg p f).words = s.words := rfl
@[simp] theorem State.updPkg_inputs (p : Nat) (f : Pkg → Pkg) :
    (s.updPkg p f).inputs = s.inputs := rfl
@[simp] theorem State.updPkg_mem (p : Nat) (f : Pkg → Pkg) :
    (s.updPkg p f).mem = s.mem := rfl
@[simp] theorem State.updPkg_hostMem (p : Nat) (f : Pkg → Pkg) :
    (s.updPkg p f).hostMem = s.hostMem := rfl
@[simp] theorem State.updPkg_poison (p : Nat) (f : Pkg → Pkg) :
    (s.updPkg p f).poison = s.poison := rfl
@[simp] theorem State.updPkg_upsets (p : Nat) (f : Pkg → Pkg) :
    (s.updPkg p f).upsets = s.upsets := rfl
@[simp] theorem State.updPkg_defects (p : Nat) (f : Pkg → Pkg) :
    (s.updPkg p f).defects = s.defects := rfl
@[simp] theorem State.updPkg_threads (p : Nat) (f : Pkg → Pkg) :
    (s.updPkg p f).threads = s.threads := rfl
@[simp] theorem State.updPkg_teams (p : Nat) (f : Pkg → Pkg) :
    (s.updPkg p f).teams = s.teams := rfl
@[simp] theorem State.updPkg_blocks (p : Nat) (f : Pkg → Pkg) :
    (s.updPkg p f).blocks = s.blocks := rfl
@[simp] theorem State.updPkg_cores (p : Nat) (f : Pkg → Pkg) :
    (s.updPkg p f).cores = s.cores := rfl
@[simp] theorem State.updPkg_bars (p : Nat) (f : Pkg → Pkg) :
    (s.updPkg p f).bars = s.bars := rfl
@[simp] theorem State.updPkg_accs (p : Nat) (f : Pkg → Pkg) :
    (s.updPkg p f).accs = s.accs := rfl
@[simp] theorem State.updPkg_flights (p : Nat) (f : Pkg → Pkg) :
    (s.updPkg p f).flights = s.flights := rfl
@[simp] theorem State.updPkg_races (p : Nat) (f : Pkg → Pkg) :
    (s.updPkg p f).races = s.races := rfl
@[simp] theorem State.updPkg_weirs (p : Nat) (f : Pkg → Pkg) :
    (s.updPkg p f).weirs = s.weirs := rfl
@[simp] theorem State.updPkg_joins (p : Nat) (f : Pkg → Pkg) :
    (s.updPkg p f).joins = s.joins := rfl
@[simp] theorem State.updPkg_fills (p : Nat) (f : Pkg → Pkg) :
    (s.updPkg p f).fills = s.fills := rfl
@[simp] theorem State.updPkg_l2 (p : Nat) (f : Pkg → Pkg) :
    (s.updPkg p f).l2 = s.l2 := rfl
@[simp] theorem State.updPkg_tlb (p : Nat) (f : Pkg → Pkg) :
    (s.updPkg p f).tlb = s.tlb := rfl
@[simp] theorem State.updPkg_s2tlb (p : Nat) (f : Pkg → Pkg) :
    (s.updPkg p f).s2tlb = s.s2tlb := rfl
@[simp] theorem State.updPkg_pages (p : Nat) (f : Pkg → Pkg) :
    (s.updPkg p f).pages = s.pages := rfl
@[simp] theorem State.updPkg_qsets (p : Nat) (f : Pkg → Pkg) :
    (s.updPkg p f).qsets = s.qsets := rfl
@[simp] theorem State.updPkg_gates (p : Nat) (f : Pkg → Pkg) :
    (s.updPkg p f).gates = s.gates := rfl
@[simp] theorem State.updPkg_gateReqs (p : Nat) (f : Pkg → Pkg) :
    (s.updPkg p f).gateReqs = s.gateReqs := rfl
@[simp] theorem State.updPkg_grants (p : Nat) (f : Pkg → Pkg) :
    (s.updPkg p f).grants = s.grants := rfl
@[simp] theorem State.updPkg_ctxs (p : Nat) (f : Pkg → Pkg) :
    (s.updPkg p f).ctxs = s.ctxs := rfl
@[simp] theorem State.updPkg_vfs (p : Nat) (f : Pkg → Pkg) :
    (s.updPkg p f).vfs = s.vfs := rfl
@[simp] theorem State.updPkg_parts (p : Nat) (f : Pkg → Pkg) :
    (s.updPkg p f).parts = s.parts := rfl
@[simp] theorem State.updPkg_fns (p : Nat) (f : Pkg → Pkg) :
    (s.updPkg p f).fns = s.fns := rfl

/-! ## updQSet -/

@[simp] theorem State.updQSet_rows (q : QSetId) (f : QSet → QSet) :
    (s.updQSet q f).rows = s.rows := rfl
@[simp] theorem State.updQSet_cols (q : QSetId) (f : QSet → QSet) :
    (s.updQSet q f).cols = s.cols := rfl
@[simp] theorem State.updQSet_tick (q : QSetId) (f : QSet → QSet) :
    (s.updQSet q f).tick = s.tick := rfl
@[simp] theorem State.updQSet_cycle (q : QSetId) (f : QSet → QSet) :
    (s.updQSet q f).cycle = s.cycle := rfl
@[simp] theorem State.updQSet_seq (q : QSetId) (f : QSet → QSet) :
    (s.updQSet q f).seq = s.seq := rfl
@[simp] theorem State.updQSet_clkw (q : QSetId) (f : QSet → QSet) :
    (s.updQSet q f).clkw = s.clkw := rfl
@[simp] theorem State.updQSet_gathered (q : QSetId) (f : QSet → QSet) :
    (s.updQSet q f).gathered = s.gathered := rfl
@[simp] theorem State.updQSet_words (q : QSetId) (f : QSet → QSet) :
    (s.updQSet q f).words = s.words := rfl
@[simp] theorem State.updQSet_inputs (q : QSetId) (f : QSet → QSet) :
    (s.updQSet q f).inputs = s.inputs := rfl
@[simp] theorem State.updQSet_mem (q : QSetId) (f : QSet → QSet) :
    (s.updQSet q f).mem = s.mem := rfl
@[simp] theorem State.updQSet_hostMem (q : QSetId) (f : QSet → QSet) :
    (s.updQSet q f).hostMem = s.hostMem := rfl
@[simp] theorem State.updQSet_poison (q : QSetId) (f : QSet → QSet) :
    (s.updQSet q f).poison = s.poison := rfl
@[simp] theorem State.updQSet_upsets (q : QSetId) (f : QSet → QSet) :
    (s.updQSet q f).upsets = s.upsets := rfl
@[simp] theorem State.updQSet_defects (q : QSetId) (f : QSet → QSet) :
    (s.updQSet q f).defects = s.defects := rfl
@[simp] theorem State.updQSet_threads (q : QSetId) (f : QSet → QSet) :
    (s.updQSet q f).threads = s.threads := rfl
@[simp] theorem State.updQSet_teams (q : QSetId) (f : QSet → QSet) :
    (s.updQSet q f).teams = s.teams := rfl
@[simp] theorem State.updQSet_blocks (q : QSetId) (f : QSet → QSet) :
    (s.updQSet q f).blocks = s.blocks := rfl
@[simp] theorem State.updQSet_cores (q : QSetId) (f : QSet → QSet) :
    (s.updQSet q f).cores = s.cores := rfl
@[simp] theorem State.updQSet_bars (q : QSetId) (f : QSet → QSet) :
    (s.updQSet q f).bars = s.bars := rfl
@[simp] theorem State.updQSet_accs (q : QSetId) (f : QSet → QSet) :
    (s.updQSet q f).accs = s.accs := rfl
@[simp] theorem State.updQSet_flights (q : QSetId) (f : QSet → QSet) :
    (s.updQSet q f).flights = s.flights := rfl
@[simp] theorem State.updQSet_races (q : QSetId) (f : QSet → QSet) :
    (s.updQSet q f).races = s.races := rfl
@[simp] theorem State.updQSet_weirs (q : QSetId) (f : QSet → QSet) :
    (s.updQSet q f).weirs = s.weirs := rfl
@[simp] theorem State.updQSet_joins (q : QSetId) (f : QSet → QSet) :
    (s.updQSet q f).joins = s.joins := rfl
@[simp] theorem State.updQSet_fills (q : QSetId) (f : QSet → QSet) :
    (s.updQSet q f).fills = s.fills := rfl
@[simp] theorem State.updQSet_l2 (q : QSetId) (f : QSet → QSet) :
    (s.updQSet q f).l2 = s.l2 := rfl
@[simp] theorem State.updQSet_tlb (q : QSetId) (f : QSet → QSet) :
    (s.updQSet q f).tlb = s.tlb := rfl
@[simp] theorem State.updQSet_s2tlb (q : QSetId) (f : QSet → QSet) :
    (s.updQSet q f).s2tlb = s.s2tlb := rfl
@[simp] theorem State.updQSet_pages (q : QSetId) (f : QSet → QSet) :
    (s.updQSet q f).pages = s.pages := rfl
@[simp] theorem State.updQSet_gates (q : QSetId) (f : QSet → QSet) :
    (s.updQSet q f).gates = s.gates := rfl
@[simp] theorem State.updQSet_gateReqs (q : QSetId) (f : QSet → QSet) :
    (s.updQSet q f).gateReqs = s.gateReqs := rfl
@[simp] theorem State.updQSet_grants (q : QSetId) (f : QSet → QSet) :
    (s.updQSet q f).grants = s.grants := rfl
@[simp] theorem State.updQSet_ctxs (q : QSetId) (f : QSet → QSet) :
    (s.updQSet q f).ctxs = s.ctxs := rfl
@[simp] theorem State.updQSet_vfs (q : QSetId) (f : QSet → QSet) :
    (s.updQSet q f).vfs = s.vfs := rfl
@[simp] theorem State.updQSet_parts (q : QSetId) (f : QSet → QSet) :
    (s.updQSet q f).parts = s.parts := rfl
@[simp] theorem State.updQSet_fns (q : QSetId) (f : QSet → QSet) :
    (s.updQSet q f).fns = s.fns := rfl
@[simp] theorem State.updQSet_pkgs (q : QSetId) (f : QSet → QSet) :
    (s.updQSet q f).pkgs = s.pkgs := rfl

/-! ## updGate -/

@[simp] theorem State.updGate_rows (n : Nat) (f : Gate → Gate) :
    (s.updGate n f).rows = s.rows := rfl
@[simp] theorem State.updGate_cols (n : Nat) (f : Gate → Gate) :
    (s.updGate n f).cols = s.cols := rfl
@[simp] theorem State.updGate_tick (n : Nat) (f : Gate → Gate) :
    (s.updGate n f).tick = s.tick := rfl
@[simp] theorem State.updGate_cycle (n : Nat) (f : Gate → Gate) :
    (s.updGate n f).cycle = s.cycle := rfl
@[simp] theorem State.updGate_seq (n : Nat) (f : Gate → Gate) :
    (s.updGate n f).seq = s.seq := rfl
@[simp] theorem State.updGate_clkw (n : Nat) (f : Gate → Gate) :
    (s.updGate n f).clkw = s.clkw := rfl
@[simp] theorem State.updGate_gathered (n : Nat) (f : Gate → Gate) :
    (s.updGate n f).gathered = s.gathered := rfl
@[simp] theorem State.updGate_words (n : Nat) (f : Gate → Gate) :
    (s.updGate n f).words = s.words := rfl
@[simp] theorem State.updGate_inputs (n : Nat) (f : Gate → Gate) :
    (s.updGate n f).inputs = s.inputs := rfl
@[simp] theorem State.updGate_mem (n : Nat) (f : Gate → Gate) :
    (s.updGate n f).mem = s.mem := rfl
@[simp] theorem State.updGate_hostMem (n : Nat) (f : Gate → Gate) :
    (s.updGate n f).hostMem = s.hostMem := rfl
@[simp] theorem State.updGate_poison (n : Nat) (f : Gate → Gate) :
    (s.updGate n f).poison = s.poison := rfl
@[simp] theorem State.updGate_upsets (n : Nat) (f : Gate → Gate) :
    (s.updGate n f).upsets = s.upsets := rfl
@[simp] theorem State.updGate_defects (n : Nat) (f : Gate → Gate) :
    (s.updGate n f).defects = s.defects := rfl
@[simp] theorem State.updGate_threads (n : Nat) (f : Gate → Gate) :
    (s.updGate n f).threads = s.threads := rfl
@[simp] theorem State.updGate_teams (n : Nat) (f : Gate → Gate) :
    (s.updGate n f).teams = s.teams := rfl
@[simp] theorem State.updGate_blocks (n : Nat) (f : Gate → Gate) :
    (s.updGate n f).blocks = s.blocks := rfl
@[simp] theorem State.updGate_cores (n : Nat) (f : Gate → Gate) :
    (s.updGate n f).cores = s.cores := rfl
@[simp] theorem State.updGate_bars (n : Nat) (f : Gate → Gate) :
    (s.updGate n f).bars = s.bars := rfl
@[simp] theorem State.updGate_accs (n : Nat) (f : Gate → Gate) :
    (s.updGate n f).accs = s.accs := rfl
@[simp] theorem State.updGate_flights (n : Nat) (f : Gate → Gate) :
    (s.updGate n f).flights = s.flights := rfl
@[simp] theorem State.updGate_races (n : Nat) (f : Gate → Gate) :
    (s.updGate n f).races = s.races := rfl
@[simp] theorem State.updGate_weirs (n : Nat) (f : Gate → Gate) :
    (s.updGate n f).weirs = s.weirs := rfl
@[simp] theorem State.updGate_joins (n : Nat) (f : Gate → Gate) :
    (s.updGate n f).joins = s.joins := rfl
@[simp] theorem State.updGate_fills (n : Nat) (f : Gate → Gate) :
    (s.updGate n f).fills = s.fills := rfl
@[simp] theorem State.updGate_l2 (n : Nat) (f : Gate → Gate) :
    (s.updGate n f).l2 = s.l2 := rfl
@[simp] theorem State.updGate_tlb (n : Nat) (f : Gate → Gate) :
    (s.updGate n f).tlb = s.tlb := rfl
@[simp] theorem State.updGate_s2tlb (n : Nat) (f : Gate → Gate) :
    (s.updGate n f).s2tlb = s.s2tlb := rfl
@[simp] theorem State.updGate_pages (n : Nat) (f : Gate → Gate) :
    (s.updGate n f).pages = s.pages := rfl
@[simp] theorem State.updGate_qsets (n : Nat) (f : Gate → Gate) :
    (s.updGate n f).qsets = s.qsets := rfl
@[simp] theorem State.updGate_gateReqs (n : Nat) (f : Gate → Gate) :
    (s.updGate n f).gateReqs = s.gateReqs := rfl
@[simp] theorem State.updGate_grants (n : Nat) (f : Gate → Gate) :
    (s.updGate n f).grants = s.grants := rfl
@[simp] theorem State.updGate_ctxs (n : Nat) (f : Gate → Gate) :
    (s.updGate n f).ctxs = s.ctxs := rfl
@[simp] theorem State.updGate_vfs (n : Nat) (f : Gate → Gate) :
    (s.updGate n f).vfs = s.vfs := rfl
@[simp] theorem State.updGate_parts (n : Nat) (f : Gate → Gate) :
    (s.updGate n f).parts = s.parts := rfl
@[simp] theorem State.updGate_fns (n : Nat) (f : Gate → Gate) :
    (s.updGate n f).fns = s.fns := rfl
@[simp] theorem State.updGate_pkgs (n : Nat) (f : Gate → Gate) :
    (s.updGate n f).pkgs = s.pkgs := rfl

variable (t : Thread)

/-! ## Thread.step -/

@[simp] theorem Thread.step_live (k : Nat) : (t.step k).live = t.live := rfl
@[simp] theorem Thread.step_regs (k : Nat) : (t.step k).regs = t.regs := rfl
@[simp] theorem Thread.step_preds (k : Nat) : (t.step k).preds = t.preds := rfl
@[simp] theorem Thread.step_since (k : Nat) : (t.step k).since = t.since := rfl
@[simp] theorem Thread.step_ldn (k : Nat) : (t.step k).ldn = t.ldn := rfl
@[simp] theorem Thread.step_stn (k : Nat) : (t.step k).stn = t.stn := rfl
@[simp] theorem Thread.step_cpn (k : Nat) : (t.step k).cpn = t.cpn := rfl
@[simp] theorem Thread.step_mxn (k : Nat) : (t.step k).mxn = t.mxn := rfl
@[simp] theorem Thread.step_fflags (k : Nat) : (t.step k).fflags = t.fflags := rfl
@[simp] theorem Thread.step_fmode (k : Nat) : (t.step k).fmode = t.fmode := rfl
@[simp] theorem Thread.step_cause (k : Nat) : (t.step k).cause = t.cause := rfl
@[simp] theorem Thread.step_inh (k : Nat) : (t.step k).inh = t.inh := rfl
@[simp] theorem Thread.step_defer (k : Nat) : (t.step k).defer = t.defer := rfl
@[simp] theorem Thread.step_tinfo (k : Nat) : (t.step k).tinfo = t.tinfo := rfl
@[simp] theorem Thread.step_taddr (k : Nat) : (t.step k).taddr = t.taddr := rfl
@[simp] theorem Thread.step_tlinkLo (k : Nat) : (t.step k).tlinkLo = t.tlinkLo := rfl
@[simp] theorem Thread.step_tlinkHi (k : Nat) : (t.step k).tlinkHi = t.tlinkHi := rfl
@[simp] theorem Thread.step_park (k : Nat) : (t.step k).park = t.park := rfl
@[simp] theorem Thread.step_fences (k : Nat) : (t.step k).fences = t.fences := rfl
@[simp] theorem Thread.step_deferred (k : Nat) : (t.step k).deferred = t.deferred := rfl
@[simp] theorem Thread.step_heldWait (k : Nat) : (t.step k).heldWait = t.heldWait := rfl

/-! ## Thread.goto -/

@[simp] theorem Thread.goto_live (k : Nat) : (t.goto k).live = t.live := rfl
@[simp] theorem Thread.goto_regs (k : Nat) : (t.goto k).regs = t.regs := rfl
@[simp] theorem Thread.goto_preds (k : Nat) : (t.goto k).preds = t.preds := rfl
@[simp] theorem Thread.goto_since (k : Nat) : (t.goto k).since = t.since := rfl
@[simp] theorem Thread.goto_ldn (k : Nat) : (t.goto k).ldn = t.ldn := rfl
@[simp] theorem Thread.goto_stn (k : Nat) : (t.goto k).stn = t.stn := rfl
@[simp] theorem Thread.goto_cpn (k : Nat) : (t.goto k).cpn = t.cpn := rfl
@[simp] theorem Thread.goto_mxn (k : Nat) : (t.goto k).mxn = t.mxn := rfl
@[simp] theorem Thread.goto_fflags (k : Nat) : (t.goto k).fflags = t.fflags := rfl
@[simp] theorem Thread.goto_fmode (k : Nat) : (t.goto k).fmode = t.fmode := rfl
@[simp] theorem Thread.goto_cause (k : Nat) : (t.goto k).cause = t.cause := rfl
@[simp] theorem Thread.goto_inh (k : Nat) : (t.goto k).inh = t.inh := rfl
@[simp] theorem Thread.goto_defer (k : Nat) : (t.goto k).defer = t.defer := rfl
@[simp] theorem Thread.goto_tinfo (k : Nat) : (t.goto k).tinfo = t.tinfo := rfl
@[simp] theorem Thread.goto_taddr (k : Nat) : (t.goto k).taddr = t.taddr := rfl
@[simp] theorem Thread.goto_tlinkLo (k : Nat) : (t.goto k).tlinkLo = t.tlinkLo := rfl
@[simp] theorem Thread.goto_tlinkHi (k : Nat) : (t.goto k).tlinkHi = t.tlinkHi := rfl
@[simp] theorem Thread.goto_park (k : Nat) : (t.goto k).park = t.park := rfl
@[simp] theorem Thread.goto_fences (k : Nat) : (t.goto k).fences = t.fences := rfl
@[simp] theorem Thread.goto_deferred (k : Nat) : (t.goto k).deferred = t.deferred := rfl
@[simp] theorem Thread.goto_heldWait (k : Nat) : (t.goto k).heldWait = t.heldWait := rfl

/-! ## Thread.setReg -/

@[simp] theorem Thread.setReg_live (n : Nat) (v : W32) (tag : Nat) : (t.setReg n v tag).live = t.live := rfl
@[simp] theorem Thread.setReg_pc (n : Nat) (v : W32) (tag : Nat) : (t.setReg n v tag).pc = t.pc := rfl
@[simp] theorem Thread.setReg_preds (n : Nat) (v : W32) (tag : Nat) : (t.setReg n v tag).preds = t.preds := rfl
@[simp] theorem Thread.setReg_since (n : Nat) (v : W32) (tag : Nat) : (t.setReg n v tag).since = t.since := rfl
@[simp] theorem Thread.setReg_ldn (n : Nat) (v : W32) (tag : Nat) : (t.setReg n v tag).ldn = t.ldn := rfl
@[simp] theorem Thread.setReg_stn (n : Nat) (v : W32) (tag : Nat) : (t.setReg n v tag).stn = t.stn := rfl
@[simp] theorem Thread.setReg_cpn (n : Nat) (v : W32) (tag : Nat) : (t.setReg n v tag).cpn = t.cpn := rfl
@[simp] theorem Thread.setReg_mxn (n : Nat) (v : W32) (tag : Nat) : (t.setReg n v tag).mxn = t.mxn := rfl
@[simp] theorem Thread.setReg_fflags (n : Nat) (v : W32) (tag : Nat) : (t.setReg n v tag).fflags = t.fflags := rfl
@[simp] theorem Thread.setReg_fmode (n : Nat) (v : W32) (tag : Nat) : (t.setReg n v tag).fmode = t.fmode := rfl
@[simp] theorem Thread.setReg_cause (n : Nat) (v : W32) (tag : Nat) : (t.setReg n v tag).cause = t.cause := rfl
@[simp] theorem Thread.setReg_inh (n : Nat) (v : W32) (tag : Nat) : (t.setReg n v tag).inh = t.inh := rfl
@[simp] theorem Thread.setReg_defer (n : Nat) (v : W32) (tag : Nat) : (t.setReg n v tag).defer = t.defer := rfl
@[simp] theorem Thread.setReg_tinfo (n : Nat) (v : W32) (tag : Nat) : (t.setReg n v tag).tinfo = t.tinfo := rfl
@[simp] theorem Thread.setReg_taddr (n : Nat) (v : W32) (tag : Nat) : (t.setReg n v tag).taddr = t.taddr := rfl
@[simp] theorem Thread.setReg_tlinkLo (n : Nat) (v : W32) (tag : Nat) : (t.setReg n v tag).tlinkLo = t.tlinkLo := rfl
@[simp] theorem Thread.setReg_tlinkHi (n : Nat) (v : W32) (tag : Nat) : (t.setReg n v tag).tlinkHi = t.tlinkHi := rfl
@[simp] theorem Thread.setReg_park (n : Nat) (v : W32) (tag : Nat) : (t.setReg n v tag).park = t.park := rfl
@[simp] theorem Thread.setReg_fences (n : Nat) (v : W32) (tag : Nat) : (t.setReg n v tag).fences = t.fences := rfl
@[simp] theorem Thread.setReg_deferred (n : Nat) (v : W32) (tag : Nat) : (t.setReg n v tag).deferred = t.deferred := rfl
@[simp] theorem Thread.setReg_heldWait (n : Nat) (v : W32) (tag : Nat) : (t.setReg n v tag).heldWait = t.heldWait := rfl

/-! ## Thread.setPred -/

@[simp] theorem Thread.setPred_live (n : Nat) (v : Bool) : (t.setPred n v).live = t.live := rfl
@[simp] theorem Thread.setPred_pc (n : Nat) (v : Bool) : (t.setPred n v).pc = t.pc := rfl
@[simp] theorem Thread.setPred_regs (n : Nat) (v : Bool) : (t.setPred n v).regs = t.regs := rfl
@[simp] theorem Thread.setPred_since (n : Nat) (v : Bool) : (t.setPred n v).since = t.since := rfl
@[simp] theorem Thread.setPred_ldn (n : Nat) (v : Bool) : (t.setPred n v).ldn = t.ldn := rfl
@[simp] theorem Thread.setPred_stn (n : Nat) (v : Bool) : (t.setPred n v).stn = t.stn := rfl
@[simp] theorem Thread.setPred_cpn (n : Nat) (v : Bool) : (t.setPred n v).cpn = t.cpn := rfl
@[simp] theorem Thread.setPred_mxn (n : Nat) (v : Bool) : (t.setPred n v).mxn = t.mxn := rfl
@[simp] theorem Thread.setPred_fflags (n : Nat) (v : Bool) : (t.setPred n v).fflags = t.fflags := rfl
@[simp] theorem Thread.setPred_fmode (n : Nat) (v : Bool) : (t.setPred n v).fmode = t.fmode := rfl
@[simp] theorem Thread.setPred_cause (n : Nat) (v : Bool) : (t.setPred n v).cause = t.cause := rfl
@[simp] theorem Thread.setPred_inh (n : Nat) (v : Bool) : (t.setPred n v).inh = t.inh := rfl
@[simp] theorem Thread.setPred_defer (n : Nat) (v : Bool) : (t.setPred n v).defer = t.defer := rfl
@[simp] theorem Thread.setPred_tinfo (n : Nat) (v : Bool) : (t.setPred n v).tinfo = t.tinfo := rfl
@[simp] theorem Thread.setPred_taddr (n : Nat) (v : Bool) : (t.setPred n v).taddr = t.taddr := rfl
@[simp] theorem Thread.setPred_tlinkLo (n : Nat) (v : Bool) : (t.setPred n v).tlinkLo = t.tlinkLo := rfl
@[simp] theorem Thread.setPred_tlinkHi (n : Nat) (v : Bool) : (t.setPred n v).tlinkHi = t.tlinkHi := rfl
@[simp] theorem Thread.setPred_park (n : Nat) (v : Bool) : (t.setPred n v).park = t.park := rfl
@[simp] theorem Thread.setPred_fences (n : Nat) (v : Bool) : (t.setPred n v).fences = t.fences := rfl
@[simp] theorem Thread.setPred_deferred (n : Nat) (v : Bool) : (t.setPred n v).deferred = t.deferred := rfl
@[simp] theorem Thread.setPred_heldWait (n : Nat) (v : Bool) : (t.setPred n v).heldWait = t.heldWait := rfl

/-! ## Thread.writeReg -/

@[simp] theorem Thread.writeReg_live (n w v tag : Nat) : (t.writeReg n w v tag).live = t.live := by
  induction w with
  | zero => rfl
  | succ w ih => simp only [Thread.writeReg]; split <;> simp [ih]
@[simp] theorem Thread.writeReg_pc (n w v tag : Nat) : (t.writeReg n w v tag).pc = t.pc := by
  induction w with
  | zero => rfl
  | succ w ih => simp only [Thread.writeReg]; split <;> simp [ih]
@[simp] theorem Thread.writeReg_preds (n w v tag : Nat) : (t.writeReg n w v tag).preds = t.preds := by
  induction w with
  | zero => rfl
  | succ w ih => simp only [Thread.writeReg]; split <;> simp [ih]
@[simp] theorem Thread.writeReg_since (n w v tag : Nat) : (t.writeReg n w v tag).since = t.since := by
  induction w with
  | zero => rfl
  | succ w ih => simp only [Thread.writeReg]; split <;> simp [ih]
@[simp] theorem Thread.writeReg_ldn (n w v tag : Nat) : (t.writeReg n w v tag).ldn = t.ldn := by
  induction w with
  | zero => rfl
  | succ w ih => simp only [Thread.writeReg]; split <;> simp [ih]
@[simp] theorem Thread.writeReg_stn (n w v tag : Nat) : (t.writeReg n w v tag).stn = t.stn := by
  induction w with
  | zero => rfl
  | succ w ih => simp only [Thread.writeReg]; split <;> simp [ih]
@[simp] theorem Thread.writeReg_cpn (n w v tag : Nat) : (t.writeReg n w v tag).cpn = t.cpn := by
  induction w with
  | zero => rfl
  | succ w ih => simp only [Thread.writeReg]; split <;> simp [ih]
@[simp] theorem Thread.writeReg_mxn (n w v tag : Nat) : (t.writeReg n w v tag).mxn = t.mxn := by
  induction w with
  | zero => rfl
  | succ w ih => simp only [Thread.writeReg]; split <;> simp [ih]
@[simp] theorem Thread.writeReg_fflags (n w v tag : Nat) : (t.writeReg n w v tag).fflags = t.fflags := by
  induction w with
  | zero => rfl
  | succ w ih => simp only [Thread.writeReg]; split <;> simp [ih]
@[simp] theorem Thread.writeReg_fmode (n w v tag : Nat) : (t.writeReg n w v tag).fmode = t.fmode := by
  induction w with
  | zero => rfl
  | succ w ih => simp only [Thread.writeReg]; split <;> simp [ih]
@[simp] theorem Thread.writeReg_cause (n w v tag : Nat) : (t.writeReg n w v tag).cause = t.cause := by
  induction w with
  | zero => rfl
  | succ w ih => simp only [Thread.writeReg]; split <;> simp [ih]
@[simp] theorem Thread.writeReg_inh (n w v tag : Nat) : (t.writeReg n w v tag).inh = t.inh := by
  induction w with
  | zero => rfl
  | succ w ih => simp only [Thread.writeReg]; split <;> simp [ih]
@[simp] theorem Thread.writeReg_defer (n w v tag : Nat) : (t.writeReg n w v tag).defer = t.defer := by
  induction w with
  | zero => rfl
  | succ w ih => simp only [Thread.writeReg]; split <;> simp [ih]
@[simp] theorem Thread.writeReg_tinfo (n w v tag : Nat) : (t.writeReg n w v tag).tinfo = t.tinfo := by
  induction w with
  | zero => rfl
  | succ w ih => simp only [Thread.writeReg]; split <;> simp [ih]
@[simp] theorem Thread.writeReg_taddr (n w v tag : Nat) : (t.writeReg n w v tag).taddr = t.taddr := by
  induction w with
  | zero => rfl
  | succ w ih => simp only [Thread.writeReg]; split <;> simp [ih]
@[simp] theorem Thread.writeReg_tlinkLo (n w v tag : Nat) : (t.writeReg n w v tag).tlinkLo = t.tlinkLo := by
  induction w with
  | zero => rfl
  | succ w ih => simp only [Thread.writeReg]; split <;> simp [ih]
@[simp] theorem Thread.writeReg_tlinkHi (n w v tag : Nat) : (t.writeReg n w v tag).tlinkHi = t.tlinkHi := by
  induction w with
  | zero => rfl
  | succ w ih => simp only [Thread.writeReg]; split <;> simp [ih]
@[simp] theorem Thread.writeReg_park (n w v tag : Nat) : (t.writeReg n w v tag).park = t.park := by
  induction w with
  | zero => rfl
  | succ w ih => simp only [Thread.writeReg]; split <;> simp [ih]
@[simp] theorem Thread.writeReg_fences (n w v tag : Nat) : (t.writeReg n w v tag).fences = t.fences := by
  induction w with
  | zero => rfl
  | succ w ih => simp only [Thread.writeReg]; split <;> simp [ih]
@[simp] theorem Thread.writeReg_deferred (n w v tag : Nat) : (t.writeReg n w v tag).deferred = t.deferred := by
  induction w with
  | zero => rfl
  | succ w ih => simp only [Thread.writeReg]; split <;> simp [ih]
@[simp] theorem Thread.writeReg_heldWait (n w v tag : Nat) : (t.writeReg n w v tag).heldWait = t.heldWait := by
  induction w with
  | zero => rfl
  | succ w ih => simp only [Thread.writeReg]; split <;> simp [ih]

end Sys2Proof.Machine
end

