-- ==== Sys2Proof/Laws/Lane.lean ====
section
/-! SUPPORT. What the frames of lane and uniform instructions can do, said once. -/
namespace Sys2Proof.Machine

theorem tget_mem {κ α : Type} [DecidableEq κ] {t : Tbl κ α} {k : κ} {v : α} (h : tget t k = some v) : (k, v) ∈ t := by
  induction t with
  | nil => simp [tget] at h
  | cons x t ih =>
    obtain ⟨k', v'⟩ := x
    simp only [tget] at h
    split at h
    · simp_all
    · exact List.mem_cons_of_mem _ (ih h)

theorem tmap_congr {κ α : Type} (t : Tbl κ α) (f g : κ → α → α) (h : ∀ x ∈ t, f x.1 x.2 = g x.1 x.2) :
    tmap t f = tmap t g := by
  unfold tmap
  exact List.map_congr_left fun x hx => by rw [h x hx]

/-- Two changes of every thread that agree on the rows of the state agree. -/
theorem mapThreads_congr (s : State) (f g : ThreadId → Thread → Thread) (h : ∀ x ∈ s.threads, f x.1 x.2 = g x.1 x.2) :
    s.mapThreads f = s.mapThreads g := by
  simp only [State.mapThreads, tmap_congr _ f g h]

/-- A gathered thread of the group is a row of the state. -/
theorem group_mem {s : State} {x : ThreadId × Thread} (h : x ∈ s.group) :
    x ∈ s.threads ∧ x.1 ∈ s.gathered.ids ∧ s.thread x.1 = some x.2 := by
  simp only [State.group, List.mem_filterMap, Option.map_eq_some_iff] at h
  obtain ⟨i, hi, t, ht, rfl⟩ := h
  exact ⟨tget_mem ht, hi, ht⟩

/-- When the function traps in no gathered thread, the group takes its effect and nothing else happens. -/
theorem overGroup_next (s : State) (f : ThreadId → Thread → Except Raise Thread) (g : ThreadId → Thread → Thread)
    (h : ∀ x ∈ s.threads, x.1 ∈ s.gathered.ids → f x.1 x.2 = .ok (g x.1 x.2)) :
    s.overGroup f = s.mapThreads fun id t => if id ∈ s.gathered.ids then g id t else t := by
  have none_traps : (s.group.filterMap fun x => match f x.1 x.2 with
      | .ok _ => none
      | .error r => some (x.1, r)) = [] := by
    rw [List.filterMap_eq_nil_iff]
    intro x hx
    have := group_mem hx
    simp [h _ this.1 this.2.1]
  unfold State.overGroup
  refine (congrArg (State.raises _) none_traps).trans ?_
  unfold State.raises
  apply mapThreads_congr
  intro x hx
  by_cases hi : x.1 ∈ s.gathered.ids <;> simp [hi, h x hx]

/-- A legal lane instruction whose operands pass, and whose effect traps in no thread, executes in every gathered thread. -/
theorem runLane_next {i : LaneDef} {s : State} {f : L1} {e : Env → Thread → Thread} (hg : i.g = f.g) (hn : i.gn = f.gn)
    (hl : i.legal = true) (ho : s.operandsPass f (i.opds i.nums))
    (hs : s.forOn f fun id t => i.sem (s.env id) i.nums t = .ok (e (s.env id) t)) :
    runLane i s = .next (s.laneNext f i.words e) := by
  simp only [runLane, hl, if_true]
  rw [overGroup_next s _ (fun id t => if t.guard f.g f.gn then (e (s.env id) t).step i.words else t.step i.words)]
  · rfl
  · intro x hx hi
    simp only [LaneDef.run, hg, hn]
    by_cases h : x.2.guard f.g f.gn = true
    · simp [h, ho x hx hi h, hs x hx hi h]
    · simp [h]

/-- An illegal lane instruction raises ILLEGAL_ENCODING in every gathered thread. -/
theorem runLane_illegal {i : LaneDef} {s : State} (hl : i.legal = false) : runLane i s = .next s.illegal := by
  simp [runLane, hl]

/-- The same for a branch, whose effect places the PC itself. -/
theorem runJump_next {i : LaneDef} {s : State} {f : L1} {e : Env → Thread → Thread} (hg : i.g = f.g) (hn : i.gn = f.gn)
    (hl : i.legal = true) (ho : s.operandsPass f (i.opds i.nums))
    (hs : s.forOn f fun id t => i.sem (s.env id) i.nums t = .ok (e (s.env id) t)) :
    runJump i s = .next (s.jumpNext f i.words e) := by
  simp only [runJump, hl, if_true]
  rw [overGroup_next s _ (fun id t => if t.guard f.g f.gn then e (s.env id) t else t.step i.words)]
  · rfl
  · intro x hx hi
    simp only [LaneDef.jump, hg, hn]
    by_cases h : x.2.guard f.g f.gn = true
    · simp [h, ho x hx hi h, hs x hx hi h]
    · simp [h]

/-- No trap of a list is raised when the list is empty. -/
@[simp] theorem raises_nil (s : State) : s.raises [] = s := rfl

/-- What a thread reads depends on the number and the role of its environment only. -/
theorem readReg_env {e e' : Env} (ht : e.tidx = e'.tidx) (hr : e.role = e'.role) (t : Thread) (n w : Nat) :
    t.readReg e n w = t.readReg e' n w := by
  induction w with
  | zero => rfl
  | succ w ih => simp [Thread.readReg, Thread.val, ih, ht, hr]

/-! ## Uniform instructions -/

/-- A legal uniform instruction whose leader's sources and every thread's destinations pass comes to its effect. -/
theorem runUniform_leads {u : UniDef} {s : State} {f : L1} {l : ThreadId} {lt : Thread} (hg : u.g = f.g) (hn : u.gn = f.gn)
    (hl : u.legal = true) (h : s.leads f u.srcs u.dsts l lt) (act : UniGroup → State → UniRes) :
    runUniform u s act =
      match act ⟨l, lt, (s.stepAll (s.offIds f) u.words).env l, s.onIds f, s.onIds f, []⟩ (s.stepAll (s.offIds f) u.words) with
      | .done t | .parked t | .stay t => .next t
      | .trap t r => .next (t.raises (UniGroup.traps ⟨l, lt, (s.stepAll (s.offIds f) u.words).env l, s.onIds f, s.onIds f, []⟩ r)) := by
  obtain ⟨hh, hs, hd⟩ := h
  have e1 : (s.group.filter fun x => x.2.guard u.g u.gn) = s.onGroup f := by rw [hg, hn]; rfl
  have e2 : ((s.group.filter fun x => !x.2.guard u.g u.gn).map (·.1)) = s.offIds f := by rw [hg, hn]; rfl
  have bad : ((s.onGroup f).filterMap fun x => (regCheck x.2 u.dsts).map fun r => (x.1, r)) = [] := by
    rw [List.filterMap_eq_nil_iff]
    intro x hx
    simp [hd x hx]
  have rcv : ((s.onGroup f).filter fun x => (regCheck x.2 u.dsts).isNone) = s.onGroup f := by
    rw [List.filter_eq_self]
    intro x hx
    simp [hd x hx]
  obtain ⟨rest, hrest⟩ : ∃ rest, s.onGroup f = (l, lt) :: rest := by
    cases hc : s.onGroup f with
    | nil => simp [hc] at hh
    | cons x xs => simp [hc] at hh; exact ⟨xs, by rw [hh]⟩
  unfold runUniform
  simp only [hl, Bool.not_true, Bool.false_eq_true, if_false, e1, e2]
  rw [hrest] at bad rcv
  simp only [hrest, hs, bad, rcv]
  have : s.onIds f = ((l, lt) :: rest).map (·.1) := by rw [← hrest]; rfl
  rw [this]
  split <;> simp_all <;> (generalize act _ _ = r; cases r <;> rfl)

/-- A uniform result that every thread receives is the effect of the group. -/
theorem runUniform_result {u : UniDef} {s : State} {f : L1} {l : ThreadId} {lt : Thread} (hg : u.g = f.g) (hn : u.gn = f.gn)
    (hl : u.legal = true) (h : s.leads f u.srcs u.dsts l lt) (act : UniGroup → State → UniRes) (e : Thread → Thread)
    (ha : ∀ env all, env.tidx = (s.env l).tidx → env.role = (s.env l).role →
      ∀ t, act ⟨l, lt, env, all, s.onIds f, []⟩ t = .done (t.updThreads (s.onIds f) fun x => (e x).step u.words)) :
    runUniform u s act = .next (s.uniNext f u.words e) := by
  rw [runUniform_leads hg hn hl h]
  rw [ha ((s.stepAll (s.offIds f) u.words).env l) (s.onIds f) rfl rfl]
  rfl

end Sys2Proof.Machine
end

