-- ==== Sys2Proof/Laws/Issue.lean ====
section
/-! SUPPORT. What issuing accesses by the threads of a group comes to, said once (02_formats R44, R49). -/
namespace Sys2Proof.Machine

/-- Accesses entered in order. -/
def State.addAll (s : State) (as : List Access) : State := as.foldl State.addAccess s

/-- An access that serves the threads of one team only takes one number. -/
def Access.oneTeam (a : Access) : Prop := ((a.owners.map (·.team)).eraseDups).length ≤ 1

/-- An access of one thread serves one team. -/
theorem oneTeam_single {a : Access} {i : ThreadId} (h : a.owners = [i]) : a.oneTeam := by
  simp [Access.oneTeam, h, List.eraseDups_cons]

theorem addAll_eq (s : State) (as : List Access) (h : ∀ a ∈ as, a.oneTeam) :
    s.addAll as = { s with seq := s.seq + as.length, accs := s.accs ++ numbered s.seq as } := by
  induction as generalizing s with
  | nil => simp [State.addAll, numbered]
  | cons a as ih =>
    show (s.addAccess a).addAll as = _
    rw [ih _ fun b hb => h b (List.mem_cons_of_mem _ hb)]
    have h1 : max 1 ((a.owners.map (·.team)).eraseDups).length = 1 := Nat.max_eq_left (h a List.mem_cons_self)
    simp only [State.addAccess, numbered, List.length_cons, h1]
    simp [List.append_assoc, Nat.add_comm, Nat.add_left_comm]

theorem numbered_append (n : Nat) (as bs : List Access) :
    numbered n (as ++ bs) = numbered n as ++ numbered (n + as.length) bs := by
  induction as generalizing n with
  | nil => simp [numbered]
  | cons a as ih => simp [numbered, ih, Nat.add_comm, Nat.add_left_comm]

/-- A state that differs from another in its threads, its numbers and its outstanding accesses only. -/
def State.like (u s : State) : Prop := u = { s with threads := u.threads, seq := u.seq, accs := u.accs }

theorem tget_tmap {κ α : Type} [DecidableEq κ] (t : Tbl κ α) (f : κ → α → α) (k : κ) :
    tget (tmap t f) k = (tget t k).map (f k) := by
  induction t with
  | nil => rfl
  | cons x t ih =>
    obtain ⟨k', v⟩ := x
    simp only [tmap, List.map_cons, tget] at ih ⊢
    split
    · subst_vars; rfl
    · exact ih

@[simp] theorem thread_mapThreads (s : State) (f : ThreadId → Thread → Thread) (k : ThreadId) :
    (s.mapThreads f).thread k = (s.thread k).map (f k) := tget_tmap _ _ _

theorem updThread_eq (s : State) (i : ThreadId) (f : Thread → Thread) :
    s.updThread i f = s.mapThreads fun k t => if k = i then f t else t := by
  simp only [State.updThread, State.mapThreads, tupd, tmap]
  congr 1
  apply List.map_congr_left
  intro x _
  by_cases h : x.1 = i <;> simp [h]

theorem tmap_tmap {κ α : Type} (t : Tbl κ α) (f g : κ → α → α) : tmap (tmap t f) g = tmap t fun k v => g k (f k v) := by
  simp [tmap, Function.comp_def]

theorem mapThreads_mapThreads (s : State) (f g : ThreadId → Thread → Thread) :
    (s.mapThreads f).mapThreads g = s.mapThreads fun k t => g k (f k t) := by
  simp [State.mapThreads, tmap_tmap]

/-- The guard-true and the guard-false ids of a list. -/
def State.onOf (s : State) (f : L1) (ids : List ThreadId) : List (ThreadId × Thread) :=
  (ids.filterMap fun i => (s.thread i).map fun t => (i, t)).filter fun x => x.2.guard f.g f.gn
def State.offOf (s : State) (f : L1) (ids : List ThreadId) : List ThreadId :=
  ((ids.filterMap fun i => (s.thread i).map fun t => (i, t)).filter fun x => !x.2.guard f.g f.gn).map (·.1)

theorem onOf_sub {s : State} {f : L1} {ids : List ThreadId} {i : ThreadId} (h : i ∈ (s.onOf f ids).map (·.1)) : i ∈ ids := by
  simp only [State.onOf, List.mem_map, List.mem_filter, List.mem_filterMap, Option.map_eq_some_iff] at h
  obtain ⟨x, ⟨⟨j, hj, t, _, rfl⟩, _⟩, rfl⟩ := h
  exact hj

theorem offOf_sub {s : State} {f : L1} {ids : List ThreadId} {i : ThreadId} (h : i ∈ s.offOf f ids) : i ∈ ids := by
  simp only [State.offOf, List.mem_map, List.mem_filter, List.mem_filterMap, Option.map_eq_some_iff] at h
  obtain ⟨x, ⟨⟨j, hj, t, _, rfl⟩, _⟩, rfl⟩ := h
  exact hj

/-- The threads of a list issue one after another; none of them traps or waits. -/
theorem issueEach_ok {s : State} {f : L1} {opds : List Opd} {act : ThreadId → Thread → State → IssueRes}
    {acc : ThreadId × Thread → List Access} {e : Thread → Thread}
    (ids : List ThreadId) (nd : ids.Nodup) (hc : ∀ x ∈ s.onOf f ids, regCheck x.2 opds = none)
    (ho : ∀ x ∈ s.onOf f ids, ∀ a ∈ acc x, a.oneTeam)
    (ha : ∀ x ∈ s.onOf f ids, ∀ u : State, u.like s → act x.1 x.2 u = .ok ((u.addAll (acc x)).updThreads [x.1] e))
    (u : State) (hu : u.like s) (ht : ∀ i ∈ ids, u.thread i = s.thread i) :
    issueEach 2 f.g f.gn opds act ids (u, []) =
      ({ u.mapThreads (fun k t => if k ∈ (s.onOf f ids).map (·.1) then (e t).step 2
          else if k ∈ s.offOf f ids then t.step 2 else t) with
          seq := u.seq + ((s.onOf f ids).flatMap acc).length,
          accs := u.accs ++ numbered u.seq ((s.onOf f ids).flatMap acc) }, []) := by
  induction ids generalizing u with
  | nil => simp [issueEach, State.onOf, State.offOf, numbered, State.mapThreads, tmap]
  | cons i ids ih =>
    have hni := (List.nodup_cons.mp nd).1
    have nd' := (List.nodup_cons.mp nd).2
    have hi := ht i List.mem_cons_self
    cases hs : s.thread i with
    | none =>
      have e1 : s.onOf f (i :: ids) = s.onOf f ids := by simp [State.onOf, hs]
      have e2 : s.offOf f (i :: ids) = s.offOf f ids := by simp [State.offOf, hs]
      rw [e1] at hc ha ho
      simp only [issueEach, hi, hs, e1, e2]
      exact ih nd' hc ho ha u hu fun j hj => ht j (List.mem_cons_of_mem _ hj)
    | some t =>
      by_cases hg : t.guard f.g f.gn = true
      · have e1 : s.onOf f (i :: ids) = (i, t) :: s.onOf f ids := by simp [State.onOf, hs, hg]
        have e2 : s.offOf f (i :: ids) = s.offOf f ids := by simp [State.offOf, hs, hg]
        rw [e1] at hc ha ho
        have hc0 := hc _ List.mem_cons_self
        have ha0 := ha _ List.mem_cons_self u hu
        have ho0 := ho _ List.mem_cons_self
        simp only [issueEach, hi, hs, hg, if_true, hc0, ha0]
        have hlike : (((u.addAll (acc (i, t))).updThreads [i] e).updThread i fun t => t.step 2).like s := by
          unfold State.like at hu ⊢
          rw [addAll_eq _ _ ho0, updThread_eq]
          simp only [State.updThreads, State.mapThreads]
          rw [hu]
        have hth : ∀ j ∈ ids, (((u.addAll (acc (i, t))).updThreads [i] e).updThread i fun t => t.step 2).thread j = s.thread j := by
          intro j hj
          have hji : j ≠ i := fun h => hni (h ▸ hj)
          rw [addAll_eq _ _ ho0, updThread_eq]
          simp only [State.updThreads, thread_mapThreads, List.mem_singleton, hji, if_false]
          have := ht j (List.mem_cons_of_mem _ hj)
          unfold State.thread at this ⊢
          simp only [this]
          cases tget s.threads j <;> rfl
        rw [ih nd' (List.forall_mem_cons.mp hc).2 (List.forall_mem_cons.mp ho).2
          (List.forall_mem_cons.mp ha).2 _ hlike hth]
        rw [addAll_eq _ _ ho0, updThread_eq, e1, e2]
        simp only [State.updThreads, List.map_cons, List.flatMap_cons, numbered_append,
          State.mapThreads, List.length_append, Nat.add_assoc, List.append_assoc]
        congr 2
        simp only [tmap_tmap]
        apply tmap_congr
        intro x _
        by_cases hx : x.1 = i
        · have h1 : ¬ i ∈ (s.onOf f ids).map (·.1) := fun h => hni (onOf_sub h)
          have h2 : ¬ i ∈ s.offOf f ids := fun h => hni (offOf_sub h)
          rw [hx]
          simp [h1, h2]
        · by_cases hm : x.1 ∈ (s.onOf f ids).map (·.1)
          · simp only [if_pos hm, if_pos (List.mem_cons_of_mem i hm), List.mem_singleton, if_neg hx]
          · have : ¬ x.1 ∈ i :: (s.onOf f ids).map (·.1) := by
              simp only [List.mem_cons, hx, false_or]
              exact hm
            simp only [if_neg hm, if_neg this, List.mem_singleton, if_neg hx]
      · have hg' : t.guard f.g f.gn = false := by simpa using hg
        have e1 : s.onOf f (i :: ids) = s.onOf f ids := by simp [State.onOf, hs, hg']
        have e2 : s.offOf f (i :: ids) = i :: s.offOf f ids := by simp [State.offOf, hs, hg']
        rw [e1] at hc ha ho
        simp only [issueEach, hi, hs, hg', Bool.false_eq_true, if_false]
        have hlike : (u.updThread i fun t => t.step 2).like s := by
          unfold State.like at hu ⊢
          simp only [State.updThread]
          rw [hu]
        have hth : ∀ j ∈ ids, (u.updThread i fun t => t.step 2).thread j = s.thread j := by
          intro j hj
          have hji : j ≠ i := fun h => hni (h ▸ hj)
          rw [updThread_eq, thread_mapThreads, ht j (List.mem_cons_of_mem _ hj)]
          simp [hji]
        rw [ih nd' hc ho ha _ hlike hth, updThread_eq, e1, e2]
        simp only [State.mapThreads]
        congr 2
        simp only [tmap_tmap]
        apply tmap_congr
        intro x _
        by_cases hx : x.1 = i
        · have h1 : ¬ i ∈ (s.onOf f ids).map (·.1) := fun h => hni (onOf_sub h)
          have h2 : ¬ i ∈ s.offOf f ids := fun h => hni (offOf_sub h)
          rw [hx]
          simp [h1, h2]
        · simp [hx]

theorem on_off {s : State} {f : L1} {i : ThreadId} (h : i ∈ s.onIds f) : i ∉ s.offIds f := by
  simp only [State.onIds, State.onGroup, State.offIds, List.mem_map, List.mem_filter] at h ⊢
  rintro ⟨y, ⟨hy, hyg⟩, rfl⟩
  obtain ⟨x, ⟨hx, hxg⟩, he⟩ := h
  have h1 := (group_mem hx).2.2
  have h2 := (group_mem hy).2.2
  rw [he, h2] at h1
  simp_all

/-- A group whose guard-true threads all issue leaves the accesses outstanding, in the order of the threads. -/
theorem issueEach_issued {s : State} {f : L1} {opds : List Opd} {act : ThreadId → Thread → State → IssueRes}
    {acc : ThreadId × Thread → List Access} {e : Thread → Thread} (nd : s.gathered.ids.Nodup)
    (hc : ∀ x ∈ s.onGroup f, regCheck x.2 opds = none) (ho : ∀ x ∈ s.onGroup f, ∀ a ∈ acc x, a.oneTeam)
    (ha : ∀ x ∈ s.onGroup f, ∀ u : State, u.like s → act x.1 x.2 u = .ok ((u.addAll (acc x)).updThreads [x.1] e)) :
    issueEach 2 f.g f.gn opds act s.gathered.ids (s, []) = (s.issued f ((s.onGroup f).flatMap acc) e, []) := by
  rw [issueEach_ok (s := s) (f := f) (acc := acc) (e := e) s.gathered.ids nd hc ho ha s rfl (fun _ _ => rfl)]
  have e1 : s.onOf f s.gathered.ids = s.onGroup f := rfl
  have e2 : s.offOf f s.gathered.ids = s.offIds f := rfl
  rw [e1, e2]
  simp only [State.issued, State.uniNext, State.stepAll, State.updThreads, State.mapThreads]
  congr 2
  simp only [tmap_tmap]
  apply tmap_congr
  intro x _
  by_cases h : x.1 ∈ s.onIds f
  · have h' : x.1 ∈ (s.onGroup f).map (·.1) := h
    simp [h, on_off h, h']
  · have h' : ¬ x.1 ∈ (s.onGroup f).map (·.1) := h
    rw [if_neg h', if_neg h]

/-- A legal lane memory instruction whose guard-true threads all issue. -/
theorem runMem_issued {m : MemDef} {s : State} {f : L1} {act : ThreadId → Thread → State → IssueRes}
    {acc : ThreadId × Thread → List Access} {e : Thread → Thread} (hg : m.g = f.g) (hn : m.gn = f.gn) (hl : m.legal = true)
    (nd : s.gathered.ids.Nodup) (hc : ∀ x ∈ s.onGroup f, regCheck x.2 m.opds = none)
    (ho : ∀ x ∈ s.onGroup f, ∀ a ∈ acc x, a.oneTeam)
    (ha : ∀ x ∈ s.onGroup f, ∀ u : State, u.like s → act x.1 x.2 u = .ok ((u.addAll (acc x)).updThreads [x.1] e)) :
    runMem m act s = .next (s.issued f ((s.onGroup f).flatMap acc) e) := by
  simp only [runMem, hl, Bool.not_true, Bool.false_eq_true, if_false, hg, hn]
  rw [issueEach_issued nd hc ho ha]
  rfl

end Sys2Proof.Machine
end

