-- ==== Sys2Proof/Laws/Mem.lean ====
section
/-! SUPPORT. Memory: reading after writing, the canonical form, and translation when nothing is cached. -/
namespace Sys2Proof.Machine

/-! ## Bytes -/

/-- A byte written reads back, and every other byte reads as before. -/
theorem memGet_memSet (m : List Host.Cell) (lo a b : Nat) (v : Byte) (h : memWfFrom lo m = true) :
    memGet (memSet m a v) b = if b = a then v else memGet m b := by
  induction m generalizing lo with
  | nil =>
    simp only [memSet]
    split
    · simp only [memGet]; split <;> simp_all
    · simp only [memGet]
      by_cases hb : b = a
      · rw [if_pos hb, if_pos hb.symm]
      · rw [if_neg hb, if_neg (Ne.symm hb)]
  | cons x m ih =>
    obtain ⟨k, w⟩ := x
    simp only [memWfFrom, Bool.and_eq_true, decide_eq_true_eq] at h
    obtain ⟨⟨hk, hw⟩, hm⟩ := h
    have below : ∀ (l : Nat) (n : List Host.Cell), memWfFrom l n = true → ∀ c, c < l → memGet n c = Config.blank := by
      intro l n
      induction n generalizing l with
      | nil => intros; rfl
      | cons y n ihn =>
        obtain ⟨j, u⟩ := y
        intro hn c hc
        simp only [memWfFrom, Bool.and_eq_true, decide_eq_true_eq] at hn
        simp only [memGet]
        rw [if_neg (by omega)]
        exact ihn (j + 1) hn.2 c (by omega)
    simp only [memSet]
    split
    · rename_i hlt
      split
      · rename_i hv
        by_cases hb : b = a
        · simp only [memGet]
          rw [if_neg (by omega), if_pos hb, hv]
          exact below (k + 1) m hm b (by omega)
        · rw [if_neg hb]
      · simp only [memGet]
        by_cases hb : b = a
        · simp [hb]
        · rw [if_neg (Ne.symm hb), if_neg hb]
    · split
      · rename_i _ he
        subst he
        split
        · rename_i hv
          by_cases hb : b = a
          · subst hb
            rw [if_pos rfl, hv]
            exact below (b + 1) m hm b (by omega)
          · rw [if_neg hb]
            simp only [memGet]
            rw [if_neg (Ne.symm hb)]
        · simp only [memGet]
          by_cases hb : b = a
          · simp [hb]
          · rw [if_neg (Ne.symm hb), if_neg hb, if_neg (Ne.symm hb)]
      · simp only [memGet]
        by_cases hkb : k = b
        · rw [if_pos hkb, if_pos hkb, if_neg (by omega)]
        · rw [if_neg hkb, if_neg hkb]
          exact ih (k + 1) hm

theorem memWfFrom_mono {lo lo' : Nat} {m : List Host.Cell} (h : memWfFrom lo m = true) (hl : lo' ≤ lo) :
    memWfFrom lo' m = true := by
  cases m with
  | nil => rfl
  | cons x m =>
    simp only [memWfFrom, Bool.and_eq_true, decide_eq_true_eq] at h ⊢
    exact ⟨⟨by omega, h.1.2⟩, h.2⟩

theorem memSet_wfFrom {lo : Nat} (m : List Host.Cell) (a : Nat) (v : Byte) (h : memWfFrom lo m = true) (ha : lo ≤ a) :
    memWfFrom lo (memSet m a v) = true := by
  induction m generalizing lo with
  | nil =>
    simp only [memSet]
    split
    · rfl
    · simp_all [memWfFrom]
  | cons x m ih =>
    obtain ⟨k, w⟩ := x
    simp only [memWfFrom, Bool.and_eq_true, decide_eq_true_eq] at h
    simp only [memSet]
    split
    · split
      · simp [memWfFrom, h]
      · simp_all [memWfFrom] <;> omega
    · split
      · split
        · exact memWfFrom_mono h.2 (by omega)
        · simp_all [memWfFrom]
      · simp only [memWfFrom, Bool.and_eq_true, decide_eq_true_eq]
        exact ⟨h.1, ih h.2 (by omega)⟩

/-- A byte write keeps the canonical form. -/
theorem memSet_wf (m : List Host.Cell) (a : Nat) (v : Byte) (h : Memory.wf m = true) : Memory.wf (memSet m a v) = true :=
  memSet_wfFrom m a v h (Nat.zero_le a)

/-- A write of bytes keeps the canonical form. -/
theorem memPut_wf (bs : List Byte) : ∀ (m : List Host.Cell) (a : Nat), Memory.wf m = true → Memory.wf (memPut m a bs) = true := by
  induction bs with
  | nil => intro m a h; exact h
  | cons b bs ih => intro m a h; exact ih _ _ (memSet_wf m a b h)

/-- A write of a value keeps the canonical form. -/
theorem memWrite_wf (m : List Host.Cell) (a n v : Nat) (h : Memory.wf m = true) : Memory.wf (memWrite m a n v) = true :=
  memPut_wf _ m a h

/-- Bytes written from a on read back in their order, and every byte outside them reads as before. -/
theorem memGet_memPut (bs : List Byte) : ∀ (m : List Host.Cell) (a b : Nat), Memory.wf m = true →
    memGet (memPut m a bs) b = if a ≤ b ∧ b < a + bs.length then bs.getD (b - a) 0 else memGet m b := by
  induction bs with
  | nil =>
    intro m a b _
    simp only [memPut, List.length_nil]
    rw [if_neg (by omega)]
  | cons v bs ih =>
    intro m a b h
    simp only [memPut, List.length_cons]
    rw [ih _ _ _ (memSet_wf m a v h), memGet_memSet m 0 a b v h]
    by_cases h1 : b = a
    · subst h1
      rw [if_neg (by omega), if_pos rfl, if_pos (by omega)]
      simp
    · by_cases h2 : a + 1 ≤ b ∧ b < a + 1 + bs.length
      · rw [if_pos h2, if_pos (by omega)]
        have e : b - a = (b - (a + 1)) + 1 := by omega
        rw [e]
        rfl
      · rw [if_neg h2, if_neg h1, if_neg (by omega)]

/-! ## Translation without cached entries -/

@[simp] theorem tlbLook_nil (s : State) (u : Nat) (sp : Option (VfId × Nat)) (p page : Nat) : s.tlbLook [] u sp p page = none := by
  simp [State.tlbLook]

/-- The stage-2 page by the walk alone. -/
def State.walkPage2 (s : State) (part gpa : Nat) (k : HomeEnt) : Option Found :=
  match s.share part k.pkg with
  | none => none
  | some sh =>
    match walk (fun a => .ok (memRead s.mem (memKey k.pkg a) 8)) ⟨1, false, false, 0, part, none⟩ (gpa % 2 ^ 57) levels sh.s2root with
    | .error _ => none
    | .ok f => if sh.channels.getLsbD (f.frame * 2 ^ 12 / Config.channelSpan) then some f else none

theorem page2_walk {s : State} (h : s.s2tlb = []) (part gpa : Nat) (k : HomeEnt) : s.page2 part gpa k = s.walkPage2 part gpa k := by
  unfold State.page2 State.walkPage2
  rw [h]
  simp only [tlbLook_nil] <;> rfl

/-- Stage 2 by the walk alone. -/
def State.walk2 (s : State) (part gpa : Nat) (write : Bool) : Except Miss Nat :=
  let r := s.reach part gpa
  let miss : Miss := ⟨1, false, write, r.gpa / 2 ^ 12 * 2 ^ 12, r.part, r.window⟩
  if write && !r.wr then .error { miss with perm := true }
  else
    match s.homeOf part gpa with
    | none => .error miss
    | some (k, _) =>
      match s.walkPage2 r.part r.gpa k with
      | none => .error miss
      | some f =>
        if write && !f.wr then .error { miss with perm := true }
        else .ok (memKey k.pkg (f.frame * 2 ^ 12 + r.gpa % 2 ^ 12))

theorem stage2_walk {s : State} (h : s.s2tlb = []) (part gpa : Nat) (write : Bool) :
    s.stage2 part gpa write = s.walk2 part gpa write := by
  unfold State.stage2 State.walk2
  simp only [page2_walk h] <;> rfl

/-- The stage-1 page by the walk alone. -/
def State.walkPage1 (s : State) (c : CtxId) (va : Nat) (write : Bool) : Except Miss Found :=
  let part := s.partOfCtx c
  let miss : Miss := ⟨0, false, write, va / 2 ^ 12 * 2 ^ 12, part, none⟩
  match s.ctx c with
  | none => .error miss
  | some cx =>
    let rd := fun a =>
      match s.walk2 part a false with
      | .error m => .error m
      | .ok k => .ok (memRead s.mem k 8)
    walk rd miss (va % 2 ^ 57) levels cx.s1root

theorem page1_walk {s : State} (h1 : s.tlb = []) (h2 : s.s2tlb = []) (v : View) (va : Nat) (write : Bool) :
    s.page1 v va write = s.walkPage1 v.ctx va write := by
  unfold State.page1 State.walkPage1
  rw [h1]
  cases v.quad <;> simp only [Option.bind, tlbLook_nil, stage2_walk h2] <;> rfl

/-- Stage 1 by the walk alone. -/
def State.walk1 (s : State) (c : CtxId) (va : Nat) (write : Bool) : Except Miss Nat :=
  match s.walkPage1 c va write with
  | .error m => .error m
  | .ok f =>
    if write && !f.wr then .error ⟨0, true, write, va / 2 ^ 12 * 2 ^ 12, s.partOfCtx c, none⟩ else .ok (f.frame * 2 ^ 12 + va % 2 ^ 12)

theorem stage1_walk {s : State} (h1 : s.tlb = []) (h2 : s.s2tlb = []) (v : View) (va : Nat) (write : Bool) :
    s.stage1 v va write = s.walk1 v.ctx va write := by
  unfold State.stage1 State.walk1
  simp only [page1_walk h1 h2] <;> rfl

/-- Both stages by the walk alone. -/
def State.walkBoth (s : State) (c : CtxId) (va : Nat) (write : Bool) : Except Miss Place :=
  match s.walk1 c va write with
  | .error m => .error m
  | .ok gpa =>
    match s.walk2 (s.partOfCtx c) gpa write with
    | .error m => .error m
    | .ok k => .ok ⟨gpa, k, k / 2 ^ Config.physBits⟩

/-- With both TLBs empty an address translates as the tables say. -/
theorem translate_walk {s : State} (h1 : s.tlb = []) (h2 : s.s2tlb = []) (v : View) (va : Nat) (write : Bool) :
    s.translate v va write = s.walkBoth v.ctx va write := by
  unfold State.translate State.walkBoth
  rw [stage1_walk h1 h2]
  cases s.walk1 v.ctx va write with
  | error m => rfl
  | ok g =>
    (simp only [stage2_walk h2]) <;> cases s.walk2 (s.partOfCtx v.ctx) g write <;> rfl

/-- The first address of a range whose page the tables do not map for the access. -/
def State.missWalk (s : State) (c : CtxId) (va n : Nat) (write : Bool) : Option Nat :=
  let pages := rangeFrom (va / 4096) ((va + n + 4095) / 4096 - va / 4096)
  (pages.map fun p => max va (p * 4096)).find? fun a =>
    match s.walkBoth c a write with
    | .error _ => true
    | .ok _ => false

theorem missVa_walk {s : State} (h1 : s.tlb = []) (h2 : s.s2tlb = []) (v : View) (va n : Nat) (write : Bool) :
    s.missVa v va n write = s.missWalk v.ctx va n write := by
  unfold State.missVa State.missWalk
  simp only [translate_walk h1 h2] <;> rfl

/-- The bytes of a range as the tables map them. -/
def State.readWalk (s : State) (c : CtxId) (va : Nat) : Nat → Except Miss (List Byte)
  | 0 => .ok []
  | n + 1 =>
    match s.readWalk c va n with
    | .error m => .error m
    | .ok bs =>
      match s.walkBoth c (va + n) false with
      | .error m => .error m
      | .ok p => .ok (bs ++ [memGet s.mem p.key])

theorem readVa_walk {s : State} (h1 : s.tlb = []) (h2 : s.s2tlb = []) (v : View) (va n : Nat) :
    s.readVa v va n = s.readWalk v.ctx va n := by
  induction n with
  | zero => rfl
  | succ n ih => rw [State.readVa, State.readWalk, ih, translate_walk h1 h2] <;> rfl

/-- The bytes of whole lines as the tables map them. -/
def State.linesWalk (s : State) (c : CtxId) (va : Nat) : Nat → Except Miss (List Byte)
  | 0 => .ok []
  | n + 1 =>
    match s.linesWalk c va n with
    | .error m => .error m
    | .ok bs =>
      match s.walkBoth c (va + 128 * n) false with
      | .error m => .error m
      | .ok p => .ok (bs ++ memBytes s.mem p.key 128)

theorem readLines_walk {s : State} (h1 : s.tlb = []) (h2 : s.s2tlb = []) (v : View) (va n : Nat) :
    s.readLines v va n = s.linesWalk v.ctx va n := by
  induction n with
  | zero => rfl
  | succ n ih => rw [State.readLines, State.linesWalk, ih, translate_walk h1 h2] <;> rfl

/-! ## Addresses of one page -/

theorem walk_page (rd : Nat → Except Miss Nat) (m : Miss) {a b : Nat} (h : a / 2 ^ 12 = b / 2 ^ 12) (ls : List Nat) :
    ∀ t, walk rd m a ls t = walk rd m b ls t := by
  have fields : ∀ k w, fld a (12 + k) w = fld b (12 + k) w := by
    intro k w
    simp only [fld, Nat.pow_add, ← Nat.div_div_eq_div_mul]
    rw [h]
  induction ls with
  | nil => intro t; rfl
  | cons l ls ih =>
    intro t
    have f0 := fields 0
    simp only [walk, fields, ih, Nat.add_zero] at f0 ⊢
    simp only [f0]

/-- Addresses of one page go the same way through stage 1. -/
theorem walk1_page {s : State} {c : CtxId} {b g i : Nat} (hb : b % 2 ^ 12 = 0) (hi : i < 2 ^ 12) (h : s.walk1 c b false = .ok g) :
    s.walk1 c (b + i) false = .ok (g + i) := by
  have hp : (b + i) / 2 ^ 12 = b / 2 ^ 12 := by omega
  have hw : s.walkPage1 c (b + i) false = s.walkPage1 c b false := by
    unfold State.walkPage1
    simp only [hp, walk_page _ _ (show (b + i) % 2 ^ 57 / 2 ^ 12 = b % 2 ^ 57 / 2 ^ 12 by omega)]
  unfold State.walk1 at h ⊢
  rw [hw]
  cases hc : s.walkPage1 c b false with
  | error m => rw [hc] at h; cases h
  | ok f =>
    rw [hc] at h
    have e : (b + i) % 2 ^ 12 = i := by omega
    simp only [Bool.false_and, Bool.false_eq_true, if_false, hb, e, Nat.add_zero, Except.ok.injEq] at h ⊢
    rw [h]

/-- And through stage 2, at one home, without a grant. -/
theorem walk2_page {s : State} {p g k i : Nat} (hg : s.grants = []) (hb : g % 2 ^ 12 = 0) (hi : i < 2 ^ 12)
    (hh : (s.homeOf p (g + i)).map (·.1) = (s.homeOf p g).map (·.1)) (h : s.walk2 p g false = .ok k) :
    s.walk2 p (g + i) false = .ok (k + i) := by
  have r : ∀ a, s.reach p a = ⟨p, a, true, none⟩ := by
    intro a
    unfold State.reach
    rw [hg]
    rfl
  unfold State.walk2 at h ⊢
  simp only [r, Bool.false_and, Bool.false_eq_true, if_false] at h ⊢
  cases ha : s.homeOf p g with
  | none => rw [ha] at h; cases h
  | some x =>
    rw [ha] at h hh
    cases hc : s.homeOf p (g + i) with
    | none => rw [hc] at hh; cases hh
    | some y =>
      rw [hc] at hh
      obtain ⟨y1, y2⟩ := y
      obtain ⟨x1, x2⟩ := x
      obtain rfl : y1 = x1 := Option.some.inj hh
      have hw : s.walkPage2 p (g + i) y1 = s.walkPage2 p g y1 := by
        unfold State.walkPage2
        simp only [walk_page _ _ (show (g + i) % 2 ^ 57 / 2 ^ 12 = g % 2 ^ 57 / 2 ^ 12 by omega)]
      simp only [hw] at h ⊢
      cases hf : s.walkPage2 p g y1 with
      | none => rw [hf] at h; cases h
      | some f =>
        rw [hf] at h
        have e : (g + i) % 2 ^ 12 = i := by omega
        simp only [hb, e, Nat.add_zero, Except.ok.injEq, memKey] at h ⊢
        rw [← h, Nat.add_assoc]

/-- A range within a page reads when its first byte does and its lines have one home. -/
theorem readWalk_page {s : State} {c : CtxId} {b g k n : Nat} (hg : s.grants = []) (hb : b % 2 ^ 12 = 0) (hn : n ≤ 2 ^ 12)
    (h1 : s.walk1 c b false = .ok g) (h2 : s.walk2 (s.partOfCtx c) g false = .ok k) (hb2 : g % 2 ^ 12 = 0)
    (hh : ∀ i < n, (s.homeOf (s.partOfCtx c) (g + i)).map (·.1) = (s.homeOf (s.partOfCtx c) g).map (·.1)) :
    s.readWalk c b n = .ok ((List.range n).map fun i => memGet s.mem (k + i)) := by
  induction n with
  | zero => rfl
  | succ n ih =>
    rw [State.readWalk, ih (by omega) fun i hi => hh i (by omega)]
    simp only [State.walkBoth, walk1_page hb (show n < 2 ^ 12 by omega) h1,
      walk2_page hg hb2 (show n < 2 ^ 12 by omega) (hh n (by omega)) h2, List.range_succ, List.map_append, List.map_cons, List.map_nil]

end Sys2Proof.Machine
end

