-- ==== Sys2Proof/Laws/Queues.lean ====
section
/-! SUPPORT. Handles: their fields, and that a handle made for a queue set is valid (R319, R320). -/
namespace Sys2Proof.Machine

/-- The fields of a handle read back. -/
theorem makeHandle_fields (part : Nat) (v : VfId) {idx rights gen : Nat} (hi : idx < 2 ^ 10) (hr : rights < 2 ^ 3)
    (hg : gen < 2 ^ 16) :
    fld (makeHandle part v idx rights gen) 0 10 = idx ∧ fld (makeHandle part v idx rights gen) 16 3 = rights ∧
      fld (makeHandle part v idx rights gen) 32 16 = gen := by
  unfold makeHandle fld
  generalize (Config.handleSeal part idx rights gen v.pkg v.vf).toNat = x
  omega

/-- A handle fits 64 bits. -/
theorem makeHandle_lt (part : Nat) (v : VfId) {idx rights gen : Nat} (hi : idx < 2 ^ 10) (hr : rights < 2 ^ 3)
    (hg : gen < 2 ^ 16) : makeHandle part v idx rights gen < 2 ^ 64 := by
  unfold makeHandle
  have := (Config.handleSeal part idx rights gen v.pkg v.vf).isLt
  omega

/-- A handle made for a queue set of the VF's partition is valid for that VF. -/
theorem handleValid_make {s : State} {v : VfId} {idx rights : Nat} {q : QSet} (hq : s.qset ⟨s.partOfVf v, idx⟩ = some q)
    (hi : idx < 2 ^ 10) (hr : rights < 2 ^ 3) (hg : q.gen < 2 ^ 16) :
    s.handleValid v (makeHandle (s.partOfVf v) v idx rights q.gen) = true := by
  obtain ⟨h0, h1, -⟩ := makeHandle_fields (s.partOfVf v) v hi hr hg
  unfold State.handleValid
  simp only [h0, h1, hq, decide_true]

/-- It passes the check for each right that it has. -/
theorem handleBad_make {s : State} {v : VfId} {idx rights right : Nat} {q : QSet} (hq : s.qset ⟨s.partOfVf v, idx⟩ = some q)
    (hi : idx < 2 ^ 10) (hr : rights < 2 ^ 3) (hg : q.gen < 2 ^ 16) (h : right = 0 ∨ rights &&& right ≠ 0) :
    s.handleBad v (makeHandle (s.partOfVf v) v idx rights q.gen) right = none := by
  obtain ⟨-, h1, -⟩ := makeHandle_fields (s.partOfVf v) v hi hr hg
  unfold State.handleBad
  rw [handleValid_make hq hi hr hg, h1]
  rcases h with h | h <;> simp [h]

end Sys2Proof.Machine
end

