-- ==== Sys2Proof/Laws/Values.lean ====
section
/-! SUPPORT. Values of registers and bit fields: bounds, narrowing, and what a group write stores. -/
namespace Sys2Proof.Machine

theorem val_lt (e : Env) (t : Thread) (n : Nat) : t.val e n < 2 ^ 32 := by
  unfold Thread.val
  split
  · exact BitVec.isLt _
  · repeat' split
    all_goals omega

/-- A group of w registers holds fewer than 32w + 1 bits. -/
theorem readReg_lt (e : Env) (t : Thread) (n w : Nat) : t.readReg e n w < 2 ^ (32 * w) := by
  induction w with
  | zero => simp [Thread.readReg]
  | succ w ih =>
    have hv := val_lt e t (n + w)
    have hp : (2 : Nat) ^ (32 * (w + 1)) = 2 ^ (32 * w) * 2 ^ 32 := by rw [Nat.mul_add, Nat.pow_add]
    rw [Thread.readReg, hp]
    have := Nat.mul_le_mul_left (2 ^ (32 * w)) (Nat.le_pred_of_lt hv)
    have h2 : 2 ^ (32 * w) * (2 ^ 32 : Nat).pred + 2 ^ (32 * w) = 2 ^ (32 * w) * 2 ^ 32 := by
      rw [← Nat.mul_succ]
      rfl
    omega

@[simp] theorem grp_toNat (e : Env) (t : Thread) (n w : Nat) : (t.grp e n w).toNat = t.readReg e n w := by
  simp [Thread.grp, Nat.mod_eq_of_lt (readReg_lt e t n w)]

theorem w32_mod_pow (v : Nat) {w k : Nat} (h : k < w) :
    w32 (v % 2 ^ (32 * w) / 2 ^ (32 * k)) = w32 (v / 2 ^ (32 * k)) := by
  apply BitVec.eq_of_toNat_eq
  simp only [w32, BitVec.toNat_ofNat]
  have hw : (2 : Nat) ^ (32 * w) = 2 ^ (32 * k) * 2 ^ (32 * (w - k)) := by rw [← Nat.pow_add]; congr 1; omega
  have h1 : (2 : Nat) ^ (32 * (w - k)) = 2 ^ 32 * 2 ^ (32 * (w - k) - 32) := by rw [← Nat.pow_add]; congr 1; omega
  rw [hw, Nat.mod_mul_right_div_self, h1, Nat.mod_mul_right_mod]

theorem writeReg_congr (t : Thread) (n tag : Nat) {w v v' W : Nat} (hw : w ≤ W)
    (h : v % 2 ^ (32 * W) = v' % 2 ^ (32 * W)) : t.writeReg n w v tag = t.writeReg n w v' tag := by
  induction w with
  | zero => rfl
  | succ w ih =>
    have hk : w < W := by omega
    simp only [Thread.writeReg, ih (by omega)]
    rw [← w32_mod_pow v hk, ← w32_mod_pow v' hk, h]

/-- A group write stores the value modulo 2^(32w) (R5). -/
theorem writeReg_mod (t : Thread) (n w tag : Nat) {v v' : Nat} (h : v % 2 ^ (32 * w) = v' % 2 ^ (32 * w)) :
    t.writeReg n w v tag = t.writeReg n w v' tag := writeReg_congr t n tag (Nat.le_refl w) h

theorem gsz_pos (w : BitVec 2) : 0 < gsz w := Nat.pow_pos (by decide)

/-- Two effects that agree in the gathered threads give the same state. -/
theorem laneNext_congr {s : State} {f : L1} {k : Nat} {e e' : Env → Thread → Thread}
    (h : ∀ en t, e en t = e' en t) : s.laneNext f k e = s.laneNext f k e' := by
  have : e = e' := by funext en t; exact h en t
  rw [this]

end Sys2Proof.Machine
end

