-- ==== Sys2Proof/Tests/Slice0.lean ====
section
/-! SUPPORT. Tests of the model: words that the manual works out, terms that are not well-formed, small steps with results taken
from the manual, and for every statement with hypotheses a concrete state and operands that meet them. -/
open Sys2Proof Sys2Proof.Machine Sys2Proof.Claims
namespace Sys2Proof.Tests
set_option Elab.async false
set_option linter.unusedSimpArgs false

/-! ## States that the tests are about -/

/-- The core, the team and the threads that the tests use. -/
def core : CoreId := ⟨0, 0⟩
def team : TeamId := ⟨core, 0⟩
def lane (l : Nat) : ThreadId := ⟨team, l⟩
/-- Registers of a thread written: number, value, tag. -/
def setRegs (t : Thread) (l : List (Nat × Nat × Nat)) : Thread := l.foldl (fun t x => t.writeReg x.1 1 x.2.1 x.2.2) t
/-- One live thread, gathered, with the given registers. -/
def one (l : List (Nat × Nat × Nat)) : State :=
  { ((State.reset.withFetchWord 64 0).mapThreads fun _ t => setRegs t l) with gathered := ⟨core, [lane 0], false⟩ }
/-- Its thread. -/
def th (l : List (Nat × Nat × Nat)) : Thread := setRegs (startThread 120) l
/-- Two live threads, gathered, with the same registers. -/
def two (l : List (Nat × Nat × Nat)) (rdv : Bool) : State :=
  { one l with threads := [(lane 0, th l), (lane 1, th l)], gathered := ⟨core, [lane 0, lane 1], rdv⟩ }
/-- Base-word fields with the guard that is always true. -/
def f1 (w : BitVec 2) (d a : BitVec 7) : L1 := ⟨31, false, w, d, a⟩
def fr (w : BitVec 2) (d a b : BitVec 7) : L2R := ⟨f1 w d a, b, 0, 0, 0⟩
def fi (w : BitVec 2) (d a : BitVec 7) (l : W32) : L2I := ⟨f1 w d a, l⟩
def fm (w : BitVec 2) (d a ix : BitVec 7) (space : BitVec 3) : LM := ⟨f1 w d a, 0, space, ix, 0, 0, 2, 0⟩
/-- A check answered the given value. -/
def okIs {ε α : Type} [DecidableEq α] (e : Except ε α) (x : α) : Bool :=
  match e with
  | .ok y => decide (y = x)
  | .error _ => false
theorem okIs_iff {ε α : Type} [DecidableEq α] {e : Except ε α} {x : α} : okIs e x = true ↔ e = .ok x := by
  cases e <;> simp [okIs]
/-- A check answered the given error. -/
def errIs {ε α : Type} [DecidableEq ε] (e : Except ε α) (x : ε) : Bool :=
  match e with
  | .error y => decide (y = x)
  | .ok _ => false
theorem errIs_iff {ε α : Type} [DecidableEq ε] {e : Except ε α} {x : ε} : errIs e x = true ↔ e = .error x := by
  cases e <;> simp [errIs]
/-- A step's next state. -/
def goes : Out → Bool
  | .next _ => true
  | .fault _ => false
  | .refused _ => false
def reached : Out → State
  | .next t => t
  | .fault _ => State.reset
  | .refused _ => State.reset
theorem reached_iff {r : Out} (h : goes r = true) : r = .next (reached r) := by
  cases r with
  | next t => rfl
  | fault f => simp [goes] at h
  | refused x => simp [goes] at h
/-- A block with a handler at entry 1 of the resident overlay. -/
def handled : State :=
  let b := ((one []).blockOf team).getD ⟨⟨⟨0, 0⟩, 0⟩, 0, 0, 0, 0, 0, [], 0, 0, 0, false⟩
  { (one []).updCore core fun k => { k with overlays := k.overlays.map fun o : Overlay => { o with entries := [0, 2] } } with
    blocks := [(⟨core, 0⟩, { b with handler := 1 })] }
def handledBlock : Block := (handled.blockOf team).getD ⟨⟨⟨0, 0⟩, 0⟩, 0, 0, 0, 0, 0, [], 0, 0, 0, false⟩
def oneBlock : Block := ((one []).blockOf team).getD ⟨⟨⟨0, 0⟩, 0⟩, 0, 0, 0, 0, 0, [], 0, 0, 0, false⟩
/-! ## Words that the manual works out -/

/-- 02_formats, Encoding examples: `!p3: ADD.x2 v8, v10, v12`, LDW in stream 3, REP 4. -/
theorem test_words_of_formats :
    decode 0x023A2050 (some 0x18000000) = .ok (.addReg ⟨⟨3, true, 1, 8, 10⟩, 12, 0, 0, 0⟩) ∧
    decode 0x61F05024 (some 0x30262810) = .ok (.ldw ⟨⟨31, false, 0, 20, 4⟩, 3, 0, 9, 2, 0, 5, 16⟩) ∧
    decode 0x21F00002 (some 0x00000004) = .ok (.rep ⟨⟨31, false, 0, 0, 0⟩, 4⟩) :=
  by refine ⟨?_, ?_, ?_⟩ <;> exact okIs_iff.mp (by decide +kernel)

/-- 04_integer, Worked examples: `p2: SEL v6, v7, v8, p5` and `BSEL v3, v1, zero, 0x053`, also with its byte 3 forced to 0. -/
theorem test_words_of_integer :
    decode 0x0820183C (some 0x10140000) = .ok (.sel ⟨⟨2, false, 0, 6, 7⟩, 8, 5, 0, 0⟩) ∧
    decode 0x0DF00C0B (some 0xF8000053) = .ok (.bsel ⟨⟨31, false, 0, 3, 1⟩, 124, 0, 0, 0x53⟩) ∧
    decode 0x0DF00C0B (some 0xF8010053) = .ok (.bsel ⟨⟨31, false, 0, 3, 1⟩, 124, 0, 16, 0x53⟩) :=
  by refine ⟨?_, ?_, ?_⟩ <;> exact okIs_iff.mp (by decide +kernel)

/-- 05_control: `FLIP v5, v4, v2, 16`; 07_element: `p1: FFMA.rz.x2 v8, -v10, v12, |v14|`. -/
theorem test_words_of_control_and_element :
    decode 0x25F01421 (some 0x04001010) = .ok (.flip ⟨⟨31, false, 0, 5, 4⟩, 2, 0, 1, 16⟩) ∧
    decode 0x40122055 (some 0x18385021) = .ok (.ffma ⟨⟨1, false, 1, 8, 10⟩, 12, 14, 5, 0x21⟩) :=
  by refine ⟨?_, ?_⟩ <;> exact okIs_iff.mp (by decide +kernel)

/-- 08_memory: `LDT.f16.x4 v16, [v4.x2 + 64] s2`; 09_ordering: FENCE.partition, XFENCE.package, WAITC, PUTSIG; 10_combining: ATADD,
ATCAS.x2. -/
theorem test_words_of_memory :
    decode 0x61F44025 (some 0x20082840) = .ok (.ldt ⟨⟨31, false, 2, 16, 4⟩, 2, 0, 2, 0, 0, 5, 64⟩) ∧
    decode 0x9DF00003 (some 0x00000006) = .ok (.fence ⟨⟨31, false, 0, 0, 0⟩, 6⟩) ∧
    decode 0x9DF01404 (some 0x00040002) = .ok (.xfence ⟨⟨31, false, 0, 5, 0⟩, 0x00040002⟩) ∧
    decode 0x9DF00005 (some 0x00FFFFC0) = .ok (.waitc ⟨⟨31, false, 0, 0, 0⟩, 0x00FFFFC0⟩) ∧
    decode 0x63F44025 (some 0x50283020) = .ok (.putsig ⟨⟨31, false, 2, 16, 4⟩, 5, 0, 10, 0, 0, 6, 32⟩) ∧
    decode 0x65F02020 (some 0x20243010) = .ok (.atadd ⟨⟨31, false, 0, 8, 4⟩, 2, 0, 9, 0, 0, 6, 16⟩) ∧
    decode 0x67F22023 (some 0x00302800) = .ok (.atcas ⟨⟨31, false, 1, 8, 4⟩, 0, 0, 12, 0, 0, 5, 0⟩) :=
  by refine ⟨?_, ?_, ?_, ?_, ?_, ?_, ?_⟩ <;> exact okIs_iff.mp (by decide +kernel)

/-- 11_copy: `CPY.sp.g 9, v8.x4, v12 s1 package`; 12_matrix: MMAM; 13_tasks: TSPAWN, JWAIT, BAR.block 3; 14_gates: GOPEN, GWAIT. -/
theorem test_words_of_engines :
    decode 0x91F01440 (some 0x18001049) = .ok (.cpy ⟨⟨31, false, 0, 5, 8⟩, 12, 0, 1, 0x49⟩) ∧
    decode 0x95F0C841 (some 0x18400403) = .ok (.mmam ⟨⟨31, false, 0, 0x32, 8⟩, 12, 16, 0, 0x403⟩) ∧
    decode 0x99F00820 (some 0x10000000) = .ok (.tspawn ⟨⟨31, false, 0, 2, 4⟩, 8, 0, 0, 0⟩) ∧
    decode 0x9BF00021 (some 0x0C000018) = .ok (.jwait ⟨⟨31, false, 0, 0, 4⟩, 6, 0, 0, 24⟩) ∧
    decode 0x9DF00000 (some 0x00000019) = .ok (.bar ⟨⟨31, false, 0, 0, 0⟩, 0x19⟩) ∧
    decode 0x9FF01008 (some 0x00000000) = .ok (.gopen ⟨⟨31, false, 0, 4, 1⟩, 0, 0, 0, 0⟩) ∧
    decode 0x9FF00823 (some 0x0C000000) = .ok (.gwait ⟨⟨31, false, 0, 2, 4⟩, 6, 0, 0, 0⟩) :=
  by refine ⟨?_, ?_, ?_, ?_, ?_, ?_, ?_⟩ <;> exact okIs_iff.mp (by decide +kernel)

/-- 15_overlays: OVLD, CALLO; 16_system: TRAP, SRD, SWR, ERRD and SNAP. -/
theorem test_words_of_system :
    decode 0xA1F00840 (some 0x00000000) = .ok (.ovld ⟨⟨31, false, 0, 2, 8⟩, 0, 0, 0, 0⟩) ∧
    decode 0xA1F07845 (some 0x00000000) = .ok (.callo ⟨⟨31, false, 0, 30, 8⟩, 0, 0, 0, 0⟩) ∧
    decode 0xA3F00000 (some 0x00000005) = .ok (.trap ⟨⟨31, false, 0, 0, 0⟩, 0, 0, 0, 5⟩) ∧
    decode 0xA3F00801 (some 0x00000024) = .ok (.srd ⟨⟨31, false, 0, 2, 0⟩, 0, 0, 0, 0x24⟩) ∧
    decode 0xA3F0001A (some 0x00000041) = .ok (.swr ⟨⟨31, false, 0, 0, 3⟩, 0, 0, 0, 0x41⟩) ∧
    decode 0xA3F01805 (some 0x00000008) = .ok (.errd ⟨⟨31, false, 0, 6, 0⟩, 0, 0, 0, 8⟩) ∧
    decode 0x9BF00805 (some 0x00000000) = .ok (.snap ⟨⟨31, false, 0, 2, 0⟩, 0, 0, 0, 0⟩) :=
  by refine ⟨?_, ?_, ?_, ?_, ?_, ?_, ?_⟩ <;> exact okIs_iff.mp (by decide +kernel)

/-- The families that have no worked word: each written out from the base word of R32 and the second words of R39 to R41 (R56, R57). -/
theorem test_words_written_out :
    decode 0b0_000111_11111_0_00_0000001_0000010_011#32 none = .ok (.abs ⟨31, false, 0, 1, 2⟩) ∧
    decode 0b0_001011_11111_0_00_0000001_0000010_111#32 (some 0b0000011_0000000_000001_000000000000#32) =
      .ok (.pset ⟨⟨31, false, 0, 1, 2⟩, 3, 0, 1, 0⟩) ∧
    decode 0b0_100010_11111_0_00_0000001_0000010_011#32 none = .ok (.rcp ⟨31, false, 0, 1, 2⟩) ∧
    decode 0b0_100100_11111_0_00_0000001_0000010_000#32 (some 0b0000000_0000000_000000_000000100001#32) =
      .ok (.cvt ⟨⟨31, false, 0, 1, 2⟩, 0, 0, 0, 0x21⟩) ∧
    decode 0b0_100101_11111_0_00_0000001_0000010_011#32 (some 0b0000011_0000100_000000_000000000000#32) =
      .ok (.dot4f ⟨⟨31, false, 0, 1, 2⟩, 3, 4, 0, 0⟩) ∧
    decode 0b0_110001_11111_0_00_0000001_0000010_010#32 (some 0b0000_001_1111100_00_00_010_00000000100#32) =
      .ok (.stw ⟨⟨31, false, 0, 1, 2⟩, 0, 1, 124, 0, 0, 2, 4⟩) ∧
    decode 0b1_000011_11111_0_00_0000001_0000010_010#32 (some 0b0000011_0000000_000000_000000000000#32) =
      .ok (.ucmpLt ⟨⟨31, false, 0, 1, 2⟩, 3, 0, 0, 0⟩) ∧
    decode 0b1_000100_11111_0_00_0000001_0000010_010#32 (some 0b0000_001_1111100_00_00_010_00000000100#32) =
      .ok (.ustw ⟨⟨31, false, 0, 1, 2⟩, 0, 1, 124, 0, 0, 2, 4⟩) ∧
    decode 0b1_001001_11111_0_00_0000001_0000000_010#32 (some 0b0000000_0000000_000000_000000000111#32) =
      .ok (.tfirst ⟨⟨31, false, 0, 1, 0⟩, 0, 0, 0, 7⟩) :=
  by refine ⟨?_, ?_, ?_, ?_, ?_, ?_, ?_, ?_, ?_⟩ <;> exact okIs_iff.mp (by decide +kernel)

/-! ## Terms that are not well-formed -/

/-- One term for each check of step 1 in the formats (R33, R34, R38, R40, R44): a width that the instruction does not have, an odd pair, a quad at
2, a group above v119, a predicate guard above 23 other than 31, a field that must be 0, a literal or an immediate outside its range. -/
theorem test_refuses_fields :
    ([.mov (f1 3 1 2), .add (f1 1 3 4), .add (f1 2 2 4), .add (f1 0 120 4), .add ⟨24, false, 0, 1, 2⟩, .addReg ⟨f1 0 1 2, 3, 1, 0, 0⟩,
      .addReg ⟨f1 0 1 2, 3, 0, 1, 0⟩, .addReg ⟨f1 0 1 2, 3, 0, 0, 1⟩, .cmpEq (fr 0 24 2 3), .sel ⟨f1 0 6 7, 8, 24, 0, 0⟩,
      .rep (fi 0 0 0 0), .rep (fi 0 0 0 65), .nop (f1 0 1 0), .bra (fi 0 1 0 0)] : List Instr).all (fun i => !i.wf) = true := by
  decide +kernel

/-- The same in memory, ordering, engine and system words: an odd address pair, SPACE 4, a fence scope
above 7, an odd signal pair, a guard where none may be, misaligned groups, ERRD of counter 12. -/
theorem test_refuses_operands :
    ([.ldw (fm 0 20 5 9 0), .ldw (fm 0 20 4 124 4), .ldb (fm 1 20 4 124 0), .ste (fm 0 4 4 124 0),
      .putsig (fm 0 16 4 5 0), .atcas (fm 1 8 4 10 0), .fence (fi 0 0 0 8), .xfence (fi 0 8 0 0), .waitc (fi 0 0 0 0x01000000),
      .ovld (fr 0 2 9 0), .errd ⟨f1 0 6 0, 0, 0, 0, 12⟩, .trap ⟨f1 0 1 0, 0, 0, 0, 5⟩, .snap ⟨⟨3, false, 0, 2, 0⟩, 0, 0, 0, 0⟩,
      .gopen (fr 0 5 1 0), .mma (fr 1 0 8 12), .cpy (fr 0 8 8 12), .tspawn (fr 0 2 5 8)] : List Instr).all (fun i => !i.wf) = true := by
  decide +kernel

/-- Events and commands that name what the machine does not have (R13, R14, R17, R413). -/
theorem test_refuses_names :
    ([.threadRetire ⟨⟨⟨0, 256⟩, 0⟩, 0⟩, .threadRetire ⟨⟨core, 64⟩, 0⟩, .threadRetire (lane 32), .pendingLaunchTake ⟨256, 0⟩, .sliceBoundary 32,
      .bucketRefill 65536 0, .stealMessage ⟨32, 0⟩ ⟨0, 0⟩, .stealMessage ⟨0, 1024⟩ ⟨0, 0⟩, .stealMessage ⟨0, 0⟩ ⟨0, 4⟩, .crdoor ⟨0, some 1024⟩ 0,
      .partSet ⟨⟨256, none⟩, 0, 0, 0⟩, .firmwareBoot 256] : List Instr).all (fun i => !i.wf) = true := by
  decide +kernel

/-! ## Small steps, with the manual's results -/

/-- What lane l's register n, or its tag, holds after an instruction. -/
def val (i : Instr) (s : State) (l n : Nat) : Option W32 := (((reached (exec i s)).thread (lane l)).bind (·.regs[n]?)).map (·.val)
def tagOf (i : Instr) (s : State) (l n : Nat) : Option (BitVec 4) := (((reached (exec i s)).thread (lane l)).bind (·.regs[n]?)).map (·.tag)
/-- A lane's thread after an instruction. -/
def thr (i : Instr) (s : State) (l : Nat) : Thread := ((reached (exec i s)).thread (lane l)).getD (startThread 0)
/-- Twelve gathered threads with p1 in lanes 1, 3, 4 and 8. -/
def dozen : State :=
  { one [] with
    threads := (List.range 12).map fun l => (lane l, (startThread 120).setPred 1 ([1, 3, 4, 8].contains l))
    gathered := ⟨core, (List.range 12).map lane, false⟩ }
/-- Lanes 0 and 1 with 10 and 11 in r4 and member mask 3 in r2, released as one set. -/
def pair : State := { two [] true with threads := [(lane 0, th [(2, 3, 0), (4, 10, 0)]), (lane 1, th [(2, 3, 0), (4, 11, 0)])] }

/-- A word that is not well-formed raises ILLEGAL_ENCODING, cause 0x01, and the thread's handler runs (R44, R380). -/
theorem test_ill_formed_word_traps : (thr (.add (f1 1 3 4)) handled 0).cause = 0x01 := by decide +kernel
/-- 04_integer: BSEL of 0x11223344 with selector 0x053 reverses it, and a zero mask forces byte 3 to 0. -/
theorem test_bsel :
    val (.bsel ⟨f1 0 3 1, 124, 0, 0, 0x53⟩) (one [(1, 0x11223344, 0)]) 0 3 = some 0x44332211 ∧
    val (.bsel ⟨f1 0 3 1, 124, 0, 16, 0x53⟩) (one [(1, 0x11223344, 0)]) 0 3 = some 0x00332211 := by decide +kernel
/-- 04_integer: LEAX with index -1, signed and unsigned. -/
theorem test_leax :
    val (.leax ⟨f1 1 20 4, 9, 0, 0, 3⟩) (one [(4, 0xFFFFFFF0, 0), (5, 0x7F00, 0), (9, 0xFFFFFFFF, 0)]) 0 20 = some 0xFFFFFFE8 ∧
    val (.leax ⟨f1 1 20 4, 9, 0, 0, 7⟩) (one [(4, 0xFFFFFFF0, 0), (5, 0x7F00, 0), (9, 0xFFFFFFFF, 0)]) 0 21 = some 0x7F08 := by decide +kernel
/-- 04_integer: the literal ADD wraps, and LEA takes a negative literal. -/
theorem test_add_wraps_and_lea :
    val (.addLit (fi 0 22 4 0x20)) (one [(4, 0xFFFFFFF0, 0)]) 0 22 = some 0x10 ∧
    val (.lea (fi 1 24 4 0xFFFFFFF0)) (one [(4, 0xFFFFFFF0, 0), (5, 0x7F00, 0)]) 0 24 = some 0xFFFFFFE0 := by decide +kernel
/-- 04_integer: the lost carry sets p1. -/
theorem test_cmp_ltu : (thr (.cmpLtu (fr 0 1 22 4)) (one [(22, 0x10, 0), (4, 0xFFFFFFF0, 0)]) 0).preds = 2 := by decide +kernel
/-- 04_integer: DIV of -7 by 2, REM of -7 by 2 and of 7 by -2, DIVU of 5 by 0. -/
theorem test_divide :
    val (.div (fr 0 1 2 3)) (one [(2, 0xFFFFFFF9, 0), (3, 2, 0)]) 0 1 = some 0xFFFFFFFD ∧
    val (.rem (fr 0 1 2 3)) (one [(2, 0xFFFFFFF9, 0), (3, 2, 0)]) 0 1 = some 0xFFFFFFFF ∧
    val (.rem (fr 0 1 2 3)) (one [(2, 7, 0), (3, 0xFFFFFFFE, 0)]) 0 1 = some 1 ∧
    val (.divu (fr 0 1 2 3)) (one [(2, 5, 0), (3, 0, 0)]) 0 1 = some 0xFFFFFFFF := by decide +kernel
/-- 04_integer: ULANE, UCNT and ULEAD give rank, count and first member of the p1 threads; the others keep their register. -/
theorem test_group_rank :
    ([1, 3, 4, 8].map fun l => val (.ulane ⟨1, false, 0, 2, 0⟩) dozen l 2) = [some 0, some 1, some 2, some 3] ∧
    val (.ucnt ⟨1, false, 0, 3, 0⟩) dozen 8 3 = some 4 ∧ val (.ulead ⟨1, false, 0, 10, 0⟩) dozen 8 10 = some 1 ∧
    val (.ucnt ⟨1, false, 0, 3, 0⟩) dozen 2 3 = some 0 := by decide +kernel
/-- R126: FLIP by 1 exchanges the values of lanes 0 and 1. -/
theorem test_flip :
    val (.flip ⟨f1 0 5 4, 2, 0, 1, 1⟩) pair 0 5 = some 11 ∧ val (.flip ⟨f1 0 5 4, 2, 0, 1, 1⟩) pair 1 5 = some 10 := by decide +kernel
/-- 07_element: CVT of 1.5, -2, 460 and 0.3 to E4M3 gives 0x2A7EC03C with tag 4, and raises NX alone. -/
theorem test_cvt :
    val (.cvt ⟨f1 0 8 0, 0, 0, 0, 0x14⟩) (one [(0, 0x3FC00000, 1), (1, 0xC0000000, 1), (2, 0x43E60000, 1), (3, 0x3E99999A, 1)]) 0 8 =
      some 0x2A7EC03C ∧
    (thr (.cvt ⟨f1 0 8 0, 0, 0, 0, 0x14⟩) (one [(0, 0x3FC00000, 1), (1, 0xC0000000, 1), (2, 0x43E60000, 1), (3, 0x3E99999A, 1)]) 0).fflags =
      0x10 := by decide +kernel
/-- 07_element: DOT4F of those with four ones is 447.8125, exactly; with a RAW operand it raises TAG_MISMATCH. -/
theorem test_dot4f :
    val (.dot4f ⟨f1 0 11 8, 9, 10, 0, 0⟩) (one [(8, 0x2A7EC03C, 4), (9, 0x38383838, 4), (10, 0, 1)]) 0 11 = some 0x43DFE800 ∧
    (thr (.dot4f ⟨f1 0 11 8, 9, 10, 0, 0⟩) ({ handled with threads := [(lane 0, th [(8, 0x2A7EC03C, 4), (9, 0x38383838, 0), (10, 0, 1)])] }) 0).regs[11]?
      = some ⟨0, 0, false⟩ := by decide +kernel
/-- 07_element: SCL with scales 0.5 and 0.25. -/
theorem test_scl :
    val (.scl ⟨f1 0 12 11, 13, 10, 0, 4⟩) (one [(11, 0x43DFE800, 1), (13, 0x6870, 11), (10, 0, 1)]) 0 12 = some 0x425FE800 := by
  decide +kernel
/-- R377, R148: SWR of FMODE, and SRD of FFLAGS. -/
theorem test_special_registers :
    (thr (.swr ⟨f1 0 0 3, 0, 0, 0, 0x41⟩) (one [(3, 2, 0)]) 0).fmode = 2 ∧
    val (.srd ⟨f1 0 2 0, 0, 0, 0, 0x40⟩) ((one []).mapThreads fun _ t => { t with fflags := 0x11 }) 0 2 = some 0x11 := by decide +kernel
/-- R376: TRAP 5 raises SOFTWARE with TINFO 5, and TLINK names the instruction after it. -/
theorem test_trap :
    let t := thr (.trap ⟨f1 0 0 0, 0, 0, 0, 5⟩) handled 0
    t.cause = 0x31 ∧ t.tinfo = 5 ∧ t.tlinkHi = 2 ∧ t.inh = true := by decide +kernel

/-! ## The statements' hypotheses are met

Each theorem takes a statement and applies its clauses to concrete states and operands, with a proof of every hypothesis of each. -/

/-- What a proof proves: a clause's conclusion, at a state and operands that meet its hypotheses. -/
def Applies {c : Prop} (_ : c) : Prop := c
theorem applies {c : Prop} (x : c) : Applies x := x

/-- Link pair of the thread's own overlay at an offset. -/
def here (off : Nat) : List (Nat × Nat × Nat) := [(2, 0, 0), (3, off, 0)]
/-- The base state inside a rendezvous that has been released. -/
def rdv (l : List (Nat × Nat × Nat)) : State := { one l with gathered := ⟨core, [lane 0], true⟩ }
/-- An overlay with the given words, at whose start the thread stands. -/
def withBody (s : State) (ws : List W32) : State := s.updCore core fun k => { k with overlays := k.overlays.map fun o =>
  { o with body := ws, len := ws.length } }
/-- Four words, the third an ADD r2 += r4. -/
def addWords : List W32 := [0, 2, 0b0_000000_11111_0_00_0000010_0000100_000#32, 0]
/-- F32 numbers 1.5 and -2.0, and 0.1 as BF16 pairs. -/
def floats : List (Nat × Nat × Nat) := [(2, 0x3FC00000, 1), (3, 0xC0000000, 1), (4, 0x3F800000, 1)]
/-- The base state whose core has 64 KiB of scratchpad. -/
def padded (s : State) : State := s.updCore core fun k => { k with poolb1 := 0x10000, poolb2 := 0x10000 }
/-- Register pair (2, 3) at 0x8000, pair (6, 7) at 0x9000, data in 4. -/
def addrs : List (Nat × Nat × Nat) := [(2, 0x8000, 0), (4, 0x12345678, 0), (6, 0x9000, 0)]
/-- A team whose task is guarded. -/
def guarded (s : State) : State := s.updTeam team fun t => { t with task := some ⟨⟨0, 8, 0, 0⟩, none, 0⟩ }
/-- Page tables that map the first GiB of the context and of its partition to itself: roots at 0x4000 and 0x1000 (R401, R402). -/
def tables : List Host.Cell :=
  [(0x1000, 0x01), (0x1001, 0x20), (0x2000, 0x01), (0x2001, 0x30), (0x3000, 0x07), (0x4000, 0x01), (0x4001, 0x50), (0x5000, 0x01),
   (0x5001, 0x60), (0x6000, 0x07)]
/-- A state whose context has those tables, homed on a package. -/
def mappedOn (pkg : Nat) (s : State) : State :=
  { s with mem := tables.map fun c => (memKey pkg c.1, c.2), ctxs := tmap s.ctxs fun _ c => { c with s1root := 0x4000 }
           parts := tmap s.parts fun _ p => { p with
             homing := ⟨[], [⟨pkg, 0, 1⟩]⟩, shares := p.shares.map fun x => { x with pkg := pkg, slices := 1, channels := 1, s2root := 0x1000 } } }
def mapped (s : State) : State := mappedOn 0 s
/-- An outstanding access of the thread at 0x8000, or at a scratchpad location. -/
def acc (kind : AccKind) (loc : Option Loc) : Access :=
  { newAccess (one []) (lane 0) kind (if loc.isSome then 1 else 0) 0x8000 4 loc with dst := 5, g := 1, data := 7 }
/-- The state with that access alone. -/
def withAcc (a : Access) : State := { mapped (padded (one [])) with seq := 1, accs := [a] }
/-- The line of the access, in the L1. -/
def line : L1Line := ⟨⟨0, 0⟩, 0, 256, 0, 0x8000, 0x8000, false, [], none⟩
def lined (s : State) : State := s.updCore core fun k => { k with l1 := [line] }
/-- The same access with its home on package 1. -/
def afar (kind : AccKind) : State := { mappedOn 1 (padded (one [])) with seq := 1, accs := [acc kind none] }
/-- A request of that access, and its flight. -/
def req (loc : Loc) : Req := ⟨0, 0, 0x8000, .add, loc, 4, 7, 0, 0, 0, [(0, 7, 0)], 0, ⟨⟨0, 0⟩, 0⟩, []⟩
def flying (loc : Loc) (at_ : Spot) : State := { withAcc (acc (.atomic .add) (match loc with | .pad c o => some (.pad c o) | _ => none)) with
  flights := [⟨req loc, at_, 0, 0, false⟩] }
/-- A request of the access with an operation, at its home. -/
def atHome (op : NetOp) : Flight := ⟨{ req (.glob 0 0x8000) with op := op }, .toHome, 0, 0, false⟩
def homing (op : NetOp) : State := { flying (.glob 0 0x8000) .toHome with flights := [atHome op] }
/-- A queue entry with two contributions. -/
def entry : QEntry := ⟨req (.glob 0 0x8000), 0, [(0, 7), (1, 3)], [0, 1], true, [req (.glob 0 0x8000), { req (.glob 0 0x8000) with rid := 1 }]⟩
/-- The one thread parked. -/
def parked (p : Park) : State := (one []).updThread (lane 0) fun t => { t with park := p }
/-- A set of the team's threads, released. -/
def set2 (l : List (Nat × Nat × Nat)) : State := two l true
/-- Operands of a copy in the scratchpad: destination 0x100, source 0x200, and the B and C groups. -/
def copyRegs (b : List Nat) (c : Nat) : List (Nat × Nat × Nat) :=
  [(8, 0x100, 0), (10, 0x200, 0), (16, c, 0)] ++ b.mapIdx fun k v => (12 + k, v, 0)
/-- A copy in the scratchpad with tag 3. -/
def copyInstr (m : BitVec 6) (c : BitVec 7) : L2R := ⟨f1 0 2 8, 12, c, m, 3⟩
/-- One thread on a core with scratchpad and an engine. -/
def engined (s : State) : State :=
  padded { s with parts := tmap s.parts fun _ p => { p with shares := p.shares.map fun x => { x with engines := 1 } } }
/-- A copy taken up, of one word, with its command. -/
def copying (lines : List (CoreId × Nat)) (todo : List Nat) (dsp : Nat) : Copy :=
  { seq := 0, cmd := ⟨⟨core, 0⟩, 0, 3, 0, 0, 2, dsp, 1, 0, 0x100, 0x200, 0, [4], 0, ⟨⟨0, 0⟩, 0⟩⟩, issuers := [lane 0], memmove := false,
    todo := todo, vals := [], idx := [], waits := [], lines := lines, error := none }
/-- A guarded team that holds a store of an engine. -/
def keeping (s : State) : State := (guarded s).updTeam team fun t => { t with held := [acc .engine none] }
/-- The state with that copy. -/
def withCopy (x : Copy) : State :=
  (engined (one [])).updCore core fun k => { k with copies := [x], empty := [2] }
/-- A busy copy on tag 6. -/
def busy6 : Copy := { copying [] [0] 1 with cmd := ⟨⟨core, 0⟩, 0, 6, 0, 0, 2, 1, 1, 0, 0x100, 0x200, 0, [4], 0, ⟨⟨0, 0⟩, 0⟩⟩ }
/-- Tag 5 ended in error, tag 6 is busy. -/
def tagState (l : List (Nat × Nat × Nat)) : State :=
  (engined (one l)).updCore core fun k => { k with errs := [⟨5, 0x10, 64, 0⟩], copies := [busy6], ctag := 0x20 }
/-- A copy to global memory whose source word is read, and its visit, whose address has no translation. -/
def missCopy : Copy := { copying [] [0] 0 with vals := [(0, 0)] }
theorem copy_miss : (withCopy missCopy).copyVisit core missCopy 0 = .miss ⟨1, false, false, 0, 0, none⟩ 0x100 := by
  have h : (withCopy missCopy).translate (viewAt ⟨⟨0, 0⟩, 0⟩ core) 0x100 true = .error ⟨1, false, false, 0, 0, none⟩ :=
    (translate_walk rfl rfl _ _ _).trans (errIs_iff.mp (by decide +kernel))
  have e : (withCopy missCopy).engineStore missCopy.engine 0x100 0 = .error ⟨1, false, false, 0, 0, none⟩ := by
    show (match (withCopy missCopy).translate (viewAt ⟨⟨0, 0⟩, 0⟩ core) 0x100 true with
      | .error m => Except.error m
      | .ok p => .ok ((withCopy missCopy).memStore p.key 4 0)) = _
    rw [h]
  show (match (withCopy missCopy).engineStore missCopy.engine 0x100 0 with
    | .error m => WordRes.miss m (addr64 0x100)
    | .ok s => .got s) = _
  rw [e]
  rfl
/-- A gather whose index is unread. -/
def gathering : Copy := { copying [] [0] 1 with cmd := { (copying [] [0] 1).cmd with minor := 2, isp := 1, list := 0x300, par := [1, 4] } }
/-- One word left is the word picked. -/
theorem pickWords_one (t k : Nat) : pickWords t [k] = [k] := by
  unfold pickWords
  by_cases h : Config.pick t k <;> simp [h]
/-- Operand registers of a matrix command: base 0x100, stride 32 at 8; base 0x1000 at 12; masks at 16. -/
def matRegs (c : List Nat) : List (Nat × Nat × Nat) :=
  [(8, 0x100, 0), (10, 32, 0), (12, 0x1000, 0), (14, 32, 0)] ++ c.mapIdx fun k v => (16 + k, v, 0)
/-- A matrix command on scratchpad operands. -/
def matInstr (d : BitVec 7) (b c : BitVec 7) (m : BitVec 6) : L2R := ⟨f1 0 d 8, b, c, m, 0⟩
/-- A released thread with those registers, tile 0 float. -/
def matState (c : List Nat) : State :=
  { (padded (one (matRegs c))).updCore core fun k => { k with tiles := [⟨0, 1, [(3, 0x3F800000)]⟩] } with gathered := ⟨core, [lane 0], true⟩ }
/-- Its command as read. -/
def matCmdOf (n : Nat) (f : L2R) (s : State) : MatCmd :=
  s.readied.matCmd n f (lane 0) ((s.readied.thread (lane 0)).getD (th [])) (s.readied.onIds f.toL1) (if n = 3 then 0 else f.imm.toNat / 512)
/-- A command in the queue. -/
def queued (n : Nat) (f : L2R) (c : List Nat) (st : AccState) : State × MatCmd :=
  let s := matState c
  let m : MatCmd := { matCmdOf n f s with key := 0, seq := 0, state := st }
  ({ s with seq := 1 }.updCore core fun k => { k with mq := [m] }, m)
/-- Bytes put into the scratchpad. -/
def withPad (a : Nat) (bs : List Byte) (s : State) : State := s.updCore core fun k => { k with scratch := memPut k.scratch a bs }
/-- Legal metadata, and a job card of one step. -/
def metaState : State := withPad 0x2000 (List.replicate 64 0x44) (matState [0x2000])
def card : List Byte := natToBytes 8 0x100 ++ natToBytes 8 0x1000 ++ natToBytes 4 32 ++ natToBytes 4 32 ++ List.replicate 40 0
def walkRegs : List (Nat × Nat × Nat) := [(8, 0x2000, 0), (16, 0x00010001, 0), (17, 0x01FFFFFF, 0)]
/-- A command with every piece of its step read as the same number, and the state that queues it. -/
def loaded (q : State × MatCmd) (v : Nat) : State × MatCmd :=
  let m := { q.2 with got := (q.2.missing 0).map fun n => (0, n, v) }
  (q.1.updCore core fun k => { k with mq := [m] }, m)
/-- A store command that has taken one cell. -/
def storing : State × MatCmd :=
  let q := queued 5 (matInstr 0x10 0 16 0) [0x00010001] .waiting
  let m := { q.2 with acted := true, todo := [(0, 7)] }
  (q.1.updCore core fun k => { k with mq := [m] }, m)
/-- The same to global memory, of a guarded team. -/
def storingFar : State × MatCmd :=
  let q := queued 5 (matInstr 0x00 0 16 0) [0x00010001] .waiting
  let m := { q.2 with acted := true, todo := [(0, 7)] }
  ((guarded q.1).updCore core fun k => { k with mq := [m] }, m)
/-- A refused store command of a team that a trap has stopped. -/
def struckMat : State × MatCmd :=
  let q := queued 5 (matInstr 0x10 0 16 0) [0x00010001] .refused
  (q.1.updTeam team fun t => { t with stop := .fresh (lane 0) (trapR 1 0 0) }, q.2)
def walkState : State := withPad 0x2000 card { (padded (one walkRegs)).updCore core fun k => { k with tiles := [⟨0, 1, [(3, 0x3F800000)]⟩] } with gathered := ⟨core, [lane 0], true⟩ }
/-- A read came to the given state and value. -/
def readIs (r : RunRes) (s : State) (v : Nat) : Bool :=
  match r with
  | .got t w => decide (t = s) && decide (w = v)
  | _ => false
theorem readIs_got {r : RunRes} {s : State} {v : Nat} (h : readIs r s v = true) : r = .got s v := by
  cases r <;> simp_all [readIs]
/-- A value read twice alike has the same bytes whichever reading gives each. -/
theorem mixBytes_same (t n a : Nat) : mixBytes t n a a = bytesToNat ((List.range n).map fun k => BitVec.ofNat 8 (byteFld a k 1)) := by
  unfold mixBytes
  simp only [ite_self]
/-- The commands of those states, and what their metadata and card hold. -/
def metaCmd : MatCmd := matCmdOf 2 (matInstr 0x30 12 16 0) metaState
def metaVal : Nat := memRead (metaState.core core).scratch 0x2000 metaCmd.metaRun.2.2
def walkCmd : MatCmd := matCmdOf 6 (matInstr 0x30 0 16 0) walkState
def cardVal : Nat := memRead (walkState.core core).scratch 0x2000 64
theorem meta_read : cardRead metaState.readied metaCmd metaCmd.metaRun metaState.readied metaVal := by
  refine ⟨by decide +kernel, metaState.readied, metaState.readied, metaVal, metaVal, readIs_got (by decide +kernel), by decide +kernel,
    readIs_got (by decide +kernel), ?_⟩
  rw [mixBytes_same]
  decide +kernel
theorem card_read : cardRead walkState.readied walkCmd walkCmd.cardRun walkState.readied cardVal := by
  refine ⟨by decide +kernel, walkState.readied, walkState.readied, cardVal, cardVal, readIs_got (by decide +kernel), by decide +kernel,
    readIs_got (by decide +kernel), ?_⟩
  rw [mixBytes_same]
  decide +kernel
/-- A launch entry of the tests' team for queue set 0. -/
def launch (minor kind join n : Nat) : Launch :=
  ⟨minor, [], none, ⟨0, 0⟩, ⟨0x500, BitVec.ofNat 64 (0x40 + kind), BitVec.ofNat 64 join, BitVec.ofNat 64 (3 * 2 ^ 32)⟩, n, [lane 0], 4, team, ⟨⟨0, 0⟩, 0⟩, [], false⟩
/-- The seal of the tests' handle: queue set 0 of partition 0, every right, generation 0, for VF 0 of package 0. -/
def sealBits : Nat := (Config.handleSeal 0 0 7 0 0 0).toNat
/-- Registers with that handle in (2, 3), a record in the octet at 16, and the address 0x8000 in (8, 9). -/
def qRegs : List (Nat × Nat × Nat) := [(2, 0x70000, 0), (3, 65536 * sealBits, 0), (8, 0x8000, 0), (16, 0x500, 0), (18, 0x40, 0), (22, 9, 0), (23, 3, 0)]
/-- The registers hold the handle. -/
theorem qRegs_read (e : Env) (p : Park) : ({ th qRegs with park := p }).readReg e 2 2 = makeHandle 0 ⟨0, 0⟩ 0 7 0 := by
  have h : ({ th qRegs with park := p }).readReg e 2 2 = 0 + 2 ^ (32 * 0) * 0x70000 + 2 ^ (32 * 1) * (65536 * sealBits / 2 ^ (32 * 0) % 2 ^ 32) := rfl
  have : sealBits < 2 ^ 16 := (Config.handleSeal 0 0 7 0 0 0).isLt
  rw [h, show makeHandle 0 ⟨0, 0⟩ 0 7 0 = 0 + 2 ^ 16 * 7 + 2 ^ 32 * 0 + 2 ^ 48 * sealBits from rfl]
  omega
/-- An empty queue set, one with a record, and that record. -/
def emptyQ : QSet := ⟨0, ⟨0, 0⟩, 4, 0, 0, 0, 0, 0, [], 0, [], [], [], [], []⟩
def qrec : QRec := ⟨5, 0, ⟨0, 0⟩, 0, ⟨0x500, 0x40, 0, 9⟩, .queued, none, true, true⟩
def fullQ : QSet := { emptyQ with recs := [qrec] }
/-- One thread with a queue set, bound to window 0, and quota. -/
def withQ (q : QSet) (n : Nat) (l : List (Nat × Nat × Nat)) : State :=
  { one l with qsets := [(⟨0, 0⟩, q)], blocks := tmap (one l).blocks fun _ b => { b with windows := [BitVec.ofNat 64 (makeHandle 0 ⟨0, 0⟩ 0 7 0), 0, 0, 0] }
               vfs := tmap (one l).vfs fun _ v => { v with quota := n, out := 0 } }
/-- The handle names the set and has every right. -/
theorem handle_ok {q : QSet} (n : Nat) (l : List (Nat × Nat × Nat)) (h : q.gen = 0) (right : Nat) (hr : right = 0 ∨ 7 &&& right ≠ 0) :
    (withQ q n l).handleBad ⟨0, 0⟩ (makeHandle 0 ⟨0, 0⟩ 0 7 0) right = none := by
  have := handleBad_make (s := withQ q n l) (v := ⟨0, 0⟩) (idx := 0) (rights := 7) (right := right) (q := q) rfl (by decide) (by decide) (by omega) hr
  rwa [h] at this
theorem qHandle {q : QSet} (n : Nat) (h : q.gen = 0) (right : Nat) (hr : right = 0 ∨ 7 &&& right ≠ 0) (e : Env) :
    (withQ q n qRegs).handleBad ⟨0, 0⟩ ((th qRegs).readReg e 2 2) right = none := by
  rw [show (th qRegs).readReg e 2 2 = makeHandle 0 ⟨0, 0⟩ 0 7 0 from qRegs_read e .ready]
  exact handle_ok n qRegs h right hr
/-- It names queue set 0. -/
theorem qHandle_set (n : Nat) (q : QSet) (e : Env) : (withQ q n qRegs).handleSet ⟨0, 0⟩ ((th qRegs).readReg e 2 2) = ⟨0, 0⟩ := by
  rw [show (th qRegs).readReg e 2 2 = makeHandle 0 ⟨0, 0⟩ 0 7 0 from qRegs_read e .ready]
  show (⟨0, fld (makeHandle 0 ⟨0, 0⟩ 0 7 0) 0 10⟩ : QSetId) = _
  rw [(makeHandle_fields 0 ⟨0, 0⟩ (by decide) (by decide) (by decide)).1]
theorem qHandle_q (n : Nat) (q : QSet) (e : Env) :
    (withQ q n qRegs).qset ((withQ q n qRegs).handleSet ⟨0, 0⟩ ((th qRegs).readReg e 2 2)) = some q := by
  rw [qHandle_set]
  rfl
/-- The window holds it. -/
theorem qWindow (n : Nat) (q : QSet) (l : List (Nat × Nat × Nat)) : (withQ q n l).windowOf (lane 0) 0 = makeHandle 0 ⟨0, 0⟩ 0 7 0 := by
  show (BitVec.ofNat 64 (makeHandle 0 ⟨0, 0⟩ 0 7 0)).toNat = _
  rw [BitVec.toNat_ofNat]
  exact Nat.mod_eq_of_lt (makeHandle_lt 0 ⟨0, 0⟩ (by decide) (by decide) (by decide))
theorem qWindow_set (n : Nat) (q : QSet) (l : List (Nat × Nat × Nat)) : (withQ q n l).handleSet ⟨0, 0⟩ ((withQ q n l).windowOf (lane 0) 0) = ⟨0, 0⟩ := by
  rw [qWindow]
  show (⟨0, fld (makeHandle 0 ⟨0, 0⟩ 0 7 0) 0 10⟩ : QSetId) = _
  rw [(makeHandle_fields 0 ⟨0, 0⟩ (by decide) (by decide) (by decide)).1]
theorem qWindow_q (n : Nat) (q : QSet) (l : List (Nat × Nat × Nat)) :
    (withQ q n l).qset ((withQ q n l).handleSet ⟨0, 0⟩ ((withQ q n l).windowOf (lane 0) 0)) = some q := by
  rw [qWindow_set]
  rfl
theorem qWindow_ok {q : QSet} (n : Nat) (l : List (Nat × Nat × Nat)) (h : q.gen = 0) (right : Nat) (hr : right = 0 ∨ 7 &&& right ≠ 0) :
    (withQ q n l).windowBad (lane 0) 0 right = none := by
  have hz : makeHandle 0 ⟨0, 0⟩ 0 7 0 ≠ 0 := fun e => by
    have hf := (makeHandle_fields 0 ⟨0, 0⟩ (idx := 0) (rights := 7) (gen := 0) (by decide) (by decide) (by decide)).2.1
    rw [e] at hf
    exact absurd hf (by decide)
  unfold State.windowBad
  rw [qWindow, if_neg hz]
  exact handle_ok n l h right hr
/-- The thread leads. -/
theorem qGroup (d a : BitVec 7) : (one qRegs).onGroup (f1 0 d a) = [(lane 0, th qRegs)] := rfl
theorem qLeadsOf {s : State} {f : L1} (srcs dsts : List Opd) (ht : s.threads = (one qRegs).threads) (hg : s.gathered = (one qRegs).gathered)
    (ho : (one qRegs).onGroup f = [(lane 0, th qRegs)]) (hs : regCheck (th qRegs) srcs = none)
    (hd : regCheck (th qRegs) dsts = none) : s.leads f srcs dsts (lane 0) (th qRegs) := by
  have hg : s.onGroup f = [(lane 0, th qRegs)] := by
    rw [← ho]
    unfold State.onGroup State.group State.thread
    rw [ht, hg]
  refine ⟨by rw [hg]; rfl, hs, fun x hx => ?_⟩
  rw [hg] at hx
  obtain rfl : x = (lane 0, th qRegs) := List.mem_singleton.mp hx
  exact hd
theorem qLeads (q : QSet) (n : Nat) (srcs dsts : List Opd) (hs : regCheck (th qRegs) srcs = none) (hd : regCheck (th qRegs) dsts = none) (d a : BitVec 7) :
    (withQ q n qRegs).leads (f1 0 d a) srcs dsts (lane 0) (th qRegs) := qLeadsOf srcs dsts rfl rfl (qGroup d a) hs hd
/-- In a state that has queue set 0, the registers' handle names it and has every right. -/
theorem qBad {s : State} {q : QSet} (hp : s.partOfVf ⟨0, 0⟩ = 0) (hq : s.qset ⟨0, 0⟩ = some q) (h : q.gen = 0) (right : Nat)
    (hr : right = 0 ∨ 7 &&& right ≠ 0) (e : Env) : s.handleBad ⟨0, 0⟩ ((th qRegs).readReg e 2 2) right = none := by
  rw [show (th qRegs).readReg e 2 2 = makeHandle 0 ⟨0, 0⟩ 0 7 0 from qRegs_read e .ready]
  have := handleBad_make (s := s) (v := ⟨0, 0⟩) (idx := 0) (rights := 7) (right := right) (q := q) (by rw [hp]; exact hq) (by decide) (by decide) (by omega) hr
  rwa [hp, h] at this
theorem qNames {s : State} {q : QSet} (hp : s.partOfVf ⟨0, 0⟩ = 0) (hq : s.qset ⟨0, 0⟩ = some q) (e : Env) :
    s.qset (s.handleSet ⟨0, 0⟩ ((th qRegs).readReg e 2 2)) = some q := by
  rw [show (th qRegs).readReg e 2 2 = makeHandle 0 ⟨0, 0⟩ 0 7 0 from qRegs_read e .ready]
  show s.qset (⟨s.partOfVf ⟨0, 0⟩, fld (makeHandle 0 ⟨0, 0⟩ 0 7 0) 0 10⟩ : QSetId) = _
  rw [hp, (makeHandle_fields 0 ⟨0, 0⟩ (by decide) (by decide) (by decide)).1, hq]
/-- The window of such a state holds it. -/
theorem wBad {s : State} {q : QSet} (hw : s.windowOf (lane 0) 0 = makeHandle 0 ⟨0, 0⟩ 0 7 0) (hc : (s.ctxId (lane 0)).vf = ⟨0, 0⟩)
    (hp : s.partOfVf ⟨0, 0⟩ = 0) (hq : s.qset ⟨0, 0⟩ = some q) (h : q.gen = 0) (right : Nat) (hr : right = 0 ∨ 7 &&& right ≠ 0) :
    s.windowBad (lane 0) 0 right = none := by
  have hz : makeHandle 0 ⟨0, 0⟩ 0 7 0 ≠ 0 := fun e => by
    have hf := (makeHandle_fields 0 ⟨0, 0⟩ (idx := 0) (rights := 7) (gen := 0) (by decide) (by decide) (by decide)).2.1
    rw [e] at hf
    exact absurd hf (by decide)
  have := handleBad_make (s := s) (v := ⟨0, 0⟩) (idx := 0) (rights := 7) (right := right) (q := q) (by rw [hp]; exact hq) (by decide) (by decide) (by omega) hr
  unfold State.windowBad
  rw [hw, if_neg hz, hc]
  rwa [hp, h] at this
/-- A snapshot of the team with register 2 holding 5. -/
def snap1 : Snap := 
  ⟨4, 0, ⟨team, { block := ⟨core, 0⟩, tnum := 0, role := 0, frame := 0, targ := 0, task := none, unchk := 0, mnv := false, mof := false, msat := false, held := [], wlines := [], wtiles := [], snap := none, stop := .running, commitDue := false, irrevocable := false }, [(0, th [(2, 5, 0)])], []⟩, [], []⟩
/-- A continuation in the set, and the state that can pop it; the same with an access of the team outstanding; a resume that the team may take. -/
def cont1 : Cont := ⟨⟨0, 0⟩, 0, 5, 0x9000, ⟨⟨0, 0⟩, 0⟩, none, none, 1, 0⟩
def contQ : QSet := { emptyQ with conts := [cont1] }
theorem getD_some {α : Type} {o : Option α} (h : o.isSome = true) (x : α) : o = some (o.getD x) := by cases o with
  | none => simp at h
  | some y => rfl
def conted (as : List Access) : State := { mapped (withQ contQ 9 qRegs) with accs := as }
def resuming (as : List Access) : State :=
  { withQ fullQ 9 qRegs with accs := as, ctxs := tmap (withQ fullQ 9 qRegs).ctxs fun _ x => { x with snaps := [snap1], resumes := [⟨4, [⟨0, 0⟩], true⟩] } }
/-- The set with a full launch queue. -/
def jammed : State := (withQ fullQ 9 qRegs).updCore core fun k => { k with launch := List.replicate 4 (launch 0 0 0 1) }
/-- The set with an access of the thread outstanding. -/
def engaged : State := { withQ fullQ 9 qRegs with accs := [acc .store none] }
/-- A released team with the queue set, memory mapped, and a frame at 0x10000. -/
def jwaiting (busy : Bool) : State :=
  { mapped ((withQ emptyQ 9 qRegs).updTeam team fun t => { t with frame := 0x10000 }) with
    gathered := ⟨core, [lane 0], true⟩, accs := if busy then [acc .store none] else [] }
theorem jwait_ok (busy : Bool) : (jwaiting busy).readied.jwaitBad (lane 0) 0x8000 (makeHandle 0 ⟨0, 0⟩ 0 7 0) 8 = none := by
  unfold State.jwaitBad
  have h : (jwaiting busy).readied.handleBad ((jwaiting busy).readied.ctxId (lane 0)).vf (makeHandle 0 ⟨0, 0⟩ 0 7 0) rightEnq = none :=
    handleBad_make (s := (jwaiting busy).readied) (v := ⟨0, 0⟩) (idx := 0) (rights := 7) (right := 1) (q := emptyQ) rfl (by decide) (by decide) (by decide) (by decide)
  have hp : (jwaiting busy).readied.place (lane 0) 0 0x8000 16 true = .ok none := by
    cases busy <;> exact okIs_iff.mp (by decide +kernel)
  simp only [hp, h]
  cases busy <;> decide +kernel
/-- A released team of one thread, its block with a register budget. -/
def allotting (n : Nat) : State :=
  { (one []).updBlock ⟨core, 0⟩ fun b => { b with budget := n } with gathered := ⟨core, [lane 0], true⟩, threads := [(lane 0, startThread 64)] }
/-- The state with that entry waiting, under a quota. -/
def launching (e : Launch) (quota : Nat) : State :=
  { (mapped (withQ fullQ quota [])).updCore core (fun k => { k with launch := [e] }) with threads := [(lane 0, { startThread 120 with ldn := 1 })] }
/-- A join to lower. -/
def join (addr : Nat) : Join := ⟨0, ⟨⟨0, 0⟩, 0⟩, false, [], addr, [], some (⟨0, 0⟩, 5)⟩
def joining (addr : Nat) : State := { mapped (withQ { fullQ with recs := [{ qrec with state := .running }] } 9 []) with joins := [join addr], seq := 1 }
/-- Three records on die 1, and a pop that waits on die 0. -/
def stealQ : QSet := { emptyQ with recs := [{ qrec with die := ⟨0, 1⟩ }, { qrec with die := ⟨0, 1⟩, no := 6 }, { qrec with die := ⟨0, 1⟩, no := 7 }] }
def stealing : State :=
  { withQ stealQ 9 [] with threads := [(lane 0, { startThread 120 with park := .window 1 .entry })], parts := tmap (one []).parts fun _ p => { p with
    shares := p.shares.map fun x => { x with quads := 0x10001 } } }
/-- A fence whose records are complete. -/
def fencedQ : QSet := { emptyQ with fences := [(1, 6, none)], fenceSeq := 1, fenceLog := 0x9000, recs := [{ qrec with state := .done }] }
/-- A gate owned by VF 0, which may use it; its counter is 5. -/
def acl (period tokens : Nat) : AclEnt := ⟨true, ⟨0, 0⟩, true, true, true, tokens, 4, period, 0, 0⟩
def gate (closed : Bool) (a : AclEnt) : Gate := ⟨5, 1, ⟨0, 0⟩, true, closed, [⟨6, ⟨0, 0⟩, 9⟩], [a], 0⟩
def gated (closed : Bool) (a : AclEnt) (l : List (Nat × Nat × Nat)) : State := { one l with gates := [(3, gate closed a)], seq := 10 }
/-- Operands of a gate instruction: gate 3, generation 1, target or addend 7. -/
def gateRegs : List (Nat × Nat × Nat) := [(2, 3, 0), (3, 1, 0), (8, 7, 0)]
def gateInstr (b : BitVec 7) : L2R := ⟨f1 0 4 2, b, 0, 0, 0⟩
/-- A request at the home, and a waiter of the gate. -/
def asked (minor x : Nat) (ans : Option GateAns) : GateReq := ⟨true, 0, minor, 3, 1, x, ⟨0, 0⟩, ⟨⟨0, 0⟩, 0⟩, [lane 0], 4, true, false, ans⟩
def asking (closed : Bool) (a : AclEnt) (q : GateReq) : State :=
  { gated closed a [] with
    gateReqs := [q, { asked 3 6 none with key := 9, owners := [], waiting := true }]
    threads := [(lane 0, { startThread 120 with park := .gate 0 })] }
/-- A partition quiesced for a migration. -/
def quieted (l : List (Nat × Nat × Nat)) : State :=
  { gated false (acl 0 0) l with parts := tmap (one l).parts fun _ p => { p with quiesced := true } }
/-- An overlay at image 0x8000 in the store, filling or resident, and a state with it in slot 1. -/
def ovl (st : OvState) : Overlay :=
  { vf := ⟨0, 0⟩, pasid := 0, image := 0x8000, state := st, len := 1, entries := [0, 0], body := if st = .resident then [7] else [], slots := [1], gen := 0,
    pins := 0, refs := 0, stamp := 0, counts := [] }
def stored (st : OvState) (l : List (Nat × Nat × Nat)) : State :=
  (one l).updCore core fun k => { k with overlays := k.overlays ++ [ovl st], tokmap := ⟨1, 0, 0x8000, ⟨0, 0⟩, 0⟩ :: k.tokmap }
def filling (f : Fill) (s : State) : State := { s with fills := [f], seq := 1 }
def bodyFill (crc : Nat) : Fill := ⟨0, core, ⟨⟨0, 0⟩, 0⟩, 0x8000, [lane 0], none, some 1, [], false, crc⟩
/-- A filling overlay, its fill, its body in memory. -/
def bodying (crc : Nat) : State := let s := mapped (filling (bodyFill crc) (stored .filling [])); { s with mem := memPut s.mem 0x8400 [7, 0, 0, 0] }
/-- The overlay with every pin taken. -/
def pinned (l : List (Nat × Nat × Nat)) : State :=
  (one l).updCore core fun k => { k with overlays := k.overlays ++ [{ ovl .resident with pins := 65535 }], tokmap := ⟨1, 0, 0x8000, ⟨0, 0⟩, 0⟩ :: k.tokmap }
/-- A header to be read, in memory. -/
def headFill : Fill := ⟨0, core, ⟨⟨0, 0⟩, 0⟩, 0x8000, [lane 0], some ([lane 0], 4), none, [], false, 0⟩
def headBytes : List Byte := natToBytes 4 0x4F4E5131 ++ [1, 0, 0, 0, 1, 0, 0, 0, 1, 0, 0, 0, 1, 0, 0, 0] ++ natToBytes 4 0x2144DF1C
def heading (bs : List Byte) : State :=
  let s := mapped (filling headFill ((one []).updThread (lane 0) fun t => { t with park := .ovld 0 4 }))
  { s with mem := memPut s.mem 0x8000 bs }
theorem header_read {s : State} {v : View} {image : Nat} {bs : List Byte} (h1 : s.tlb = []) (h2 : s.s2tlb = [])
    (h : okIs (s.linesWalk v.ctx image 8) bs = true) : s.readHeader v image = .ok (bytesToNat bs) := by
  unfold State.readHeader
  rw [readLines_walk h1 h2, okIs_iff.mp h]
  rfl
def headOf (bs : List Byte) : List Byte := memBytes (heading bs).mem 0x8000 0x400
/-- The header's first line lost to an uncorrectable error. -/
def headLost : State := { heading [] with upsets := [.l2 0 0x8003] }
theorem head_lost : headLost.badLines (viewAt headFill.ctx headFill.core) headFill.image 8 = some (0x8000, 1) := by
  unfold State.badLines
  simp only [translate_walk (s := headLost) rfl rfl]
  decide +kernel
/-- An access that misses: beyond the GiB that the tables map. -/
def missing : Access := { acc .load none with addr := 0x40000000 }
/-- A stopped team with that access faulted. -/
def faulted (bound : Bool) : State :=
  let s := withAcc { missing with state := .faulted }
  { s.updTeam team fun t => { t with stop := .faulting } with blocks := tmap s.blocks fun _ b => { b with windows := [if bound then 1 else 0, 0, 0, 0] } }
def stopped (st : TeamStop) (s : State) : State := s.updTeam team fun t => { t with stop := st }
/-- A trap's cause; the stop of a team whose task it ends; a team so stopped whose slot waits for page replies. -/
def raise1 : Raise := ⟨0x21, 0, 64, none, true⟩
def fresh1 : TeamStop := .fresh (lane 0) raise1
def keptBack (st : TeamStop) : State :=
  let s := stopped st (guarded (one []))
  { s with ctxs := tmap s.ctxs fun _ x => { x with susp := [⟨9, snap1.saved, true, [], false⟩] } }
/-- A line of the cache that holds a copy of window 5. -/
def cachedLine : L1Line := ⟨⟨0, 0⟩, 0, 3, 0, 0x180, 0x180, false, [], some (5, [])⟩
/-- A team that rolls back to it. -/
def rolling (poison : List Nat) (windows : List W64) : State :=
  let s := mapped (stopped (.rolling (lane 0) raise1) (guarded (one [])))
  { s.updTeam team fun t => { t with snap := some 4 } with
    ctxs := tmap s.ctxs fun _ x => { x with snaps := [snap1] }, poison := poison
    blocks := tmap s.blocks fun _ b => { b with windows := windows } }
/-- Whether an image can be read, judged by walks alone. -/
def imageWalk (s : State) (part gpa size : Nat) : Nat → Bool
  | 0 => false
  | n + 1 =>
    size ≠ 0 && ((match s.walk2 part gpa false with
      | .error _ => true
      | .ok k => s.badPage part gpa k (min size (4096 - gpa % 4096))) ||
      imageWalk s part (gpa + min size (4096 - gpa % 4096)) (size - min size (4096 - gpa % 4096)) n)
theorem image_walk {s : State} (h : s.s2tlb = []) (part n : Nat) : ∀ gpa size, s.badImage part gpa size n = imageWalk s part gpa size n := by
  induction n with
  | zero => intros; rfl
  | succ n ih => intro gpa size; rw [State.badImage, imageWalk, stage2_walk h]; simp only [ih] <;> rfl
/-- A partition whose running context, when it has one, ends its slice; a second context can run. -/
def slicing (running : Option CtxId) (sl : Slicing) (ending : Bool) : State :=
  let s := stopped (.sliced false) (one [])
  { s with clkw := 20000, parts := tmap s.parts fun _ p => { p with running := running, slicing := sl, boundary := 100 },
           ctxs := tmap s.ctxs fun _ x => { x with ending := ending } }
/-- Partition 0 of a state. -/
def part0 (s : State) : Part := (s.part 0).getD (Part.new ⟨[], []⟩)
/-- A command of function `fn`: SUB and operands by offset. -/
def cmd (fn : FnId) (sub : Nat) (args : List (Nat × Nat)) : Cmd :=
  ⟨fn, sub, 7, BitVec.ofNat 448 ((args.map fun x => x.2 * 2 ^ (8 * (x.1 - 8))).foldl (· + ·) 0)⟩
def pf : FnId := ⟨0, none⟩
def vf0 : FnId := ⟨0, some 0⟩
/-- The state with a function's registers changed. -/
def withFn (fn : FnId) (f : Fn → Fn) : State := (one []).updFn fn f
/-- The state with partition 0 changed, and with bytes in host memory. -/
def withPart (f : Part → Part) : State := { one [] with parts := tmap (one []).parts fun _ p => f p }
def hosting (a : Nat) (bs : List Byte) (s : State) : State := { s with hostMem := memPut s.hostMem (hostKey 0 a) bs }
/-- A share block: a quad, a channel and its home set entry. -/
def shareBytes : List Byte :=
  natToBytes 8 2 ++ natToBytes 8 0 ++ natToBytes 32 1 ++ natToBytes 8 0 ++ natToBytes 2 0 ++ natToBytes 2 0 ++ natToBytes 4 (10 + 65536) ++ natToBytes 4 5 ++
    natToBytes 4 0 ++ natToBytes 8 0 ++ natToBytes 4 1 ++ natToBytes 4 0 ++ natToBytes 8 0x200 ++ natToBytes 32 0
def sharing : State := hosting 0x200 (natToBytes 8 (2 ^ 32)) (hosting 0x100 shareBytes (one []))
def block1 : ShareBlock := ⟨⟨0, 2, 0, 1, 0, 0, 0, 65546, 5⟩, ⟨[], [⟨0, 0, 1⟩]⟩⟩
/-- A partition whose homing has changed from one channel set to another, the same addresses moving nowhere. -/
def paused : State := withPart fun p => { p with paused := true, running := none }
/-- A look came to the given value. -/
def gotIs {α : Type} [DecidableEq α] (l : Looked α) (x : α) : Bool :=
  match l with
  | .got y => decide (y = x)
  | _ => false
theorem gotIs_iff {α : Type} [DecidableEq α] {l : Looked α} {x : α} : gotIs l x = true ↔ l = .got x := by
  cases l <;> simp [gotIs]
/-- A descriptor of one team of 8 registers whose ENTRY is entry 0 of the image at 0x8000. -/
def descBytes1 : List Byte :=
  natToBytes 8 0x8000 ++ natToBytes 8 0 ++ [8, 1, 0, 0] ++ natToBytes 4 0x1000 ++ natToBytes 4 0x1000 ++ natToBytes 4 0x11000 ++ natToBytes 96 0
def descNum : Nat := bytesToNat descBytes1
def ent : StartEnt := ⟨0x9000, 0, 0, 0xFF, true⟩
/-- A context that can start: descriptor and image in memory, the start list in host memory. -/
def starting : State :=
  let s := mapped (one [])
  let s := { s with
    mem := memPut (memPut s.mem 0x8000 headBytes) 0x9000 descBytes1
    ctxs := tmap s.ctxs fun _ k => { k with started := false }
    vfs := tmap s.vfs fun _ v => { v with snapSlot := 60000, frameSlot := 60000, saveSize := 100000000 }
    parts := tmap s.parts fun _ p => { p with running := none } }
  (hosting 0x100 (natToBytes 8 0x9000 ++ [0, 0, 0xFF] ++ natToBytes 5 0) s).updFn vf0 fun f => { f with pending := none }
def startCmd : Cmd := cmd vf0 0 [(0x08, 0), (0x10, 0x100), (0x18, 1)]
def started : State := starting.updFn vf0 fun f => { f with pending := none }
theorem look_ok : started.lookAll ⟨⟨0, 0⟩, 0⟩ [ent] = .got [(ent, descNum)] := by
  have h9 : started.translate (viewOf ⟨⟨0, 0⟩, 0⟩) 0x9000 false = .ok ⟨0x9000, 0x9000, 0⟩ := (translate_walk rfl rfl _ _ _).trans (okIs_iff.mp (by decide +kernel))
  have he : started.erefOk ⟨⟨0, 0⟩, 0⟩ (byteFld descNum 0 8) = .got () := by
    have hb : started.readVa (viewOf ⟨⟨0, 0⟩, 0⟩) 0x8400 4 = .ok [0, 0, 0, 0] := (readVa_walk rfl rfl _ _ _).trans (okIs_iff.mp (by decide +kernel))
    have hh : started.readHeader (viewOf ⟨⟨0, 0⟩, 0⟩) 0x8000 = .ok (memRead started.mem 0x8000 0x400) := by
      unfold State.readHeader
      rw [show started.readLines (viewOf ⟨⟨0, 0⟩, 0⟩) 0x8000 8 = .ok (memBytes started.mem 0x8000 0x400) from
        (readLines_walk rfl rfl _ _ _).trans (okIs_iff.mp (by decide +kernel))]
      rfl
    unfold State.erefOk
    rw [show erefImage (byteFld descNum 0 8) = 0x8000 by decide +kernel, hh]
    simp only [show headerOf (memRead started.mem 0x8000 0x400) = some ⟨1, [0], 0x2144DF1C⟩ by decide +kernel,
      show (0x8000 + 0x400 : Nat) = 0x8400 from rfl, show (4 * 1 : Nat) = 4 from rfl, hb]
    exact gotIs_iff.mp (by decide +kernel)
  have hd : started.lookDesc ⟨⟨0, 0⟩, 0⟩ 0x9000 = .got descNum := by
    unfold State.lookDesc
    rw [h9]
    simp only [show memRead started.mem 0x9000 128 = descNum by decide +kernel, he]
    exact gotIs_iff.mp (by decide +kernel)
  simp only [State.lookAll, show ent.desc = 0x9000 from rfl, hd]
def placed1 : Placed := ⟨⟨core, 0⟩, [0], descNum, 0x9000, 0, 0⟩
/-- A record r pushed by the host under a handle h. -/
def submitOf (h r : Nat) : Cmd := ⟨vf0, 0, 7, BitVec.ofNat 448 (h + r * 2 ^ 64)⟩
theorem clean3 (c : Cmd) (o1 w1 o2 w2 o3 w3 : Nat) {x1 x2 x3 : Nat} (h1 : fld c.param.toNat (8 * (o1 - 8)) w1 * 2 ^ (8 * (o1 - 8)) = x1)
    (h2 : fld c.param.toNat (8 * (o2 - 8)) w2 * 2 ^ (8 * (o2 - 8)) = x2) (h3 : fld c.param.toNat (8 * (o3 - 8)) w3 * 2 ^ (8 * (o3 - 8)) = x3)
    (h : c.param.toNat = x1 + x2 + x3) : cmdClean c [(o1, w1), (o2, w2), (o3, w3)] = true := by
  refine decide_eq_true ?_
  show c.param.toNat = 0 + _ + _ + _
  rw [h1, h2, h3, Nat.zero_add]
  exact h
theorem submitOf_args {h r : Nat} (hh : h < 2 ^ 64) (hr : r < 2 ^ 256) : (submitOf h r).param.toNat = h + r * 2 ^ 64 ∧
    cmdArg (submitOf h r) 0x08 8 = h ∧ cmdArg (submitOf h r) 0x10 32 = r ∧ cmdArg (submitOf h r) 0x30 1 = 0 ∧
    formed (submitOf h r) false true 0 [(0x08, 64), (0x10, 256), (0x30, 2)] := by
  have hp : h + r * 2 ^ 64 < 2 ^ 320 := by
    have h1 : h + r * 2 ^ 64 < (r + 1) * 2 ^ 64 := by rw [Nat.add_mul, Nat.one_mul, Nat.add_comm]; exact Nat.add_lt_add_left hh _
    rw [show (320 : Nat) = 256 + 64 by decide, Nat.pow_add]
    exact Nat.lt_of_lt_of_le h1 (Nat.mul_le_mul_right _ hr)
  have h0 : (h + r * 2 ^ 64) % 2 ^ 64 = h := by rw [Nat.add_mul_mod_self_right, Nat.mod_eq_of_lt hh]
  have h1 : (h + r * 2 ^ 64) / 2 ^ 64 = r := by rw [Nat.add_mul_div_right _ _ (by decide), Nat.div_eq_of_lt hh, Nat.zero_add]
  have h2 : (h + r * 2 ^ 64) / 2 ^ 320 = 0 := Nat.div_eq_of_lt hp
  have e : (submitOf h r).param.toNat = h + r * 2 ^ 64 := by
    unfold submitOf
    rw [BitVec.toNat_ofNat]
    exact Nat.mod_eq_of_lt (Nat.lt_of_lt_of_le hp (Nat.pow_le_pow_right (by decide) (by decide)))
  refine ⟨e, ?_, ?_, ?_, rfl, rfl, ?_⟩
  · unfold cmdArg fld
    rw [e, show 8 * (0x08 - 8) = 0 by decide, Nat.pow_zero, Nat.div_one, show 8 * 8 = 64 by decide, h0]
  · unfold cmdArg fld
    rw [e, show 8 * (0x10 - 8) = 64 by decide, h1, show 8 * 32 = 256 by decide, Nat.mod_eq_of_lt hr]
  · unfold cmdArg fld
    rw [e, show 8 * (0x30 - 8) = 320 by decide, h2, Nat.zero_mod]
  · refine clean3 _ _ _ _ _ _ _ (x1 := h) (x2 := r * 2 ^ 64) (x3 := 0) ?_ ?_ ?_ ?_
    · rw [e, fld, show 8 * (0x08 - 8) = 0 by decide, Nat.pow_zero, Nat.div_one, Nat.mul_one, h0]
    · rw [e, fld, show 8 * (0x10 - 8) = 64 by decide, h1, Nat.mod_eq_of_lt hr]
    · rw [e, fld, show 8 * (0x30 - 8) = 320 by decide, h2, Nat.zero_mod, Nat.zero_mul]
    · rw [e, Nat.add_zero]
theorem handle_lt : makeHandle 0 ⟨0, 0⟩ 0 7 0 < 2 ^ 64 := makeHandle_lt 0 ⟨0, 0⟩ (by decide) (by decide) (by decide)
/-- Under the tests' handle. -/
theorem submitted {r : Nat} (hr : r < 2 ^ 256) (n : Nat) {q : QSet} (hq : q.gen = 0) (hk : (recOf r).kind = 0) : let c := submitOf (makeHandle 0 ⟨0, 0⟩ 0 7 0) r
    let s := withQ q n []
    (s.qset (s.handleSet ⟨0, 0⟩ (cmdArg c 0x08 8))).isSome = true ∧ s.handleBad ⟨0, 0⟩ (cmdArg c 0x08 8) 1 = none ∧
    (s.shardDies (s.handleSet ⟨0, 0⟩ (cmdArg c 0x08 8)).part 0).contains ⟨0, cmdArg c 0x30 1⟩ = true ∧ (recOf (cmdArg c 0x10 32)).kind = 0 ∧
    s.pushStatus (s.handleSet ⟨0, 0⟩ (cmdArg c 0x08 8)) ⟨0, cmdArg c 0x30 1⟩ 1 true = s.pushStatus ⟨0, 0⟩ ⟨0, 0⟩ 1 true := by
  intro c s
  obtain ⟨-, e8, e10, e30, -⟩ := submitOf_args handle_lt hr
  have es : s.handleSet ⟨0, 0⟩ (cmdArg c 0x08 8) = ⟨0, 0⟩ := by
    rw [e8]
    show (⟨0, fld (makeHandle 0 ⟨0, 0⟩ 0 7 0) 0 10⟩ : QSetId) = _
    rw [(makeHandle_fields 0 ⟨0, 0⟩ (by decide) (by decide) (by decide)).1]
  rw [es, e8, e30, e10]
  exact ⟨rfl, handle_ok n [] hq 1 (by decide), (show ((one []).shardDies 0 0).contains ⟨0, 0⟩ = true by decide +kernel), hk, rfl⟩
def submit : Cmd := submitOf (makeHandle 0 ⟨0, 0⟩ 0 7 0) 0x500
/-- A page request of the context. -/
def pageReq : PageReq := ⟨⟨0, 0⟩, 3, ⟨⟨0, 0⟩, 0⟩, 0, false, false, 0, none, 0x8000, 0, core, true⟩
/-- Context 0 of a state. -/
def ctx0 (s : State) : Ctx := (s.ctx ⟨⟨0, 0⟩, 0⟩).getD ⟨0, 0, 0, 0, false, 0, 0, 0, false, false, [], 0, none, [], [], []⟩
/-- A SELFTEST of one unit of a list in host memory, and the state in which it is under test. -/
def selfTest : Cmd := cmd pf 0 [(0x08, 1), (0x0A, 1), (0x10, 0x100)]
def testingOne : State := { withFn pf (fun f => { f with pending := some ⟨selfTest, [], [], false, .test [0x200]⟩ }) with defects := [(0, 0x200)] }
/-- The words of ADD d3, d3, r5 for every thread. -/
def addWord : Nat := 0b0_000000_11111_0_00_0000011_0000101_000
/-- A machine whose next step issues the given words, its overlay, and the group that it issues. -/
def placedAt (w : Nat) : State := State.reset.withFetchWord 64 w
def overlayAt (s : State) : Overlay := (s.core core).overlays.headD ⟨⟨0, 0⟩, 0, 0, .resident, 0, [], [], [], 0, 0, 0, 0, []⟩
/-- The same with an error in the frame that holds the words. -/
def spoilt (w : Nat) : State := { placedAt w with upsets := (overlayAt (placedAt w)).slots.map (.code core) }
def getCtx (s : State) : CtxId := (s.ctxOf (lane 0).team).getD ⟨⟨0, 0⟩, 0⟩
def leadGroup : Group := ⟨core, [lane 0], false⟩
/-- The same with the thread at another offset, and with the overlay's last words cut off. -/
def placedPc (w off : Nat) : State := (placedAt w).mapThreads fun _ t => { t with pc := { t.pc with off := off } }
def placedCut (w : Nat) : State := (placedAt w).updCore core fun k =>
  { k with overlays := k.overlays.map fun o : Overlay => { o with len := 1, body := o.body.take 1 } }
/-- A handler that returns through TLINK, or elsewhere; the same when no overlay stands under the token any more. -/
def inHandler (link : Nat) : State := (one (here 3)).mapThreads fun _ t => { t with inh := true, tlinkLo := 0, tlinkHi := BitVec.ofNat 14 link }
def evicted (link : Nat) : State := (inHandler link).updCore core fun k => { k with overlays := [], tokmap := [⟨0, 0, 0x8000, ⟨0, 0⟩, 0⟩] }
theorem test_meets_step_runs_the_decoded_instruction (h : Obligations.StepRunsTheDecodedInstruction) :
    Applies (((h (placedAt addWord) leadGroup (lane 0) [] (startThread 120) (overlayAt (placedAt addWord)) (by decide +kernel) rfl
      (by decide +kernel) (by decide +kernel)).1 (BitVec.ofNat 32 addWord) (.add (f1 0 3 5)) (by decide +kernel) (by decide +kernel) (okIs_iff.mp
      (by decide +kernel)))) ∧
    Applies (((h (placedAt 0x7FFFFFFF) leadGroup (lane 0) [] (startThread 120) (overlayAt (placedAt 0x7FFFFFFF)) (by decide +kernel) rfl
      (by decide +kernel) (by decide +kernel)).2.1 0x7FFFFFFF (by decide +kernel) (by decide +kernel) (.inl (errIs_iff.mp (by decide +kernel))))) ∧
    Applies (((h (placedAt 0x06FFFFFF) leadGroup (lane 0) [] (startThread 120) (overlayAt (placedAt 0x06FFFFFF)) (by decide +kernel) rfl
      (by decide +kernel) (by decide +kernel)).2.1 0x06FFFFFF (by decide +kernel) (by decide +kernel) (.inr (errIs_iff.mp (by decide +kernel))))) ∧
    Applies (((h (placedPc addWord 4) leadGroup (lane 0) [] { startThread 120 with pc := ⟨0, 4⟩ } (overlayAt (placedPc addWord 4))
      (by decide +kernel) rfl (by decide +kernel) (by decide +kernel)).2.2.1 (by decide +kernel) (.inl (by decide +kernel)))) ∧
    Applies (((h (placedCut 0x02F80000) leadGroup (lane 0) [] (startThread 120) (overlayAt (placedCut 0x02F80000)) (by decide +kernel) rfl
      (by decide +kernel) (by decide +kernel)).2.2.1 (by decide +kernel) (.inr ⟨0x02F80000, (by decide +kernel), errIs_iff.mp
      (by decide +kernel)⟩))) ∧
    Applies (((h (spoilt addWord) leadGroup (lane 0) [] (startThread 120) (overlayAt (spoilt addWord)) (by decide +kernel) rfl (by decide +kernel)
      (by decide +kernel)).2.2.2.1 (getCtx (spoilt addWord)) (by decide +kernel) (by decide +kernel))) ∧
    Applies (((h (placedAt addWord) leadGroup (lane 0) [] (startThread 120) (overlayAt (placedAt addWord)) (by decide +kernel) rfl
      (by decide +kernel) (by decide +kernel)).2.2.2.2.2.2 (lane 0) (startThread 120) (by decide +kernel))) :=
  ⟨applies _, applies _, applies _, applies _, applies _, applies _, applies _⟩

theorem test_meets_decode_encode_round_trip (h : Obligations.DecodeEncodeRoundTrip) :
    Applies (h.1 (.add (f1 0 3 5)) (BitVec.ofNat 32 addWord) [] (by decide +kernel)) ∧
    Applies (h.2.1 (.subReg (fr 1 8 2 4)) [7] (by decide +kernel)) ∧
    Applies (h.2.2 (BitVec.ofNat 32 addWord) none (.add (f1 0 3 5)) (okIs_iff.mp (by decide +kernel))) :=
  ⟨applies _, applies _, applies _⟩

theorem test_meets_memory_keeps_its_form (h : Obligations.MemoryKeepsItsForm) :
    Applies ((h (placedAt addWord) (reached (step (placedAt addWord))) (by decide +kernel) (by decide +kernel) (reached_iff (by decide +kernel)))) :=
  applies _

theorem test_meets_clocks_never_fall (h : Obligations.ClocksNeverFall) :
    Applies ((h (placedAt addWord) (reached (step (placedAt addWord))) (reached_iff (by decide +kernel)))) :=
  applies _

theorem test_meets_traps_enter_and_leave (h : Obligations.TrapsEnterAndLeave) :
    Applies ((h.1 handled (lane 0) (th []) handledBlock (trapR 1 0 0) ⟨⟨0, 0⟩, 0⟩ (overlayAt handled) 2 (by decide +kernel) (by decide +kernel)
      (by decide +kernel) (id (by decide +kernel)) (by decide +kernel) (by decide +kernel) (by decide +kernel) (id (by decide +kernel))
      (by decide +kernel)).1) ∧
    Applies ((h.1 handled (lane 0) (th []) handledBlock (trapR 1 0 0) ⟨⟨0, 0⟩, 0⟩ (overlayAt handled) 2 (by decide +kernel) (by decide +kernel)
      (by decide +kernel) (id (by decide +kernel)) (by decide +kernel) (by decide +kernel) (by decide +kernel) (id (by decide +kernel))
      (by decide +kernel)).2.2 (lane 1) (by decide +kernel)) ∧
    Applies ((h.2.1 (one []) (lane 0) (th []) oneBlock (trapR 1 0 0) (by decide +kernel) (by decide +kernel) (by decide +kernel) (.inl
      (by decide +kernel)) (by decide +kernel)).2 _ rfl) ∧
    Applies ((h.2.1 (handled.mapThreads fun _ t => { t with inh := true }) (lane 0) { th [] with inh := true } handledBlock (trapR 1 0 0)
      (by decide +kernel) (by decide +kernel) (by decide +kernel) (.inr (by decide +kernel)) (by decide +kernel)).2 _ rfl) ∧
    Applies ((h.2.2 (f1 0 0 2) (inHandler 3) (lane 0) { th (here 3) with inh := true, tlinkLo := 0, tlinkHi := 3 } ⟨⟨0, 0⟩, 0⟩ (by decide +kernel)
      (by decide +kernel) (by decide +kernel) (id (by decide +kernel)) (by decide +kernel) (by decide +kernel) (by decide +kernel) (id
      (by decide +kernel)) (by decide +kernel)).1 (overlayAt (inHandler 3)) (by decide +kernel) (by decide +kernel) (by decide +kernel) (id
      (by decide +kernel))) ∧
    Applies ((h.2.2 (f1 0 0 2) (inHandler 2) (lane 0) { th (here 3) with inh := true, tlinkLo := 0, tlinkHi := 2 } ⟨⟨0, 0⟩, 0⟩ (by decide +kernel)
      (by decide +kernel) (by decide +kernel) (id (by decide +kernel)) (by decide +kernel) (by decide +kernel) (by decide +kernel) (id
      (by decide +kernel)) (by decide +kernel)).1 (overlayAt (inHandler 2)) (by decide +kernel) (by decide +kernel) (by decide +kernel) (id
      (by decide +kernel))) ∧
    Applies ((h.2.2 (f1 0 0 2) (evicted 3) (lane 0) { th (here 3) with inh := true, tlinkLo := 0, tlinkHi := 3 } ⟨⟨0, 0⟩, 0⟩ (by decide +kernel)
      (by decide +kernel) (by decide +kernel) (id (by decide +kernel)) (by decide +kernel) (by decide +kernel) (by decide +kernel) (id
      (by decide +kernel)) (by decide +kernel)).2 0x8000 (by decide +kernel) (by decide +kernel)) :=
  ⟨applies _, applies _, applies _, applies _, applies _, applies _, applies _⟩

theorem test_meets_checks_trap (h : Obligations.ChecksTrap) :
    Applies (h.1 (.add (f1 3 3 5)) (one []) (by decide +kernel) (by decide +kernel)) ∧
    Applies (h.2 .addReg (by simp) (fr 0 40 2 3) { one [] with threads := [(lane 0, startThread 32)] } (by decide +kernel) (by decide +kernel)) :=
  ⟨applies _, applies _⟩

theorem test_meets_lane_instructions_frame (h : Obligations.LaneInstructionsFrame) :
    Applies ((h (.addReg (fr 0 1 2 3)) 1 1 false (one []) (reached (exec (.addReg (fr 0 1 2 3)) (one []))) rfl (reached_iff (by decide +kernel)))) ∧
    Applies ((h (.addReg (fr 0 1 2 3)) 1 1 false (one []) (reached (exec (.addReg (fr 0 1 2 3)) (one []))) rfl (reached_iff
      (by decide +kernel))).2.2.2.2.2.2.2 (lane 0) (th []) rfl) :=
  ⟨applies _, applies _⟩

theorem test_meets_combining_equals_serial (h : Obligations.CombiningEqualsSerial) :
    Applies (((h .add (by decide +kernel) 4 1 [2, 3] (.inl rfl) (by decide +kernel) (by decide +kernel)).1 (by decide +kernel))) ∧
    Applies (((h .maxu (by decide +kernel) 8 0xFFFFFFFFFFFFFFFF [2, 3] (.inr rfl) (by decide +kernel) (by decide +kernel)).2 2
      (by decide +kernel))) :=
  ⟨applies _, applies _⟩

theorem test_meets_alu_three_forms (h : Obligations.AluThreeForms) :
    Applies (h.1 (f1 0 3 5) (one [(3, 7, 0), (5, 9, 0)]) (by decide +kernel) (by unfold State.operandsPass State.forOn; decide +kernel)) ∧
    Applies (h.2.2.2.2.2.1 (f1 1 4 5) (one [(4, 7, 0), (5, 63, 0)]) (by decide +kernel) (by unfold State.operandsPass State.forOn; decide +kernel)) ∧
    Applies (h.2.2.2.2.2.2.2.2.1 (fr 1 0 8 16) (one [(8, 0xFFFFFFFF, 0), (9, 0xFFFFFFFF, 0), (16, 1, 0)]) (by decide +kernel)
      (by unfold State.operandsPass State.forOn; decide +kernel)) ∧
    Applies (h.2.2.2.2.2.2.2.2.2.2.2.2.2.1 (fr 0 1 2 3) (one [(2, 7, 0), (3, 32, 0)]) (by decide +kernel)
      (by unfold State.operandsPass State.forOn; decide +kernel)) ∧
    Applies (h.2.2.2.2.2.2.2.2.2.2.2.2.2.2.2.2.1 (fi 1 2 2 0xFFFFFFFF) (one [(2, 1, 0)]) (by decide +kernel)
      (by unfold State.operandsPass State.forOn; decide +kernel)) ∧
    Applies (h.2.2.2.2.2.2.2.2.2.2.2.2.2.2.2.2.2.2.2.2.2.1 (fi 0 2 2 31) (one [(2, 1, 0)]) (by decide +kernel)
      (by unfold State.operandsPass State.forOn; decide +kernel)) :=
  ⟨applies _, applies _, applies _, applies _, applies _, applies _⟩

theorem test_meets_multiply_divide_min_max (h : Obligations.MultiplyDivideMinMax) :
    Applies (h.1 (fr 0 1 2 3) (one [(2, 7, 0), (3, 6, 0)]) (by decide +kernel) (by unfold State.operandsPass State.forOn; decide +kernel)) ∧
    Applies (h.2.2.2.2.2.2.2.1 (fr 0 1 2 3) (one [(2, 7, 0), (3, 0, 0)]) (by decide +kernel)
      (by unfold State.operandsPass State.forOn; decide +kernel)) ∧
    Applies (h.2.2.2.2.2.2.2.1 (fr 0 1 2 3) (one [(2, 0x80000000, 0), (3, 0xFFFFFFFF, 0)]) (by decide +kernel)
      (by unfold State.operandsPass State.forOn; decide +kernel)) ∧
    Applies (h.2.2.2.2.2.2.2.2.2.2.2.1 (fr 0 1 2 3) (one [(2, 7, 0), (3, 33, 0)]) (by decide +kernel)
      (by unfold State.operandsPass State.forOn; decide +kernel)) :=
  ⟨applies _, applies _, applies _, applies _⟩

theorem test_meets_multiply_add_and_bit_fields (h : Obligations.MultiplyAddAndBitFields) :
    Applies (h.1.1 ⟨f1 0 1 2, 3, 4, 0, 0⟩ (one [(2, 7, 0), (3, 5, 0), (4, 1, 0)]) (by decide +kernel)
      (by unfold State.operandsPass State.forOn; decide +kernel)) ∧
    Applies (h.1.2.1 ⟨f1 1 6 2, 3, 4, 1, 0⟩ (one [(2, 0xFFFFFFFF, 0), (3, 5, 0), (4, 1, 0)]) (by decide +kernel)
      (by unfold State.operandsPass State.forOn; decide +kernel)) ∧
    Applies (h.1.2.2.1 ⟨f1 0 1 2, 3, 23, 0, 0⟩ (one [(2, 7, 0), (3, 5, 0)]) (by decide +kernel)
      (by unfold State.operandsPass State.forOn; decide +kernel)) ∧
    Applies (h.1.2.2.2 ⟨f1 1 0 2, 4, 0, 0, 3⟩ (one [(2, 7, 0), (4, 0xFFFFFFFF, 0)]) (by decide +kernel)
      (by unfold State.operandsPass State.forOn; decide +kernel)) ∧
    Applies (h.2.1 ⟨f1 0 1 2, 0, 0, 0, 0x1C4⟩ (one [(2, 0xFF0, 0)]) (by decide +kernel) (by unfold State.operandsPass State.forOn; decide +kernel)) ∧
    Applies (h.2.1 ⟨f1 0 1 2, 3, 0, 1, 0⟩ (one [(2, 0xFFFFFFF0, 0), (3, 0x0204, 0)]) (by decide +kernel)
      (by unfold State.operandsPass State.forOn; decide +kernel)) ∧
    Applies (h.2.2.1 ⟨f1 0 1 2, 3, 0, 1, 0⟩ (one [(2, 0xFF0, 0), (3, 0xFF1F, 0)]) (by decide +kernel)
      (by unfold State.operandsPass State.forOn; decide +kernel)) ∧
    Applies (h.2.2.2.1 ⟨f1 0 1 2, 3, 4, 1, 0⟩ (one [(2, 0xFF0, 0), (3, 9, 0), (4, 0x0408, 0)]) (by decide +kernel)
      (by unfold State.operandsPass State.forOn; decide +kernel)) :=
  ⟨applies _, applies _, applies _, applies _, applies _, applies _, applies _, applies _⟩

theorem test_meets_multiply_add_and_bit_fields_2 (h : Obligations.MultiplyAddAndBitFields) :
    Applies (h.2.2.2.2 ⟨f1 0 1 2, 3, 4, 1, 0⟩ (one [(2, 0x44332211, 0), (3, 0x88776655, 0), (4, 0x8765, 0)]) (by decide +kernel)
      (by unfold State.operandsPass State.forOn; decide +kernel)) :=
  applies _

theorem test_meets_unary_and_literal_moves (h : Obligations.UnaryAndLiteralMoves) :
    Applies (h.1.1 (f1 0 1 2) (one [(2, 7, 3)]) (by decide +kernel) (by decide +kernel) (by decide +kernel)
      (by unfold State.operandsPass State.forOn; decide +kernel)) ∧
    Applies (h.1.2.2.2.1 (f1 0 1 2) (one [(2, 0x80000000, 0)]) (by decide +kernel) (by unfold State.operandsPass State.forOn; decide +kernel)) ∧
    Applies (h.1.2.2.2.2.2.1 (f1 0 1 2) (one []) (by decide +kernel) (by unfold State.operandsPass State.forOn; decide +kernel)) ∧
    Applies (h.1.2.2.2.2.2.2.1 (f1 1 2 4) (one []) (by decide +kernel) (by unfold State.operandsPass State.forOn; decide +kernel)) ∧
    Applies (h.1.2.2.2.2.2.2.2 (f1 0 1 2) (one [(2, 1, 0)]) (by decide +kernel) (by unfold State.operandsPass State.forOn; decide +kernel)) ∧
    Applies (h.2.1 (fi 1 2 0 0x80000000) (one []) (by decide +kernel) (by unfold State.operandsPass State.forOn; decide +kernel)) ∧
    Applies (h.2.2.1 (fi 1 2 4 0xFFFFFFFF) (one [(4, 0, 0), (5, 1, 0)]) (by decide +kernel)
      (by unfold State.operandsPass State.forOn; decide +kernel)) ∧
    Applies (h.2.2.2.1 (fi 0 2 4 1) (one [(4, 1, 0)]) (by decide +kernel) (by unfold State.operandsPass State.forOn; decide +kernel)) :=
  ⟨applies _, applies _, applies _, applies _, applies _, applies _, applies _, applies _⟩

theorem test_meets_unary_and_literal_moves_2 (h : Obligations.UnaryAndLiteralMoves) :
    Applies (h.2.2.2.2 (fi 1 2 4 32) (one [(4, 0xFFFFFFFF, 0)]) (by decide +kernel) (by unfold State.operandsPass State.forOn; decide +kernel)) :=
  applies _

theorem test_meets_compares_and_predicates (h : Obligations.ComparesAndPredicates) :
    Applies (h.1.1 (fr 0 23 2 3) (one [(2, 7, 0), (3, 7, 0)]) (by decide +kernel) (by unfold State.operandsPass State.forOn; decide +kernel)) ∧
    Applies (h.1.2.2.2.2.2.2.2.2.1 (fi 1 0 2 0xFFFFFFFF) (one [(2, 0xFFFFFFFF, 0), (3, 0xFFFFFFFF, 0)]) (by decide +kernel)
      (by unfold State.operandsPass State.forOn; decide +kernel)) ∧
    Applies (h.2.1 (fr 0 23 2 3) (one []) (by decide +kernel)) ∧
    Applies (h.2.2.2.2.2.2.1 ⟨f1 0 23 0, 0, 0, 0, 1⟩ (one []) (by decide +kernel)) ∧
    Applies (h.2.2.2.2.2.2.2.1 (fr 0 5 0 0) (one []) (by decide +kernel) (by unfold State.operandsPass State.forOn; decide +kernel)) ∧
    Applies (h.2.2.2.2.2.2.2.2.1 (fr 0 0 2 3) (one [(2, 7, 0), (3, 0x800005, 0)]) (by decide +kernel)
      (by unfold State.operandsPass State.forOn; decide +kernel)) ∧
    Applies (h.2.2.2.2.2.2.2.2.2 (th []) 23 22 true (by decide +kernel)) :=
  ⟨applies _, applies _, applies _, applies _, applies _, applies _, applies _⟩

theorem test_meets_branches_and_calls (h : Obligations.BranchesAndCalls) :
    Applies (h.1 (fi 0 0 0 3) (one []) (by decide +kernel) (by unfold State.forOn; decide +kernel)) ∧
    Applies (h.2.1 (fi 0 4 0 0) (one []) (by decide +kernel) (by unfold State.operandsPass State.forOn; decide +kernel)
      (by unfold State.forOn; decide +kernel)) ∧
    Applies (h.2.2.1 (f1 0 0 2) (one [(2, 3, 0)]) (by decide +kernel) (by unfold State.operandsPass State.forOn; decide +kernel)
      (by unfold State.forOn; decide +kernel)) ∧
    Applies (h.2.2.2.1 (f1 0 4 2) (one [(2, 3, 0)]) (by decide +kernel) (by unfold State.operandsPass State.forOn; decide +kernel)
      (by unfold State.forOn; decide +kernel)) ∧
    Applies (h.2.2.2.2.1 (fi 0 0 0 4) (one []) (by decide +kernel) (by unfold State.forOn; decide +kernel)) ∧
    Applies (h.2.2.2.2.1 (fi 0 0 0 0xFFFFFFFF) (one []) (by decide +kernel) (by unfold State.forOn; decide +kernel)) ∧
    Applies (h.2.2.2.2.2.1 (fi 0 4 0 4) (one []) (by decide +kernel) (by unfold State.operandsPass State.forOn; decide +kernel)
      (by unfold State.forOn; decide +kernel)) ∧
    Applies (h.2.2.2.2.2.2.1 (f1 0 0 2) (one [(2, 4, 0)]) (by decide +kernel) (by unfold State.operandsPass State.forOn; decide +kernel)
      (by unfold State.forOn; decide +kernel)) :=
  ⟨applies _, applies _, applies _, applies _, applies _, applies _, applies _, applies _⟩

theorem test_meets_branches_and_calls_2 (h : Obligations.BranchesAndCalls) :
    Applies (h.2.2.2.2.2.2.2 (f1 0 4 2) (one [(2, 4, 0)]) (by decide +kernel) (by unfold State.operandsPass State.forOn; decide +kernel)
      (by unfold State.forOn; decide +kernel)) :=
  applies _

theorem test_meets_control_without_targets (h : Obligations.ControlWithoutTargets) :
    Applies (h.1.1 (f1 0 0 0) (one []) (by decide +kernel)) ∧
    Applies (h.1.2.1 (f1 0 0 0) (one []) (by decide +kernel)) ∧
    Applies (h.1.2.2.1 (f1 0 0 0) (one []) (by decide +kernel)) ∧
    Applies (h.1.2.2.2.1 (f1 0 0 0) (one []) (by decide +kernel) (by decide +kernel)) ∧
    Applies (h.1.2.2.2.2 (f1 0 0 0) (rdv []) (by decide +kernel) (by decide +kernel)) ∧
    Applies (h.2.1 (f1 0 0 2) (one (here 3)) (by decide +kernel) (by unfold State.operandsPass State.forOn; decide +kernel)
      (by unfold State.forOn; decide +kernel)) ∧
    Applies (h.2.2.1 (f1 0 0 0) { two [] false with gathered := ⟨core, [lane 0], false⟩ } team (by decide +kernel) (by decide +kernel)
      (by decide +kernel) (id (by decide +kernel)) (by decide +kernel) (by decide +kernel)) ∧
    Applies (h.2.2.2.1 (f1 0 0 0) ((one []).updThread (lane 0) fun t => { t with ldn := 1 }) (by decide +kernel) (by decide +kernel)) :=
  ⟨applies _, applies _, applies _, applies _, applies _, applies _, applies _, applies _⟩

theorem test_meets_control_without_targets_2 (h : Obligations.ControlWithoutTargets) :
    Applies (h.2.2.2.2.1 (f1 0 0 0) ((two [] false).updThread (lane 1) fun t => { t with ldn := 1 }) team (by decide +kernel) (by decide +kernel)
      (by decide +kernel) (id (by decide +kernel)) (by decide +kernel)) ∧
    Applies (h.2.2.2.2.2 (f1 0 0 0) (one []) team (by decide +kernel) (by decide +kernel) (by decide +kernel) (id (by decide +kernel))
      (by decide +kernel)) :=
  ⟨applies _, applies _⟩

theorem test_meets_repeat_runs_every_repetition (h : Obligations.RepeatRunsEveryRepetition) :
    Applies (h (fi 0 0 0 2) (withBody (one [(2, 7, 0), (3, 5, 0), (4, 3, 0), (5, 2, 0)]) addWords) (lane 0) (th [(2, 7, 0), (3, 5, 0), (4, 3, 0),
      (5, 2, 0)]) [] { vf := ⟨0, 0⟩, pasid := 0, image := 0, state := .resident, len := 4, entries := [0], body := addWords, slots := [0], gen := 0, pins := 0, refs := 0, stamp := 0, counts := [] } ⟨false, 0, 0, .l1
      (f1 0 2 4)⟩ (laneAdd (f1 0 2 4)) (by decide +kernel) (by decide +kernel) (by decide +kernel) (id (by decide +kernel)) (by decide +kernel) rfl
      (by decide +kernel) (by decide +kernel) (by decide +kernel)) :=
  applies _

theorem test_meets_cross_lane_performs (h : Obligations.CrossLanePerforms) :
    Applies (h.1 ⟨f1 0 1 2, 3, 0, 1, 0⟩ (two [(2, 7, 3), (3, 3, 0)] true) (by decide +kernel) (by decide +kernel)) ∧
    Applies (h.2.1 ⟨f1 0 1 2, 3, 0, 1, 1⟩ (two [(2, 7, 3), (3, 3, 0)] true) (by decide +kernel) (by decide +kernel)) ∧
    Applies (h.2.2.1 (fr 0 1 23 3) (two [(3, 3, 0)] true) (by decide +kernel) (by decide +kernel)) ∧
    Applies (h.2.2.2.1 (fr 0 1 23 3) (two [(3, 3, 0)] true) (by decide +kernel) (by decide +kernel)) ∧
    Applies (h.2.2.2.2.1 (fr 0 1 23 3) (two [(3, 3, 0)] true) (by decide +kernel) (by decide +kernel)) ∧
    Applies (h.2.2.2.2.2.1 (fr 0 1 2 3) (two [(3, 3, 0)] true) (by decide +kernel) (by decide +kernel)) ∧
    Applies (h.2.2.2.2.2.2.1 (fr 0 1 0 3) (two [(3, 3, 0)] true) (by decide +kernel) (by decide +kernel)) ∧
    Applies (h.2.2.2.2.2.2.2.1 (fr 0 1 2 3) (two [(2, 0x3F800000, 1), (3, 3, 0)] true) 1 (by decide +kernel) (by decide +kernel) (by decide +kernel)
      (id (by decide +kernel)) (by decide +kernel) (by decide +kernel)) :=
  ⟨applies _, applies _, applies _, applies _, applies _, applies _, applies _, applies _⟩

theorem test_meets_cross_lane_performs_2 (h : Obligations.CrossLanePerforms) :
    Applies (h.2.2.2.2.2.2.2.2.1 (fr 0 1 2 3) (two [(2, 0xFFFFFFFF, 0), (3, 3, 0)] true) 0 (by decide +kernel) (by decide +kernel)
      (by decide +kernel) (id (by decide +kernel)) (by decide +kernel) (by decide +kernel)) ∧
    Applies (h.2.2.2.2.2.2.2.2.2.1 (fr 0 1 2 3) (two [(2, 0xFFFFFFFF, 12), (3, 3, 0)] true) 12 (by decide +kernel) (by decide +kernel)
      (by decide +kernel) (id (by decide +kernel)) (by decide +kernel) (by decide +kernel)) ∧
    Applies (h.2.2.2.2.2.2.2.2.2.2.2.2.2 true false [1, 0xFFFFFFFF] (by decide +kernel)) ∧
    Applies (h.2.2.2.2.2.2.2.2.2.2.1 (fr 0 1 2 3) (two [(2, 5, 0), (3, 3, 0)] true) 0 (by decide +kernel) (by decide +kernel) (by decide +kernel) (id
      (by decide +kernel)) (by decide +kernel) (by decide +kernel)) :=
  ⟨applies _, applies _, applies _, applies _⟩

theorem test_meets_cross_lane_arrives (h : Obligations.CrossLaneArrives) :
    Applies (h.1 ⟨f1 0 1 2, 3, 0, 1, 0⟩ (two [(2, 7, 3), (3, 3, 0)] false) team ⟨0, 0⟩ 3 (by decide +kernel) (by decide +kernel) (by decide +kernel)
      (id (by decide +kernel)) (by decide +kernel) (by decide +kernel)) ∧
    Applies (h.2.2.1 (fr 0 1 23 3) (two [(3, 3, 0)] false) team ⟨0, 0⟩ 3 (by decide +kernel) (by decide +kernel) (by decide +kernel) (id
      (by decide +kernel)) (by decide +kernel) (by decide +kernel)) ∧
    Applies (h.2.2.2.2.1 (fr 0 1 23 3) (two [(3, 3, 0)] false) team ⟨0, 0⟩ 3 (by decide +kernel) (by decide +kernel) (by decide +kernel) (id
      (by decide +kernel)) (by decide +kernel) (by decide +kernel)) ∧
    Applies (h.2.2.2.2.2.1 (fr 0 1 2 3) (two [(3, 3, 0)] false) team ⟨0, 0⟩ 3 (by decide +kernel) (by decide +kernel) (by decide +kernel) (id
      (by decide +kernel)) (by decide +kernel) (by decide +kernel)) ∧
    Applies (h.2.2.2.2.2.2.2.1 (fr 0 1 2 3) (two [(2, 5, 0), (3, 3, 0)] false) team ⟨0, 0⟩ 3 (by decide +kernel) (by decide +kernel)
      (by decide +kernel) (id (by decide +kernel)) (by decide +kernel) (by decide +kernel)) :=
  ⟨applies _, applies _, applies _, applies _, applies _⟩

theorem test_meets_float_arithmetic_and_compares (h : Obligations.FloatArithmeticAndCompares) :
    Applies (((h.1.1 f16 (by simp) .rne false true 1025 1 1 0 (by decide +kernel) (by decide +kernel) (by decide +kernel) (id
      (by decide +kernel)) 1026 (fun _ => rfl) (fun h => absurd (Or.inr ⟨rfl, rfl⟩) h)).1 (by decide +kernel))) ∧
    Applies (((h.1.1 f16 (by simp) .rz true true 2047 0 0 6 (by decide +kernel) (by decide +kernel) (by decide +kernel) (id (by decide +kernel)) 2047
      (fun h => h.elim) (fun _ => rfl)).2.1 (by decide +kernel) (.inl rfl))) ∧
    Applies (((h.1.1 f16 (by simp) .rne false true 2047 0 0 6 (by decide +kernel) (by decide +kernel) (by decide +kernel) (id
      (by decide +kernel)) 2047 (fun h => h.elim (fun h => absurd h (by decide)) fun h => absurd h.1 (by decide)) (fun _ => rfl)).2.2
      (by decide +kernel) rfl rfl rfl)) ∧
    Applies (((h.1.2.1 f32 (by simp) .rne false false 0x3FC00000 0xC0000000 0).1 false true 12582912 8388608 (-23) (-22) (by decide +kernel)
      (by decide +kernel)).1 (by decide +kernel)) ∧
    Applies (((h.1.2.1 f32 (by simp) .rne false false 0x3FC00000 0xC0000000 0).1 false true 12582912 8388608 (-23) (-22) (by decide +kernel)
      (by decide +kernel)).2 (by decide +kernel)) ∧
    Applies (((h.1.2.1 f32 (by simp) .rne false false 0x3FC00000 0x7FC00000 0).2.1 1 (by simp) (.inr (by decide +kernel)))) ∧
    Applies (((h.1.2.1 f32 (by simp) .rne false false 0x7F800000 0xFF800000 0).2.2.1 false (by decide +kernel) (by decide +kernel))) ∧
    Applies (((h.1.2.1 f32 (by simp) .rne false false 0x7F800000 0 0).2.2.2 false false (-149) (by decide +kernel) (by decide +kernel))) :=
  ⟨applies _, applies _, applies _, applies _, applies _, applies _, applies _, applies _⟩

theorem test_meets_float_arithmetic_and_compares_2 (h : Obligations.FloatArithmeticAndCompares) :
    Applies (h.1.2.2.1 (fr 0 5 2 3) (one floats) (by decide +kernel) (by unfold State.operandsPass State.forOn; decide +kernel)
      (by simp only [State.forOn, Thread.floatGroups, Env.sound]; decide +kernel)) ∧
    Applies (h.1.2.2.2.2.2.2.2 ⟨f1 0 5 2, 3, 4, 0, 0x31⟩ (one floats) (by decide +kernel) (by unfold State.operandsPass State.forOn; decide +kernel)
      (by simp only [State.forOn, Thread.floatGroups, Env.sound]; decide +kernel)) ∧
    Applies (h.2.1 (fr 0 5 2 3) (one floats) (by decide +kernel) (by unfold State.operandsPass State.forOn; decide +kernel)
      (by simp only [State.forOn, Thread.floatGroups]; decide +kernel)) ∧
    Applies (h.2.2.2.1 ⟨f1 0 5 2, 3, 0, 0, 0x40⟩ (one [(2, 0x3C007E00, 2), (3, 0x3C010000, 2)]) (by decide +kernel)
      (by unfold State.operandsPass State.forOn; decide +kernel) (by simp only [State.forOn, Thread.floatGroups]; decide +kernel)) :=
  ⟨applies _, applies _, applies _, applies _⟩

theorem test_meets_element_functions_and_tags (h : Obligations.ElementFunctionsAndTags) :
    Applies (((h.1 f32 (by simp) .rne 0x7FC00000).1 (by decide +kernel))) ∧
    Applies (((h.1 f32 (by simp) .rne 0x7F800000).2.1 false (by decide +kernel))) ∧
    Applies (((h.1 f32 (by simp) .rne 0x4B800000).2.2.1 false 8388608 1 (by decide +kernel) (by decide +kernel))) ∧
    Applies ((((h.1 f32 (by simp) .rne 0x3F800000).2.2.2.1 false 1 23 0 (by decide +kernel) (by decide +kernel)).1 (by decide +kernel))) ∧
    Applies ((((h.1 f32 (by simp) .rne 0x3FC00000).2.2.2.1 false 1 23 4194304 (by decide +kernel) (by decide +kernel)).2.1 (by decide +kernel) rfl)) ∧
    Applies ((((h.1 f32 (by simp) .rz 0x3FC00000).2.2.2.1 false 1 23 4194304 (by decide +kernel) (by decide +kernel)).2.2 (by decide +kernel) rfl)) ∧
    Applies ((((h.1 f32 (by simp) .rz 0).2.2.2.2.1 false 0 (-149) (by decide +kernel)).1 (by decide +kernel))) ∧
    Applies ((((h.1 f32 (by simp) .rz 0xBFC00000).2.2.2.2.1 true 12582912 (-23) (by decide +kernel)).2 (by decide +kernel) rfl)) :=
  ⟨applies _, applies _, applies _, applies _, applies _, applies _, applies _, applies _⟩

theorem test_meets_element_functions_and_tags_2 (h : Obligations.ElementFunctionsAndTags) :
    Applies (((h.1 f32 (by simp) .rz 0x4B800000).2.2.2.2.2 8388608 1 (by decide +kernel) (by decide +kernel) (by decide +kernel))) ∧
    Applies (h.2.1 (f1 0 5 2) (one floats) (by decide +kernel) (by unfold State.operandsPass State.forOn; decide +kernel)
      (by simp only [State.forOn, Thread.floatGroups]; decide +kernel)) ∧
    Applies (h.2.2.1 (f1 0 5 2) (one floats) (by decide +kernel) (by unfold State.operandsPass State.forOn; decide +kernel)
      (by simp only [State.forOn, Thread.floatGroups]; decide +kernel)) ∧
    Applies (h.2.2.2.2.1 (f1 0 5 2) (one [(2, 0, 1)]) (by decide +kernel) (by unfold State.operandsPass State.forOn; decide +kernel)
      (by simp only [State.forOn, Thread.floatGroups]; decide +kernel)) ∧
    Applies (h.2.2.2.2.2.2.2.2.2.2.2.2.1 (f1 0 5 2) (one floats) (by decide +kernel) (by unfold State.operandsPass State.forOn; decide +kernel)) ∧
    Applies (h.2.2.2.2.2.2.2.2.2.2.2.2.2.1 (fi 0 5 2 12) (one floats) (by decide +kernel)
      (by unfold State.operandsPass State.forOn; decide +kernel)) ∧
    Applies (h.2.2.2.2.2.2.2.2.2.2.2.2.2.2 (fi 0 5 2 1) (one floats) (by decide +kernel)
      (by unfold State.operandsPass State.forOn; decide +kernel)) :=
  ⟨applies _, applies _, applies _, applies _, applies _, applies _, applies _⟩

theorem test_meets_conversions_and_dot_products (h : Obligations.ConversionsAndDotProducts) :
    Applies (((h.1.1.1 1 (by simp) 2 (by simp) f32 f16 rfl rfl .rne true 0x3FC00000).1 (by decide +kernel) false 12582912 (-23) (by decide +kernel)
      (by decide +kernel))) ∧
    Applies (((h.1.1.1 1 (by simp) 2 (by simp) f32 f16 rfl rfl .rne true 0x7F800000).2.1 (by decide +kernel) false (by decide +kernel) (.inl rfl))) ∧
    Applies (((h.1.1.1 1 (by simp) 2 (by simp) f32 f16 rfl rfl .rne true 0x7FC00000).2.2.1 (by decide +kernel))) ∧
    Applies (((h.1.1.1 1 (by simp) 1 (by simp) f32 f32 rfl rfl .rne true 0x7F800000).2.2.2 rfl (by decide +kernel))) ∧
    Applies (((h.1.1.2.1 7 .rne false 0x7FC00000 (by simp)).1 (by decide +kernel))) ∧
    Applies (((h.1.1.2.1 7 .rne false 0xCB800000 (by simp)).2 true 8388608 1 (by decide +kernel) (by decide +kernel)).1 (by decide +kernel)) ∧
    Applies (((h.1.1.2.1 7 .rne false 0x4B800000 (by simp)).2 false 8388608 1 (by decide +kernel) (by decide +kernel)).2.1 (by decide +kernel)) ∧
    Applies (((h.1.1.2.1 12 .rne false 0x4B800000 (by simp)).2 false 8388608 1 (by decide +kernel) (by decide +kernel)).2.2 (by decide +kernel)
      (by decide +kernel)) :=
  ⟨applies _, applies _, applies _, applies _, applies _, applies _, applies _, applies _⟩

theorem test_meets_conversions_and_dot_products_2 (h : Obligations.ConversionsAndDotProducts) :
    Applies ((h.1.1.2.2 7 .rne 300 (by simp))) ∧
    Applies ((h.2.1.1 .rne false false [((false, 3, 0), (true, 5, -1))] 0x3FC00000 12582912 false (-23) (by decide +kernel))) ∧
    Applies ((h.2.1.2.1 .rne false false [(.nan false, .inf false)] 0 ⟨_, List.mem_singleton.mpr rfl, .inl (by decide +kernel)⟩)) ∧
    Applies ((h.2.1.2.2.1 .rne false false 0x3FC00000 0x3FC00000 12582912 12582912 1 1 false false false true (-23) (-23) 0 0 (by decide +kernel)
      (by decide +kernel))) ∧
    Applies ((h.2.1.2.2.2 .rne false false 0 0 (.nan false) (.inf true) (.inl (by decide +kernel)))) ∧
    Applies (h.1.2.1 ⟨f1 0 6 2, 0, 0, 0, 0x012⟩ (one floats) (by decide +kernel) (by unfold State.operandsPass State.forOn; decide +kernel)
      (by simp only [State.forOn, Thread.tagged]; decide +kernel)) ∧
    Applies (h.1.2.2.1 ⟨f1 0 6 2, 0, 0, 0, 0x01C⟩ (one floats) (by decide +kernel) (by unfold State.operandsPass State.forOn; decide +kernel)
      (by simp only [State.forOn, Thread.tagged]; decide +kernel)) ∧
    Applies (h.1.2.2.2.1 ⟨f1 0 6 2, 0, 0, 0, 0x0C1⟩ (one [(2, 7, 12)]) (by decide +kernel) (by unfold State.operandsPass State.forOn; decide +kernel)
      (by simp only [State.forOn, Thread.tagged]; decide +kernel)) :=
  ⟨applies _, applies _, applies _, applies _, applies _, applies _, applies _, applies _⟩

theorem test_meets_conversions_and_dot_products_3 (h : Obligations.ConversionsAndDotProducts) :
    Applies (h.1.2.2.2.2.1 ⟨f1 0 6 8, 0, 0, 0, 0x0C7⟩ (one [(8, 300, 12), (9, 5, 12), (10, 6, 12), (11, 7, 12)]) (by decide +kernel)
      (by unfold State.operandsPass State.forOn; decide +kernel) (by simp only [State.forOn, Thread.tagged]; decide +kernel)) ∧
    Applies (h.1.2.2.2.2.2 ⟨f1 0 8 2, 0, 0, 0, 0x07C⟩ (one [(2, 0xFF7F0180, 7)]) (by decide +kernel)
      (by unfold State.operandsPass State.forOn; decide +kernel) (by simp only [State.forOn, Thread.tagged]; decide +kernel)) ∧
    Applies (h.2.2.1 ⟨f1 0 6 2, 3, 4, 0, 0⟩ (one [(2, 0x3F803F80, 3), (3, 0x40003F80, 3), (4, 0x3F800000, 1)]) (by decide +kernel)
      (by unfold State.operandsPass State.forOn; decide +kernel) (by simp only [State.forOn, Env.sound]; decide +kernel)) ∧
    Applies (h.2.2.2.1 ⟨f1 0 6 2, 3, 4, 8, 0⟩ (one [(2, 0x7F7F7F7F, 7), (3, 0x7F7F7F7F, 7), (4, 0x7FFFFFFF, 12)]) (by decide +kernel)
      (by unfold State.operandsPass State.forOn; decide +kernel) (by unfold State.forOn; decide +kernel)) ∧
    Applies (h.2.2.2.2.2.2.2 ⟨f1 0 6 2, 3, 4, 0, 0x10⟩ (one [(2, 0x3FC00000, 1), (3, 0x40, 11), (4, 0, 1)]) (by decide +kernel)
      (by unfold State.operandsPass State.forOn; decide +kernel) (by simp only [State.forOn, Env.sound]; decide +kernel)) :=
  ⟨applies _, applies _, applies _, applies _, applies _⟩

theorem test_meets_uniform_instructions (h : Obligations.UniformInstructions) :
    Applies (h.1.1 (fr 0 1 2 3) (two [(2, 7, 0), (3, 9, 0)] false) (lane 0) (th [(2, 7, 0), (3, 9, 0)]) (by decide +kernel)
      (by unfold State.leads; decide +kernel)) ∧
    Applies (h.1.2.2.2.2.2.2.1 (fr 0 1 2 3) (two [(2, 7, 0), (3, 9, 0)] false) (lane 0) (th [(2, 7, 0), (3, 9, 0)]) (by decide +kernel)
      (by unfold State.leads; decide +kernel)) ∧
    Applies (h.1.2.2.2.2.2.2.2.2.1 (fi 0 1 2 5) (two [(2, 7, 0), (3, 9, 0)] false) (lane 0) (th [(2, 7, 0), (3, 9, 0)]) (by decide +kernel)
      (by unfold State.leads; decide +kernel)) ∧
    Applies (h.1.2.2.2.2.2.2.2.2.2.2.2.2.2.2.1 (fi 0 1 2 5) (two [(2, 7, 0), (3, 9, 0)] false) (lane 0) (th [(2, 7, 0), (3, 9, 0)])
      (by decide +kernel) (by unfold State.leads; decide +kernel)) ∧
    Applies (h.2.1 (fr 0 1 2 3) (two [(2, 7, 0), (3, 9, 0)] false) (lane 0) (th [(2, 7, 0), (3, 9, 0)]) (by decide +kernel)
      (by unfold State.leads; decide +kernel)) ∧
    Applies (h.2.2.2.2.2.2.2.1 (f1 0 1 0) (two [] false) (lane 0) (th []) (by decide +kernel) (by unfold State.leads; decide +kernel)) ∧
    Applies (h.2.2.2.2.2.2.2.2.2.2 (f1 0 1 2) (two [(2, 7, 0), (3, 9, 0)] false) (lane 0) (th [(2, 7, 0), (3, 9, 0)]) (by decide +kernel)
      (by decide +kernel) (by unfold State.leads; decide +kernel)) :=
  ⟨applies _, applies _, applies _, applies _, applies _, applies _, applies _⟩

theorem test_meets_loads_and_stores_stay_outstanding (h : Obligations.LoadsAndStoresStayOutstanding) :
    Applies (h.1.1 (fm 0 5 2 124 0) (two addrs false) (fun _ => none) (by decide +kernel) (by decide +kernel)
      (by simp only [State.placed, State.unclamped, ← okIs_iff]; decide +kernel)) ∧
    Applies (h.1.2.2.2.2.1 (fm 1 8 2 124 1) (padded (one addrs)) (fun _ => some (.pad core 0x8000)) (by decide +kernel) (by decide +kernel)
      (by simp only [State.placed, State.unclamped, ← okIs_iff]; decide +kernel)) ∧
    Applies (h.1.2.2.2.2.2 (fm 0 8 2 12 0) (one addrs) (fun _ => none) (by decide +kernel) (by decide +kernel)
      (by simp only [State.placed, State.unclamped, ← okIs_iff]; decide +kernel)) ∧
    Applies (h.2.1 (fm 0 4 2 124 0) (two addrs false) (fun _ => none) (by decide +kernel) (by decide +kernel)
      (by simp only [State.placed, State.unclamped, ← okIs_iff]; decide +kernel)) ∧
    Applies (h.2.2.2.2.1 (fm 0 4 2 124 1) (padded (one addrs)) (fun _ => some (.pad core 0x8000)) (by decide +kernel) (by decide +kernel)
      (by simp only [State.placed, State.unclamped, ← okIs_iff]; decide +kernel)) ∧
    Applies (h.2.2.2.2.2 (fm 0 0 2 124 1) (padded (one addrs)) (fun _ => some (.pad core 0x8000)) (by decide +kernel) (by decide +kernel)
      (by simp only [State.placed, State.unclamped, ← okIs_iff]; decide +kernel)) :=
  ⟨applies _, applies _, applies _, applies _, applies _, applies _⟩

theorem test_meets_other_lane_accesses (h : Obligations.OtherLaneAccesses) :
    Applies (h.1 (fm 0 0 2 124 0) (one addrs) (by decide +kernel) (by decide +kernel) (by decide +kernel)) ∧
    Applies ((h.2.1 (fm 0 0 2 124 0) (mapped (one [(2, 0, 0), (3, 0x40000000, 0)])) (lane 0) (th [(2, 0, 0), (3, 0x40000000, 0)]) ⟨⟨0, 0⟩, 0⟩
      (by decide +kernel) (by decide +kernel) (by decide +kernel) (id (by decide +kernel)) (by decide +kernel) (by decide +kernel)).1 (.inl
      (by decide +kernel))) ∧
    Applies (((h.2.1 (fm 0 0 2 124 0) (mapped (one addrs)) (lane 0) (th addrs) ⟨⟨0, 0⟩, 0⟩ (by decide +kernel) (by decide +kernel)
      (by decide +kernel) (id (by decide +kernel)) (by decide +kernel) (by decide +kernel)).2 ⟨0x8000, 0x8000, 0⟩ (by decide +kernel)
      ((translate_walk rfl rfl _ _ _).trans (okIs_iff.mp (by decide +kernel)))).1 (by decide +kernel)) ∧
    Applies (((h.2.1 (fm 0 0 2 124 0) (mappedOn 1 (one addrs)) (lane 0) (th addrs) ⟨⟨0, 0⟩, 0⟩ (by decide +kernel) (by decide +kernel)
      (by decide +kernel) (id (by decide +kernel)) (by decide +kernel) (by decide +kernel)).2 ⟨0x8000, memKey 1 0x8000, 1⟩ (by decide +kernel)
      ((translate_walk rfl rfl _ _ _).trans (okIs_iff.mp (by decide +kernel)))).2 (by decide +kernel)) ∧
    Applies (h.2.2.1 (fm 0 0 2 124 0) (one addrs) (by decide +kernel) (by decide +kernel)
      (by simp only [State.placed, State.unclamped, ← okIs_iff]; decide +kernel)) ∧
    Applies (h.2.2.2.1 (fm 0 0 2 124 0) (keeping (one addrs)) (lane 0) (th addrs) (by decide +kernel) (by decide +kernel) (by decide +kernel) (id
      (by decide +kernel)) (by decide +kernel) (by simp only [State.placed, State.unclamped, ← okIs_iff]; decide +kernel)
      (by simp only [State.placed, State.unclamped, ← okIs_iff]; decide +kernel) (by decide +kernel)) ∧
    Applies ((h.2.2.2.2.2 (fm 0 5 2 124 1) { padded (one addrs) with accs := [acc .store (some (.pad core 0x8000))], seq := 1 } (lane 0)
      (th addrs) core 0x8000 (by decide +kernel) (by decide +kernel) (by decide +kernel) (id (by decide +kernel)) (by decide +kernel)
      (by simp only [State.placed, State.unclamped, ← okIs_iff]; decide +kernel) (by decide +kernel)
      (by simp only [State.placed, State.unclamped, ← okIs_iff]; decide +kernel)).2.2 (by decide +kernel)) ∧
    Applies (h.2.2.2.2.1 (fm 0 4 2 6 0) (one addrs) (by decide +kernel) (by decide +kernel)
      (by simp only [State.placed, State.unclamped, ← okIs_iff]; decide +kernel)) :=
  ⟨applies _, applies _, applies _, applies _, applies _, applies _, applies _, applies _⟩

theorem test_meets_other_lane_accesses_2 (h : Obligations.OtherLaneAccesses) :
    Applies ((h.2.2.2.2.2 (fm 0 5 2 124 1) (padded (one addrs)) (lane 0) (th addrs) core 0x8000 (by decide +kernel) (by decide +kernel)
      (by decide +kernel) (id (by decide +kernel)) (by decide +kernel) (by simp only [State.placed, State.unclamped, ← okIs_iff]; decide +kernel)
      (by decide +kernel) (by simp only [State.placed, State.unclamped, ← okIs_iff]; decide +kernel)).1 (by decide +kernel) (by decide +kernel)) ∧
    Applies ((h.2.2.2.2.2 (fm 0 5 2 124 1) ((padded (one addrs)).updCore core fun k => { k with empty := [256] }) (lane 0) (th addrs) core 0x8000
      (by decide +kernel) (by decide +kernel) (by decide +kernel) (id (by decide +kernel)) (by decide +kernel)
      (by simp only [State.placed, State.unclamped, ← okIs_iff]; decide +kernel) (by decide +kernel)
      (by simp only [State.placed, State.unclamped, ← okIs_iff]; decide +kernel)).2.1 (by decide +kernel) (by decide +kernel)) :=
  ⟨applies _, applies _⟩

theorem test_meets_uniform_accesses (h : Obligations.UniformAccesses) :
    Applies (h.1 (fm 0 5 2 124 1) (padded (two addrs false)) (lane 0) (th addrs) (some (.pad core 0x8000)) (by decide +kernel)
      (by unfold State.leads; decide +kernel) (by simp only [State.placed, State.unclamped, ← okIs_iff]; decide +kernel) (by decide +kernel)
      (by simp only [State.placed, State.unclamped, ← okIs_iff]; decide +kernel)) ∧
    Applies (h.2.1 (fm 0 5 2 12 0) (two addrs false) (lane 0) (th addrs) none (by decide +kernel) (by unfold State.leads; decide +kernel)
      (by simp only [State.placed, State.unclamped, ← okIs_iff]; decide +kernel) (by decide +kernel)
      (by simp only [State.placed, State.unclamped, ← okIs_iff]; decide +kernel)) ∧
    Applies (h.2.2.2 (fm 0 4 2 124 0) (guarded (padded (two addrs false))) (lane 0) (lane 0) (th addrs) (by decide +kernel)
      (by unfold State.leads; decide +kernel) (by simp only [State.placed, State.unclamped, ← okIs_iff]; decide +kernel) (by decide +kernel)
      (by simp only [State.placed, State.unclamped, ← okIs_iff]; decide +kernel) (.inl (by decide +kernel)) (by decide +kernel)
      (by decide +kernel)) ∧
    Applies (h.2.2.1 (fm 0 4 2 124 0) (two addrs false) (lane 0) (th addrs) none (by decide +kernel) (by unfold State.leads; decide +kernel)
      (by simp only [State.placed, State.unclamped, ← okIs_iff]; decide +kernel) (by decide +kernel)
      (by simp only [State.placed, State.unclamped, ← okIs_iff]; decide +kernel) (by decide +kernel)) :=
  ⟨applies _, applies _, applies _, applies _⟩

theorem test_meets_atomics_issue_requests (h : Obligations.AtomicsIssueRequests) :
    Applies (h.1 (fm 0 5 2 4 0) (two addrs false) (fun _ => none) (by decide +kernel) (by decide +kernel)
      (by simp only [State.placed, State.unclamped, ← okIs_iff]; decide +kernel)) ∧
    Applies (h.1 (fm 0 124 2 4 1) (padded (two addrs false)) (fun _ => some (.pad core 0x8000)) (by decide +kernel) (by decide +kernel)
      (by simp only [State.placed, State.unclamped, ← okIs_iff]; decide +kernel)) ∧
    Applies (h.2.2.2.2.2.2.2.2.2.1 (fm 0 5 2 124 0) (one addrs) (fun _ => none) (by decide +kernel) (by decide +kernel)
      (by simp only [State.placed, State.unclamped, ← okIs_iff]; decide +kernel)) ∧
    Applies (h.2.2.2.2.2.2.2.2.2.2.1 (fm 0 5 2 4 0) (one [(2, 0x8000, 0), (4, 0x3F800000, 1)]) (fun _ => none) (by decide +kernel)
      (by decide +kernel) (by simp only [State.placed, State.unclamped, ← okIs_iff]; decide +kernel)) ∧
    Applies (h.2.2.2.2.2.2.2.2.2.2.2 (fm 0 5 2 6 0) (one addrs) (fun _ => none) (by decide +kernel) (by decide +kernel)
      (by simp only [State.placed, State.unclamped, ← okIs_iff]; decide +kernel)) :=
  ⟨applies _, applies _, applies _, applies _, applies _⟩

theorem test_meets_guarded_writes_are_held (h : Obligations.GuardedWritesAreHeld) :
    Applies ((h.1 (fm 0 4 2 124 0) (guarded (padded (one addrs))) (lane 0) (th addrs) (by decide +kernel) (by decide +kernel) (by decide +kernel) (id
      (by decide +kernel)) (by decide +kernel) (by simp only [State.placed, State.unclamped, ← okIs_iff]; decide +kernel)
      (by simp only [State.placed, State.unclamped, ← okIs_iff]; decide +kernel) (by decide +kernel)).1 (by decide +kernel) (by decide +kernel)) ∧
    Applies ((h.2.2.1 (fm 0 4 2 124 0) (guarded (padded ((one addrs).updThread (lane 0) fun t => { t with stn := 63 })))
      (lane 0) { th addrs with stn := 63 } (by decide +kernel) (by decide +kernel) (by decide +kernel) (id (by decide +kernel)) (by decide +kernel)
      (by simp only [State.placed, State.unclamped, ← okIs_iff]; decide +kernel)
      (by simp only [State.placed, State.unclamped, ← okIs_iff]; decide +kernel) (by decide +kernel)).2 (by decide +kernel)) ∧
    Applies (h.2.2.2 (fm 0 5 2 4 0) ((guarded (one addrs)).updTeam team fun t => { t with wtiles := [0] }) (lane 0) (th addrs) (by decide +kernel)
      (by decide +kernel) (by decide +kernel) (id (by decide +kernel)) (by decide +kernel) (by decide +kernel) ⟨none,
      (by simp only [State.placed, State.unclamped, ← okIs_iff]; decide +kernel)⟩
      (by simp only [State.placed, State.unclamped, ← okIs_iff]; decide +kernel) (by decide +kernel) (by decide +kernel)) :=
  ⟨applies _, applies _, applies _⟩

theorem test_meets_accesses_are_performed (h : Obligations.AccessesArePerformed) :
    Applies (((h.1 (withAcc { acc .load none with got := some 9 }) 0 9 { acc .load none with got := some 9 } (by decide +kernel) (by decide +kernel)
      (.inl (by decide +kernel)) (by decide +kernel)).1 (by decide +kernel))) ∧
    Applies (((h.1
      (withAcc { acc .load none with got := some 9, word := 3, state := .sent }) 0 9 { acc .load none with got := some 9, word := 3, state := .sent }
      (by decide +kernel) (by decide +kernel) (.inr (by decide +kernel)) (by decide +kernel)).2 (by decide +kernel))) ∧
    Applies (((h.2.1 (withAcc (acc .load (some (.pad core 0)))) 0 0 core (acc .load (some (.pad core 0))) (by decide +kernel) (by decide +kernel)
      (by decide +kernel) (id (by decide +kernel))).1 (by decide +kernel))) ∧
    Applies (((h.2.1 { withAcc (acc .load (some (.pad core 0))) with upsets := [.pad core 3] } 0 0 core (acc .load (some (.pad core 0)))
      (by decide +kernel) (by decide +kernel) (by decide +kernel) (id (by decide +kernel))).2 (by decide +kernel))) ∧
    Applies (((h.2.2.1 (withAcc (acc .load none)) 0 ⟨0x8000, 0x8000, 0⟩ (acc .load none) (by decide +kernel) (by decide +kernel) (by decide +kernel)
      (id (by decide +kernel)) ((translate_walk rfl rfl _ _ _).trans (okIs_iff.mp (by decide +kernel)))).1 (by decide +kernel)
      (by decide +kernel))) ∧
    Applies (((h.2.2.1 { withAcc (acc .load none) with upsets := [.l2 0 0x8003] } 0 ⟨0x8000, 0x8000, 0⟩ (acc .load none) (by decide +kernel)
      (by decide +kernel) (by decide +kernel) (id (by decide +kernel)) ((translate_walk rfl rfl _ _ _).trans (okIs_iff.mp (by decide +kernel)))).2 1
      (by decide +kernel))) ∧
    Applies (h.2.2.2.1 (lined (withAcc (acc .load none))) 0 line (acc .load none) (by decide +kernel) (by decide +kernel) (by decide +kernel) (id
      (by decide +kernel)) (by decide +kernel) (by decide +kernel) (by decide +kernel)) ∧
    Applies (((h.2.2.2.2.1 (withAcc { acc .store none with scope := 6 }) 0 ⟨0x8000, 0x8000, 0⟩ { acc .store none with scope := 6 }
      (by decide +kernel) (by decide +kernel) (by decide +kernel) (id (by decide +kernel)) ((translate_walk rfl rfl _ _ _).trans (okIs_iff.mp
      (by decide +kernel)))).1 (.inl (by decide +kernel)))) :=
  ⟨applies _, applies _, applies _, applies _, applies _, applies _, applies _, applies _⟩

theorem test_meets_accesses_are_performed_2 (h : Obligations.AccessesArePerformed) :
    Applies (((h.2.2.2.2.1 (lined (withAcc (acc .store none))) 0 ⟨0x8000, 0x8000, 0⟩ (acc .store none) (by decide +kernel) (by decide +kernel)
      (by decide +kernel) (id (by decide +kernel)) ((translate_walk rfl rfl _ _ _).trans (okIs_iff.mp (by decide +kernel)))).2 line
      (by decide +kernel) (by decide +kernel) (by decide +kernel))) ∧
    Applies (h.2.2.2.2.2.1 (withAcc (acc .store (some (.pad core 0)))) 0 0 core (acc .store (some (.pad core 0))) (by decide +kernel)
      (by decide +kernel) (by decide +kernel) (id (by decide +kernel)) (by decide +kernel)) ∧
    Applies (h.2.2.2.2.2.2.1 (withAcc (acc .stfe (some (.pad core 0)))) 0 0 core (acc .stfe (some (.pad core 0))) (by decide +kernel)
      (by decide +kernel) (by decide +kernel) (id (by decide +kernel))) ∧
    Applies (h.2.2.2.2.2.2.2.1 (withAcc (acc .ste (some (.pad core 0)))) 0 0 core (acc .ste (some (.pad core 0))) (by decide +kernel)
      (by decide +kernel) (by decide +kernel) (id (by decide +kernel)) (by decide +kernel)) ∧
    Applies (((h.2.2.2.2.2.2.2.2.1 (lined (withAcc (acc .cflush none))) 0 (acc .cflush none) (by decide +kernel) (by decide +kernel)
      (by decide +kernel) (id (by decide +kernel)) (by decide +kernel) (by decide +kernel)).1 (by decide +kernel))) ∧
    Applies (((h.2.2.2.2.2.2.2.2.1 (withAcc { acc .cflush none with scope := 6 }) 0 { acc .cflush none with scope := 6 } (by decide +kernel)
      (by decide +kernel) (by decide +kernel) (id (by decide +kernel)) (by decide +kernel)
      (by decide +kernel)).2 ⟨0x8000, 0x8000, 0⟩ ⟨0, 0, 0x8000, 0x8000, false⟩ (by decide +kernel) ((translate_walk rfl rfl _ _ _).trans (okIs_iff.mp
      (by decide +kernel))) (by decide +kernel))) ∧
    Applies (h.2.2.2.2.2.2.2.2.2.1 (withAcc { acc (.atomic .add) none with got := some 9 }) 0 9 { acc (.atomic .add) none with got := some 9 } .add
      (by decide +kernel) (by decide +kernel) (by decide +kernel) (id (by decide +kernel))) ∧
    Applies (h.2.2.2.2.2.2.2.2.2.2.1 (withAcc { acc .signal none with got := some 9 }) 0 9 { acc .signal none with got := some 9 }
      (by decide +kernel) (by decide +kernel) (by decide +kernel)) :=
  ⟨applies _, applies _, applies _, applies _, applies _, applies _, applies _, applies _⟩

theorem test_meets_accesses_are_performed_3 (h : Obligations.AccessesArePerformed) :
    Applies (h.2.2.2.2.2.2.2.2.2.2.2 (withAcc (acc .signal none)) 0 ⟨0x8000, 0x8000, 0⟩ (acc .signal none) (by decide +kernel) (by decide +kernel)
      (by decide +kernel) (id (by decide +kernel)) (by decide +kernel) (by decide +kernel) (by decide +kernel) ((translate_walk rfl rfl _ _ _).trans
      (okIs_iff.mp (by decide +kernel)))) :=
  applies _

theorem test_meets_requests_travel_and_perform (h : Obligations.RequestsTravelAndPerform) :
    Applies (h.1 (flying (.glob 0 0) .core) 0 ⟨req (.glob 0 0), .core, 0, 0, false⟩ (0, 7, 0) [] (acc (.atomic .add) none) ⟨0x8000, 0x8000, 0⟩ 0 0
      (by decide +kernel) (by decide +kernel) (by decide +kernel) (id (by decide +kernel)) (by decide +kernel) (by decide +kernel)
      ((translate_walk rfl rfl _ _ _).trans (okIs_iff.mp (by decide +kernel)))) ∧
    Applies (h.2.1 (afar .load) 0 (acc .load none) ⟨0x8000, memKey 1 0x8000, 1⟩ (by decide +kernel) (by decide +kernel) (by decide +kernel) (id
      (by decide +kernel)) (by decide +kernel) (by decide +kernel) (by decide +kernel) (id (by decide +kernel)) (by decide +kernel)
      (by decide +kernel) ((translate_walk rfl rfl _ _ _).trans (okIs_iff.mp (by decide +kernel)))) ∧
    Applies (h.2.1 (withAcc (acc .jadd none)) 0 (acc .jadd none) ⟨0x8000, 0x8000, 0⟩ (by decide +kernel) (by decide +kernel) (by decide +kernel) (id
      (by decide +kernel)) (by decide +kernel) (by decide +kernel) (by decide +kernel) (id (by decide +kernel)) (by decide +kernel)
      (by decide +kernel) ((translate_walk rfl rfl _ _ _).trans (okIs_iff.mp (by decide +kernel)))) ∧
    Applies (h.2.2.1 (flying (.pad core 0) .core) 0 0 core ⟨req (.pad core 0), .core, 0, 0, false⟩ (by decide +kernel) (by decide +kernel)
      (by decide +kernel) (id (by decide +kernel)) (by decide +kernel) (by decide +kernel)
      (by intro l hl a ha; obtain rfl : l = (0, 7, 0) := List.mem_singleton.mp hl; cases ha; decide +kernel)) ∧
    Applies (h.2.2.2.1 (flying (.glob 0 0x8000) .toRace) 0 ⟨req (.glob 0 0x8000), .toRace, 0, 0, false⟩ (by decide +kernel) (by decide +kernel)
      (by decide +kernel) (id (by decide +kernel))) ∧
    Applies (h.2.2.2.2.1 (flying (.glob 0 0x8000) .toWeir) 0 ⟨req (.glob 0 0x8000), .toWeir, 0, 0, false⟩ (by decide +kernel) (by decide +kernel)
      (by decide +kernel) (id (by decide +kernel))) ∧
    Applies (h.2.2.2.2.2.1 { one [] with races := [(0, ⟨[entry], []⟩)] } 0 0 ⟨[entry], []⟩ entry [] (by decide +kernel) (by decide +kernel)) ∧
    Applies (h.2.2.2.2.2.2.1 { one [] with weirs := [(0, ⟨[entry], []⟩)] } 0 0 ⟨[entry], []⟩ entry [] (by decide +kernel) (by decide +kernel)
      (by decide +kernel)) :=
  ⟨applies _, applies _, applies _, applies _, applies _, applies _, applies _, applies _⟩

theorem test_meets_requests_travel_and_perform_2 (h : Obligations.RequestsTravelAndPerform) :
    Applies (((h.2.2.2.2.2.2.2.1 (flying (.glob 0 0x8000) .toHome) 0 0x8000 ⟨req (.glob 0 0x8000), .toHome, 0, 0, false⟩ [] (by decide +kernel)
      (by decide +kernel) (by decide +kernel) (id (by decide +kernel)) ((stage2_walk rfl _ _ _).trans (okIs_iff.mp (by decide +kernel)))).1
      (by decide +kernel)).1 (by decide +kernel)) ∧
    Applies (((h.2.2.2.2.2.2.2.1 { flying (.glob 0 0x8000) .toHome with upsets := [.l2 0 0x8003] } 0 0x8000 ⟨req
      (.glob 0 0x8000), .toHome, 0, 0, false⟩ [] (by decide +kernel) (by decide +kernel) (by decide +kernel) (id (by decide +kernel))
      ((stage2_walk rfl _ _ _).trans (okIs_iff.mp (by decide +kernel)))).2 1 (by decide +kernel) (by decide +kernel))) ∧
    Applies ((((h.2.2.2.2.2.2.2.1 (homing .ld) 0 0x8000 (atHome .ld) [] (by decide +kernel) (by decide +kernel) (by decide +kernel) (id
      (by decide +kernel)) ((stage2_walk rfl _ _ _).trans (okIs_iff.mp (by decide +kernel)))).1 (by decide +kernel)).2.1 (by decide +kernel))) ∧
    Applies ((((h.2.2.2.2.2.2.2.1 (homing .read) 0 0x8000 (atHome .read) [] (by decide +kernel) (by decide +kernel) (by decide +kernel) (id
      (by decide +kernel)) ((stage2_walk rfl _ _ _).trans (okIs_iff.mp (by decide +kernel)))).1 (by decide +kernel)).2.2.1 (by decide +kernel))) ∧
    Applies ((((h.2.2.2.2.2.2.2.1 (homing .jadd) 0 0x8000 (atHome .jadd) [] (by decide +kernel) (by decide +kernel) (by decide +kernel) (id
      (by decide +kernel)) ((stage2_walk rfl _ _ _).trans (okIs_iff.mp (by decide +kernel)))).1 (by decide +kernel)).2.2.2.1 (by decide +kernel))) ∧
    Applies ((((h.2.2.2.2.2.2.2.1 (homing .jrd) 0 0x8000 (atHome .jrd) [] (by decide +kernel) (by decide +kernel) (by decide +kernel) (id
      (by decide +kernel)) ((stage2_walk rfl _ _ _).trans (okIs_iff.mp (by decide +kernel)))).1 (by decide +kernel)).2.2.2.2.1
      (by decide +kernel))) ∧
    Applies ((((h.2.2.2.2.2.2.2.1 (homing .arrive) 0 0x8000 (atHome .arrive) [] (by decide +kernel) (by decide +kernel) (by decide +kernel) (id
      (by decide +kernel)) ((stage2_walk rfl _ _ _).trans (okIs_iff.mp (by decide +kernel)))).1 (by decide +kernel)).2.2.2.2.2
      (by decide +kernel))) ∧
    Applies (h.2.2.2.2.2.2.2.2.1 { flying (.glob 0 0x8000) .toHome with parts := [] } 0 ⟨req (.glob 0 0x8000), .toHome, 0, 0, false⟩ []
      (by decide +kernel) (by decide +kernel) (by decide +kernel) (.inr ⟨_, rfl⟩)) :=
  ⟨applies _, applies _, applies _, applies _, applies _, applies _, applies _, applies _⟩

theorem test_meets_requests_travel_and_perform_3 (h : Obligations.RequestsTravelAndPerform) :
    Applies (h.2.2.2.2.2.2.2.2.2.1 (flying (.glob 0 0x8000) .backWeir) 0 ⟨req (.glob 0 0x8000), .backWeir, 0, 0, false⟩ (by decide +kernel)
      (by decide +kernel) (by decide +kernel)) ∧
    Applies
      (h.2.2.2.2.2.2.2.2.2.2 { flying (.glob 0 0x8000) .backRace with races := [(0, ⟨[], [⟨0, .add, 4, [(0, 7)], [req (.glob 0 0x8000)]⟩]⟩)] } 0 ⟨req
      (.glob 0 0x8000), .backRace, 0, 0, false⟩ ⟨0, .add, 4, [(0, 7)], [req (.glob 0 0x8000)]⟩ (by decide +kernel) (by decide +kernel)
      (by decide +kernel) (id (by decide +kernel))) :=
  ⟨applies _, applies _⟩

theorem test_meets_waits_end (h : Obligations.WaitsEnd) :
    Applies (h.1 (parked (.arrived .conv)) team ⟨0, 0⟩ [] [lane 0] (by decide +kernel) (by decide +kernel)) ∧
    Applies (h.2.1 (parked .yielding) (lane 0) { th [] with park := .yielding } (by decide +kernel) (by decide +kernel)) ∧
    Applies (h.2.2.1 ((two [] false).updThread (lane 0) fun t => { t with park := .exiting }) (lane 0) { th [] with park := .exiting }
      (by decide +kernel) (by decide +kernel) (by decide +kernel) (id (by decide +kernel)) (by decide +kernel) (by decide +kernel)
      (by decide +kernel)) ∧
    Applies (h.2.2.2.1 (parked .exiting) (lane 0) { th [] with park := .exiting } (by decide +kernel) (by decide +kernel) (by decide +kernel) (id
      (by decide +kernel)) (by decide +kernel) (by decide +kernel) (by decide +kernel)) ∧
    Applies (h.2.2.2.2.1 (parked (.bar ⟨2, none, none, core, none, 0⟩ 0xFFFFFFFF)) team
      (by intro x hx a d h; have := (show ∀ x ∈ (parked (.bar ⟨2, none, none, core, none, 0⟩ 0xFFFFFFFF)).members team, x.2.park = .bar ⟨2, none, none, core, none, 0⟩ 0xFFFFFFFF by decide +kernel) x hx; rw [this] at h; cases h)) ∧
    Applies (h.2.2.2.2.2.1
      ({ mapped ((one []).updThread (lane 0) fun t => { t with park := .barWord 0x9000 0 }) with mem := tables ++ [(0x9004, 1)] }) team
      (lane 0) { th [] with park := .barWord 0x9000 0 } 0x9000 0 ⟨0x9004, 0x9004, 0⟩ (by decide +kernel) (by decide +kernel) (by decide +kernel)
      ((translate_walk rfl rfl _ _ _).trans (okIs_iff.mp (by decide +kernel))) ((missVa_walk rfl rfl _ _ _ _).trans (by decide +kernel))
      (by decide +kernel) (by decide +kernel)) ∧
    Applies (h.2.2.2.2.2.2 ((one []).updThread (lane 0) fun t => { t with fences := [⟨1, 1, 0, 0⟩] })
      (lane 0) { th [] with fences := [⟨1, 1, 0, 0⟩] } ⟨1, 1, 0, 0⟩ (by decide +kernel) (by decide +kernel) (by decide +kernel)) :=
  ⟨applies _, applies _, applies _, applies _, applies _, applies _, applies _⟩

theorem test_meets_fences_and_waitc (h : Obligations.FencesAndWaitc) :
    Applies (h.1 (fi 0 0 0 2) (one []) (lane 0) (th []) (by decide +kernel) (by decide +kernel) (by decide +kernel) (id (by decide +kernel))
      (by intro k hk; obtain rfl : (⟨⟨0, 0⟩, 0⟩ : CtxId) = k := Option.some.inj hk; decide +kernel) (by decide +kernel)) ∧
    Applies (h.2.1 (fi 0 2 0 0xFFFF0001) (one []) (lane 0) (th []) (by decide +kernel) (by decide +kernel) (by decide +kernel) (id
      (by decide +kernel)) (by intro k hk; obtain rfl : (⟨⟨0, 0⟩, 0⟩ : CtxId) = k := Option.some.inj hk; decide +kernel) (by decide +kernel)) ∧
    Applies ((h.2.2 (fi 0 0 0 0) (one []) (lane 0) (th []) (by decide +kernel) (by decide +kernel) (by decide +kernel) (id (by decide +kernel))).1
      (by decide +kernel)) ∧
    Applies ((h.2.2 (fi 0 0 0 0) ((one []).updThread (lane 0) fun t => { t with stn := 1 }) (lane 0) { th [] with stn := 1 } (by decide +kernel)
      (by decide +kernel) (by decide +kernel) (id (by decide +kernel))).2.1 (by decide +kernel) (.inr (by decide +kernel))) ∧
    Applies ((h.2.2 (fi 0 0 0 0) (keeping ((one []).updThread (lane 0) fun t => { t with stn := 1 })) (lane 0) { th [] with stn := 1 }
      (by decide +kernel) (by decide +kernel) (by decide +kernel) (id (by decide +kernel))).2.2 (by decide +kernel) (by decide +kernel)
      (by decide +kernel)) :=
  ⟨applies _, applies _, applies _, applies _, applies _⟩

theorem test_meets_barriers_arrive_and_wait (h : Obligations.BarriersArriveAndWait) :
    Applies (h.1 Instr.bar (by simp) (fi 0 0 0 0x8) (two [] false) (by decide +kernel) (by decide +kernel)) ∧
    Applies (h.2.1 (fi 0 0 0 0x102) (set2 []) (lane 0) (th []) [(lane 1, th [])] (by decide +kernel) (by decide +kernel) (by decide +kernel) (id
      (by decide +kernel))) ∧
    Applies (h.2.2.1 (fi 0 5 0 0x202) (set2 []) (lane 0) (th []) [(lane 1, th [])] (by decide +kernel) (by decide +kernel) (by decide +kernel) (id
      (by decide +kernel)) (by decide +kernel)) ∧
    Applies (h.2.2.2.1 (Instr.bar, 0) (by simp) (fi 0 0 0 0x102) { set2 [] with accs := [acc .store none], seq := 1 } (lane 0)
      (th []) [(lane 1, th [])] (by decide +kernel) (by decide +kernel) (by decide +kernel) (id (by decide +kernel)) (by decide +kernel)
      (fun h => absurd h (by decide))) ∧
    Applies (h.2.2.2.2.1 (fi 0 5 0 0x2) (set2 []) (lane 0) (th []) [(lane 1, th [])] (by decide +kernel) (by decide +kernel) (by decide +kernel) (id
      (by decide +kernel))) ∧
    Applies (h.2.2.2.2.2.1 (Instr.bar, 0) (by simp) (fi 0 0 2 6) (set2 addrs) (lane 0) (th addrs) [(lane 1, th addrs)] (by decide +kernel)
      (by decide +kernel) (by decide +kernel) (id (by decide +kernel)) (by decide +kernel) (by decide +kernel) (fun h => absurd h (by decide))
      (okIs_iff.mp (by decide +kernel))) ∧
    Applies (h.2.2.2.2.2.2 (fi 0 5 2 6) (mapped (set2 addrs)) (lane 0) (th addrs) [(lane 1, th addrs)] (by decide +kernel) (by decide +kernel)
      (by decide +kernel) (id (by decide +kernel)) (okIs_iff.mp (by decide +kernel)) ((missVa_walk rfl rfl _ _ _ _).trans (by decide +kernel))) :=
  ⟨applies _, applies _, applies _, applies _, applies _, applies _, applies _⟩

theorem test_meets_barrier_counts_arrivals (h : Obligations.BarrierCountsArrivals) :
    Applies (((h (one []) ⟨2, none, none, core, none, 0⟩ 1).2 ⟨2, none, none, core, none, 1⟩ (by decide +kernel))) :=
  applies _

theorem test_meets_copies_are_accepted (h : Obligations.CopiesAreAccepted) :
    Applies (((h.1 (copyInstr 5 0) (engined (one (copyRegs [8] 0))) (lane 0) (th (copyRegs [8] 0)) (by decide +kernel)
      (by unfold State.leads; decide +kernel)).1 (by decide +kernel) (by decide +kernel) (by decide +kernel) (id (by decide +kernel)))) ∧
    Applies (((h.1 (copyInstr 5 0) (engined { one (copyRegs [8] 0) with threads := [(lane 0, { th (copyRegs [8] 0) with cpn := 63 })] })
      (lane 0) { th (copyRegs [8] 0) with cpn := 63 } (by decide +kernel) (by unfold State.leads; decide +kernel)).2.1 (by decide +kernel)
      (by decide +kernel) (by decide +kernel) ⟨_, List.mem_singleton.mpr rfl, (by decide +kernel)⟩)) ∧
    Applies (((h.1 (copyInstr 5 0) ((engined (one (copyRegs [8] 0))).updCore core fun k => { k with copies := [copying [] [0] 1] }) (lane 0) (th
      (copyRegs [8] 0)) (by decide +kernel) (by unfold State.leads; decide +kernel)).2.2.1 (by decide +kernel) (by decide +kernel)
      (by decide +kernel))) ∧
    Applies (((h.1 (copyInstr 5 0) (one (copyRegs [8] 0)) (lane 0) (th (copyRegs [8] 0)) (by decide +kernel)
      (by unfold State.leads; decide +kernel)).2.2.2.2 (trapR 0x13 0 0) (by decide +kernel))) ∧
    Applies (((h.1 (copyInstr 5 0) (keeping (engined (one (copyRegs [8] 0)))) (lane 0) (th (copyRegs [8] 0)) (by decide +kernel)
      (by unfold State.leads; decide +kernel)).2.2.2.1 (by decide +kernel) (by decide +kernel))) ∧
    Applies (((h.2.1 (copyInstr 5 0) (engined (one (copyRegs [8, 2, 16, 8] 0))) (lane 0) (th (copyRegs [8, 2, 16, 8] 0)) (by decide +kernel)
      (by unfold State.leads; decide +kernel)).1 (by decide +kernel) (by decide +kernel) (by decide +kernel) (id (by decide +kernel)))) ∧
    Applies (((h.2.2.1 (copyInstr 21 16) (engined (one (copyRegs [2, 8] 0x300))) (lane 0) (th (copyRegs [2, 8] 0x300)) (by decide +kernel)
      (by unfold State.leads; decide +kernel)).1 (by decide +kernel) (by decide +kernel) (by decide +kernel) (id (by decide +kernel)))) ∧
    Applies (((h.2.2.2.1 (copyInstr 21 16) (engined (one (copyRegs [2, 8] 0x300))) (lane 0) (th (copyRegs [2, 8] 0x300)) (by decide +kernel)
      (by unfold State.leads; decide +kernel)).1 (by decide +kernel) (by decide +kernel) (by decide +kernel) (id (by decide +kernel)))) :=
  ⟨applies _, applies _, applies _, applies _, applies _, applies _, applies _, applies _⟩

theorem test_meets_copies_are_accepted_2 (h : Obligations.CopiesAreAccepted) :
    Applies (((h.2.2.2.2.1 (copyInstr 5 16) (engined (one (copyRegs [8] 20))) (lane 0) (th (copyRegs [8] 20)) (by decide +kernel)
      (by unfold State.leads; decide +kernel)).1 (by decide +kernel) (by decide +kernel) (by decide +kernel) (id (by decide +kernel)))) ∧
    Applies (((h.2.2.2.2.2 (copyInstr 1 16) (engined (one (copyRegs [8] 7))) (lane 0) (th (copyRegs [8] 7)) (by decide +kernel)
      (by unfold State.leads; decide +kernel)).1 (by decide +kernel) (by decide +kernel) (by decide +kernel) (id (by decide +kernel)))) :=
  ⟨applies _, applies _⟩

theorem test_meets_tag_instructions (h : Obligations.TagInstructions) :
    Applies (h.1 (fr 0 0 2 0) (tagState [(2, 3, 0)]) (lane 0) (th [(2, 3, 0)]) (by decide +kernel) (by unfold State.leads; decide +kernel)
      (by decide +kernel)) ∧
    Applies (h.2.1 (fr 0 0 2 0) (tagState [(2, 0x20, 0)]) (lane 0) (th [(2, 0x20, 0)]) 5 [] ⟨5, 0x10, 64, 0⟩ (by decide +kernel)
      (by unfold State.leads; decide +kernel) (by decide +kernel) (by decide +kernel) (by decide +kernel)) ∧
    Applies (h.2.2.1 (fr 0 0 2 0) (tagState [(2, 0x60, 0)]) (lane 0) (th [(2, 0x60, 0)]) (by decide +kernel) (by unfold State.leads; decide +kernel)
      (by decide +kernel)) ∧
    Applies (h.2.2.2.1 ⟨f1 0 4 2, 0, 0, 1, 0⟩ (tagState [(2, 0x60, 0)]) (lane 0) (th [(2, 0x60, 0)]) (by decide +kernel)
      (by unfold State.leads; decide +kernel) (by decide +kernel)) ∧
    Applies (h.2.2.2.2.1 (fr 0 4 2 0) (tagState [(2, 0x41, 0)]) (lane 0) (th [(2, 0x41, 0)]) (by decide +kernel)
      (by unfold State.leads; decide +kernel)) ∧
    Applies (h.2.2.2.2.2 (fr 0 0 2 0) (tagState [(2, 0x60, 0)]) (lane 0) (th [(2, 0x60, 0)]) (by decide +kernel)
      (by unfold State.leads; decide +kernel)) :=
  ⟨applies _, applies _, applies _, applies _, applies _, applies _⟩

theorem test_meets_copy_engine_acts (h : Obligations.CopyEngineActs) :
    Applies (h.1 ((engined (one [])).updThread (lane 0) fun t => { t with park := .copy 3 }) (lane 0) { th [] with park := .copy 3 } 3
      (by decide +kernel) (by decide +kernel) (by decide +kernel)) ∧
    Applies (h.2.1 (withCopy (copying [] [] 1)) core 3 (copying [] [] 1) (by decide +kernel) (by decide +kernel) (by decide +kernel)) ∧
    Applies (h.2.2.1
      (withCopy { copying [(core, 2)] [0] 1 with vals := [(0, 5)] }) core 3 0 5 0x100 0 core { copying [(core, 2)] [0] 1 with vals := [(0, 5)] } ⟨(by decide +kernel), ⟨_, rfl,
      (by decide +kernel)⟩, (by decide +kernel)⟩ (by decide +kernel) (id (by decide +kernel)) (by decide +kernel) (by decide +kernel)
      (by decide +kernel) (id (by decide +kernel)) (okIs_iff.mp (by decide +kernel)) (by decide +kernel)) ∧
    Applies (h.2.2.2.1 (withCopy (copying [(core, 2)] [0] 1)) (withCopy (copying [(core, 2)] [0] 1)) core 3 0 0 0
      (copying [(core, 2)] [0] 1) ⟨(by decide +kernel), ⟨_, rfl, (by decide +kernel)⟩, (by decide +kernel)⟩ (by decide +kernel) (id
      (by decide +kernel)) (by decide +kernel) (by decide +kernel) (by decide +kernel) (id (by decide +kernel)) (by decide +kernel)
      (by decide +kernel) rfl) ∧
    Applies (h.2.2.2.2.1 (withCopy gathering) (withCopy gathering) core 3 0 0 gathering ⟨(by decide +kernel), ⟨_, rfl, (by decide +kernel)⟩,
      (by decide +kernel)⟩ (by decide +kernel) (id (by decide +kernel)) (by decide +kernel) (by decide +kernel) rfl) ∧
    Applies (h.2.2.2.2.2.1 ((withCopy (copying [(core, 5)] [0] 1)).updCore core fun k => { k with empty := [5] }) core 3 5 core
      (copying [(core, 5)] [0] 1) ⟨(by decide +kernel), ⟨_, rfl, (by decide +kernel)⟩, (by decide +kernel)⟩ (by decide +kernel) (id
      (by decide +kernel)) (by decide +kernel) (by decide +kernel) (by decide +kernel)) ∧
    Applies (h.2.2.2.2.2.2 (withCopy missCopy) core 3 0 _ _ missCopy ⟨(by decide +kernel), ⟨_, rfl, (by decide +kernel)⟩, (by decide +kernel)⟩
      (by decide +kernel) (id (by decide +kernel)) copy_miss (by decide +kernel)) :=
  ⟨applies _, applies _, applies _, applies _, applies _, applies _, applies _⟩

theorem test_meets_matrix_commands_are_accepted (h : Obligations.MatrixCommandsAreAccepted) :
    Applies (h.1 Instr.mma (by simp) (matInstr 0x30 12 0 0) (two [] false) (by decide +kernel) (by decide +kernel)) ∧
    Applies (h.2.1 (Instr.mma, 0) (by simp) (matInstr 0x30 12 0 0) (matState []) (lane 0) (th (matRegs [])) ((matState []).readied, 0) (matCmdOf 0
      (matInstr 0x30 12 0 0) (matState [])) (by decide +kernel) (by unfold leadsMatrix; decide +kernel) (by decide +kernel)) ∧
    Applies (h.2.1 (Instr.mmam, 1) (by simp) (matInstr 0x30 12 16 0) (matState [0x00010001, 0xFFFF]) (lane 0) (th (matRegs [0x00010001, 0xFFFF]))
      ((matState [0x00010001, 0xFFFF]).readied, 0) (matCmdOf 1 (matInstr 0x30 12 16 0) (matState [0x00010001, 0xFFFF])) (by decide +kernel)
      (by unfold leadsMatrix; decide +kernel) (by decide +kernel)) ∧
    Applies (h.2.2.2.1 ⟨f1 0 3 0, 0, 0, 1, 0⟩ (matState []) (lane 0) (th (matRegs [])) ((matState []).readied, 0) (matCmdOf 3 ⟨f1 0 3 0, 0, 0, 1, 0⟩
      (matState [])) (by decide +kernel) (by unfold leadsMatrix; decide +kernel)) ∧
    Applies (h.2.2.2.2.1 (Instr.accld, 4) (by simp) (matInstr 0x10 0 16 0) (matState [0x00010001]) (lane 0) (th (matRegs [0x00010001]))
      ((matState [0x00010001]).readied, 0) (matCmdOf 4 (matInstr 0x10 0 16 0) (matState [0x00010001])) (by decide +kernel)
      (by unfold leadsMatrix; decide +kernel) (by decide +kernel)) ∧
    Applies (h.2.2.2.2.1 (Instr.accst, 5) (by simp) (matInstr 0x10 0 16 0) (matState [0x00010001]) (lane 0) (th (matRegs [0x00010001]))
      ((matState [0x00010001]).readied, 0) (matCmdOf 5 (matInstr 0x10 0 16 0) (matState [0x00010001])) (by decide +kernel)
      (by unfold leadsMatrix; decide +kernel) (by decide +kernel)) ∧
    Applies (h.2.2.1 (matInstr 0x30 12 16 0) metaState metaState.readied (lane 0) (th (matRegs [0x2000])) (metaState.readied, 0) metaCmd metaVal
      (by decide +kernel) (by unfold leadsMatrix; decide +kernel) (by decide +kernel) meta_read (by decide +kernel)) ∧
    Applies (h.2.2.2.2.2.1 (matInstr 0x30 0 16 0) walkState walkState.readied (lane 0) (th walkRegs) (walkState.readied, 0) walkCmd cardVal
      (by decide +kernel) (by unfold leadsMatrix; decide +kernel) (by decide +kernel) card_read (by decide +kernel)) :=
  ⟨applies _, applies _, applies _, applies _, applies _, applies _, applies _, applies _⟩

theorem test_meets_matrix_commands_are_accepted_2 (h : Obligations.MatrixCommandsAreAccepted) :
    Applies (((h.2.2.2.2.2.2 ⟨f1 0 4 0, 0, 0, 1, 0⟩ (matState []) (lane 0) (th (matRegs [])) (by decide +kernel) (by decide +kernel)
      (by decide +kernel) (id (by decide +kernel))).1 (fun _ => (by decide +kernel)))) ∧
    Applies (((h.2.2.2.2.2.2 ⟨f1 0 4 0, 0, 0, 1, 0⟩ storing.1 (lane 0) (th (matRegs [0x00010001])) (by decide +kernel) (by decide +kernel)
      (by decide +kernel) (id (by decide +kernel))).2 (by decide +kernel) (by decide +kernel))) :=
  ⟨applies _, applies _⟩

theorem test_meets_matrix_steps_retire (h : Obligations.MatrixStepsRetire) :
    Applies (h.1 (queued 4 (matInstr 0x10 0 16 0) [0x00010001] .waiting).1 (queued 4 (matInstr 0x10 0 16 0) [0x00010001] .waiting).1 _ core 0 0 0 _ _
      (queued 4 (matInstr 0x10 0 16 0) [0x00010001] .waiting).2 (by decide +kernel) (by decide +kernel) (by decide +kernel) rfl rfl) ∧
    Applies (h.2.1 (loaded (queued 1 (matInstr 0x30 12 16 0) [0x00010001, 0xFFFF] .waiting) 2).1 (loaded (queued 1
      (matInstr 0x30 12 16 0) [0x00010001, 0xFFFF] .waiting) 2).1 core 0 (loaded (queued 1
      (matInstr 0x30 12 16 0) [0x00010001, 0xFFFF] .waiting) 2).2 (by decide +kernel) (by decide +kernel) (by decide +kernel) (id
      (by decide +kernel)) (by decide +kernel)) ∧
    Applies (h.2.2.1 (queued 3 ⟨f1 0 3 0, 0, 0, 1, 0⟩ [] .waiting).1 (queued 3 ⟨f1 0 3 0, 0, 0, 1, 0⟩ [] .waiting).1 core 0
      (queued 3 ⟨f1 0 3 0, 0, 0, 1, 0⟩ [] .waiting).2 (by decide +kernel) (by decide +kernel) (by decide +kernel)) ∧
    Applies (h.2.2.2.1 (loaded (queued 4 (matInstr 0x10 0 16 0) [0x00010001] .waiting) 2).1 (loaded (queued 4
      (matInstr 0x10 0 16 0) [0x00010001] .waiting) 2).1 core 0 (loaded (queued 4 (matInstr 0x10 0 16 0) [0x00010001] .waiting) 2).2
      (by decide +kernel) (by decide +kernel) (by decide +kernel)) ∧
    Applies (h.2.2.2.2.1 (queued 5 (matInstr 0x10 0 16 0) [0x00010001] .waiting).1 (queued 5 (matInstr 0x10 0 16 0) [0x00010001] .waiting).1 core 0
      (queued 5 (matInstr 0x10 0 16 0) [0x00010001] .waiting).2 (by decide +kernel) (by decide +kernel) (by decide +kernel) (id (by decide +kernel))
      (by decide +kernel)) ∧
    Applies (((h.2.2.2.2.2.1 storing.1 core 0 0 7 0 0 1 4 0x100 storing.2 (by decide +kernel) (by decide +kernel) (by decide +kernel) (id
      (by decide +kernel)) (by decide +kernel) (by decide +kernel)).1 rfl)) ∧
    Applies (((h.2.2.2.2.2.1 storingFar.1 core 0 0 7 0 0 0 4 0x100 storingFar.2 (by decide +kernel) (by decide +kernel) (by decide +kernel) (id
      (by decide +kernel)) (by decide +kernel) (by decide +kernel)).2 _ (by decide +kernel) rfl (by decide +kernel))) ∧
    Applies (h.2.2.2.2.2.2 struckMat.1 core 0 struckMat.2 (by decide +kernel) (by decide +kernel) (by decide +kernel)) :=
  ⟨applies _, applies _, applies _, applies _, applies _, applies _, applies _, applies _⟩

theorem test_meets_queue_pops_and_handles (h : Obligations.QueuePopsAndHandles) :
    Applies ((((h.1 ⟨f1 0 24 2, 0, 3, 0, 0⟩ (withQ emptyQ 9 qRegs) (lane 0) (th qRegs) emptyQ (by decide +kernel) (qLeads _ _ _ _ rfl rfl _ _)
      (qHandle _ rfl _ (by decide) _) (by decide +kernel)).2 (fun _ => (by decide +kernel)) (qHandle_q _ _ _)).1 (by decide +kernel))) ∧
    Applies ((((h.2.1 ⟨f1 0 24 2, 0, 3, 0, 0⟩ (withQ fullQ 9 qRegs) (lane 0) (th qRegs) fullQ (by decide +kernel) (qLeads _ _ _ _ rfl rfl _ _)
      (qHandle _ rfl _ (by decide) _) (by decide +kernel)).2 (fun _ => (by decide +kernel)) (qHandle_q _ _ _)).2.1 ⟨0, 0⟩ ⟨0, 5, 0, .whole qrec⟩ qrec
      (by decide +kernel) (by decide +kernel) rfl)) ∧
    Applies (((((h.1 ⟨f1 0 24 2, 0, 3, 0, 0⟩ (conted [acc .load none]) (lane 0) (th qRegs) contQ (by decide +kernel) (qLeadsOf _ _ rfl rfl
      (qGroup _ _) (by decide +kernel) (by decide +kernel)) (qBad rfl rfl rfl _ (by decide) _) (by decide +kernel)).2 (fun _ => (by decide +kernel))
      (qNames rfl rfl _)).2.2 ⟨0, 0⟩ ⟨0, 5, 0, .cont cont1⟩ cont1 (by decide +kernel) (by decide +kernel) rfl).1 (by decide +kernel))) ∧
    Applies (((((h.1 ⟨f1 0 24 2, 0, 3, 0, 0⟩ (conted []) (lane 0) (th qRegs) contQ (by decide +kernel) (qLeadsOf _ _ rfl rfl (qGroup _ _)
      (by decide +kernel) (by decide +kernel)) (qBad rfl rfl rfl _ (by decide) _) (by decide +kernel)).2 (fun _ => (by decide +kernel))
      (qNames rfl rfl _)).2.2 ⟨0, 0⟩ ⟨0, 5, 0, .cont cont1⟩ cont1 (by decide +kernel) (by decide +kernel) rfl).2 _ (by decide +kernel)
      ((readVa_walk rfl rfl _ _ _).trans (readWalk_page (g := 0x9000) (k := 0x9000) rfl rfl (by decide) (okIs_iff.mp (by decide +kernel))
      (okIs_iff.mp (by decide +kernel)) rfl (by decide +kernel))))) ∧
    Applies ((((h.1 ⟨f1 0 24 2, 0, 3, 0, 0⟩ (resuming []) (lane 0) (th qRegs) fullQ (by decide +kernel) (qLeadsOf _ _ rfl rfl (qGroup _ _)
      (by decide +kernel) (by decide +kernel)) (qBad rfl rfl rfl _ (by decide) _) (by decide +kernel)).1 _ (by decide +kernel) (getD_some
      (by decide +kernel) (one []))).1 (by decide +kernel))) ∧
    Applies ((((h.1 ⟨f1 0 24 2, 0, 3, 0, 0⟩ (resuming [acc .load none]) (lane 0) (th qRegs) fullQ (by decide +kernel) (qLeadsOf _ _ rfl rfl
      (qGroup _ _) (by decide +kernel) (by decide +kernel)) (qBad rfl rfl rfl _ (by decide) _) (by decide +kernel)).1 _ (by decide +kernel)
      (getD_some (by decide +kernel) (one []))).2 (by decide +kernel))) ∧
    Applies ((h.2.2.1 ⟨f1 0 4 2, 0, 0, 0, 5⟩ (withQ fullQ 9 qRegs) (lane 0) (th qRegs) (by decide +kernel) (qLeads _ _ _ _ rfl rfl _ _)).1
      ((congrArg ((withQ fullQ 9 qRegs).handleValid ⟨0, 0⟩) (qRegs_read _ .ready)).trans (handleValid_make (q := fullQ) (rights := 7) rfl (by decide)
      (by decide) (by decide)))) ∧
    Applies ((h.2.2.1 ⟨f1 0 4 2, 0, 0, 0, 5⟩ (one [(2, 5, 0)]) (lane 0) (th [(2, 5, 0)]) (by decide +kernel)
      (by unfold State.leads; decide +kernel)).2 (by decide +kernel)) :=
  ⟨applies _, applies _, applies _, applies _, applies _, applies _, applies _, applies _⟩

theorem test_meets_queue_pops_and_handles_2 (h : Obligations.QueuePopsAndHandles) :
    Applies (h.2.2.2 ⟨f1 0 0 2, 0, 0, 0, 1⟩ (withQ fullQ 9 qRegs) (lane 0) (th qRegs) _ (by decide +kernel) (qLeads _ _ _ _ rfl rfl _ _) rfl (.inr
      ((congrArg ((withQ fullQ 9 qRegs).handleValid ⟨0, 0⟩) (qRegs_read _ .ready)).trans (handleValid_make (q := fullQ) (rights := 7) rfl (by decide)
      (by decide) (by decide))))) ∧
    Applies (h.2.2.2 ⟨f1 0 0 124, 0, 0, 0, 1⟩ (withQ fullQ 9 qRegs) (lane 0) (th qRegs) _ (by decide +kernel) (qLeads _ _ _ _ rfl rfl _ _) rfl
      (.inl rfl)) :=
  ⟨applies _, applies _⟩

theorem test_meets_window_moves (h : Obligations.WindowMoves) :
    Applies ((h.1 (f1 3 24 120) (withQ emptyQ 9 []) (lane 0) (th []) 0 emptyQ (by decide +kernel) rfl ⟨rfl,
      (by decide +kernel), fun x hx => by obtain rfl : x = (lane 0, th []) := List.mem_singleton.mp hx; decide +kernel⟩ (qWindow_ok _ _ rfl _
      (by decide)) (by decide +kernel) (fun _ => (by decide +kernel)) (qWindow_q _ _ _)).1 rfl) ∧
    Applies ((h.1 (f1 3 24 120) (withQ fullQ 9 []) (lane 0) (th []) 0 fullQ (by decide +kernel) rfl ⟨rfl,
      (by decide +kernel), fun x hx => by obtain rfl : x = (lane 0, th []) := List.mem_singleton.mp hx; decide +kernel⟩ (qWindow_ok _ _ rfl _
      (by decide)) (by decide +kernel) (fun _ => (by decide +kernel)) (qWindow_q _ _ _)).2 ⟨0, 5, 0, .whole qrec⟩ qrec rfl rfl) ∧
    Applies ((h.2.1 (f1 3 24 120) (withQ emptyQ 9 []) (lane 0) (th []) 0 emptyQ (by decide +kernel) rfl rfl rfl rfl (by decide +kernel)
      (qWindow_ok _ _ rfl _ (by decide)) rfl (qWindow_q _ _ _)).1 rfl) ∧
    Applies ((h.2.1 (f1 3 24 120) (withQ fullQ 9 []) (lane 0) (th []) 0 fullQ (by decide +kernel) rfl rfl rfl rfl (by decide +kernel)
      (qWindow_ok _ _ rfl _ (by decide)) rfl (qWindow_q _ _ _)).2 ⟨0, 5, 0, .whole qrec⟩ qrec rfl rfl) ∧
    Applies (((h.2.2 (f1 3 120 16) (withQ fullQ 9 qRegs) (lane 0) (th qRegs) 0 (by decide +kernel) rfl rfl rfl rfl (by decide +kernel)
      (qWindow_ok _ _ rfl _ (by decide)) rfl (.inl (by decide +kernel))).1 (by decide +kernel) (by decide +kernel)
      ((congrArg (fun x => (withQ fullQ 9 qRegs).pushStatus x ⟨0, 0⟩ 1 true) (qWindow_set _ _ _)).trans (by decide +kernel)))) ∧
    Applies (((h.2.2 (f1 3 120 16) (withQ fullQ 0 qRegs) (lane 0) (th qRegs) 0 (by decide +kernel) rfl rfl rfl rfl (by decide +kernel)
      (qWindow_ok _ _ rfl _ (by decide)) rfl (.inl (by decide +kernel))).2.1 (by decide +kernel) (by decide +kernel) (fun h => absurd
      (((congrArg (fun x => (withQ fullQ 0 qRegs).pushStatus x ⟨0, 0⟩ 1 true) (qWindow_set _ _ _))).symm.trans h) (by decide +kernel)))) ∧
    Applies (((h.2.2 (f1 3 120 8) (withQ fullQ 0 [(10, 7, 0)]) (lane 0) (th [(10, 7, 0)]) 0 (by decide +kernel) rfl rfl rfl rfl (by decide +kernel)
      (qWindow_ok _ _ rfl _ (by decide)) rfl (.inl (by decide +kernel))).2.2.1 (by decide +kernel) (by decide +kernel))) ∧
    Applies (((h.2.2 (f1 3 120 16) engaged (lane 0) (th qRegs) 0 (by decide +kernel) rfl rfl rfl rfl (by decide +kernel) (wBad
      (qWindow 9 fullQ qRegs) rfl rfl rfl rfl _ (by decide)) rfl (.inl (by decide +kernel))).2.2.2 (.inl (by decide +kernel))
      (by decide +kernel))) :=
  ⟨applies _, applies _, applies _, applies _, applies _, applies _, applies _, applies _⟩

theorem test_meets_pushes_joins_and_fences (h : Obligations.PushesJoinsAndFences) :
    Applies (((h.1 ⟨f1 0 4 2, 16, 0, 0, 0⟩ (withQ fullQ 9 qRegs) (lane 0) (th qRegs) (by decide +kernel) (qLeads _ _ _ _ rfl rfl _ _)
      (qBad rfl rfl rfl _ (by decide) _) (by decide +kernel) (.inl (by decide +kernel)) (by decide +kernel)).2 (by decide +kernel)
      (by decide +kernel))) ∧
    Applies (((h.2.1 ⟨f1 0 4 2, 16, 0, 0, 0⟩ (withQ fullQ 9 qRegs) (lane 0) (th qRegs) (by decide +kernel) (qLeads _ _ _ _ rfl rfl _ _)
      (qBad rfl rfl rfl _ (by decide) _) (by decide +kernel) (.inl (by decide +kernel)) (by decide +kernel)).2 (by decide +kernel)
      (by decide +kernel))) ∧
    Applies (((h.2.2.1 ⟨f1 0 4 2, 16, 0, 0, 0⟩ (withQ fullQ 9 qRegs) (lane 0) (th qRegs) (by decide +kernel) (qLeads _ _ _ _ rfl rfl _ _)
      (qBad rfl rfl rfl _ (by decide) _) (by decide +kernel) (.inl (by decide +kernel)) (by decide +kernel)).2 (by decide +kernel)
      (by decide +kernel))) ∧
    Applies (((h.1 ⟨f1 0 4 2, 16, 0, 0, 0⟩ jammed (lane 0) (th qRegs) (by decide +kernel) (qLeadsOf _ _ rfl rfl (qGroup _ _) (by decide +kernel)
      (by decide +kernel)) (qBad rfl rfl rfl _ (by decide) _) (by decide +kernel) (.inl (by decide +kernel)) (by decide +kernel)).1
      (by decide +kernel))) ∧
    Applies (h.2.2.2.1 ⟨f1 0 4 2, 6, 0, 0, 0⟩ (one addrs) (lane 0) (th addrs) (by decide +kernel) (by unfold State.leads; decide +kernel)
      (okIs_iff.mp (by decide +kernel)) (by decide +kernel) (by decide +kernel)) ∧
    Applies (h.2.2.2.2.1 ⟨f1 0 4 2, 0, 0, 0, 0⟩ (one addrs) (lane 0) (th addrs) (by decide +kernel) (by unfold State.leads; decide +kernel)
      (okIs_iff.mp (by decide +kernel)) (by decide +kernel)) ∧
    Applies (((h.2.2.2.2.2 ⟨f1 0 4 2, 0, 0, 0, 0⟩ jammed (lane 0) (th qRegs) fullQ (by decide +kernel) (qLeadsOf _ _ rfl rfl (qGroup _ _)
      (by decide +kernel) (by decide +kernel)) (qBad rfl rfl rfl _ (by decide) _)).1 ⟨team, (by decide +kernel), (by decide +kernel)⟩)) ∧
    Applies (((h.2.2.2.2.2 ⟨f1 0 4 2, 0, 0, 0, 0⟩ (withQ fullQ 9 qRegs) (lane 0) (th qRegs) fullQ (by decide +kernel) (qLeads _ _ _ _ rfl rfl _ _)
      (qBad rfl rfl rfl _ (by decide) _)).2 (by decide +kernel) (by decide +kernel) (qNames rfl rfl _) (by decide +kernel))) :=
  ⟨applies _, applies _, applies _, applies _, applies _, applies _, applies _, applies _⟩

theorem test_meets_team_instructions (h : Obligations.TeamInstructions) :
    Applies (h.1 Instr.jwait (by simp) ⟨f1 0 0 8, 2, 0, 0, 8⟩ (one qRegs) (by decide +kernel) (by decide +kernel)) ∧
    Applies (((h.2.1 ⟨f1 0 0 8, 2, 0, 0, 8⟩ (jwaiting true) (lane 0) (th qRegs) [] ⟨0x8000, 0x8000, 0⟩ (by decide +kernel) (by decide +kernel) rfl
      (by decide +kernel) ((congrArg (fun h => (jwaiting true).readied.jwaitBad (lane 0) 0x8000 h 8) (qRegs_read _ .ready)).trans (jwait_ok _))
      (by decide +kernel)).1 (by decide +kernel))) ∧
    Applies (((h.2.1 ⟨f1 0 0 8, 2, 0, 0, 8⟩ (jwaiting false) (lane 0) (th qRegs) [] ⟨0x8000, 0x8000, 0⟩ (by decide +kernel) (by decide +kernel) rfl
      (by decide +kernel) ((congrArg (fun h => (jwaiting false).readied.jwaitBad (lane 0) 0x8000 h 8) (qRegs_read _ .ready)).trans (jwait_ok _))
      (by decide +kernel)).2 (by decide +kernel) ((missVa_walk rfl rfl _ _ _ _).trans (by decide +kernel)) ((translate_walk rfl rfl _ _ _).trans
      (okIs_iff.mp (by decide +kernel))))) ∧
    Applies (h.2.2.1 ⟨f1 0 4 0, 0, 0, 0, 8⟩ (allotting 16) (lane 0) [] _ _ (by decide +kernel) (by decide +kernel) (by decide +kernel) rfl rfl
      (by decide +kernel) (.inr (by decide +kernel))
      (by intro i hi; obtain rfl : i = lane 0 := List.mem_singleton.mp hi; rintro t ⟨rfl⟩; decide +kernel)) ∧
    Applies (h.2.2.2.1 ⟨f1 0 4 0, 0, 0, 0, 8⟩ (allotting 16) (lane 0) [] _ _ (by decide +kernel) (by decide +kernel) (by decide +kernel) rfl rfl
      (by decide +kernel) (.inr (by decide +kernel))
      (by intro i hi; obtain rfl : i = lane 0 := List.mem_singleton.mp hi; rintro t ⟨rfl⟩; decide +kernel)) ∧
    Applies (h.2.2.2.2 ⟨f1 0 4 0, 0, 0, 0, 0⟩ { guarded (one []) with gathered := ⟨core, [lane 0], true⟩ } (lane 0) [] (by decide +kernel)
      (by decide +kernel) (by decide +kernel) (id (by decide +kernel)) (by decide +kernel) (by decide +kernel)) :=
  ⟨applies _, applies _, applies _, applies _, applies _, applies _⟩

theorem test_meets_queue_controller_acts (h : Obligations.QueueControllerActs) :
    Applies (h.1 (launching (launch 0 5 0 1) 9) _ core (launch 0 5 0 1) ⟨(by decide +kernel), (by decide +kernel), (by decide +kernel), rfl⟩
      (by decide +kernel) (by decide +kernel)) ∧
    Applies (h.2.1 (launching (launch 0 0 0 1) 0) _ core (launch 0 0 0 1) ⟨(by decide +kernel), (by decide +kernel), (by decide +kernel), rfl⟩
      (by decide +kernel) (by decide +kernel) (by decide +kernel) (id (by decide +kernel))) ∧
    Applies (h.2.2.1 (launching (launch 2 0 0x8000 1) 9) _ core (launch 2 0 0x8000 1) ⟨(by decide +kernel), (by decide +kernel),
      (by decide +kernel), rfl⟩ (by decide +kernel) (by decide +kernel) (by decide +kernel) (id (by decide +kernel)) (.inl rfl)) ∧
    Applies (h.2.2.2.1 (launching (launch 0 0 0x8000 1) 9) _ core (launch 0 0 0x8000 1) ⟨0x8000, 0x8000, 0⟩ ⟨(by decide +kernel),
      (by decide +kernel), (by decide +kernel), rfl⟩ (by decide +kernel) (by decide +kernel) (by decide +kernel) (id (by decide +kernel))
      (by decide +kernel) ((translate_walk rfl rfl _ _ _).trans (okIs_iff.mp (by decide +kernel)))) ∧
    Applies (h.2.2.2.2.1 (launching (launch 1 1 0 3) 9) _ core (launch 1 1 0 3) ⟨(by decide +kernel), (by decide +kernel), (by decide +kernel), rfl⟩
      (by decide +kernel) (by decide +kernel) (by decide +kernel) (id (by decide +kernel)) (by decide +kernel)) ∧
    Applies (h.2.2.2.2.2.1 (launching (launch 1 1 0 0) 9) _ core (launch 1 1 0 0) ⟨(by decide +kernel), (by decide +kernel),
      (by decide +kernel), rfl⟩ (by decide +kernel) (by decide +kernel)) ∧
    Applies ((h.2.2.2.2.2.2.1 (joining 0) 0 (join 0) (by decide +kernel) (by decide +kernel) (by decide +kernel) (id (by decide +kernel))
      (by decide +kernel)).1 (by decide +kernel)) ∧
    Applies ((h.2.2.2.2.2.2.1 (joining 0x8000) 0 (join 0x8000) (by decide +kernel) (by decide +kernel) (by decide +kernel) (id (by decide +kernel))
      (by decide +kernel)).2 ⟨0x8000, 0x8000, 0⟩ (by decide +kernel) ((translate_walk rfl rfl _ _ _).trans (okIs_iff.mp (by decide +kernel)))) :=
  ⟨applies _, applies _, applies _, applies _, applies _, applies _, applies _, applies _⟩

theorem test_meets_queue_controller_acts_2 (h : Obligations.QueueControllerActs) :
    Applies (h.2.2.2.2.2.2.2.1 stealing ⟨0, 0⟩ ⟨0, 0⟩ ⟨0, 1⟩ stealQ (by decide +kernel) (by decide +kernel) (by decide +kernel) (id
      (by decide +kernel))) ∧
    Applies (h.2.2.2.2.2.2.2.2 (mapped (withQ fencedQ 9 [])) ⟨0, 0⟩ fencedQ 1 6 0x9000 none [] (by decide +kernel) (by decide +kernel)
      (by decide +kernel) (id (by decide +kernel)) ((stage2_walk rfl _ _ _).trans (okIs_iff.mp (by decide +kernel)))) :=
  ⟨applies _, applies _⟩

theorem test_meets_gate_requests_go_home (h : Obligations.GateRequestsGoHome) :
    Applies ((((((h.1 (gateInstr 0) (gated false (acl 0 0) gateRegs) (lane 0) (th gateRegs) (by decide +kernel)
      (by unfold State.leads; decide +kernel)).2.2 (by decide +kernel) (by decide +kernel)).2 (by decide +kernel)).2 (by decide +kernel)).2 (fun _ =>
      (by decide +kernel)))) ∧
    Applies ((((((h.2.1 (gateInstr 0) (gated false (acl 0 0) gateRegs) (lane 0) (th gateRegs) (by decide +kernel)
      (by unfold State.leads; decide +kernel)).2.2 (by decide +kernel) (by decide +kernel)).2 (by decide +kernel)).2 (by decide +kernel)).2 (fun _ =>
      (by decide +kernel)))) ∧
    Applies ((((((h.2.2.1 (gateInstr 0) (gated false (acl 0 0) gateRegs) (lane 0) (th gateRegs) (by decide +kernel)
      (by unfold State.leads; decide +kernel)).2.2 (by decide +kernel) (by decide +kernel)).2 (by decide +kernel)).2 (by decide +kernel)).2 (fun _ =>
      (by decide +kernel)))) ∧
    Applies ((((((h.2.2.2.1 (gateInstr 8) (gated false (acl 0 0) gateRegs) (lane 0) (th gateRegs) (by decide +kernel)
      (by unfold State.leads; decide +kernel)).2.2 (by decide +kernel) (by decide +kernel)).2 (by decide +kernel)).2 (by decide +kernel)).2 (fun _ =>
      (by decide +kernel)))) ∧
    Applies ((((((h.2.2.2.2.1 (gateInstr 8) (gated false (acl 0 0) gateRegs) (lane 0) (th gateRegs) (by decide +kernel)
      (by unfold State.leads; decide +kernel)).2.2 (by decide +kernel) (by decide +kernel)).2 (by decide +kernel)).2 (by decide +kernel)).2 (fun _ =>
      (by decide +kernel)))) ∧
    Applies ((((((h.2.2.2.2.2 (gateInstr 0) (gated false (acl 0 0) gateRegs) (lane 0) (th gateRegs) (by decide +kernel)
      (by unfold State.leads; decide +kernel)).2.2 (by decide +kernel) (by decide +kernel)).2 (by decide +kernel)).2 (by decide +kernel)).2 (fun _ =>
      (by decide +kernel)))) ∧
    Applies (((h.2.2.2.2.2 (gateInstr 0) (quieted gateRegs) (lane 0) (th gateRegs) (by decide +kernel) (by unfold State.leads; decide +kernel)).1
      (by decide +kernel))) ∧
    Applies (((h.2.2.2.2.2 (gateInstr 0) (one gateRegs) (lane 0) (th gateRegs) (by decide +kernel) (by unfold State.leads; decide +kernel)).2.1
      (by decide +kernel) (by decide +kernel))) :=
  ⟨applies _, applies _, applies _, applies _, applies _, applies _, applies _, applies _⟩

theorem test_meets_gate_requests_go_home_2 (h : Obligations.GateRequestsGoHome) :
    Applies ((((h.2.2.2.2.2 (gateInstr 0) (keeping (gated false (acl 0 0) gateRegs)) (lane 0) (th gateRegs) (by decide +kernel)
      (by unfold State.leads; decide +kernel)).2.2 (by decide +kernel) (by decide +kernel)).1 (by decide +kernel))) ∧
    Applies (((((h.2.2.2.2.2 (gateInstr 0) (guarded { gated false (acl 0 0) gateRegs with accs := [acc .load none] }) (lane 0) (th gateRegs)
      (by decide +kernel) (by unfold State.leads; decide +kernel)).2.2 (by decide +kernel) (by decide +kernel)).2 (by decide +kernel)).1
      (by decide +kernel))) ∧
    Applies ((((((h.2.2.1 (gateInstr 0) { gated false (acl 0 0) gateRegs with accs := [acc .store none] } (lane 0) (th gateRegs) (by decide +kernel)
      (by unfold State.leads; decide +kernel)).2.2 (by decide +kernel) (by decide +kernel)).2 (by decide +kernel)).2 (by decide +kernel)).1
      (.inl rfl) (by decide +kernel))) ∧
    Applies ((((((h.2.2.2.2.2 (gateInstr 0) (guarded (gated false (acl 0 0) gateRegs)) (lane 0) (th gateRegs) (by decide +kernel)
      (by unfold State.leads; decide +kernel)).2.2 (by decide +kernel) (by decide +kernel)).2 (by decide +kernel)).2 (by decide +kernel)).2 (fun _ =>
      (by decide +kernel)))) :=
  ⟨applies _, applies _, applies _, applies _⟩

theorem test_meets_gate_home_and_reply (h : Obligations.GateHomeAndReply) :
    Applies ((h.1 (asking false (acl 0 0) (asked 2 0 none)) 0 0 (asked 2 0 none) (gate false (acl 0 0)) (acl 0 0) (by decide +kernel)
      (by decide +kernel) (by decide +kernel) (id (by decide +kernel))).1 (by decide +kernel)) ∧
    Applies ((h.1 (asking false (acl 8 2) (asked 4 7 none)) 0 0 (asked 4 7 none) (gate false (acl 8 2)) (acl 8 2) (by decide +kernel)
      (by decide +kernel) (by decide +kernel) (id (by decide +kernel))).2.1 (by decide +kernel)) ∧
    Applies ((h.1 (asking false (acl 8 2) (asked 5 7 none)) 0 0 (asked 5 7 none) (gate false (acl 8 2)) (acl 8 2) (by decide +kernel)
      (by decide +kernel) (by decide +kernel) (id (by decide +kernel))).2.2.1 (by decide +kernel)) ∧
    Applies ((h.1 (asking false (acl 8 2) (asked 3 5 none)) 0 0 (asked 3 5 none) (gate false (acl 8 2)) (acl 8 2) (by decide +kernel)
      (by decide +kernel) (by decide +kernel) (id (by decide +kernel))).2.2.2.1 (by decide +kernel) (by decide +kernel)) ∧
    Applies ((h.1 (asking false (acl 8 2) (asked 3 7 none)) 0 0 (asked 3 7 none) (gate false (acl 8 2)) (acl 8 2) (by decide +kernel)
      (by decide +kernel) (by decide +kernel) (id (by decide +kernel))).2.2.2.2 (by decide +kernel) (by decide +kernel)) ∧
    Applies ((h.2.1 (asking true (acl 8 2) (asked 3 7 none)) 0 0 (asked 3 7 none) (gate true (acl 8 2)) (acl 8 2) (by decide +kernel)
      (by decide +kernel) (by decide +kernel)).1 (by decide +kernel)) ∧
    Applies ((h.2.1 (asking false (acl 8 0) (asked 3 7 none)) 0 0 (asked 3 7 none) (gate false (acl 8 0)) (acl 8 0) (by decide +kernel)
      (by decide +kernel) (by decide +kernel)).2 (by decide +kernel) (by decide +kernel) (by decide +kernel)) ∧
    Applies (h.2.2.1 (asking false (acl 8 0) (asked 1 7 none)) 0 (asked 1 7 none) (gate false (acl 8 0)) (by decide +kernel) (by decide +kernel)
      (by decide +kernel) (id (by decide +kernel))) :=
  ⟨applies _, applies _, applies _, applies _, applies _, applies _, applies _, applies _⟩

theorem test_meets_gate_home_and_reply_2 (h : Obligations.GateHomeAndReply) :
    Applies (h.2.2.2.1 (asking false (acl 8 0) (asked 0 7 none)) 0 0 (asked 0 7 none) (gate false (acl 8 0)) (acl 8 0) (by decide +kernel)
      (by decide +kernel) (by decide +kernel)) ∧
    Applies (((h.2.2.2.2.1 (asking false (acl 8 0) (asked 4 7 (some (.status 0 5)))) 0 (asked 4 7 (some (.status 0 5))) (.status 0 5) (lane 0) []
      (by decide +kernel) (by decide +kernel) (by decide +kernel)).2.1 0 5 (by decide +kernel) (by decide +kernel))) ∧
    Applies (((h.2.2.2.2.1 (asking false (acl 8 0) (asked 4 7 (some (.trap 2)))) 0 (asked 4 7 (some (.trap 2))) (.trap 2) (lane 0) []
      (by decide +kernel) (by decide +kernel) (by decide +kernel)).2.2 2 (by decide +kernel) (by decide +kernel))) ∧
    Applies (((h.2.2.2.2.1 { asking false (acl 8 0) (asked 4 7 (some (.trap 2))) with threads := [(lane 0, th [])] } 0 (asked 4 7 (some (.trap 2)))
      (.trap 2) (lane 0) [] (by decide +kernel) (by decide +kernel) (by decide +kernel)).1 (by decide +kernel))) :=
  ⟨applies _, applies _, applies _, applies _⟩

theorem test_meets_overlay_instructions (h : Obligations.OverlayInstructions) :
    Applies (((h.1 ⟨f1 0 4 2, 0, 0, 0, 0⟩ (stored .filling [(2, 0x8000, 0)]) (lane 0) (th [(2, 0x8000, 0)]) (by decide +kernel)
      (by unfold State.leads; decide +kernel) (by decide +kernel) (by decide +kernel)).1 (ovl .filling) (by decide +kernel))) ∧
    Applies (((h.1 ⟨f1 0 4 2, 0, 0, 0, 0⟩ (one [(2, 0x8000, 0)]) (lane 0) (th [(2, 0x8000, 0)]) (by decide +kernel)
      (by unfold State.leads; decide +kernel) (by decide +kernel) (by decide +kernel)).2 (by decide +kernel) (by decide +kernel))) ∧
    Applies (((h.2.1 ⟨f1 0 4 2, 0, 0, 0, 0⟩ (one [(2, 0x8000, 0)]) (lane 0) (th [(2, 0x8000, 0)]) (by decide +kernel)
      (by unfold State.leads; decide +kernel)).1 (by decide +kernel))) ∧
    Applies (((h.2.1 ⟨f1 0 4 2, 0, 0, 0, 0⟩ (stored .resident [(2, 0x400, 0)]) (lane 0) (th [(2, 0x400, 0)]) (by decide +kernel)
      (by unfold State.leads; decide +kernel)).2.1 (ovl .resident) (by decide +kernel) (by decide +kernel))) ∧
    Applies (((h.2.1 ⟨f1 0 4 2, 0, 0, 0, 0⟩ (filling (bodyFill 0) (stored .filling [(2, 0x400, 0)])) (lane 0) (th [(2, 0x400, 0)])
      (by decide +kernel) (by unfold State.leads; decide +kernel)).2.2 (ovl .filling) (bodyFill 0) (by decide +kernel) (by decide +kernel)
      (by decide +kernel))) ∧
    Applies (((h.2.2.1 ⟨f1 0 4 2, 0, 0, 0, 0⟩ (one [(2, 0x400, 0)]) (lane 0) (th [(2, 0x400, 0)]) (by decide +kernel)
      (by unfold State.leads; decide +kernel)).1 (by decide +kernel))) ∧
    Applies ((((h.2.2.1 ⟨f1 0 4 2, 0, 0, 0, 0⟩ (stored .resident [(2, 0x400, 0)]) (lane 0) (th [(2, 0x400, 0)]) (by decide +kernel)
      (by unfold State.leads; decide +kernel)).2 (ovl .resident) (by decide +kernel)).2 (by decide +kernel))) ∧
    Applies ((((h.2.2.1 ⟨f1 0 4 2, 0, 0, 0, 0⟩ (pinned [(2, 0x400, 0)]) (lane 0) (th [(2, 0x400, 0)]) (by decide +kernel)
      (by unfold State.leads; decide +kernel)).2 { ovl .resident with pins := 65535 } (by decide +kernel)).1 (by decide +kernel))) :=
  ⟨applies _, applies _, applies _, applies _, applies _, applies _, applies _, applies _⟩

theorem test_meets_overlay_instructions_2 (h : Obligations.OverlayInstructions) :
    Applies (((h.2.2.2.1 (Instr.ovunpin, Overlay.dropPin) (by simp) ⟨f1 0 4 2, 0, 0, 0, 0⟩ (stored .resident [(2, 0x400, 0)]) (lane 0)
      (th [(2, 0x400, 0)]) (by decide +kernel) (by unfold State.leads; decide +kernel)).2 (ovl .resident) (by decide +kernel))) ∧
    Applies (((h.2.2.2.1 (Instr.ovrel, Overlay.dropRef) (by simp) ⟨f1 0 4 2, 0, 0, 0, 0⟩ (stored .resident [(2, 0x400, 0)]) (lane 0)
      (th [(2, 0x400, 0)]) (by decide +kernel) (by unfold State.leads; decide +kernel)).2 (ovl .resident) (by decide +kernel))) ∧
    Applies (((h.2.2.2.1 (Instr.ovrel, Overlay.dropRef) (by simp) ⟨f1 0 4 2, 0, 0, 0, 0⟩ (one [(2, 0x400, 0)]) (lane 0) (th [(2, 0x400, 0)])
      (by decide +kernel) (by unfold State.leads; decide +kernel)).1 (by decide +kernel))) ∧
    Applies (((h.2.2.2.2 ⟨f1 0 4 2, 0, 0, 0, 0⟩ (stored .resident [(2, 0x8001, 0)]) (lane 0) (th [(2, 0x8001, 0)]) (by decide +kernel)
      (by unfold State.leads; decide +kernel) (by decide +kernel)
      (by intro x hx; obtain rfl : x = (lane 0, th [(2, 0x8001, 0)]) := List.mem_singleton.mp hx; exact ⟨rfl, rfl, _, rfl, rfl⟩)
      (by decide +kernel)).1 (ovl .resident) 0 (by decide +kernel) (by decide +kernel) (by decide +kernel))) ∧
    Applies (((h.2.2.2.2 ⟨f1 0 4 2, 0, 0, 0, 0⟩ (stored .resident [(2, 0x8005, 0)]) (lane 0) (th [(2, 0x8005, 0)]) (by decide +kernel)
      (by unfold State.leads; decide +kernel) (by decide +kernel)
      (by intro x hx; obtain rfl : x = (lane 0, th [(2, 0x8005, 0)]) := List.mem_singleton.mp hx; exact ⟨rfl, rfl, _, rfl, rfl⟩)
      (by decide +kernel)).2.1 (ovl .resident) (by decide +kernel) (by decide +kernel) (by decide +kernel) (id (by decide +kernel)))) ∧
    Applies (((h.2.2.2.2 ⟨f1 0 4 2, 0, 0, 0, 0⟩ (one [(2, 0x8001, 0)]) (lane 0) (th [(2, 0x8001, 0)]) (by decide +kernel)
      (by unfold State.leads; decide +kernel) (by decide +kernel)
      (by intro x hx; obtain rfl : x = (lane 0, th [(2, 0x8001, 0)]) := List.mem_singleton.mp hx; exact ⟨rfl, rfl, _, rfl, rfl⟩)
      (by decide +kernel)).2.2 (by decide +kernel) (by decide +kernel))) :=
  ⟨applies _, applies _, applies _, applies _, applies _, applies _⟩

theorem test_meets_hoist_fills (h : Obligations.HoistFills) :
    Applies (h.1 (heading []) 0 (bytesToNat (headOf [])) headFill ⟨(by decide +kernel), (by decide +kernel), (by decide +kernel), (id
      (by decide +kernel)), (by decide +kernel), (by decide +kernel), header_read rfl rfl (by decide +kernel)⟩ (by decide +kernel)
      (by decide +kernel)) ∧
    Applies (h.2.1 (heading headBytes) 0 (bytesToNat (headOf headBytes)) headFill ⟨1, [0], 0x2144DF1C⟩ ⟨(by decide +kernel), (by decide +kernel),
      (by decide +kernel), (id (by decide +kernel)), (by decide +kernel), (by decide +kernel), header_read rfl rfl (by decide +kernel)⟩
      (by decide +kernel) (by decide +kernel)) ∧
    Applies (h.2.2.1 headLost 0 (bytesToNat (headOf [])) 0x8000 1 headFill ⟨(by decide +kernel), (by decide +kernel), (by decide +kernel), (id
      (by decide +kernel)), (by decide +kernel), (by decide +kernel), header_read rfl rfl (by decide +kernel)⟩ head_lost) ∧
    Applies (h.2.2.2.1 (bodying (crc32 [7, 0, 0, 0])) 0 (bodyFill (crc32 [7, 0, 0, 0])) (ovl .filling) [7, 0, 0, 0] ⟨(by decide +kernel),
      (by decide +kernel), (by decide +kernel), (id (by decide +kernel)), ((missVa_walk rfl rfl _ _ _ _).trans (by decide +kernel)),
      ((readVa_walk rfl rfl _ _ _).trans (okIs_iff.mp (by decide +kernel)))⟩ (by decide +kernel) (by decide +kernel)) ∧
    Applies (h.2.2.2.2 (bodying 5) 0 (bodyFill 5) (ovl .filling) [7, 0, 0, 0] ⟨(by decide +kernel), (by decide +kernel), (by decide +kernel), (id
      (by decide +kernel)), ((missVa_walk rfl rfl _ _ _ _).trans (by decide +kernel)), ((readVa_walk rfl rfl _ _ _).trans (okIs_iff.mp
      (by decide +kernel)))⟩ (by decide +kernel) (by decide +kernel)) :=
  ⟨applies _, applies _, applies _, applies _, applies _⟩

theorem test_meets_system_instructions (h : Obligations.SystemInstructions) :
    Applies (h.1 ⟨f1 0 4 0, 0, 0, 0, 0x31⟩ (two [] false) (lane 0) (th []) (by decide +kernel) (by unfold State.leads; decide +kernel)) ∧
    Applies (h.1 ⟨f1 0 4 0, 0, 0, 0, 0x71⟩ (two [] false) (lane 0) (th []) (by decide +kernel) (by unfold State.leads; decide +kernel)) ∧
    Applies (h.1 ⟨f1 0 4 0, 0, 0, 0, 0⟩ (two [] false) (lane 0) (th []) (by decide +kernel) (by unfold State.leads; decide +kernel)) ∧
    Applies (h.2.1 ⟨f1 0 0 2, 0, 0, 0, 0x50⟩ (one [(2, 5, 0)]) (lane 0) (th [(2, 5, 0)]) (by decide +kernel)
      (by unfold State.leads; decide +kernel)) ∧
    Applies (h.2.1 ⟨f1 0 0 2, 0, 0, 0, 0x23⟩ (one [(2, 5, 0)]) (lane 0) (th [(2, 5, 0)]) (by decide +kernel)
      (by unfold State.leads; decide +kernel)) ∧
    Applies (h.2.1 ⟨f1 0 0 2, 0, 0, 0, 0x22⟩ (one [(2, 5, 0)]) (lane 0) (th [(2, 5, 0)]) (by decide +kernel)
      (by unfold State.leads; decide +kernel)) ∧
    Applies (h.2.1 ⟨f1 0 0 2, 0, 0, 0, 0x31⟩ (one [(2, 0x70000, 0)]) (lane 0) (th [(2, 0x70000, 0)]) (by decide +kernel)
      (by unfold State.leads; decide +kernel)) ∧
    Applies (h.2.1 ⟨f1 0 0 2, 0, 0, 0, 0x41⟩ (one [(2, 7, 0)]) (lane 0) (th [(2, 7, 0)]) (by decide +kernel)
      (by unfold State.leads; decide +kernel)) :=
  ⟨applies _, applies _, applies _, applies _, applies _, applies _, applies _, applies _⟩

theorem test_meets_system_instructions_2 (h : Obligations.SystemInstructions) :
    Applies (h.2.1 ⟨f1 0 0 2, 0, 0, 0, 0x80⟩ (one [(2, 7, 0)]) (lane 0) (th [(2, 7, 0)]) (by decide +kernel)
      (by unfold State.leads; decide +kernel)) ∧
    Applies (h.2.2.1 ⟨f1 0 4 0, 0, 0, 0, 0⟩ (two [] false) (lane 0) (th []) (by decide +kernel) (by unfold State.leads; decide +kernel)) ∧
    Applies (h.2.2.2.1 ⟨f1 0 4 0, 0, 0, 0, 0⟩ (two [] false) (lane 0) (th []) (by decide +kernel) (by unfold State.leads; decide +kernel)) ∧
    Applies (h.2.2.2.2.1 ⟨f1 0 4 0, 0, 0, 0, 3⟩ (two [] false) (lane 0) (th []) _ (by decide +kernel) (by unfold State.leads; decide +kernel) rfl) ∧
    Applies (h.2.2.2.2.2 ⟨f1 0 0 0, 0, 0, 0, 3⟩ (two [] false) (lane 0) (th []) (by decide +kernel) (by unfold State.leads; decide +kernel)) :=
  ⟨applies _, applies _, applies _, applies _, applies _⟩

theorem test_meets_page_faults_suspend_teams (h : Obligations.PageFaultsSuspendTeams) :
    Applies (h.1 (withAcc missing) 0 missing _ team (by decide +kernel) (by decide +kernel) (by decide +kernel) (id (by decide +kernel))
      (by decide +kernel)
      (by unfold State.accessMiss; rw [show State.translate _ _ _ _ = .error ⟨0, false, false, 0x40000000, 0, none⟩ from (translate_walk rfl rfl _ _ _).trans (errIs_iff.mp (by decide +kernel))]; rfl)
      (by decide +kernel) (by decide +kernel) (by decide +kernel)) ∧
    Applies (h.2.1 (stopped .faulting (one [])) team _ ⟨⟨0, 0⟩, 0⟩ [] (stopped .faulting (one [])) rfl (by decide +kernel) (by decide +kernel)
      (by decide +kernel) (id (by decide +kernel)) rfl) ∧
    Applies (h.2.1 (faulted true) team _ ⟨⟨0, 0⟩, 0⟩ _ _ rfl (by decide +kernel) (by decide +kernel) (by decide +kernel) (id
      (by decide +kernel)) rfl) ∧
    Applies (h.2.2.1 ((one []).updThread (lane 0) fun t => { t with deferred := [⟨0x10, 0, 64, none, true⟩] })
      (lane 0) { th [] with deferred := [⟨0x10, 0, 64, none, true⟩] } ⟨0x10, 0, 64, none, true⟩ (by decide +kernel) (by decide +kernel)
      (by decide +kernel) (id (by decide +kernel)) (by decide +kernel)) ∧
    Applies (h.2.2.2 (((one []).updThread
      (lane 0) fun t => { t with deferred := [⟨0x21, 0, 64, none, true⟩] }).updTeam team fun tm => { tm with irrevocable := true })
      (lane 0) { th [] with deferred := [⟨0x21, 0, 64, none, true⟩] } ⟨0x21, 0, 64, none, true⟩ (by decide +kernel) (by decide +kernel)
      (by decide +kernel) (id (by decide +kernel))) :=
  ⟨applies _, applies _, applies _, applies _, applies _⟩

theorem test_meets_recovery_acts (h : Obligations.RecoveryActs) :
    Applies ((h.1 (withAcc { acc .load none with state := .waiting } |> stopped fresh1) team _ (lane 0) raise1 rfl rfl).1 (by decide +kernel)) ∧
    Applies ((h.1 (keptBack fresh1) team _ (lane 0) raise1 rfl rfl).2.1 (by decide +kernel) (by decide +kernel)) ∧
    Applies ((h.1 (stopped fresh1 (one [])) team _ (lane 0) raise1 rfl rfl).2.2 (by decide +kernel) (by decide +kernel)) ∧
    Applies (((h.2.1 (keptBack (TeamStop.rolling (lane 0) raise1)) team _ ⟨⟨0, 0⟩, 0⟩ _ (lane 0) raise1 rfl (by decide +kernel) (by decide +kernel)
      (by decide +kernel) (id (by decide +kernel)) rfl).1 (by decide +kernel))) ∧
    Applies (((h.2.1 (stopped (.rolling (lane 0) raise1) (guarded (one []))) team _ ⟨⟨0, 0⟩, 0⟩ _ (lane 0) raise1 rfl (by decide +kernel)
      (by decide +kernel) (by decide +kernel) (id (by decide +kernel)) rfl).2.1 (by decide +kernel) (by decide +kernel))) ∧
    Applies (((h.2.1 (rolling [0] []) team _ ⟨⟨0, 0⟩, 0⟩ _ (lane 0) raise1 rfl (by decide +kernel) (by decide +kernel) (by decide +kernel) (id
      (by decide +kernel)) rfl).2.2 snap1 (by decide +kernel) (by decide +kernel)).1 ((image_walk rfl _ _ _ _).trans (by decide +kernel))) ∧
    Applies (((h.2.1 (rolling [] []) team _ ⟨⟨0, 0⟩, 0⟩ _ (lane 0) raise1 rfl (by decide +kernel) (by decide +kernel) (by decide +kernel) (id
      (by decide +kernel)) rfl).2.2 snap1 (by decide +kernel) (by decide +kernel)).2.1 ((image_walk rfl _ _ _ _).trans (by decide +kernel))
      (by decide +kernel)) ∧
    Applies (((h.2.1 (rolling [] [1, 0, 0, 0]) team _ ⟨⟨0, 0⟩, 0⟩ _ (lane 0) raise1 rfl (by decide +kernel) (by decide +kernel) (by decide +kernel)
      (id (by decide +kernel)) rfl).2.2 snap1 (by decide +kernel) (by decide +kernel)).2.2 ((image_walk rfl _ _ _ _).trans (by decide +kernel))
      (by decide +kernel)) :=
  ⟨applies _, applies _, applies _, applies _, applies _, applies _, applies _, applies _⟩

theorem test_meets_recovery_acts_2 (h : Obligations.RecoveryActs) :
    Applies (h.2.2.1 ((stopped (.rolling (lane 0) raise1) (guarded
      (one []))).updTeam team fun tm => { tm with irrevocable := true }) team _ ⟨⟨0, 0⟩, 0⟩ (lane 0) raise1 rfl (by decide +kernel) rfl
      (by decide +kernel)) ∧
    Applies
      (h.2.2.2.1 { one [] with parts := tmap (one []).parts fun _ p => { p with shares := p.shares.map fun x => { x with wdog := 1 } }, clkw := 1000000 } 0 _ rfl
      (by decide +kernel) (by decide +kernel) (by decide +kernel)) ∧
    Applies (h.2.2.2.2 ((one []).updCore core fun k => { k with l1 := [cachedLine] }) core (by decide +kernel)) :=
  ⟨applies _, applies _, applies _⟩

theorem test_meets_slices_rotate_contexts (h : Obligations.SlicesRotateContexts) :
    Applies (h.1 (slicing none .none false) 0 _ rfl (by decide +kernel) (by decide +kernel) (by decide +kernel) (id (by decide +kernel))) ∧
    Applies ((h.2.1 (slicing (some ⟨⟨0, 0⟩, 0⟩) .none false) 0 _ ⟨⟨0, 0⟩, 0⟩ rfl (by decide +kernel) (by decide +kernel) (by decide +kernel)).1 false
      (by decide +kernel) (by decide +kernel) (by decide +kernel)) ∧
    Applies ((h.2.1 (slicing (some ⟨⟨0, 0⟩, 0⟩) .none true) 0 _ ⟨⟨0, 0⟩, 0⟩ rfl (by decide +kernel) (by decide +kernel) (by decide +kernel)).2 (.inr
      (.inl (by decide +kernel)))) ∧
    Applies (h.2.2.1 (slicing (some ⟨⟨0, 0⟩, 0⟩) (.stopping 0) false) 0 0 _ ⟨⟨0, 0⟩, 0⟩ rfl (by decide +kernel) (by decide +kernel)
      (by decide +kernel)) ∧
    Applies (h.2.2.2.1 (slicing (some ⟨⟨0, 0⟩, 0⟩) (.stopping 0) false) 0 _ ⟨⟨0, 0⟩, 0⟩ rfl (by decide +kernel) (by decide +kernel)
      (by decide +kernel) (id (by decide +kernel))) ∧
    Applies (h.2.2.2.2 (slicing (some ⟨⟨0, 0⟩, 0⟩) (.stopping 0) true) 0 _ ⟨⟨0, 0⟩, 0⟩ rfl (by decide +kernel) (by decide +kernel)
      (by decide +kernel) (id (by decide +kernel))) :=
  ⟨applies _, applies _, applies _, applies _, applies _, applies _⟩

theorem test_meets_bar_0_writes (h : Obligations.Bar0Writes) :
    Applies (h.1 (withFn pf fun f => { f with crSize := 6 }) pf 3) ∧
    Applies (h.2.1 (one []) pf 6) ∧
    Applies (h.2.1 (withFn pf fun f => { f with crSize := 6 }) pf 0) ∧
    Applies (h.2.1 (withFn pf fun f => { f with crSize := 6, pending := some ⟨cmd pf 0 [], [], [1], false, .inval⟩ }) pf 0) ∧
    Applies (h.2.2.1 (withFn pf fun f => { f with erSize := 6, erTail := 3 }) pf 7) ∧
    Applies (h.2.2.2.1 (withFn pf fun f => { f with erSize := 6, erTail := 3 }) pf 2) ∧
    Applies (h.2.2.2.2.1 (withFn vf0 fun f => { f with prTail := 3 }) vf0 2) ∧
    Applies (h.2.2.2.2.2.1 (one []) vf0 0x000 0x12345) :=
  ⟨applies _, applies _, applies _, applies _, applies _, applies _, applies _, applies _⟩

theorem test_meets_bar_0_writes_2 (h : Obligations.Bar0Writes) :
    Applies (h.2.2.2.2.2.2.1 { withFn pf (fun f => { f with oldest := some 0, time := 2 }) with clkw := 5000 } pf) ∧
    Applies (h.2.2.2.2.2.2.2 (withFn pf fun f => { f with crSize := 6, crOff := true }) pf 7 0 0 (by decide +kernel)) :=
  ⟨applies _, applies _⟩

theorem test_meets_commands_are_checked_first (h : Obligations.CommandsAreCheckedFirst) :
    Applies (((h (.partSet, true, false, 0, [(0x08, 5), (0x10, 64)]) (by simp [commandForms]) (cmd vf0 0 []) (one [])).1 (by decide +kernel))) ∧
    Applies (((h (.partSet, true, false, 0, [(0x08, 5), (0x10, 64)]) (by simp [commandForms]) (cmd pf 1 []) (one [])).2 (by decide +kernel) (.inl
      (by decide +kernel)))) ∧
    Applies (((h (.ringSet, true, true, 0, [(0x08, 64), (0x10, 16), (0x12, 16), (0x14, 32), (0x18, 32)]) (by simp [commandForms])
      (cmd pf 0 [(0x30, 1)]) (one [])).2 (by decide +kernel) (.inr (by decide +kernel)))) :=
  ⟨applies _, applies _, applies _⟩

theorem test_meets_partition_commands_act (h : Obligations.PartitionCommandsAct) :
    Applies (h.1 (cmd pf 0 [(0x08, 1), (0x10, 0x100)]) sharing block1 (by unfold formed; decide +kernel) (by decide +kernel) (by decide +kernel)
      (by decide +kernel) (id (by decide +kernel)) (by decide +kernel) (by intro p hp; cases hp) (by decide +kernel)) ∧
    Applies (((h.2.1 (cmd pf 0 []) paused 0 (part0 (paused)) (by unfold formed; decide +kernel) (by decide +kernel)).1 (by decide +kernel))) ∧
    Applies (((h.2.1 (cmd pf 0 []) (one []) 0 (part0 ((one []))) (by unfold formed; decide +kernel) (by decide +kernel)).2.1 (by decide +kernel)
      (by decide +kernel))) ∧
    Applies (((h.2.1 (cmd pf 0 []) (withPart fun p => { p with running := none }) 0 (part0 ((withPart fun p => { p with running := none })))
      (by unfold formed; decide +kernel) (by decide +kernel)).2.2 (by decide +kernel) (by decide +kernel))) ∧
    Applies (((h.2.2.1 (cmd pf 1 []) (mapped paused) 0 (part0 (mapped paused)) (by unfold formed; decide +kernel) (by decide +kernel)
      (by decide +kernel) (by decide +kernel)).1 (by decide +kernel))) ∧
    Applies (((h.2.2.1 (cmd pf 1 []) paused 0 (part0 paused) (by unfold formed; decide +kernel) (by decide +kernel) (by decide +kernel)
      (by decide +kernel)).2 (by decide +kernel))) ∧
    Applies (h.2.2.2.1 (cmd pf 0 []) (one []) 0 (part0 (one [])) (by unfold formed; decide +kernel) (by decide +kernel)) ∧
    Applies (((h.2.2.2.2.1 (cmd pf 0 []) paused 0 (part0 (paused)) (by unfold formed; decide +kernel) (by decide +kernel) (by decide +kernel)).1
      (by decide +kernel))) :=
  ⟨applies _, applies _, applies _, applies _, applies _, applies _, applies _, applies _⟩

theorem test_meets_partition_commands_act_2 (h : Obligations.PartitionCommandsAct) :
    Applies (((h.2.2.2.2.1 (cmd pf 0 []) { paused with parts := tmap paused.parts fun _ p => { p with oldHoming := some ⟨[(3, 1)], []⟩ } } 0 (part0
      ({ paused with parts := tmap paused.parts fun _ p => { p with oldHoming := some ⟨[(3, 1)], []⟩ } })) (by unfold formed; decide +kernel)
      (by decide +kernel) (by decide +kernel)).2 ⟨[(3, 1)], []⟩ [] (by decide +kernel) (by decide +kernel))) ∧
    Applies (h.2.2.2.2.2.1 (cmd pf 0 [(0x08, 5), (0x0C, 100), (0x10, 0x8000)]) (one []) 0 (by unfold formed; decide +kernel) (by decide +kernel)
      (by decide +kernel)) ∧
    Applies (h.2.2.2.2.2.2.1 (cmd pf 1 [(0x08, 0)]) { one [] with ctxs := tmap (one []).ctxs fun _ k => { k with started := false } }
      (by unfold formed; decide +kernel) (by decide +kernel) (by decide +kernel)) ∧
    Applies (h.2.2.2.2.2.2.2.1 (cmd pf 0 [(0x08, 0), (0x09, 0), (0x0A, 1), (0x10, 2 ^ 30), (0x18, 2 ^ 31)]) (one []) 0 0
      (by unfold formed; decide +kernel) (by decide +kernel) (by decide +kernel) (by decide +kernel) (id (by decide +kernel)) (by decide +kernel)) ∧
    Applies (h.2.2.2.2.2.2.2.2.1 (cmd pf 1 [(0x10, 2 ^ 30), (0x18, 2 ^ 31)]) { one [] with grants := [⟨0, 0, true, 2 ^ 30, 2 ^ 31⟩] } 0 0
      (by unfold formed; decide +kernel) (by decide +kernel) (by decide +kernel) (by decide +kernel)) ∧
    Applies (h.2.2.2.2.2.2.2.2.2.1 (cmd pf 0 [(0x10, 0x3000)]) (mapped (one [])) 0 (part0 (mapped (one []))) ⟨0, 1, 1, 1, 0, 0x1000, 0, 0, 0⟩
      (by unfold formed; decide +kernel) (by decide +kernel) (by decide +kernel) (by decide +kernel) (id (by decide +kernel))) ∧
    Applies (h.2.2.2.2.2.2.2.2.2.2 (cmd pf 1 [(0x10, 0x3000), (0x18, 0x1000)]) (one []) 0 (part0 (one [])) (by unfold formed; decide +kernel)
      (by decide +kernel) (by decide +kernel) (by decide +kernel)) :=
  ⟨applies _, applies _, applies _, applies _, applies _, applies _, applies _⟩

theorem test_meets_gate_commands_act (h : Obligations.GateCommandsAct) :
    Applies (h.1 (cmd pf 0 [(0x08, 4), (0x10, 0x100)]) (one []) (by unfold formed; decide +kernel) (by decide +kernel) (by decide +kernel)
      (by decide +kernel)) ∧
    Applies (h.2.1 (cmd pf 1 [(0x08, 3), (0x10, 0x100)]) (asking false (acl 8 2) (asked 3 7 none)) (gate false (acl 8 2))
      (by unfold formed; decide +kernel) (by decide +kernel) (by decide +kernel) (by decide +kernel)) ∧
    Applies (h.2.2.1 (cmd pf 2 [(0x08, 3), (0x10, 0x100)]) (asking false (acl 8 2) (asked 3 7 none)) (gate false (acl 8 2))
      (by unfold formed; decide +kernel) (by decide +kernel) (by decide +kernel) (by decide +kernel)) ∧
    Applies (h.2.2.2.1 (cmd pf 3 [(0x08, 3)]) (asking false (acl 8 2) (asked 3 7 none)) (gate false (acl 8 2)) (by unfold formed; decide +kernel)
      (by decide +kernel) (by decide +kernel)) ∧
    Applies (((h.2.2.2.2.1 (cmd pf 0 []) paused 0 (part0 (paused)) (by unfold formed; decide +kernel) (by decide +kernel) (by decide +kernel)).1
      (by decide +kernel))) ∧
    Applies (((h.2.2.2.2.1 (cmd pf 0 []) (one []) 0 (part0 ((one []))) (by unfold formed; decide +kernel) (by decide +kernel) (by decide +kernel)).2
      (by decide +kernel) (by decide +kernel))) ∧
    Applies (h.2.2.2.2.2.1 (cmd pf 1 [(0x10, 0x100), (0x18, 1)]) { paused with parts := tmap paused.parts fun _ p => { p with quiesced := true } } 0
      (part0 ({ paused with parts := tmap paused.parts fun _ p => { p with quiesced := true } })) (by unfold formed; decide +kernel)
      (by decide +kernel) (by decide +kernel) (by decide +kernel) (id (by decide +kernel)) (by decide +kernel) (by decide +kernel)
      (by decide +kernel) (id (by decide +kernel))) ∧
    Applies (h.2.2.2.2.2.2 (cmd pf 0 [(0x10, 0x100)]) (one []) (by unfold formed; decide +kernel)) :=
  ⟨applies _, applies _, applies _, applies _, applies _, applies _, applies _, applies _⟩

theorem test_meets_context_commands_act (h : Obligations.ContextCommandsAct) :
    Applies (h.1 (cmd vf0 0 [(0x08, 2), (0x0C, 9), (0x10, 0x4000), (0x18, 1)]) (one []) (by unfold formed; decide +kernel) (by decide +kernel)
      (by decide +kernel) (by decide +kernel) (id (by decide +kernel))) ∧
    Applies (h.2.1 startCmd starting ((started.ctx ⟨⟨0, 0⟩, 0⟩).getD ⟨0, 0, 0, 0, false, 0, 0, 0, false, false, [], 0, none, [], [], []⟩)
      ((started.vf ⟨0, 0⟩).getD ⟨0, 0, 0, 0, 0, 0, 0, 0, 0, []⟩) [(ent, descNum)] [placed1] (by unfold formed; decide +kernel) (by decide +kernel)
      (by decide +kernel) (by decide +kernel) (id (by decide +kernel)) (by decide +kernel) (by decide +kernel) (by decide +kernel) (id
      (by decide +kernel)) look_ok (by decide +kernel) (by decide +kernel)) ∧
    Applies (h.2.2.1 (cmd vf0 0 [(0x08, 0)]) (one []) (by unfold formed; decide +kernel) (by decide +kernel)) ∧
    Applies (h.2.2.1 (cmd vf0 0 [(0x08, 0)]) (withPart fun p => { p with running := none }) (by unfold formed; decide +kernel) (by decide +kernel)) ∧
    Applies (((h.2.2.2.1 (cmd vf0 0 [(0x08, 0), (0x10, 0x3000), (0x18, 0x1000)]) (one []) (ctx0 (one [])) (by unfold formed; decide +kernel)
      (by decide +kernel) (by decide +kernel) (by decide +kernel)).1 (by decide +kernel))) ∧
    Applies (((h.2.2.2.1 (cmd vf0 0 [(0x08, 0), (0x10, 0x3000), (0x18, 0x1000)]) (withAcc { missing with state := .sent }) (ctx0
      (withAcc { missing with state := .sent })) (by unfold formed; decide +kernel) (by decide +kernel) (by decide +kernel) (by decide +kernel)).2
      (by decide +kernel))) ∧
    Applies (h.2.2.2.2.1 (cmd vf0 0 [(0x08, 6), (0x10, 0x3000), (0x18, 8)]) (one []) 0 (by unfold formed; decide +kernel) (by decide +kernel)
      (by decide +kernel) (by decide +kernel) (id (by decide +kernel)) (by decide +kernel) (by decide +kernel)) ∧
    Applies (h.2.2.2.2.2.1 (cmd vf0 1 [(0x08, 0)]) (withQ fullQ 9 []) fullQ (by unfold formed; decide +kernel) (by decide +kernel)
      (by decide +kernel) (by decide +kernel)) :=
  ⟨applies _, applies _, applies _, applies _, applies _, applies _, applies _, applies _⟩

theorem test_meets_context_commands_act_2 (h : Obligations.ContextCommandsAct) :
    Applies (((h.2.2.2.2.2.2.1 submit (withQ fullQ 9 []) (submitOf_args handle_lt (by decide +kernel)).2.2.2.2 (by decide +kernel) (submitted
      (r := 0x500) (by decide +kernel) 9 (q := fullQ) rfl (by decide +kernel)).1 (submitted (r := 0x500) (by decide +kernel) 9 (q := fullQ) rfl
      (by decide +kernel)).2.1 (submitted (r := 0x500) (by decide +kernel) 9 (q := fullQ) rfl (by decide +kernel)).2.2.1).1 (submitted (r := 0x500)
      (by decide +kernel) 9 (q := fullQ) rfl (by decide +kernel)).2.2.2.1 ((submitted (r := 0x500) (by decide +kernel) 9 (q := fullQ) rfl
      (by decide +kernel)).2.2.2.2.trans (by decide +kernel)))) ∧
    Applies (((h.2.2.2.2.2.2.1 submit (withQ fullQ 0 []) (submitOf_args handle_lt (by decide +kernel)).2.2.2.2 (by decide +kernel) (submitted
      (r := 0x500) (by decide +kernel) 0 (q := fullQ) rfl (by decide +kernel)).1 (submitted (r := 0x500) (by decide +kernel) 0 (q := fullQ) rfl
      (by decide +kernel)).2.1 (submitted (r := 0x500) (by decide +kernel) 0 (q := fullQ) rfl (by decide +kernel)).2.2.1).2 (submitted (r := 0x500)
      (by decide +kernel) 0 (q := fullQ) rfl (by decide +kernel)).2.2.2.1 (fun h => absurd ((submitted (r := 0x500) (by decide +kernel) 0
      (q := fullQ) rfl (by decide +kernel)).2.2.2.2.symm.trans h) (by decide +kernel)))) ∧
    Applies ((h.2.2.2.2.2.2.2.1 (cmd vf0 0 [(0x08, 4)]) { one [] with pages := [pageReq] } (by unfold formed; decide +kernel) (by decide +kernel)
      (fun _ => (by decide +kernel)) (by decide +kernel)).1 (by decide +kernel)) ∧
    Applies ((h.2.2.2.2.2.2.2.1 (cmd vf0 0 [(0x08, 3), (0x0C, 1)]) { one [] with pages := [pageReq] } (by unfold formed; decide +kernel)
      (by decide +kernel) (fun _ => (by decide +kernel)) (by decide +kernel)).2 pageReq (by decide +kernel) (by decide +kernel)) ∧
    Applies (h.2.2.2.2.2.2.2.2 (cmd pf 0 [(0x08, 0x3000), (0x10, 6), (0x12, 1), (0x14, 5), (0x18, 1)]) (one []) (by unfold formed; decide +kernel)
      (by decide +kernel) (by decide +kernel) (by decide +kernel) (id (by decide +kernel)) (by decide +kernel) (by decide +kernel)
      (by decide +kernel) (id (by decide +kernel))) :=
  ⟨applies _, applies _, applies _, applies _, applies _⟩

theorem test_meets_firmware_and_package_events (h : Obligations.FirmwareAndPackageEvents) :
    Applies (h.1 (cmd pf 0 [(0x08, 1), (0x10, 0x3000), (0x18, 8)]) (one []) (by unfold formed; decide +kernel)) ∧
    Applies (h.2.1 ((one []).pkg 0)) ∧
    Applies ((h.2.2.1 (cmd pf 1 [(0x08, 1)]) (one []) (by unfold formed; decide +kernel)).1 (by decide +kernel)) ∧
    Applies ((h.2.2.1 (cmd pf 1 [(0x08, 1)]) (withFn vf0 fun f => { f with pending := some ⟨cmd vf0 0 [], [], [], false, .inval⟩ })
      (by unfold formed; decide +kernel)).2 (by decide +kernel)) ∧
    Applies (h.2.2.2.1 (cmd pf 0 [(0x28, 0x3000), (0x30, 100)]) (one []) (by unfold formed; decide +kernel)) ∧
    Applies (((h.2.2.2.2.1 selfTest (hosting 0x100 [0, 2] (one [])) (by unfold formed; decide +kernel)).1 (by decide +kernel) (by decide +kernel)
      (by decide +kernel) (id (by decide +kernel)) (by decide +kernel)).1 (by decide +kernel)) ∧
    Applies (((h.2.2.2.2.1 (cmd pf 0 [(0x08, 1), (0x0A, 1), (0x10, 0x100)]) (hosting 0x100 [0, 0] (one [])) (by unfold formed; decide +kernel)).1
      (by decide +kernel) (by decide +kernel) (by decide +kernel) (id (by decide +kernel)) (by decide +kernel)).2 (by decide +kernel)) ∧
    Applies ((h.2.2.2.2.1 selfTest testingOne (by unfold formed; decide +kernel)).2 [0x200] (by decide +kernel)) :=
  ⟨applies _, applies _, applies _, applies _, applies _, applies _, applies _, applies _⟩

theorem test_meets_firmware_and_package_events_2 (h : Obligations.FirmwareAndPackageEvents) :
    Applies (h.2.2.2.2.2.1 State.reset 0) ∧
    Applies (h.2.2.2.2.2.2.1 State.reset 0 true) ∧
    Applies (h.2.2.2.2.2.2.2.1 (one []) 0) ∧
    Applies (h.2.2.2.2.2.2.2.2.1 (one []) 0 .podLink) ∧
    Applies (h.2.2.2.2.2.2.2.2.2 (one []) 0) :=
  ⟨applies _, applies _, applies _, applies _, applies _⟩

end Sys2Proof.Tests
end

namespace Sys2Proof.Machine

/-! ## The invariant -/

/-- The pod's memory and the hosts' are in canonical form. -/
def State.Formed (s : State) : Prop := Memory.wf s.mem = true ∧ Memory.wf s.hostMem = true

/-- The state that an instruction answers has its memory in canonical form. -/
def Out.Formed : Out → Prop
  | .next s => s.Formed
  | _ => True

/-- So has what a uniform instruction's action leaves. -/
def UniRes.Formed : UniRes → Prop
  | .done s | .stay s | .parked s | .trap s _ => s.Formed

/-- So has what one thread's issue leaves. -/
def IssueRes.Formed : IssueRes → Prop
  | .ok s | .wait s => s.Formed
  | .trap _ => True

/-- So has what a command leaves. -/
def CmdRes.Formed : CmdRes → Prop
  | .ok s _ | .later s | .status s _ _ => s.Formed
  | .refuse _ => True

/-- So has what a run that an engine reads leaves. -/
def RunRes.Formed : RunRes → Prop
  | .got s _ => s.Formed
  | _ => True

/-- So has what a pop leaves. -/
def PopRes.Formed : PopRes → Prop
  | .given s _ | .moved s => s.Formed
  | _ => True

variable {s t : State}

/-! What a result carries: its state has its memory in canonical form (`of_…`), and a result
that carries such a state is `Formed` (one lemma per constructor that a proof names). -/

theorem Out.Formed.of_next {o : Out} (h : o.Formed) (e : o = .next t) : t.Formed := by
  subst e; exact h
theorem UniRes.Formed.of_done {o : UniRes} (h : o.Formed) (e : o = .done t) : t.Formed := by
  subst e; exact h
theorem UniRes.Formed.of_stay {o : UniRes} (h : o.Formed) (e : o = .stay t) : t.Formed := by
  subst e; exact h
theorem UniRes.Formed.of_parked {o : UniRes} (h : o.Formed) (e : o = .parked t) : t.Formed := by
  subst e; exact h
theorem UniRes.Formed.of_trap {o : UniRes} {r : Raise} (h : o.Formed) (e : o = .trap t r) : t.Formed := by
  subst e; exact h
theorem IssueRes.Formed.of_ok {o : IssueRes} (h : o.Formed) (e : o = .ok t) : t.Formed := by
  subst e; exact h
theorem IssueRes.Formed.of_wait {o : IssueRes} (h : o.Formed) (e : o = .wait t) : t.Formed := by
  subst e; exact h
theorem CmdRes.Formed.of_ok {o : CmdRes} {r : Nat} (h : o.Formed) (e : o = .ok t r) : t.Formed := by
  subst e; exact h
theorem CmdRes.Formed.of_later {o : CmdRes} (h : o.Formed) (e : o = .later t) : t.Formed := by
  subst e; exact h
theorem CmdRes.Formed.of_status {o : CmdRes} {n r : Nat} (h : o.Formed) (e : o = .status t n r) : t.Formed := by
  subst e; exact h
theorem RunRes.Formed.of_got {o : RunRes} {v : Nat} (h : o.Formed) (e : o = .got t v) : t.Formed := by
  subst e; exact h
theorem PopRes.Formed.of_given {o : PopRes} {r : Rec} (h : o.Formed) (e : o = .given t r) : t.Formed := by
  subst e; exact h
theorem PopRes.Formed.of_moved {o : PopRes} (h : o.Formed) (e : o = .moved t) : t.Formed := by
  subst e; exact h

theorem Out.Formed.next (h : s.Formed) : Out.Formed (.next s) := h
theorem UniRes.Formed.done (h : s.Formed) : UniRes.Formed (.done s) := h
theorem UniRes.Formed.parked (h : s.Formed) : UniRes.Formed (.parked s) := h
theorem IssueRes.Formed.ok (h : s.Formed) : IssueRes.Formed (.ok s) := h
theorem IssueRes.Formed.wait (h : s.Formed) : IssueRes.Formed (.wait s) := h
theorem CmdRes.Formed.ok {r : Nat} (h : s.Formed) : CmdRes.Formed (.ok s r) := h
theorem CmdRes.Formed.later (h : s.Formed) : CmdRes.Formed (.later s) := h

/-- A state with the same memory as one whose memory is in canonical form. -/
theorem State.Formed.frame (h : s.Formed) (e : (t.mem, t.hostMem) = (s.mem, s.hostMem)) : t.Formed := by
  obtain ⟨hm, hh⟩ := Prod.mk.inj e
  exact ⟨hm ▸ h.1, hh ▸ h.2⟩

/-! A choice keeps the form when both its branches do. -/

section Choice
variable {c : Prop} {_ : Decidable c}

theorem State.Formed.ite (hs : s.Formed) (ht : t.Formed) : (if c then s else t).Formed := by
  split <;> assumption
theorem Out.Formed.ite {a b : Out} (ha : a.Formed) (hb : b.Formed) : Out.Formed (if c then a else b) := by
  split <;> assumption
theorem UniRes.Formed.ite {a b : UniRes} (ha : a.Formed) (hb : b.Formed) : (if c then a else b).Formed := by
  split <;> assumption
theorem IssueRes.Formed.ite {a b : IssueRes} (ha : a.Formed) (hb : b.Formed) : (if c then a else b).Formed := by
  split <;> assumption
theorem CmdRes.Formed.ite {a b : CmdRes} (ha : a.Formed) (hb : b.Formed) : (if c then a else b).Formed := by
  split <;> assumption
theorem RunRes.Formed.ite {a b : RunRes} (ha : a.Formed) (hb : b.Formed) : (if c then a else b).Formed := by
  split <;> assumption
theorem PopRes.Formed.ite {a b : PopRes} (ha : a.Formed) (hb : b.Formed) : (if c then a else b).Formed := by
  split <;> assumption

end Choice

/-- Every step of a fold keeps the form, so the fold does. -/
theorem State.Formed.foldl {α : Type} {f : State → α → State} {l : List α} (h : s.Formed)
    (hf : ∀ t x, t.Formed → (f t x).Formed) : (l.foldl f s).Formed := by
  induction l generalizing s with
  | nil => exact h
  | cons x l ih => exact ih (hf _ x h)

/-- The same for a fold over a memory itself. -/
theorem foldl_wf {α : Type} {f : List Host.Cell → α → List Host.Cell} {l : List α} {m : List Host.Cell}
    (hf : ∀ m x, Memory.wf m = true → Memory.wf (f m x) = true) (h : Memory.wf m = true) :
    Memory.wf (l.foldl f m) = true := by
  induction l generalizing m with
  | nil => exact h
  | cons x l ih => exact ih (hf _ x h)

theorem State.Formed.setMem {m : List Host.Cell} (h : s.Formed) (hm : Memory.wf m = true) :
    State.Formed { s with mem := m } :=
  ⟨hm, h.2⟩

/-! One lemma per operation of the model follows, in the model's order: if `h` says that `s` has the
form, `h.op` says it of `s.op`. A proof mirrors the definition it is about: a chain `s.f.g` is
`h.f.g`, a choice is `.ite` or `split`, and a record update that touches neither memory is `h`
itself or `.frame h rfl`. The bytes change in four operations only (`writeVa`, `hostPut`,
`memPlace`, `memStore`) and in the two that move or clear a range (`moveLines`, `wipeChannel`);
each rests on the model's law that a byte's write keeps the form. -/

/-! ## Named updates of one part of the state: memory stays -/

theorem State.Formed.updThread {t f} (h : s.Formed) : (s.updThread t f).Formed := h
theorem State.Formed.mapThreads {f} (h : s.Formed) : (s.mapThreads f).Formed := h
theorem State.Formed.updThreads {ts f} (h : s.Formed) : (s.updThreads ts f).Formed := h.mapThreads
theorem State.Formed.updTeam {t f} (h : s.Formed) : (s.updTeam t f).Formed := h
theorem State.Formed.updBlock {b f} (h : s.Formed) : (s.updBlock b f).Formed := h
theorem State.Formed.updCore {c f} (h : s.Formed) : (s.updCore c f).Formed := h
theorem State.Formed.updCtx {c f} (h : s.Formed) : (s.updCtx c f).Formed := h
theorem State.Formed.updVf {v f} (h : s.Formed) : (s.updVf v f).Formed := h
theorem State.Formed.updPart {p f} (h : s.Formed) : (s.updPart p f).Formed := h
theorem State.Formed.updFn {i f} (h : s.Formed) : (s.updFn i f).Formed := h
theorem State.Formed.updPkg {p f} (h : s.Formed) : (s.updPkg p f).Formed := h
theorem State.Formed.updQSet {q f} (h : s.Formed) : (s.updQSet q f).Formed := h
theorem State.Formed.updGate {n f} (h : s.Formed) : (s.updGate n f).Formed := h
theorem State.Formed.fresh (h : s.Formed) : s.fresh.1.Formed := h

/-! ## Translation and bytes behind an address -/

theorem State.Formed.noteTlb {v va} (h : s.Formed) : (s.noteTlb v va).Formed := by
  dsimp only [State.noteTlb]
  repeat' split
  all_goals exact h

theorem State.Formed.writeVa {v va bs} (h : s.Formed) : (s.writeVa v va bs).Formed := by
  induction bs generalizing s va with
  | nil => exact h
  | cons b bs ih =>
    unfold State.writeVa
    split
    · exact ih h
    · exact ih (h.setMem (memSet_wf _ _ _ h.1))

/-! ## Events, page requests and error counters: records in host memory -/

theorem State.Formed.hostPut {pkg addr bs} (h : s.Formed) : (s.hostPut pkg addr bs).Formed :=
  ⟨h.1, memPut_wf bs _ _ h.2⟩

theorem State.Formed.putEvent {i e} (h : s.Formed) : (s.putEvent i e).Formed := h.hostPut.updFn

theorem State.Formed.postEvent {i e} (h : s.Formed) : (s.postEvent i e).Formed :=
  .ite h.putEvent (.ite h.updFn h.updFn)

theorem State.Formed.flushEvents {i n} (h : s.Formed) : (s.flushEvents i n).Formed := by
  induction n generalizing s with
  | zero => exact h
  | succ n ih =>
    dsimp only [State.flushEvents]
    split
    · exact h
    · split
      · exact ih h.updFn.putEvent
      · split
        · exact h
        · exact ih h.updFn.putEvent

theorem State.Formed.complete {f tag status result} (h : s.Formed) : (s.complete f tag status result).Formed :=
  h.postEvent.updFn

theorem State.Formed.countVf {v n} (h : s.Formed) : (s.countVf v n).Formed := h.updVf

theorem State.Formed.countPart {p n} (h : s.Formed) : (s.countPart p n).Formed := by
  unfold State.countPart
  split
  · exact h.countVf
  · exact h

theorem State.Formed.countPkg {pkg n} (h : s.Formed) : (s.countPkg pkg n).Formed := h.updPkg
theorem State.Formed.putPageReq {r} (h : s.Formed) : (s.putPageReq r).Formed := .ite h.hostPut.updFn h.updFn

theorem State.Formed.flushPages {i n} (h : s.Formed) : (s.flushPages i n).Formed := by
  induction n generalizing s with
  | zero => exact h
  | succ n ih =>
    dsimp only [State.flushPages]
    split
    · exact h
    · split
      · exact ih h.hostPut.updFn
      · exact h

theorem State.Formed.pageRequest {c core who m} (h : s.Formed) : (s.pageRequest c core who m).1.Formed := by
  dsimp only [State.pageRequest]
  split
  · exact h
  · exact .putPageReq (.frame h rfl)

/-! ## Errors, and bytes placed from outside -/

theorem State.Formed.countBad {c gpa src} (h : s.Formed) :
    (s.countBad c gpa src).Formed := .ite h.countPart h.countVf

theorem State.Formed.controllerReads {c gpa key n} (h : s.Formed) : (s.controllerReads c gpa key n).Formed := by
  unfold State.controllerReads
  split
  · exact h.countBad
  · exact h

theorem State.Formed.heal {gone} (h : s.Formed) : (s.heal gone).Formed := h

theorem State.Formed.memPlace {key bs} (h : s.Formed) : (s.memPlace key bs).Formed :=
  ⟨memPut_wf bs _ _ h.1, h.2⟩

/-! ## Stores, the L2 slices and the L1s: dirty bytes reach memory as byte writes -/

theorem State.Formed.memStore {key n v} (h : s.Formed) : (s.memStore key n v).Formed :=
  ⟨memWrite_wf _ _ _ _ h.1, h.2⟩

theorem State.Formed.l2Drop {l} (h : s.Formed) : (s.l2Drop l).Formed := by
  unfold State.l2Drop
  extract_lets bad s₁
  have h₁ : s₁.Formed := .ite h h
  exact h₁

theorem State.Formed.l2DropAll {p} (h : s.Formed) : (s.l2DropAll p).Formed := h.foldl fun _ _ h => h.l2Drop

theorem State.Formed.l2Fill {cp l} (h : s.Formed) : (s.l2Fill cp l).Formed := by
  dsimp only [State.l2Fill]
  split
  · split
    · exact h.l2Drop
    · exact h
  · split
    · exact h.l2Drop
    · exact h

theorem State.Formed.l2Use {part gpa key cp write} (h : s.Formed) : (s.l2Use part gpa key cp write).Formed := by
  unfold State.l2Use
  split
  · exact h
  split
  · exact h
  · exact .ite h.l2Fill h

theorem State.Formed.writeBack {l} (h : s.Formed) : (s.writeBack l).Formed :=
  .foldl (.ite h h.l2Use) fun _ _ h => h.memStore

theorem State.Formed.cleanLine {core l} (h : s.Formed) : (s.cleanLine core l).Formed := h.writeBack.updCore

theorem State.Formed.dropLines {core p} (h : s.Formed) : (s.dropLines core p).Formed :=
  .ite (h.foldl fun _ _ h => h.writeBack).updCore h

theorem State.Formed.dropAllLines {p} (h : s.Formed) :
    (s.dropAllLines p).Formed := h.foldl fun _ _ h => h.dropLines

theorem State.Formed.fillLine {core cp l} (h : s.Formed) : (s.fillLine core cp l).Formed := by
  dsimp only [State.fillLine]
  refine .ite h ?_
  split
  · exact h.dropAllLines.updCore.writeBack
  · exact h.dropAllLines.updCore

theorem State.Formed.cleanSynonyms {core l} (h : s.Formed) : (s.cleanSynonyms core l).Formed :=
  h.foldl fun _ _ h => .ite (h.foldl fun _ _ h => h.cleanLine) h

theorem State.Formed.useLine {core c va cp p} (h : s.Formed) : (s.useLine core c va cp p).Formed := by
  dsimp only [State.useLine]
  split
  · exact h.updCore
  · exact .ite h.l2Use.cleanSynonyms h.l2Use.fillLine

theorem State.Formed.passL1 {core key n} (h : s.Formed) : (s.passL1 core key n).Formed := .ite h h.updCore

theorem State.Formed.exposeKey {core key} (h : s.Formed) : (s.exposeKey core key).Formed :=
  h.foldl fun _ _ h => h.cleanLine

theorem State.Formed.expose {core p} (h : s.Formed) :
    (s.expose core p).Formed := h.foldl fun _ _ h => h.cleanLine

theorem State.Formed.exposeAll {p} (h : s.Formed) : (s.exposeAll p).Formed := h.foldl fun _ _ h => h.expose
theorem State.Formed.acquire {core} (h : s.Formed) : (s.acquire core).Formed := .ite h.updCore h

/-! ## The hoist -/

theorem State.Formed.noteLines {c va n} (h : s.Formed) : (s.noteLines c va n).Formed := by
  unfold State.noteLines
  split
  · exact h.countBad
  · exact h

theorem State.Formed.demandFill {id x image} (h : s.Formed) : (s.demandFill id x image).1.Formed := by
  dsimp only [State.demandFill]
  split <;> exact h

theorem State.Formed.stampOverlay {core o} (h : s.Formed) : (s.stampOverlay core o).Formed := h.updCore

/-! ## Shared operations: ends of tasks, traps, fills and issue -/

theorem State.Formed.lowerStn {ts} (h : s.Formed) : (s.lowerStn ts).Formed := h.updThreads

theorem State.Formed.dropHeld {t} (h : s.Formed) : (s.dropHeld t).Formed := by
  dsimp only [State.dropHeld]
  split
  · exact h
  · exact (h.foldl fun _ _ h => h.lowerStn).updTeam

theorem State.Formed.endTask {t dec} (h : s.Formed) : (s.endTask t dec).Formed := by
  dsimp only [State.endTask]
  split
  · split
    · exact h
    · exact .ite h h.fresh.updTeam.expose
  · exact h

theorem State.Formed.trapEvent {id cause addr} (h : s.Formed) : (s.trapEvent id cause addr).Formed := by
  unfold State.trapEvent
  split
  · exact h
  · exact h.postEvent

theorem State.Formed.killTeam {id r} (h : s.Formed) : (s.killTeam id r).Formed := h.dropHeld.updTeam

theorem State.Formed.reportKill {id r} (h : s.Formed) : (s.reportKill id r).Formed := by
  dsimp only [State.reportKill]
  split
  · exact h.trapEvent.countVf
  · exact h.trapEvent

theorem State.Formed.strikeSusps {t roll r} (h : s.Formed) : (s.strikeSusps t roll r).Formed := by
  dsimp only [State.strikeSusps]
  split
  · exact h
  · exact h.updCtx

theorem State.Formed.gangFault {id r} (h : s.Formed) : (s.gangFault id r).Formed := by
  unfold State.gangFault
  extract_lets s₁ run who susps s₂
  have h₁ : s₁.Formed := by
    unfold s₁
    split
    · exact .ite h h.updBlock
    · exact h
  have h₂ : s₂.Formed := .ite h₁ h₁.killTeam
  exact .ite (h₂.foldl fun _ _ h => h.updTeam).strikeSusps (h₂.foldl fun _ _ h => h.killTeam).strikeSusps

theorem State.Formed.gangHandled {t} (h : s.Formed) : (s.gangHandled t).Formed := .ite h h
theorem State.Formed.endByTrap {id r} (h : s.Formed) : (s.endByTrap id r).Formed := .ite h.killTeam h.gangFault

theorem State.Formed.countDivergence {id r} (h : s.Formed) : (s.countDivergence id r).Formed := by
  dsimp only [State.countDivergence]
  split
  · exact h
  · exact .ite (.countVf (.updCtx (.frame h rfl))) h

theorem State.Formed.recover {id r} (h : s.Formed) : (s.recover id r).Formed :=
  .ite h.countDivergence.gangFault (.ite h.countDivergence.updTeam h.countDivergence.killTeam)

theorem State.Formed.entryFailed {id cause info addr} (h : s.Formed) :
    (s.entryFailed id cause info addr).Formed := by
  dsimp only [State.entryFailed]
  refine .updThreads ?_
  split
  · exact h
  · exact h.postEvent

theorem State.Formed.refusedEntry {id k r} (h : s.Formed) : (s.refusedEntry id k r).Formed := by
  unfold State.refusedEntry
  split
  · exact .ite h.entryFailed h
  split
  · exact h.updThread.endByTrap
  · exact h

theorem State.Formed.landEntry {id o k} (h : s.Formed) : (s.landEntry id o k).Formed := by
  unfold State.landEntry
  split
  · exact h
  split
  · exact h.updThread.stampOverlay
  · exact h.refusedEntry

theorem State.Formed.commitFirst {t} (h : s.Formed) : (s.commitFirst t).Formed := h.updTeam

theorem State.Formed.awaitFill {id x image k} (h : s.Formed) : (s.awaitFill id x image k).Formed :=
  .updThread (.demandFill (.ite h.commitFirst h))

theorem State.Formed.reachImage {id image k} {now : State → Overlay → State} (h : s.Formed)
    (hnow : ∀ t o, t.Formed → (now t o).Formed) : (s.reachImage id image k now).Formed := by
  unfold State.reachImage
  split
  · exact h
  · split
    · exact .ite (hnow _ _ h) h.stampOverlay.awaitFill
    · exact h.awaitFill

theorem State.Formed.reachEntry {id eref k} (h : s.Formed) : (s.reachEntry id eref k).Formed :=
  h.reachImage fun _ _ h => h.landEntry

theorem State.Formed.deliver {id r} (h : s.Formed) : (s.deliver id r).Formed := by
  unfold State.deliver
  split
  · exact .ite h.recover (.ite h.endByTrap h.updThread.reachEntry)
  · exact h

theorem State.Formed.raises {rs} (h : s.Formed) : (s.raises rs).Formed := by
  induction rs generalizing s with
  | nil => exact h
  | cons r rs ih => exact ih (.ite h.deliver h.countDivergence)

theorem State.Formed.ifRuns {t} {f : State → State} (h : s.Formed) (hf : ∀ t, t.Formed → (f t).Formed) :
    (s.ifRuns t f).Formed :=
  .ite (hf _ h) h

theorem State.Formed.land {id o k} (h : s.Formed) : (s.land id o k).Formed := by
  dsimp only [State.land]
  split
  · exact h.landEntry
  · exact h.landEntry
  split
  · exact h
  split
  · exact h.updThread.stampOverlay
  split
  · exact h.updThread.stampOverlay
  · exact h.updThread.stampOverlay.deliver

theorem State.Formed.goTo {id image tok off} (h : s.Formed) : (s.goTo id image tok off).Formed :=
  h.reachImage fun _ _ h => h.land

theorem State.Formed.fillFailed {id image code k} (h : s.Formed) : (s.fillFailed id image code k).Formed := by
  dsimp only [State.fillFailed]
  split
  · exact h.refusedEntry
  · exact h.refusedEntry
  · exact h.updThread.deliver
  · exact h.updThread.deliver

theorem State.Formed.allRaise {r} (h : s.Formed) : (s.allRaise r).Formed := h.raises
theorem State.Formed.illegal (h : s.Formed) : s.illegal.Formed := h.allRaise
theorem State.Formed.overGroup {f} (h : s.Formed) : (s.overGroup f).Formed := h.mapThreads.raises
theorem State.Formed.runLane {i} (h : s.Formed) : (Machine.runLane i s).Formed := .ite h.overGroup h.illegal
theorem State.Formed.stepAll {ts k} (h : s.Formed) : (s.stepAll ts k).Formed := h.updThreads

theorem State.Formed.runUniform {u} {act : UniGroup → State → UniRes} (h : s.Formed)
    (hact : ∀ g t, t.Formed → (act g t).Formed) : (Machine.runUniform u s act).Formed := by
  dsimp only [Machine.runUniform]
  split
  · exact h.illegal
  split
  · exact h.stepAll
  split
  · exact h.stepAll.raises
  split
  · exact h.stepAll.raises
  split
  case h_1 e => exact ((hact _ _ h.stepAll).of_done e).raises
  case h_2 e => exact ((hact _ _ h.stepAll).of_parked e).raises
  case h_3 e => exact (hact _ _ h.stepAll).of_stay e
  case h_4 e => exact ((hact _ _ h.stepAll).of_trap e).raises

theorem State.Formed.result {g words d w v} (h : s.Formed) : (s.result g words d w v).Formed := h.updThreads
theorem State.Formed.checkRendezvous {t} (h : s.Formed) : (s.checkRendezvous t).Formed := h.updThreads.raises

theorem State.Formed.releaseSet {t} (h : s.Formed) : (s.releaseSet t).Formed := by
  dsimp only [State.releaseSet]
  split
  · exact h.fresh.updThreads
  · exact h

theorem State.Formed.arrive {ts} (h : s.Formed) : (s.arrive ts).Formed :=
  h.mapThreads.foldl fun _ _ h => h.releaseSet.checkRendezvous

theorem State.Formed.asTeam {k} {act : State → State} (h : s.Formed) (hact : ∀ t, t.Formed → (act t).Formed) :
    (Machine.asTeam s k act).Formed :=
  .ite (hact _ h.updThreads) h.arrive

theorem State.Formed.freshStart {t} (h : s.Formed) : (s.freshStart t).Formed := by
  dsimp only [State.freshStart]
  split
  · exact h
  · exact h.updThreads.updTeam.foldl fun _ _ h => h.reachEntry

theorem State.Formed.commitAfter {t} (h : s.Formed) : (s.commitAfter t).Formed := .ite h.updTeam h

theorem State.Formed.commitsFirst {ts} (h : s.Formed) : (s.commitsFirst ts).Formed :=
  h.foldl fun _ _ h => .ite h.commitFirst h

theorem State.Formed.commitsAfter {ts} (h : s.Formed) : (s.commitsAfter ts).Formed :=
  h.foldl fun _ _ h => h.commitAfter

/-! ## Cross-lane instructions -/

theorem State.Formed.arriveLanes {t pc new} (h : s.Formed) : (s.arriveLanes t pc new).Formed := by
  dsimp only [State.arriveLanes]
  split
  · exact h.arrive
  · exact .ite h.arrive h.updThreads.raises

theorem State.Formed.arriveCross {i} (h : s.Formed) : (s.arriveCross i).Formed := by
  dsimp only [State.arriveCross]
  refine h.raises.foldl fun s x h => ?_
  split
  · exact .ite h h.arriveLanes
  · exact h

theorem State.Formed.runCross {i} (h : s.Formed) : (Machine.runCross i s).Formed := by
  dsimp only [Machine.runCross]
  refine .ite h.illegal ?_
  refine .ite ?_ h.arriveCross
  split
  · exact h.stepAll.raises
  · exact h.mapThreads.stepAll

/-! ## Accesses -/

theorem State.Formed.clamp {c core scope} (h : s.Formed) : (s.clamp c core scope).1.Formed := by
  dsimp only [State.clamp]
  split
  · exact h
  split
  · exact h
  split
  · exact h.updCtx
  · exact h

theorem State.Formed.addAccess {a} (h : s.Formed) : (s.addAccess a).Formed := h
theorem State.Formed.updAccess {seq f} (h : s.Formed) : (s.updAccess seq f).Formed := h
theorem State.Formed.dropAccess {seq} (h : s.Formed) : (s.dropAccess seq).Formed := h
theorem State.Formed.startLoad {ts d g} (h : s.Formed) : (s.startLoad ts d g).Formed := h.updThreads
theorem State.Formed.startStore {ts} (h : s.Formed) : (s.startStore ts).Formed := h.updThreads
theorem State.Formed.holdAccess {t a} (h : s.Formed) : (s.holdAccess t a).Formed := h.fresh.updTeam

theorem State.Formed.issueEach {words g gn opds}
    {act : ThreadId → Thread → State → IssueRes} {ids rs} (h : s.Formed)
    (hact : ∀ i x t, t.Formed → (act i x t).Formed) :
    (Machine.issueEach words g gn opds act ids (s, rs)).1.Formed := by
  induction ids generalizing s rs with
  | nil => exact h
  | cons id ids ih =>
    unfold Machine.issueEach
    split
    · exact ih h
    split
    · split
      · exact ih h
      have hr := fun x => hact id x s h
      split
      case h_1 e => exact ih ((hr _).of_ok e).updThread
      case h_2 => exact ih h
      case h_3 e => exact ih ((hr _).of_wait e)
    · exact ih h.updThread

theorem State.Formed.runMem {m} {act : ThreadId → Thread → State → IssueRes} (h : s.Formed)
    (hact : ∀ i x t, t.Formed → (act i x t).Formed) : (Machine.runMem m act s).Formed :=
  .ite h.illegal (h.issueEach hact).raises

theorem State.Formed.waitRoom {id ldn stn} (h : s.Formed) : (s.waitRoom id ldn stn).Formed := h.updThread
theorem State.Formed.noteLine {owners c off} (h : s.Formed) : (s.noteLine owners c off).Formed := h
theorem State.Formed.padWrite {c off n v} (h : s.Formed) : (s.padWrite c off n v).Formed := h.heal.updCore
theorem State.Formed.finishLoad {a v} (h : s.Formed) : (s.finishLoad a v).Formed := h.updThreads

theorem State.Formed.lineFull {c line} (h : s.Formed) : (s.lineFull c line).Formed :=
  (h.updCore.foldl fun _ _ h => h.countVf).mapThreads

theorem State.Formed.dropCopies {c core va} (h : s.Formed) : (s.dropCopies c core va).Formed := by
  unfold State.dropCopies
  split
  · exact .ite h.updCore h
  · exact h

theorem State.Formed.countRead {a src} (h : s.Formed) : (s.countRead a src).Formed := by
  unfold State.countRead
  split <;> exact h.countBad

theorem State.Formed.poisoned {a src} (h : s.Formed) : (s.poisoned a src).Formed := h.countRead.updThreads

theorem State.Formed.readLocal {a r} (h : s.Formed) (e : s.readLocal a = .ok (t, r)) : t.Formed := by
  unfold State.readLocal at e
  split at e
  · split at e
    · cases e
    · cases e; exact h.updCore
  · split at e
    · cases e
    · cases e; exact h.noteTlb.useLine

theorem State.Formed.loadValue {a r} (h : s.Formed) (e : s.loadValue a = .ok (t, r)) : t.Formed := by
  unfold State.loadValue at e
  split at e
  · cases e; exact h
  · split at e
    · cases e
    · split at e <;> cases e <;> exact h.readLocal ‹_›

theorem State.Formed.writeLocal {a p} (h : s.Formed) : (s.writeLocal a p).Formed := by
  dsimp only [State.writeLocal]
  split
  · exact h.noteTlb.useLine.updCore
  · exact h.noteTlb.useLine.l2Use.memStore.passL1

theorem State.Formed.storeValue {a} (h : s.Formed) (e : s.storeValue a = .ok t) : t.Formed := by
  unfold State.storeValue at e
  split at e
  · cases e; exact h.padWrite.noteLine
  · split at e
    · cases e
    · cases e; exact h.writeLocal

theorem State.Formed.exposeFence {t f} (h : s.Formed) : (s.exposeFence t f).Formed := .ite h h.expose
theorem State.Formed.stopFaulting {t} (h : s.Formed) : (s.stopFaulting t).Formed := h.updTeam

theorem State.Formed.markWithheld {t as} (h : s.Formed) : (Machine.markWithheld s t as).Formed := by
  induction as generalizing s with
  | nil => exact h
  | cons a as ih => exact ih (.ite h h)

theorem State.Formed.trimFlights (h : s.Formed) : s.trimFlights.Formed := h

theorem State.Formed.faultAccess {a} (h : s.Formed) : (s.faultAccess a).Formed :=
  .trimFlights (.foldl (.frame h rfl) fun _ _ h => h.markWithheld.stopFaulting)

theorem State.Formed.probeFault {owners va write} (h : s.Formed) : (s.probeFault owners va write).Formed := by
  dsimp only [State.probeFault]
  split
  · exact h
  split
  · exact h.addAccess.faultAccess
  · exact h.addAccess

theorem State.Formed.addFlight {grp as} (h : s.Formed) : (s.addFlight grp as).Formed := by
  dsimp only [State.addFlight]
  split <;> exact h

theorem State.Formed.unhold {a} (h : s.Formed) : (s.unhold a).Formed := by
  dsimp only [State.unhold]
  split
  · exact .addFlight (.frame h rfl)
  · exact h

theorem State.Formed.performHeld {as} (h : s.Formed) : (Machine.performHeld s as).Formed := by
  induction as generalizing s with
  | nil => exact h
  | cons a as ih =>
    unfold Machine.performHeld
    split
    · exact ih h.unhold
    · split
      · exact ih h.unhold
      · exact ih (.ite (h.storeValue ‹_›) (h.storeValue ‹_›).lowerStn)

/-! ## Loads, stores and lines -/

theorem State.Formed.accScope {id f} (h : s.Formed) : (s.accScope id f).1.Formed := by
  unfold State.accScope
  split
  · exact h.clamp
  · exact h

theorem State.Formed.issueLoad {f idx size g tag sext id t} (h : s.Formed) :
    (Machine.issueLoad f idx size g tag sext id t s).Formed := by
  dsimp only [Machine.issueLoad]
  split
  · exact trivial
  · exact .ite h.waitRoom h.accScope.addAccess.startLoad

theorem State.Formed.runLoad {m f idx size g tag sext} (h : s.Formed) :
    (Machine.runLoad m f idx size g tag sext s).Formed := by
  unfold Machine.runLoad
  exact h.runMem fun _ _ _ h => h.issueLoad

theorem State.Formed.issueLdfe {f id t} (h : s.Formed) : (Machine.issueLdfe f id t s).Formed := by
  dsimp only [Machine.issueLdfe]
  split
  · exact trivial
  refine .ite h.waitRoom ?_
  split
  · exact .ite h.accScope.updThread (.ite h.accScope.updThread h.accScope.addAccess.startLoad)
  · exact trivial

theorem State.Formed.execLdfe {f} (h : s.Formed) : (Machine.execLdfe f s).Formed := by
  unfold Machine.execLdfe
  exact h.runMem fun _ _ _ h => h.issueLdfe

theorem State.Formed.putStore {id t owners acc} (h : s.Formed) : (s.putStore id t owners acc).Formed :=
  .ite (.ite h.commitFirst (.ite (.wait (.ite h.commitFirst h.waitRoom)) h.holdAccess.startStore)) <|
    .ite h.waitRoom h.addAccess.startStore

theorem State.Formed.issueStore {f kind size id t} (h : s.Formed) :
    (Machine.issueStore f kind size id t s).Formed := by
  dsimp only [Machine.issueStore]
  split
  · exact trivial
  · exact h.accScope.putStore

theorem State.Formed.execStb {f} (h : s.Formed) : (Machine.execStb f s).Formed := by
  unfold Machine.execStb
  exact h.runMem fun _ _ _ h => h.issueStore

theorem State.Formed.execSth {f} (h : s.Formed) : (Machine.execSth f s).Formed := by
  unfold Machine.execSth
  exact h.runMem fun _ _ _ h => h.issueStore

theorem State.Formed.execStw {f} (h : s.Formed) : (Machine.execStw f s).Formed := by
  unfold Machine.execStw
  exact h.runMem fun _ _ _ h => h.issueStore

theorem State.Formed.execStfe {f} (h : s.Formed) : (Machine.execStfe f s).Formed := by
  unfold Machine.execStfe
  exact h.runMem fun _ _ _ h => h.issueStore

theorem State.Formed.issueSte {f id t} (h : s.Formed) : (Machine.issueSte f id t s).Formed := by
  dsimp only [Machine.issueSte]
  split
  · exact trivial
  · exact .ite h.waitRoom h.accScope.addAccess.startStore

theorem State.Formed.execSte {f} (h : s.Formed) : (Machine.execSte f s).Formed := by
  unfold Machine.execSte
  exact h.runMem fun _ _ _ h => h.issueSte

theorem State.Formed.fillCopy {c core va cp p} (h : s.Formed) : (s.fillCopy c core va cp p).Formed :=
  .ite h h.dropLines.fillLine

theorem State.Formed.prefLine {core c va cp p} (h : s.Formed) :
    (s.prefLine core c va cp p).Formed := h.useLine.l2Use

theorem State.Formed.issuePref {f id t} (h : s.Formed) : (Machine.issuePref f id t s).Formed := by
  dsimp only [Machine.issuePref]
  refine .ite h ?_
  split
  · exact h
  · exact .ok (.ite h.noteTlb.fillCopy (.ite h.noteTlb.l2Use h.noteTlb.prefLine))

theorem State.Formed.execPref {f} (h : s.Formed) : (Machine.execPref f s).Formed := by
  unfold Machine.execPref
  exact h.runMem fun _ _ _ h => h.issuePref

theorem State.Formed.issueCflush {f id t} (h : s.Formed) : (Machine.issueCflush f id t s).Formed := by
  dsimp only [Machine.issueCflush]
  split
  · exact trivial
  · exact .ite h.commitFirst h.accScope.addAccess

theorem State.Formed.execCflush {f} (h : s.Formed) : (Machine.execCflush f s).Formed := by
  unfold Machine.execCflush
  exact h.runMem fun _ _ _ h => h.issueCflush

theorem State.Formed.issuePutsig {f id t} (h : s.Formed) : (Machine.issuePutsig f id t s).Formed := by
  unfold Machine.issuePutsig
  extract_lets g a sa
  split
  · trivial
  · trivial
  split
  next s₁ sc e =>
  have h₁ : s₁.Formed := by
    have e₁ : _ = s₁ := congrArg Prod.fst e
    rw [← e₁]
    exact h.accScope
  extract_lets p sg
  exact .ite (.ite (.ite h₁.commitFirst
      (.ite (.wait (.ite h₁.commitFirst h₁.waitRoom)) h₁.holdAccess.holdAccess.startStore))
      (.ite h₁.commitFirst (.ite h₁.waitRoom h₁.addAccess.addAccess.startStore.commitAfter)))
    (.ite h₁.waitRoom h₁.addAccess.addAccess.startStore)

theorem State.Formed.execPutsig {f} (h : s.Formed) : (Machine.execPutsig f s).Formed := by
  unfold Machine.execPutsig
  exact h.runMem fun _ _ _ h => h.issuePutsig

theorem State.Formed.groupStalls {ts ldn stn cpn} (h : s.Formed) : (s.groupStalls ts ldn stn cpn).Formed :=
  h.updThreads

theorem State.Formed.groupWaits {ts p} (h : s.Formed) : (s.groupWaits ts p).Formed := h.updThreads

theorem State.Formed.runUload {u f idx tag} (h : s.Formed) : (Machine.runUload u f idx tag s).Formed := by
  dsimp only [Machine.runUload]
  refine h.runUniform fun _ _ h => ?_
  split
  · exact h
  · exact .ite h.groupStalls h.accScope.addAccess.startLoad.stepAll

theorem State.Formed.execUstw {f} (h : s.Formed) : (Machine.execUstw f s).Formed := by
  unfold Machine.execUstw
  refine h.runUniform fun g t h => ?_
  dsimp only
  split
  · exact h
  split
  · exact .ite h.commitFirst h.groupStalls
  split
  · exact (h.accScope.putStore.of_ok ‹_›).stepAll
  · exact h.accScope.putStore.of_wait ‹_›
  · exact h.accScope

theorem State.Formed.endLost {a} (h : s.Formed) : (s.endLost a).Formed :=
  .dropAccess (.updThreads (.ite h.updThreads h.lowerStn))

theorem State.Formed.execLoadDataReturn {a} (h : s.Formed) : (Machine.execLoadDataReturn a s).Formed := by
  unfold Machine.execLoadDataReturn
  split
  · exact h
  refine .ite h ?_
  split
  · exact .next (.dropAccess (.ite h.finishLoad h.poisoned))
  refine .ite h <| .ite h.endLost ?_
  split
  · exact h
  · exact (h.loadValue ‹_›).finishLoad.dropAccess
  · exact (h.loadValue ‹_›).poisoned.dropAccess

theorem State.Formed.flushLine {a} (h : s.Formed) : (s.flushLine a).Formed := by
  unfold State.flushLine
  extract_lets s₁
  have h₁ : s₁.Formed := by
    unfold s₁
    split
    · exact h.dropLines
    · exact h
  refine .ite h₁ ?_
  split
  · exact h₁
  split
  · exact h₁.l2DropAll
  · exact h₁

theorem State.Formed.storeDone {x} (h : s.Formed) : (s.storeDone x).Formed := by
  unfold State.storeDone
  refine .dropAccess ?_
  split
  · exact h
  · exact h
  · exact h.lowerStn

theorem State.Formed.holdAgain {x} (h : s.Formed) : (s.holdAgain x).Formed := by
  unfold State.holdAgain
  split
  · exact h
  · exact .ite h h.dropAccess.updTeam

theorem State.Formed.execStorePerformed {a} (h : s.Formed) : (Machine.execStorePerformed a s).Formed := by
  dsimp only [Machine.execStorePerformed]
  split
  · exact h
  split
  · exact h.storeDone
  · exact h.storeDone
  · exact h.storeDone
  refine .ite h.holdAgain <| .ite h <| .ite h.endLost ?_
  split
  · split
    · exact h
    · exact (h.storeValue ‹_›).storeDone
  · split
    · exact h
    · exact (h.storeValue ‹_›).storeDone
  · split
    · exact h
    · exact (h.storeValue ‹_›).storeDone
  · exact h.padWrite.noteLine.lineFull.storeDone
  · exact h.updCore.storeDone
  · exact h.flushLine.dropAccess
  · exact .ite h h.dropAccess
  · exact h

theorem State.Formed.issueAtomic {op f id x} (h : s.Formed) : (Machine.issueAtomic op f id x s).Formed := by
  unfold Machine.issueAtomic
  extract_lets +onlyGivenNames g e
  refine .ite trivial ?_
  extract_lets +onlyGivenNames a
  split
  · trivial
  split
  next s₁ sc e =>
  have e₁ : _ = s₁ := congrArg Prod.fst e
  have h₁ : s₁.Formed := e₁ ▸ h.accScope
  extract_lets ret acc full s₂ put
  have hput : ∀ u, u.Formed → (put u).Formed := fun u hu =>
    have hc : State.Formed _ := .ite hu.dropCopies hu
    .ite hc.addAccess.startLoad hc.addAccess.startStore
  exact .ite (.ite h₁.commitFirst (.ite h₁.waitRoom (hput _ h₁).commitAfter))
    (.ite h₁.putStore (.ite h₁.waitRoom (hput _ h₁)))

/-! ## Atomics and the network -/

theorem State.Formed.combineLanes {op grp n as} (h : s.Formed) : (s.combineLanes op grp n as).Formed := by
  induction n generalizing s as with
  | zero => exact h
  | succ n ih =>
    cases as with
    | nil => exact h
    | cons a as => exact ih h.addFlight

theorem State.Formed.runAtomic {op f} (h : s.Formed) : (Machine.runAtomic op f s).Formed := by
  have hr : (Machine.runMem (atMem op f) (Machine.issueAtomic op f) s).Formed := h.runMem fun _ _ _ h => h.issueAtomic
  dsimp only [Machine.runAtomic]
  split
  · exact (hr.of_next ‹_›).combineLanes
  · exact hr

theorem State.Formed.dropFlight {rid} (h : s.Formed) : (s.dropFlight rid).Formed := h
theorem State.Formed.send {f} (h : s.Formed) : (s.send f).Formed := h

theorem State.Formed.deliverLeaves {r v} (h : s.Formed) : (s.deliverLeaves r v).Formed :=
  h.foldl fun _ _ h => h.updAccess

theorem State.Formed.spoilLeaves {r src} (h : s.Formed) : (s.spoilLeaves r src).Formed :=
  h.foldl fun _ _ h => h.updAccess

theorem State.Formed.performPad {r c off} (h : s.Formed) : (s.performPad r c off).Formed :=
  .ite (h.foldl fun _ _ h => h.endLost) <|
    .ite h.spoilLeaves.deliverLeaves (.deliverLeaves (.ite h h.padWrite.noteLine))

theorem State.Formed.exposeBefore {a} (h : s.Formed) : (s.exposeBefore a).Formed := h.expose

theorem State.Formed.leaveCore {r} (h : s.Formed) : (s.leaveCore r).Formed := by
  dsimp only [State.leaveCore]
  split
  · exact h.performPad.dropFlight
  split
  · exact h.dropFlight
  split
  · exact h
  · exact .send <| .dropFlight <| .foldl (.ite h.noteTlb.exposeKey.exposeBefore h.noteTlb.exposeKey)
      fun _ _ h => h.updAccess

theorem State.Formed.launchAccess {x} (h : s.Formed) : (s.launchAccess x).Formed := h.fresh.leaveCore

theorem State.Formed.execRequestLeaveCore {r} (h : s.Formed) : (Machine.execRequestLeaveCore r s).Formed := by
  unfold Machine.execRequestLeaveCore
  split
  · exact .ite h.leaveCore h
  split
  · exact .ite h.launchAccess h
  · exact h

theorem State.Formed.execPutsigSignal {a} (h : s.Formed) : (Machine.execPutsigSignal a s).Formed := by
  unfold Machine.execPutsigSignal
  split
  · exact h
  · exact .ite h h.launchAccess

theorem State.Formed.execStageArrival {r} (h : s.Formed) : (Machine.execStageArrival r s).Formed := by
  dsimp only [Machine.execStageArrival]
  split
  · exact h
  split
  · exact .ite h h
  · exact .ite h h
  · exact h

theorem State.Formed.execStageDepart {r} (h : s.Formed) : (Machine.execStageDepart r s).Formed := by
  dsimp only [Machine.execStageDepart]
  split
  · split
    · exact .next (.send (.frame h rfl))
    · exact h
  · split
    · split
      · exact .next (.send (.frame h rfl))
      · exact h
    · exact h

theorem State.Formed.ownFlight {a} (h : s.Formed) : (s.ownFlight a).Formed := by
  unfold State.ownFlight
  split
  · exact h.addFlight
  · exact h

theorem State.Formed.faultLeaves {r} (h : s.Formed) : (s.faultLeaves r).Formed :=
  h.foldl fun _ _ h => h.updAccess.ownFlight

theorem State.Formed.execReplySplit {r} (h : s.Formed) : (Machine.execReplySplit r s).Formed := by
  dsimp only [Machine.execReplySplit]
  split
  · exact h
  split
  · exact .next (.foldl (.frame h rfl) fun _ _ h => h.send)
  · exact .next (.foldl (.frame h rfl) fun _ _ h => .ite h.faultLeaves h.deliverLeaves)
  · exact h

theorem State.Formed.returnAtomic {a v} (h : s.Formed) : (s.returnAtomic a v).Formed :=
  .dropAccess (.ite h.lowerStn (.ite h.finishLoad h.poisoned))

/-! ## Faults, suspended teams and page replies -/

theorem State.Formed.renameTeam {o n} (h : s.Formed) : (s.renameTeam o n).Formed := .updCore (.frame h rfl)
theorem State.Formed.dropOvld {t} (h : s.Formed) : (s.dropOvld t).Formed := h

theorem State.Formed.settleThreads {ids f} (h : s.Formed) :
    (s.settleThreads ids f).Formed := .ite h.updThreads h

theorem State.Formed.lowerCpn {ids} (h : s.Formed) : (s.lowerCpn ids).Formed := h.settleThreads
theorem State.Formed.lowerMxn {ids} (h : s.Formed) : (s.lowerMxn ids).Formed := h.settleThreads

theorem State.Formed.rejoin {t saved} (h : s.Formed) : (s.rejoin t saved).Formed := by
  dsimp only [State.rejoin]
  split
  · exact h
  refine h.foldl fun s x h => ?_
  split
  · exact h.reachEntry
  · exact h.reachEntry
  · exact h.goTo
  · exact h

theorem State.Formed.restoreTeam {t saved stop} (h : s.Formed) : (s.restoreTeam t saved stop).Formed :=
  .rejoin (.foldl (.frame h rfl) fun _ _ h => h.ownFlight)

theorem State.Formed.wakeMats {t} (h : s.Formed) : (s.wakeMats t).Formed := h.updCore

theorem State.Formed.retryAccs {t} (h : s.Formed) : (s.retryAccs t).Formed :=
  h.foldl fun _ _ h => h.updAccess.ownFlight

theorem State.Formed.unfault {t} (h : s.Formed) : (s.unfault t).Formed := .wakeMats (.retryAccs (.frame h rfl))

theorem State.Formed.resumeSusp {t c p} (h : s.Formed) : (s.resumeSusp t c p).Formed :=
  h.updCtx.restoreTeam.renameTeam.wakeMats

theorem State.Formed.suspReady {c p} (h : s.Formed) : (s.suspReady c p).Formed :=
  .ite h (.ite (.ite h.resumeSusp h) h.updCtx)

theorem State.Formed.requestAll {as} (h : s.Formed) : (Machine.requestAll s as).1.Formed := by
  induction as generalizing s with
  | nil => exact h
  | cons a as ih =>
    unfold Machine.requestAll
    split
    · exact ih h
    · exact ih h.pageRequest.updAccess

theorem State.Formed.faultAll {l} (h : s.Formed) : (s.faultAll l).Formed :=
  (h.foldl fun _ _ h => h.faultAccess).requestAll

theorem State.Formed.heldFault {a} (h : s.Formed) : (s.heldFault a).Formed := by
  dsimp only [State.heldFault]
  split
  · exact h
  · exact .ite h (.faultAll (.frame h rfl))

theorem State.Formed.execPageFault {a} (h : s.Formed) : (Machine.execPageFault a s).Formed := by
  unfold Machine.execPageFault
  split
  · exact h.heldFault
  refine .ite h ?_
  split <;> exact h.faultAll

theorem State.Formed.startSlot {t} (h : s.Formed) : (s.startSlot t).Formed := by
  dsimp only [State.startSlot]
  split
  · exact .foldl (.frame h rfl) fun _ _ h => h.reachEntry
  · exact h

theorem State.Formed.answerSusp {c tag refuse} (h : s.Formed) : (s.answerSusp c tag refuse).Formed :=
  h.updCtx.foldl fun _ _ h => .ite h.suspReady h

theorem State.Formed.endRefused {a} (h : s.Formed) : (s.endRefused a).Formed := by
  dsimp only [State.endRefused]
  refine .dropAccess ?_
  split
  · exact h.updThreads
  · exact h.updThreads
  · exact h
  · exact h
  · exact h
  · exact h
  · exact h
  · exact .ite h.lowerStn h.updThreads
  · exact .ite h.lowerStn h.updThreads
  · exact h.lowerStn
  · exact h.lowerStn
  · exact h.lowerStn
  · exact h.lowerStn

theorem State.Formed.answerAccs {tag refuse} (h : s.Formed) : (s.answerAccs tag refuse).Formed :=
  .foldl (.ite (h.foldl fun _ _ h => h.endRefused) h) fun _ _ h => h.retryAccs

theorem State.Formed.matRetire {core m} (h : s.Formed) : (s.matRetire core m).Formed := h.updCore.lowerMxn

theorem State.Formed.violations {as told} (h : s.Formed) : (Machine.violations s as told).Formed := by
  induction as generalizing s told with
  | nil => exact h
  | cons a as ih => exact ih h.updThreads

theorem State.Formed.endReplay {t} (h : s.Formed) : (s.endReplay t).Formed :=
  .ite ((h.violations.foldl fun _ _ h => h.endRefused).foldl fun _ _ h => h.matRetire).updTeam h

theorem State.Formed.orphanGates {t} (h : s.Formed) : (s.orphanGates t).Formed := h

theorem State.Formed.unkeep {t} (h : s.Formed) : (s.unkeep t).Formed := by
  dsimp only [State.unkeep]
  split
  · exact h
  split
  · exact h
  · exact .foldl (.renameTeam (.frame h rfl)) fun _ _ h => h.endRefused

theorem State.Formed.killSusp {c p} (h : s.Formed) : (s.killSusp c p).Formed := by
  dsimp only [State.killSusp]
  split
  · exact .reportKill (.frame (h.foldl fun _ _ h => h.matRetire) rfl)
  · exact h

theorem State.Formed.killSusps {t} (h : s.Formed) : (s.killSusps t).Formed := by
  unfold State.killSusps
  split
  · exact h
  · exact h.foldl fun _ _ h => h.killSusp

theorem State.Formed.execFreshStart {t} (h : s.Formed) : (Machine.execFreshStart t s).Formed := by
  dsimp only [Machine.execFreshStart]
  split
  · exact h
  split
  · exact .ite h.unfault <|
      .ite h.unkeep h.orphanGates.dropHeld.reportKill.endTask.freshStart.killSusps.gangHandled
  · exact h

theorem State.Formed.dissolve {t p} (h : s.Formed) : (s.dissolve t p).Formed := by
  unfold State.dissolve
  split
  · exact h.mapThreads
  · exact h

theorem State.Formed.execDeferredTrap {t} (h : s.Formed) : (Machine.execDeferredTrap t s).Formed := by
  dsimp only [Machine.execDeferredTrap]
  split
  · exact h
  split
  · exact h
  · exact .ite h.dissolve.updThread.deliver h

/-! ## Queues -/

theorem State.Formed.putSnap {core n} (h : s.Formed) : (s.putSnap core n).Formed :=
  (h.heal.foldl fun _ _ h => h.updCore).updCore

theorem State.Formed.resumeSnap {t c n} (h : s.Formed) : (s.resumeSnap t c n).Formed := by
  dsimp only [State.resumeSnap]
  refine .ite h.updCtx.expose.putSnap.restoreTeam.updTeam.renameTeam ?_
  refine h.updCtx.expose.putSnap.restoreTeam.updTeam.renameTeam.foldl fun s x h => ?_
  split
  · exact h
  split
  · exact h
  · exact h.ifRuns fun _ h => h.goTo

theorem State.Formed.takeResume {u} (h : s.Formed) (e : s.takeResume u = some t) : t.Formed := by
  unfold State.takeResume at e
  split at e
  · cases e
  split at e
  · cases e
  split at e
  · cases e
  split at e
  · obtain ⟨n, -, rfl⟩ := Option.map_eq_some_iff.mp e
    exact h.endTask.resumeSnap
  · obtain ⟨p, -, rfl⟩ := Option.map_eq_some_iff.mp e
    exact h.endTask.resumeSusp

theorem State.Formed.startTask {t k} (h : s.Formed) : (s.startTask t k).Formed := h.updTeam

theorem State.Formed.restoreCont {t k v} (h : s.Formed) : (s.restoreCont t k v).Formed :=
  h.endTask.startTask.mapThreads.foldl fun _ _ h => h.ifRuns fun _ h => h.goTo

theorem State.Formed.deliverRec {t team tail q x cd} (h : s.Formed) :
    (s.deliverRec t team tail q x cd).1.Formed :=
  .ite (.startTask (.endTask (.ite h.updQSet.updVf h.updQSet))) (.ite h.updQSet.updVf h.updQSet)

theorem State.Formed.popShards {t team tail q ds} (h : s.Formed) : (s.popShards t team tail q ds).Formed := by
  induction ds with
  | nil => trivial
  | cons d ds ih =>
    unfold State.popShards
    split
    · trivial
    split
    · exact ih
    split
    · split
      · trivial
      · split
        · trivial
        · exact h.noteLines.updQSet.acquire.restoreCont
    · exact h.deliverRec.acquire

theorem State.Formed.pop {t team tail q dies} (h : s.Formed) : (s.pop t team tail q dies).Formed := by
  unfold State.pop
  split
  next e =>
    have hr : State.Formed _ := h.takeResume (Option.ite_none_right_eq_some.mp e).2
    exact .ite hr.acquire trivial
  · exact h.popShards

theorem State.Formed.countDrop {q} (h : s.Formed) : (s.countDrop q).Formed := h.updQSet

theorem State.Formed.queueRec {q d r pusher} (h : s.Formed) : (s.queueRec q d r pusher).Formed :=
  h.fresh.updQSet.updVf

theorem State.Formed.waitOrder {ts h₀} (h : s.Formed) : (s.waitOrder ts h₀).Formed := h.updThreads

theorem State.Formed.runQpop {steal f} (h : s.Formed) : (Machine.runQpop steal f s).Formed := by
  dsimp only [Machine.runQpop]
  refine h.runUniform fun _ _ h => ?_
  split
  · exact h
  refine .ite h.commitFirst ?_
  split
  · exact h.updThreads
  · exact (h.pop.of_given ‹_›).updThreads.commitAfter
  · exact (h.pop.of_moved ‹_›).commitAfter
  · exact h.waitOrder
  · exact h.probeFault

theorem State.Formed.execQcap {f} (h : s.Formed) : (Machine.execQcap f s).Formed := by
  dsimp only [Machine.execQcap]
  refine h.runUniform fun _ _ h => ?_
  split
  · exact h
  · exact h.result

theorem State.Formed.execQbind {f} (h : s.Formed) : (Machine.execQbind f s).Formed := by
  dsimp only [Machine.execQbind]
  refine h.runUniform fun _ _ h => ?_
  split
  · exact h
  · exact h.updBlock.stepAll
  · exact h

theorem State.Formed.waitWindow {ts w n} (h : s.Formed) : (s.waitWindow ts w n).Formed := h.updThreads

theorem State.Formed.umovWindow {w f} (h : s.Formed) : (Machine.umovWindow w f s).Formed := by
  dsimp only [Machine.umovWindow]
  refine h.runUniform fun _ _ h => ?_
  split
  · exact h
  refine .ite h.commitFirst ?_
  split
  · exact .parked (.waitWindow (.ite h.endTask h))
  · exact (h.pop.of_given ‹_›).result.commitAfter
  · exact (h.pop.of_moved ‹_›).commitAfter
  · exact h.waitOrder
  · exact h.probeFault

theorem State.Formed.execUmov {f} (h : s.Formed) : (Machine.execUmov f s).Formed := by
  dsimp only [Machine.execUmov]
  split
  · exact h.umovWindow
  · exact h.runUniform fun _ _ h => h.result

theorem State.Formed.popMany {u q n rs} (h : s.Formed)
    (e : s.popMany u q n = some (t, rs)) : t.Formed := by
  induction n generalizing s rs with
  | zero => cases e; exact h
  | succ n ih =>
    unfold State.popMany at e
    split at e
    · obtain ⟨r, hr, he⟩ := Option.map_eq_some_iff.mp e
      cases he
      exact ih (h.popShards.of_given ‹_›) hr
    · cases e

theorem State.Formed.movPop {w d n id} (h : s.Formed) : (Machine.movPop w d n id s).Formed := by
  dsimp only [Machine.movPop]
  split
  · exact trivial
  refine .ite h.commitFirst ?_
  split
  · exact h.waitWindow
  · exact (h.popMany ‹_›).updThread.commitAfter

theorem State.Formed.pushAll {q d pusher rs} (h : s.Formed) : (s.pushAll q d pusher rs).Formed := by
  induction rs generalizing s with
  | nil => exact h
  | cons r rs ih => exact ih (.ite h.countDrop h.queueRec)

theorem State.Formed.movPush {w a n id t} (h : s.Formed) : (Machine.movPush w a n id t s).Formed := by
  dsimp only [Machine.movPush]
  split
  · exact trivial
  refine .ite trivial ?_
  split
  · exact trivial
  · exact .ite h.commitFirst (.ite h.waitOrder (.ite h.waitWindow h.expose.pushAll.commitAfter))

theorem State.Formed.windowEach {words g gn w need opds}
    {act : ThreadId → Thread → State → IssueRes} {ids rs} (h : s.Formed)
    (hact : ∀ i x t, t.Formed → (act i x t).Formed) :
    (Machine.windowEach words g gn w need opds act ids (s, rs)).1.Formed := by
  induction ids generalizing s rs with
  | nil => exact h
  | cons id ids ih =>
    unfold Machine.windowEach
    split
    · exact ih h
    split
    · split
      · exact ih h
      have hr := fun x => hact id x s h
      split
      case h_1 e => exact ih ((hr _).of_ok e).updThread
      case h_2 => exact ih h
      case h_3 e => exact ((hr _).of_wait e).stepAll.waitWindow
    · exact ih h.updThread

theorem State.Formed.runMovWindow {words n f ids} (h : s.Formed) :
    (Machine.runMovWindow words n f ids s).1.Formed := by
  unfold Machine.runMovWindow
  split
  · exact h.windowEach fun _ _ _ h => h.movPop
  · exact h.windowEach fun _ _ _ h => h.movPush
  · exact h

theorem State.Formed.execMov {f} (h : s.Formed) : (Machine.execMov f s).Formed :=
  .ite (.ite h.runMovWindow.raises h.illegal) h.runLane

theorem State.Formed.execStealMessage {q d} (h : s.Formed) : (Machine.execStealMessage q d s).Formed := by
  unfold Machine.execStealMessage
  split
  · exact h
  refine .ite h ?_
  split
  · exact h
  · exact h.updQSet

/-! ## Joins, launches and snapshots -/

theorem State.Formed.addJoin {c frame addr} (h : s.Formed) : (s.addJoin c frame addr).Formed := h
theorem State.Formed.queueCont {c frame v} (h : s.Formed) : (s.queueCont c frame v).Formed := h.fresh.updQSet

theorem State.Formed.queueFrames {c fuel frame} (h : s.Formed) :
    (Machine.queueFrames c fuel frame s).Formed := by
  induction fuel generalizing s frame with
  | zero => exact h
  | succ fuel ih =>
    dsimp only [Machine.queueFrames]
    split
    · exact h
    · split
      · exact h.addJoin
      · exact .ite h.noteLines.countDrop (ih h.noteLines.queueCont)

theorem State.Formed.counterAdd {c gpa key add} (h : s.Formed) : (s.counterAdd c gpa key add).1.Formed := by
  unfold State.counterAdd
  extract_lets old new t w
  have ht : t.Formed := h.controllerReads.memStore
  split
  · have hw : (t.memStore (key + 8) 8 0).Formed := ht.memStore
    apply hw.queueFrames
  · exact ht

theorem State.Formed.completeRec {r} (h : s.Formed) : (s.completeRec r).Formed := by
  dsimp only [State.completeRec]
  split
  · exact h
  · exact h.updQSet

theorem State.Formed.dropJoin {k} (h : s.Formed) : (s.dropJoin k).Formed := h
theorem State.Formed.updJoin {k f} (h : s.Formed) : (s.updJoin k f).Formed := h
theorem State.Formed.holdJoin {j m} (h : s.Formed) : (s.holdJoin j m).Formed := h.pageRequest.updJoin

theorem State.Formed.execJoinDecrement {j} (h : s.Formed) : (Machine.execJoinDecrement j s).Formed := by
  dsimp only [Machine.execJoinDecrement]
  split
  · exact h
  refine .ite h ?_
  split
  · split
    · exact h.holdJoin
    · exact h.dropJoin.queueFrames
  · refine .ite h.exposeAll.dropJoin.completeRec ?_
    split
    · exact h.exposeAll.holdJoin
    · exact h.exposeAll.updJoin.counterAdd

theorem State.Formed.droppedEvent {v addr} (h : s.Formed) : (s.droppedEvent v addr).Formed := h.postEvent

theorem State.Formed.answerJoins {tag refuse} (h : s.Formed) : (s.answerJoins tag refuse).Formed := by
  dsimp only [State.answerJoins]
  refine .ite ?_ (h.foldl fun _ _ h => h.updJoin)
  refine h.foldl fun s x h => ?_
  refine .droppedEvent ?_
  split
  · exact h.dropJoin.completeRec.countDrop
  · exact h.dropJoin.completeRec

theorem State.Formed.runPush {minor f} (h : s.Formed) : (Machine.runPush minor f s).Formed := by
  dsimp only [Machine.runPush]
  refine h.runUniform fun _ _ h => ?_
  split
  · exact h
  refine .ite h ?_
  split
  · exact h
  · exact .ite h.commitsFirst <|
      .ite h.groupWaits (.ite h.groupStalls (.ite h.probeFault h.updCore.startLoad.stepAll.commitsAfter))

theorem State.Formed.queueGrid {q ds r n pusher} (h : s.Formed) : (s.queueGrid q ds r n pusher).Formed :=
  h.fresh.updQSet.updVf

theorem State.Formed.takeLaunch {l st} (h : s.Formed) (e : s.takeLaunch l = .ok (t, st)) : t.Formed := by
  unfold State.takeLaunch at e
  extract_lets die ds st₁ st₂ put at e
  have hput : ∀ u, u.Formed → (put u).Formed := fun u hu => .ite hu.queueGrid hu.queueRec
  split at e
  · cases e; exact h.countDrop
  split at e
  · cases e; exact h
  split at e
  · obtain ⟨rfl, -⟩ := Prod.mk.inj (Except.ok.inj e)
    exact h
  split at e
  · cases e; exact hput _ h
  split at e
  · cases e
  · obtain ⟨rfl, -⟩ := Prod.mk.inj (Except.ok.inj e)
    exact hput _ h.counterAdd

theorem State.Formed.dropLaunch {c} (h : s.Formed) : (s.dropLaunch c).Formed := h.updCore
theorem State.Formed.updLaunch {c f} (h : s.Formed) : (s.updLaunch c f).Formed := h.updCore

theorem State.Formed.holdLaunch {c e m} (h : s.Formed) : (s.holdLaunch c e m).Formed :=
  .ite h.pageRequest.updLaunch.probeFault h.pageRequest.updLaunch

theorem State.Formed.execPendingLaunchTake {c} (h : s.Formed) : (Machine.execPendingLaunchTake c s).Formed := by
  dsimp only [Machine.execPendingLaunchTake]
  split
  · exact h
  refine .ite h ?_
  split
  · exact h.expose.holdLaunch
  · exact (h.expose.takeLaunch ‹_›).dropLaunch.settleThreads

theorem State.Formed.answerLaunches {tag refuse} (h : s.Formed) : (s.answerLaunches tag refuse).Formed := by
  dsimp only [State.answerLaunches]
  refine h.foldl fun s x h => ?_
  split
  · exact h
  · exact .ite h (.ite h.dropLaunch.settleThreads h.updLaunch)

theorem State.Formed.counterAccess {g kind addr data d back} (h : s.Formed) :
    (s.counterAccess g kind addr data d back).Formed :=
  .stepAll (.ite h.addAccess.startLoad h.addAccess.startStore)

theorem State.Formed.execJadd {f} (h : s.Formed) : (Machine.execJadd f s).Formed := by
  unfold Machine.execJadd
  refine h.runUniform fun g t h => ?_
  extract_lets +onlyGivenNames a back
  split
  · exact h
  · exact .ite h.commitsFirst (.ite h.groupStalls h.counterAccess.commitsAfter)

theorem State.Formed.execJrd {f} (h : s.Formed) : (Machine.execJrd f s).Formed := by
  dsimp only [Machine.execJrd]
  refine h.runUniform fun _ _ h => ?_
  split
  · exact h
  · exact .ite h.groupStalls h.counterAccess

theorem State.Formed.returnCounter {a v} (h : s.Formed) : (s.returnCounter a v).Formed :=
  .dropAccess <| .ite (.lowerStn (.ite h.acquire h)) <|
    .ite (.finishLoad (.ite h.acquire h)) (.poisoned (.ite h.acquire h))

theorem State.Formed.dropCopiesAt {r key} (h : s.Formed) : (s.dropCopiesAt r key).Formed :=
  h.foldl fun _ _ h => .ite h.updCore h

theorem State.Formed.copyAt {r key} (h : s.Formed) : (s.copyAt r key).Formed := by
  unfold State.copyAt
  split
  · exact .ite h.fillCopy h
  · exact h

theorem State.Formed.performHome {r key} (h : s.Formed) : (s.performHome r key).1.Formed := by
  dsimp only [State.performHome]
  split
  · exact h.spoilLeaves
  split
  · exact h.memStore
  · exact h.counterAdd
  · exact h
  · exact h.l2Use.copyAt
  · exact .dropCopiesAt (.ite h.l2Use h.l2Use.memStore)

theorem State.Formed.execHomePerform {r} (h : s.Formed) : (Machine.execHomePerform r s).Formed := by
  dsimp only [Machine.execHomePerform]
  split
  · exact h
  refine .ite h <| .ite h.dropFlight.send ?_
  split
  · exact h.dropFlight.send
  · exact h.dropFlight.performHome.send

theorem State.Formed.jwaitDone {l pc cntVa cnt hd n} (h : s.Formed) :
    (s.jwaitDone l pc cntVa cnt hd n).Formed := by
  unfold State.jwaitDone
  extract_lets t c frame task q body qshard bytes v s₁ w s₂ link s₃
  have h₂ : s₂.Formed := h.endTask.writeVa.updQSet
  have h₃ : s₃.Formed := .ite h₂.queueCont h₂.writeVa.writeVa
  exact h₃.acquire.freshStart

theorem State.Formed.waitTeam {ids h₀} (h : s.Formed) : (s.waitTeam ids h₀).Formed := h.updThreads

theorem State.Formed.jwaitAct {f} (h : s.Formed) : (Machine.jwaitAct f s).Formed := by
  dsimp only [Machine.jwaitAct]
  split
  · exact h
  split
  · exact h.raises
  split
  · exact h.raises
  refine .ite h.commitFirst <| .ite h.waitTeam ?_
  split
  · exact h.probeFault
  split
  · exact h.probeFault
  · exact h.jwaitDone

theorem State.Formed.execJwait {f} (h : s.Formed) : (Machine.execJwait f s).Formed :=
  .ite (h.asTeam fun _ h => h.jwaitAct) h.illegal

theorem State.Formed.reallot {t b alloc budget d v} (h : s.Formed) : (s.reallot t b alloc budget d v).Formed :=
  .ite h.raises (.ite h.raises h.updBlock.mapThreads.updThreads.raises)

theorem State.Formed.rgiveAct {f} (h : s.Formed) : (Machine.rgiveAct f s).Formed := by
  dsimp only [Machine.rgiveAct]
  split
  · exact h
  split
  · exact .ite h.raises h.reallot
  · exact h

theorem State.Formed.rclaimAct {f} (h : s.Formed) : (Machine.rclaimAct f s).Formed := by
  dsimp only [Machine.rclaimAct]
  split
  · exact h
  split
  · exact .ite h.raises (.ite h.reallot h.reallot)
  · exact h

theorem State.Formed.execRgive {f} (h : s.Formed) : (Machine.execRgive f s).Formed :=
  .ite (h.asTeam fun _ h => h.rgiveAct) h.illegal

theorem State.Formed.execRclaim {f} (h : s.Formed) : (Machine.execRclaim f s).Formed :=
  .ite (h.asTeam fun _ h => h.rclaimAct) h.illegal

theorem State.Formed.snapAct {f} (h : s.Formed) : (Machine.snapAct f s).Formed := by
  dsimp only [Machine.snapAct]
  split
  · exact h
  · exact .ite h.raises (.ite h.commitFirst (.ite h.waitTeam.raises h.updThreads.commitAfter.raises))

theorem State.Formed.execSnap {f} (h : s.Formed) : (Machine.execSnap f s).Formed :=
  .ite (h.asTeam fun _ h => h.snapAct) h.illegal

theorem State.Formed.laterValue {g d w v} (h : s.Formed) : (s.laterValue g d w v).Formed :=
  h.addAccess.startLoad.stepAll

theorem State.Formed.execQfence {f} (h : s.Formed) : (Machine.execQfence f s).Formed := by
  dsimp only [Machine.execQfence]
  refine h.runUniform fun _ _ h => ?_
  split
  · exact h
  · exact .ite h.waitOrder (.ite h.commitsFirst (.ite h.groupStalls h.fresh.updQSet.laterValue.commitsAfter))

theorem State.Formed.execFenceComplete {q} (h : s.Formed) : (Machine.execFenceComplete q s).Formed := by
  dsimp only [Machine.execFenceComplete]
  split
  · exact h
  split
  · exact h
  refine .ite h ?_
  split
  · exact h.pageRequest.updQSet
  · exact h.memStore.updQSet

theorem State.Formed.answerLogs {tag refuse} (h : s.Formed) : (s.answerLogs tag refuse).Formed :=
  h.foldl fun _ _ h => .ite h.updQSet.droppedEvent h.updQSet

theorem State.Formed.rebuildQueues {part} (h : s.Formed) : (s.rebuildQueues part).Formed := h

/-! ## Barriers -/

theorem State.Formed.barArrive {i count} (h : s.Formed) : (s.barArrive i count).Formed := h
theorem State.Formed.settleBars (h : s.Formed) : s.settleBars.Formed := h
theorem State.Formed.barResult {f g ph} (h : s.Formed) : (s.barResult f g ph).Formed := h.updThreads.stepAll
theorem State.Formed.barWait {g p} (h : s.Formed) : (s.barWait g p).Formed := h.updThreads

theorem State.Formed.barHard {minor f l lt g scope} (h : s.Formed) :
    (s.barHard minor f l lt g scope).Formed := by
  dsimp only [State.barHard]
  split
  · exact h.barArrive.barWait.commitAfter
  · exact h.barArrive.barResult.commitAfter
  · exact h.barWait

theorem State.Formed.barSend {minor f l g addr} (h : s.Formed) : (s.barSend minor f l g addr).Formed := by
  dsimp only [State.barSend]
  split
  · exact h.addAccess.addFlight.barWait.commitAfter
  · exact h.addAccess

theorem State.Formed.barSoft {minor f l lt g} (h : s.Formed) : (s.barSoft minor f l lt g).Formed := by
  dsimp only [State.barSoft]
  refine .ite ?_ h.barSend
  split
  · exact h.probeFault
  · exact h.barWait

theorem State.Formed.barExpose {minor t scope} (h : s.Formed) :
    (s.barExpose minor t scope).Formed := .ite h h.expose

theorem State.Formed.barAct {minor f} (h : s.Formed) : (Machine.barAct minor f s).Formed := by
  dsimp only [Machine.barAct]
  split
  · exact h
  split
  · exact h.raises
  refine .ite h.raises ?_
  split
  · exact h.raises
  · exact .ite h.commitFirst <|
      .ite h.waitTeam.raises (.raises (.ite h.clamp.barExpose.barHard h.clamp.barExpose.barSoft))

theorem State.Formed.execBar {f} (h : s.Formed) : (Machine.execBar f s).Formed :=
  .ite (h.asTeam fun _ h => h.barAct) h.illegal

theorem State.Formed.execBara {f} (h : s.Formed) : (Machine.execBara f s).Formed :=
  .ite (h.asTeam fun _ h => h.barAct) h.illegal

theorem State.Formed.execBarw {f} (h : s.Formed) : (Machine.execBarw f s).Formed :=
  .ite (h.asTeam fun _ h => h.barAct) h.illegal

theorem State.Formed.execBarrierRelease {t} (h : s.Formed) : (Machine.execBarrierRelease t s).Formed := by
  dsimp only [Machine.execBarrierRelease]
  split
  · exact .ite h h.probeFault
  · exact .next (.updThreads (.ite h.acquire h))

theorem State.Formed.returnArrive {a v} (h : s.Formed) : (s.returnArrive a v).Formed :=
  .ite h.dropAccess.countRead.updThreads <|
    .ite h.dropAccess.updThreads h.dropAccess.updThreads.updThreads.stepAll

theorem State.Formed.execAtomicValueReturn {a} (h : s.Formed) : (Machine.execAtomicValueReturn a s).Formed := by
  unfold Machine.execAtomicValueReturn
  split
  · exact h
  split
  · exact h.returnArrive
  · exact h.returnAtomic
  · exact h.lowerStn.dropAccess
  · exact h.returnCounter
  · exact h.returnCounter
  · exact h

/-! ## Copies -/

theorem State.Formed.engineSees {c core va p} (h : s.Formed) : (s.engineSees c core va p).Formed :=
  h.noteTlb.exposeKey

theorem State.Formed.copyRead {c space a v} (h : s.Formed)
    (e : s.copyRead c space a = .got (t, v)) : t.Formed := by
  dsimp only [State.copyRead] at e
  split at e
  · cases e
  · split at e
    · cases e
    · cases e; exact h
  · split at e
    · cases e
    · split at e
      · cases e
      · cases e; exact h.engineSees

theorem State.Formed.settleTeam {c t f} (h : s.Formed) : (s.settleTeam c t f).Formed := .ite h.updTeam h.updCtx
theorem State.Formed.holdEngine {c t a} (h : s.Formed) : (s.holdEngine c t a).Formed := h.fresh.settleTeam

theorem State.Formed.engineWrite {g a v} (h : s.Formed) (e : s.engineWrite g a v = .ok t) : t.Formed := by
  unfold State.engineWrite at e
  split at e
  · cases e
  · cases e; exact h.engineSees.memStore.passL1

theorem State.Formed.engineStore {g a v} (h : s.Formed) (e : s.engineStore g a v = .ok t) : t.Formed := by
  dsimp only [State.engineStore] at e
  split at e
  · split at e
    · cases e; exact h.holdEngine
    · exact h.engineWrite e
  · exact h.engineWrite e

theorem State.Formed.noteEngineLine {c issuers core off} (h : s.Formed) :
    (s.noteEngineLine c issuers core off).Formed := by
  unfold State.noteEngineLine
  split
  · exact h
  · exact h.settleTeam

theorem State.Formed.updCopy {core tag f} (h : s.Formed) : (s.updCopy core tag f).Formed := h.updCore

theorem State.Formed.copyWrite {x a v} (h : s.Formed) (e : s.copyWrite x a v = .got t) : t.Formed := by
  unfold State.copyWrite at e
  split at e
  · cases e
  · cases e; exact h.padWrite.noteEngineLine
  · split at e
    · cases e
    · cases e; exact h.engineStore ‹_›

theorem State.Formed.lineEmpty {c l} (h : s.Formed) : (s.lineEmpty c l).Formed := h.updCore

theorem State.Formed.indexRead {core x e v} (h : s.Formed) : (s.indexRead core x e v).Formed :=
  .ite (h.updCopy.foldl fun _ _ h => h.lineEmpty).updCopy h.updCopy

theorem State.Formed.copyVisit {core x k} (h : s.Formed) (e : s.copyVisit core x k = .got t) : t.Formed := by
  dsimp only [State.copyVisit] at e
  split at e
  · split at e
    · cases e; exact (h.copyRead ‹_›).indexRead
    · cases e
    · cases e
  split at e
  · cases e
  split at e
  · split at e
    · cases e; exact (h.copyRead ‹_›).updCopy
    · cases e
    · cases e
  split at e
  · cases e; exact (h.copyWrite ‹_›).updCopy
  · exact h.copyWrite e

theorem State.Formed.copyFails {core x e} (h : s.Formed) : (s.copyFails core x e).Formed := by
  dsimp only [State.copyFails]
  refine .updCopy ?_
  split
  · exact h.countBad
  · exact h

theorem State.Formed.copyVisits {core tag ks} (h : s.Formed) : (Machine.copyVisits core tag ks s).Formed := by
  induction ks generalizing s with
  | nil => exact h
  | cons k ks ih =>
    unfold Machine.copyVisits
    split
    · exact h
    split
    · exact h
    split
    · exact ih (h.copyVisit ‹_›)
    · exact ih h
    · exact h.copyFails

theorem State.Formed.engineOpens {e seq} (h : s.Formed) : (s.engineOpens e seq).Formed := .ite h h.expose

theorem State.Formed.fillMarked {core line} (h : s.Formed) :
    (s.fillMarked core line).Formed := .ite h.lineFull h

theorem State.Formed.copyLinesDone {core x} (h : s.Formed) : (s.copyLinesDone core x).Formed :=
  h.updCopy.foldl fun _ _ h => h.fillMarked

theorem State.Formed.copyEnd {core x} (h : s.Formed) : (s.copyEnd core x).Formed :=
  .lowerCpn (.updCore (.ite (h.foldl fun _ _ h => h.fillMarked).countPart (h.foldl fun _ _ h => h.fillMarked)))

theorem State.Formed.copySettle {core tag} (h : s.Formed) : (s.copySettle core tag).Formed := by
  unfold State.copySettle
  split
  · exact h
  · exact h.copyLinesDone

theorem State.Formed.runCopyWords {core tag ks} (h : s.Formed) :
    (Machine.runCopyWords core tag ks s).Formed := by
  dsimp only [Machine.runCopyWords]
  split
  · exact h
  · exact .ite h h.engineOpens.copyVisits.copySettle

theorem State.Formed.execCopyComplete {c tag} (h : s.Formed) : (Machine.execCopyComplete c tag s).Formed := by
  unfold Machine.execCopyComplete
  split
  · exact h
  · exact .ite h.copyEnd h.runCopyWords

theorem State.Formed.execCopyLineFull {c tag line} (h : s.Formed) :
    (Machine.execCopyLineFull c tag line s).Formed :=
  h.runCopyWords

theorem State.Formed.copyRequests {core x ks tags} (h : s.Formed) :
    (Machine.copyRequests core x ks (s, tags)).1.Formed := by
  induction ks generalizing s tags with
  | nil => exact h
  | cons k ks ih =>
    unfold Machine.copyRequests
    split
    · exact ih h.pageRequest
    · exact ih h

theorem State.Formed.execCopyPageFault {c tag} (h : s.Formed) : (Machine.execCopyPageFault c tag s).Formed := by
  unfold Machine.execCopyPageFault
  split
  · exact h
  · exact .ite h h.copyRequests.updCopy

theorem State.Formed.answerCopies {tag refuse} (h : s.Formed) : (s.answerCopies tag refuse).Formed := h

theorem State.Formed.copyAccept {c issuers} (h : s.Formed) : (s.copyAccept c issuers).Formed :=
  .ite (h.fresh.foldl fun _ _ h => h.lineEmpty).updCore.updThreads.copyEnd
    (h.fresh.foldl fun _ _ h => h.lineEmpty).updCore.updThreads

theorem State.Formed.runCopy {minor f} (h : s.Formed) : (Machine.runCopy minor f s).Formed := by
  dsimp only [Machine.runCopy]
  refine h.runUniform fun _ _ h => ?_
  split
  · exact h
  · exact .ite h.commitFirst (.ite h.groupWaits (.ite h.groupStalls h.clamp.copyAccept.stepAll))

theorem State.Formed.execCopyAccept {t} (h : s.Formed) : (Machine.execCopyAccept t s).Formed := by
  unfold Machine.execCopyAccept
  split
  · exact h
  split
  · exact .ite h.mapThreads h
  · exact h

theorem State.Formed.execTwait {f} (h : s.Formed) : (Machine.execTwait f s).Formed := by
  dsimp only [Machine.execTwait]
  refine h.runUniform fun _ _ h => ?_
  refine .ite h.groupWaits ?_
  split
  · exact h
  · exact h.stepAll

theorem State.Formed.tagTake {f g m} (h : s.Formed) : (Machine.tagTake f g m s).Formed := by
  dsimp only [Machine.tagTake]
  refine .done (.result ?_)
  split
  · exact .ite h.updCore h
  · exact h

theorem State.Formed.execTwany {f} (h : s.Formed) : (Machine.execTwany f s).Formed := by
  unfold Machine.execTwany
  exact h.runUniform fun _ _ h => .ite h.groupWaits h.tagTake

theorem State.Formed.execTfirst {f} (h : s.Formed) : (Machine.execTfirst f s).Formed := by
  unfold Machine.execTfirst
  exact h.runUniform fun _ _ h => h.tagTake

theorem State.Formed.execTclr {f} (h : s.Formed) : (Machine.execTclr f s).Formed := by
  unfold Machine.execTclr
  exact h.runUniform fun _ _ h => h.updCore.stepAll

/-! ## Matrix commands -/

theorem State.Formed.pieceRead {c core r} (h : s.Formed) : (s.pieceRead c core r).Formed := by
  dsimp only [State.pieceRead]
  refine .ite (.ite trivial h) ?_
  split
  · exact trivial
  split
  · exact trivial
  · exact h.engineSees

theorem State.Formed.piecesRead {c core rs off v} (h : s.Formed) :
    (Machine.piecesRead c core rs s off v).Formed := by
  induction rs generalizing s off v with
  | nil => exact h
  | cons r rs ih =>
    unfold Machine.piecesRead
    split
    · exact ih (h.pieceRead.of_got ‹_›)
    · exact h.pieceRead

theorem State.Formed.runRead {c core r} (h : s.Formed) : (s.runRead c core r).Formed := h.piecesRead
theorem State.Formed.noteTiles {c t ts} (h : s.Formed) : (s.noteTiles c t ts).Formed := h.settleTeam
theorem State.Formed.matTags {m} (h : s.Formed) : (s.matTags m).Formed := .ite h.noteTiles.updCore h

theorem State.Formed.matAccept {m} (h : s.Formed) : (s.matAccept m).Formed :=
  h.fresh.matTags.updCore.updThreads.stepAll

theorem State.Formed.racingStores (h : s.Formed) : s.racingStores.Formed := by
  unfold State.racingStores
  refine h.foldl fun s x h => ?_
  split
  · exact h.execStorePerformed.of_next ‹_›
  · exact h

theorem State.Formed.matRead {m r} {go : State → Nat → State} (h : s.Formed)
    (hgo : ∀ t v, t.Formed → (go t v).Formed) : (s.matRead m r go).Formed := by
  dsimp only [State.matRead]
  split
  · exact h.waitTeam
  split
  next e =>
    have ht := h.engineOpens.runRead.of_got e
    split
    · exact hgo _ _ ht.racingStores
    · exact hgo _ _ ht
  · exact h.engineOpens.probeFault
  · exact h.engineOpens.countBad.updThreads

theorem State.Formed.matAct {minor f} (h : s.Formed) : (Machine.matAct minor f s).Formed := by
  unfold Machine.matAct
  split
  · exact h.stepAll
  split
  · exact h.raises
  extract_lets on
  split
  next s' scope e =>
  have h' : s'.Formed := by
    have e₁ : _ = s' := congrArg Prod.fst e
    rw [← e₁]
    split
    · exact h
    · exact h.clamp
  extract_lets m strm
  refine .ite h.commitFirst (.ite h.waitTeam ?_)
  split
  · exact h'.matAccept
  · split
    · exact h.raises
    · exact h'.matAccept
  · split
    · exact h.raises
    · exact h'.matAccept
  · split
    · exact h.raises
    refine h'.matRead fun t v ht => ?_
    dsimp only
    split
    · exact ht.raises
    · exact ht.matAccept
  · split
    · exact h.raises
    refine .ite h'.matAccept (h'.matRead fun t v ht => ?_)
    dsimp only
    split
    · exact ht.raises
    · exact ht.matAccept

theorem State.Formed.runMatrix {minor f} (h : s.Formed) : (Machine.runMatrix minor f s).Formed :=
  .ite (h.asTeam fun _ h => h.matAct) h.illegal

theorem State.Formed.mstatAct {f} (h : s.Formed) : (Machine.mstatAct f s).Formed := by
  dsimp only [Machine.mstatAct]
  split
  · exact h.stepAll
  · exact .ite h.waitTeam.raises h.updThreads.stepAll.raises

theorem State.Formed.execMstat {f} (h : s.Formed) : (Machine.execMstat f s).Formed :=
  .ite (h.asTeam fun _ h => h.mstatAct) h.illegal

theorem State.Formed.updMat {core k f} (h : s.Formed) : (s.updMat core k f).Formed := h.updCore

theorem State.Formed.matFault {core m miss va} (h : s.Formed) : (s.matFault core m miss va).Formed :=
  h.pageRequest.updCore.stopFaulting

theorem State.Formed.matFail {core m all r} (h : s.Formed) : (s.matFail core m all r).Formed :=
  (h.foldl fun _ _ h => h.matRetire).settleThreads

theorem State.Formed.matPoison {core m tile addr gpa src} (h : s.Formed) :
    (s.matPoison core m tile addr gpa src).Formed :=
  h.countBad.matFail

theorem State.Formed.matReads {core key ps} (h : s.Formed) : (Machine.matReads core key ps s).Formed := by
  induction ps generalizing s with
  | nil => exact h
  | cons p ps ih =>
    unfold Machine.matReads
    split
    · exact h
    split
    · exact h
    split
    case h_1 => exact ih h
    case h_2 e =>
      obtain ⟨r, -, e⟩ := Option.map_eq_some_iff.mp e
      exact ih (h.pieceRead.of_got e).updMat
    case h_3 => exact .ite h.matFault (ih h)
    case h_4 => exact .ite h.matPoison (ih h)

theorem State.Formed.putTile {core t cells} (h : s.Formed) : (s.putTile core t cells).Formed := h.heal.updCore

theorem State.Formed.matStep {core m} (h : s.Formed) : (s.matStep core m).Formed := by
  dsimp only [State.matStep]
  refine .ite h.matPoison ?_
  split
  · exact .matFail (.countVf (.updCtx (.frame h rfl)))
  · exact .ite (.matRetire (.settleTeam (.ite h.updCore h.updCore.noteTiles))) <|
      .updMat (.settleTeam (.ite h.updCore h.updCore.noteTiles))

theorem State.Formed.matZero {core m} (h : s.Formed) : (s.matZero core m).Formed :=
  (h.foldl fun _ _ h => h.putTile).matRetire

theorem State.Formed.matLoad {core m} (h : s.Formed) : (s.matLoad core m).Formed := h.putTile.matRetire

theorem State.Formed.matTake {core m} (h : s.Formed) : (s.matTake core m).Formed :=
  .ite h.matPoison (.ite h.matRetire h.updMat)

theorem State.Formed.matTile {core m} (h : s.Formed) : (s.matTile core m).Formed := by
  unfold State.matTile
  split
  · exact h.matZero
  · exact h.matLoad
  · exact h.matTake
  · exact h.matStep

theorem State.Formed.matStores {core key cs} (h : s.Formed) : (Machine.matStores core key cs s).Formed := by
  induction cs generalizing s with
  | nil => exact h
  | cons c cs ih =>
    dsimp only [Machine.matStores]
    split
    · exact h
    split
    · exact ih h
    split
    · exact ih h.padWrite.noteEngineLine.updMat
    split
    · exact h.matFault
    · exact ih (h.engineStore ‹_›).updMat

theorem State.Formed.matStored {core key} (h : s.Formed) : (s.matStored core key).Formed := by
  unfold State.matStored
  split
  · exact h
  · exact .ite h.matRetire h

theorem State.Formed.execMatrixStepRetire {c m} (h : s.Formed) :
    (Machine.execMatrixStepRetire c m s).Formed := by
  unfold Machine.execMatrixStepRetire
  split
  · exact h
  refine .ite h.matRetire (.ite h ?_)
  extract_lets s₁ reads ready
  have h₁ : s₁.Formed := .ite h h.engineOpens
  exact .ite h₁.matStores.matStored (.ite h₁.matTile h₁.matReads)

theorem State.Formed.answerMats {tag refuse} (h : s.Formed) : (s.answerMats tag refuse).Formed :=
  .foldl (.frame h rfl) fun _ _ h => .ite h.wakeMats h

/-! ## Frames, save areas and commits -/

theorem State.Formed.writeImage {part gpa n img} (h : s.Formed) : (s.writeImage part gpa img n).Formed := by
  induction n generalizing s gpa img with
  | zero => exact h
  | succ n ih =>
    dsimp only [State.writeImage]
    refine ih ?_
    split
    · exact h
    · exact h.memPlace

theorem State.Formed.clearHeld {t} (h : s.Formed) : (s.clearHeld t).Formed := h

theorem State.Formed.commit {t} (h : s.Formed) : (s.commit t).Formed := by
  dsimp only [State.commit]
  split
  · exact h.fresh.writeImage.updCtx.clearHeld.updTeam.performHeld
  · exact h

theorem State.Formed.holdTeamMats {t} (h : s.Formed) : (s.holdTeamMats t).Formed := h.updCore
theorem State.Formed.writeFrame {c v mats} (h : s.Formed) : (s.writeFrame c v mats).Formed := h.writeImage

theorem State.Formed.markFrames {c tag} (h : s.Formed) : (s.markFrames c tag).Formed :=
  h.foldl fun _ _ h => h.writeFrame

theorem State.Formed.execFaultFrameSave {t} (h : s.Formed) : (Machine.execFaultFrameSave t s).Formed := by
  unfold Machine.execFaultFrameSave
  split
  · refine .ite h ?_
    split
    next s₁ reqs e =>
    have e₁ : _ = s₁ := congrArg Prod.fst e
    have h₁ : s₁.Formed := e₁ ▸ h.holdTeamMats.dropOvld.requestAll
    extract_lets +onlyGivenNames waits v s₂
    have h₂ : s₂.fresh.1.Formed := h₁.writeFrame.fresh
    split
    next s₂ key e =>
    rw [e] at h₂
    extract_lets bound p s₃ s₄ s₅ s₆
    have h₄ : s₄.Formed := h₂
    have h₅ : s₅.Formed := h₄.renameTeam
    have h₆ : s₆.Formed := .ite h₅.startSlot h₅.updTeam
    exact h₆.suspReady
  · exact h

theorem State.Formed.writeSave {c v} (h : s.Formed) : (s.writeSave c v).Formed := h.writeImage

/-! ## Fences and held accesses -/

theorem State.Formed.windowDrop {id scope} (h : s.Formed) : (s.windowDrop id scope).Formed := .ite h.acquire h

theorem State.Formed.fence {id scope x y} (h : s.Formed) : (s.fence id scope x y).Formed := by
  unfold State.fence
  split
  next s₁ sc e =>
  have h₁ : s₁.Formed := by
    have e₁ : _ = s₁ := congrArg Prod.fst e
    rw [← e₁]
    split
    · exact h.clamp
    · exact h
  exact .ite h₁.commitFirst <|
    .ok (.ite h₁.fresh.windowDrop (.ite h₁.fresh.windowDrop.exposeFence h₁.fresh.windowDrop.updThread))

theorem State.Formed.execFence {f} (h : s.Formed) : (Machine.execFence f s).Formed := by
  unfold Machine.execFence
  exact h.runMem fun _ _ _ h => h.fence

theorem State.Formed.execXfence {f} (h : s.Formed) : (Machine.execXfence f s).Formed := by
  unfold Machine.execXfence
  exact h.runMem fun _ _ _ h => h.fence

theorem State.Formed.waitcEach {lit id t} (h : s.Formed) : (Machine.waitcEach lit id t s).Formed :=
  .ite h (.ite h.commitFirst h.updThread)

theorem State.Formed.execWaitc {f} (h : s.Formed) : (Machine.execWaitc f s).Formed := by
  unfold Machine.execWaitc
  exact h.runMem fun _ _ _ h => h.waitcEach

theorem State.Formed.execHeldAccessRelease {t} (h : s.Formed) : (Machine.execHeldAccessRelease t s).Formed := by
  dsimp only [Machine.execHeldAccessRelease]
  split
  · exact h
  · exact .ite h (h.foldl fun _ _ h => h.windowDrop.exposeFence).updThread

/-! ## Gates -/

theorem State.Formed.gateAnswer {key a} (h : s.Formed) : (s.gateAnswer key a).Formed := h

theorem State.Formed.releaseWaiters {n p code} (h : s.Formed) : (s.releaseWaiters n p code).Formed := by
  dsimp only [State.releaseWaiters]
  split
  · exact h
  · exact h.updGate.foldl fun _ _ h => h.gateAnswer

theorem State.Formed.setCounter {n v} (h : s.Formed) : (s.setCounter n v).Formed := by
  dsimp only [State.setCounter]
  split
  · exact h
  · exact .ite h h.updGate.releaseWaiters

theorem State.Formed.gateEffect {g r} (h : s.Formed) : (s.gateEffect g r).Formed := by
  dsimp only [State.gateEffect]
  split
  · exact h.setCounter.gateAnswer
  · exact h.setCounter.gateAnswer
  · exact h.gateAnswer
  · exact .ite h.gateAnswer h

theorem State.Formed.gatePerform {r} (h : s.Formed) : (s.gatePerform r).Formed := by
  dsimp only [State.gatePerform]
  split
  · exact h.updGate.gateAnswer
  · exact h.updGate
  refine .ite h.updGate.gateAnswer <| .ite h.updGate.gateAnswer <| .ite h.updGate.updGate.releaseWaiters.gateAnswer ?_
  split
  · exact h.updGate
  split
  · exact h.updGate
  · exact .ite h.updGate.updGate.gateEffect h.updGate.updGate.gateAnswer

theorem State.Formed.execGateHomeRequest {r} (h : s.Formed) : (Machine.execGateHomeRequest r s).Formed := by
  unfold Machine.execGateHomeRequest
  split
  · exact h
  · exact .next (.ite h.gatePerform h)

theorem State.Formed.recordReply {t r f} (h : s.Formed) : (s.recordReply t r f).Formed := by
  dsimp only [State.recordReply]
  split
  · exact h.updCtx
  · exact h

theorem State.Formed.gateDeliver {r here a} (h : s.Formed) : (s.gateDeliver r here a).Formed := by
  unfold State.gateDeliver
  extract_lets +onlyGivenNames rest left s₁ teams
  have hfold : ∀ f, (teams.foldl (fun s t => s.recordReply t r.key f) s₁).Formed := fun f =>
    State.Formed.foldl (s := s₁) h fun _ _ h => h.recordReply
  split
  · exact (hfold _).updThreads.raises
  · extract_lets done s₂
    have h₂ : s₂.Formed := (hfold _).updThreads
    exact .commitsAfter (.ite (h₂.foldl fun _ _ h => h.acquire) h₂)

theorem State.Formed.execGateReply {r} (h : s.Formed) : (Machine.execGateReply r s).Formed := by
  unfold Machine.execGateReply
  split
  · exact h
  split
  · exact h
  · exact .ite h.gateDeliver h

theorem State.Formed.gateSend {g minor num gen x d} (h : s.Formed) : (s.gateSend g minor num gen x d).Formed :=
  .updThreads (.frame h rfl)

theorem State.Formed.runGate {minor f} (h : s.Formed) : (Machine.runGate minor f s).Formed := by
  unfold Machine.runGate
  refine h.runUniform fun g t h => ?_
  exact .ite h.groupWaits <| .ite h <| .ite h.commitsFirst <| .ite h.waitOrder <| .ite h.groupWaits <|
    .done <| .foldl (.gateSend (.ite h.expose h)) fun _ _ h => h.commit

/-! ## Overlays -/

theorem State.Formed.endWaits {f code} (h : s.Formed) : (s.endWaits f code).Formed := h.mapThreads
theorem State.Formed.endOvld {f v} (h : s.Formed) : (s.endOvld f v).Formed := h.mapThreads
theorem State.Formed.dropFill {f} (h : s.Formed) : (s.dropFill f).Formed := h

theorem State.Formed.fillEnds {i k} {act : State → State} (h : s.Formed)
    (hact : ∀ t, t.Formed → (act t).Formed) : (s.fillEnds i k act).Formed := by
  unfold State.fillEnds
  split
  · exact hact _ h
  · split
    · exact h.updThread
    · exact h

theorem State.Formed.failFill {f code} (h : s.Formed) : (s.failFill f code).Formed :=
  h.dropFill.endWaits.endOvld.foldl fun _ _ h => h.fillEnds fun _ h => h.fillFailed

theorem State.Formed.loseFill {f code} (h : s.Formed) : (s.loseFill f code).Formed := by
  dsimp only [State.loseFill]
  refine .failFill ?_
  split
  · exact h.updCore
  · exact h

theorem State.Formed.ovldTake {core c o} (h : s.Formed) :
    (s.ovldTake core c o).1.Formed := h.updCore.stampOverlay

theorem State.Formed.joinFill {f o} (h : s.Formed) : (s.joinFill f o).Formed := by
  dsimp only [State.joinFill]
  split
  · exact h.ovldTake.dropFill.endOvld
  · exact h.dropFill.foldl fun _ _ h => h.fillEnds fun _ h => h.updThread.reachImage fun _ _ h => h.land

theorem State.Formed.startFill {f h₀} (h : s.Formed) : (s.startFill f h₀).Formed := by
  dsimp only [State.startFill]
  split
  · exact h.failFill
  · exact .ite (.endOvld (.ovldTake (.frame h rfl))) h

theorem State.Formed.missFill {f m} (h : s.Formed) : (s.missFill f m).Formed := by
  dsimp only [State.missFill]
  split
  · exact h.dropFill.updThreads.probeFault
  · exact .frame h.pageRequest rfl

theorem State.Formed.execOverlayHeaderRead {f} (h : s.Formed) : (Machine.execOverlayHeaderRead f s).Formed := by
  dsimp only [Machine.execOverlayHeaderRead]
  split
  · exact h
  refine .ite h ?_
  split
  · exact h.joinFill
  split
  · exact h.missFill
  split
  · exact h.countBad.failFill
  split
  · exact h.failFill
  · exact h.startFill

theorem State.Formed.endFill {f o bs} (h : s.Formed) : (s.endFill f o bs).Formed :=
  .ite h.loseFill (h.updCore.dropFill.endWaits.foldl fun _ _ h => h.fillEnds fun _ h => h.land)

theorem State.Formed.execOverlayFillComplete {f} (h : s.Formed) :
    (Machine.execOverlayFillComplete f s).Formed := by
  dsimp only [Machine.execOverlayFillComplete]
  split
  · exact h
  split
  · exact h
  refine .ite h ?_
  split
  · split
    · exact h
    · exact .next (.frame h.pageRequest rfl)
  · split
    · exact h.countBad.loseFill
    split
    · exact h
    · exact h.endFill

theorem State.Formed.answerFills {tag refuse} (h : s.Formed) : (s.answerFills tag refuse).Formed :=
  .ite (h.foldl fun _ _ h => h.loseFill) h

theorem State.Formed.commitHeld {ts} (h : s.Formed) : (s.commitHeld ts).Formed :=
  h.foldl fun _ _ h => .ite h h.commitFirst

theorem State.Formed.execOvld {f} (h : s.Formed) : (Machine.execOvld f s).Formed := by
  unfold Machine.execOvld
  refine h.runUniform fun g t h => ?_
  extract_lets i core x
  split
  · exact h
  split
  · exact h.ovldTake.result
  · exact .ite h.commitHeld h

theorem State.Formed.execOvwait {f} (h : s.Formed) : (Machine.execOvwait f s).Formed := by
  dsimp only [Machine.execOvwait]
  refine h.runUniform fun _ _ h => ?_
  split
  · exact h.result
  refine .ite h.result ?_
  split
  · exact h.result
  · exact h.updThreads

theorem State.Formed.runOvCount {minor f} (h : s.Formed) : (Machine.runOvCount minor f s).Formed := by
  dsimp only [Machine.runOvCount]
  refine h.runUniform fun _ _ h => ?_
  split
  · exact h.result
  · exact .ite h.result h.updCore.result

theorem State.Formed.execCallo {f} (h : s.Formed) : (Machine.execCallo f s).Formed := by
  unfold Machine.execCallo
  refine h.runUniform fun g t h => ?_
  extract_lets +onlyGivenNames e
  split
  · exact h
  · exact .ite h.commitHeld (.done (h.foldl fun _ _ h => h.ifRuns fun _ h => h.reachImage fun _ _ h => h.land))

/-! ## System registers and traps -/

theorem State.Formed.sysClear {g n} (h : s.Formed) : (s.sysClear g n).Formed := by
  unfold State.sysClear
  split
  · exact h.updCtx
  · exact h.foldl fun _ _ h => h.updTeam
  · exact h

theorem State.Formed.execSrd {f} (h : s.Formed) : (Machine.execSrd f s).Formed := by
  unfold Machine.execSrd
  exact h.runUniform fun _ _ h => h.mapThreads.sysClear

theorem State.Formed.sysShared {g n x} (h : s.Formed) : (s.sysShared g n x).Formed := by
  unfold State.sysShared
  split
  · exact h.foldl fun _ _ h => h.updTeam
  · exact h.updCtx
  · exact h.updCtx
  · exact h

theorem State.Formed.execSwr {f} (h : s.Formed) : (Machine.execSwr f s).Formed := by
  unfold Machine.execSwr
  exact h.runUniform fun _ _ h => h.sysShared.updThreads

theorem State.Formed.execTrap {f} (h : s.Formed) : (Machine.execTrap f s).Formed := by
  unfold Machine.execTrap
  exact h.runUniform fun _ _ h => h.raises

theorem State.Formed.runClock {f clock} (h : s.Formed) : (Machine.runClock f clock s).Formed := by
  unfold Machine.runClock
  exact h.runUniform fun _ _ h => h.result

theorem State.Formed.execErrd {f} (h : s.Formed) : (Machine.execErrd f s).Formed := by
  unfold Machine.execErrd
  exact h.runUniform fun _ _ h => h.result

/-! ## Recovery -/

theorem State.Formed.stopCopies {t} (h : s.Formed) : (s.stopCopies t).Formed := h.foldl fun _ _ h => h.copyEnd
theorem State.Formed.dropMats {t} (h : s.Formed) : (s.dropMats t).Formed := h.foldl fun _ _ h => h.matRetire
theorem State.Formed.gatesTo {t n u} (h : s.Formed) : (s.gatesTo t n u).Formed := h

theorem State.Formed.requeueCont {t c k} (h : s.Formed) : (s.requeueCont t c k).Formed := by
  dsimp only [State.requeueCont]
  split
  · exact h.queueCont.updQSet
  · exact h

theorem State.Formed.requeue {t c k} (h : s.Formed) : (s.requeue t c k).Formed := by
  dsimp only [State.requeue]
  refine .ite h.requeueCont ?_
  split
  · exact h
  · exact h.updQSet

theorem State.Formed.requeueTask {t c} (h : s.Formed) : (s.requeueTask t c).Formed := by
  unfold State.requeueTask
  split
  · exact h
  · exact h.requeue

theorem State.Formed.rollFresh {t} (h : s.Formed) : (s.rollFresh t).Formed := h.freshStart.updTeam

theorem State.Formed.rollDrop {t} (h : s.Formed) : (s.rollDrop t).Formed :=
  .dropHeld (.dropMats (.stopCopies (.trimFlights (.frame h rfl))))

theorem State.Formed.rollSusps {t} (h : s.Formed) : (s.rollSusps t).Formed := by
  dsimp only [State.rollSusps]
  split
  · exact h
  refine h.foldl fun s x h => ?_
  split
  · split
    · exact h.stopCopies.dropMats.orphanGates.updCtx.countVf.trapEvent.updCtx
    split
    · exact h.stopCopies.dropMats.orphanGates.updCtx.countVf.trapEvent.requeue
    · exact h.stopCopies.dropMats.orphanGates.updCtx.countVf.trapEvent
  · exact h

theorem State.Formed.dropGateReqs {gone} (h : s.Formed) : (s.dropGateReqs gone).Formed := h
theorem State.Formed.dropResident {mine} (h : s.Formed) : (s.dropResident mine).Formed := h

theorem State.Formed.dropTraffic {mine} (h : s.Formed) : (s.dropTraffic mine).Formed := by
  dsimp only [State.dropTraffic]
  refine h.foldl fun s x h => ?_
  split
  · exact h.updCore
  · exact h

theorem State.Formed.resetPart {p} (h : s.Formed) : (s.resetPart p).Formed := by
  unfold State.resetPart
  extract_lets mine vfs s₁ s₂ s₃ ends stop fn s₄ s₅ s₆
  have h₃ : s₃.Formed := h.dropAllLines.heal.dropResident.dropTraffic.dropGateReqs
  have h₅ : s₅.Formed := (State.Formed.frame (t := s₄) h₃ rfl).rebuildQueues.updPart
  have h₆ : s₆.Formed := h₅.foldl fun _ _ h => h.complete
  exact h₆.foldl fun _ _ h => h.countVf.postEvent

theorem State.Formed.execRollback {t} (h : s.Formed) : (Machine.execRollback t s).Formed := by
  unfold Machine.execRollback
  split
  · split
    · refine .ite h.unfault (.ite h.unkeep ?_)
      extract_lets s₁ snap s₂
      have h₂ : s₂.Formed := h.rollDrop.rollSusps.countVf.trapEvent
      clear_value snap
      split
      · exact h₂.requeueTask.orphanGates.rollFresh.gangHandled
      · exact .ite h₂.resetPart <|
          .ite h₂.putSnap.gatesTo.resumeSnap.gangHandled h₂.putSnap.updCtx.gatesTo.rollFresh
    · exact h
  · exact h

theorem State.Formed.execWatchdogFire {p} (h : s.Formed) : (Machine.execWatchdogFire p s).Formed := by
  unfold Machine.execWatchdogFire
  split
  · exact h
  · exact .ite h.resetPart h

theorem State.Formed.execWindowEnd {c} (h : s.Formed) :
    (Machine.execWindowEnd c s).Formed := .next (.ite h.updCore h)

/-! ## Slices and contexts that leave and come back -/

theorem State.Formed.sliceTeam {full t} (h : s.Formed) : (s.sliceTeam full t).Formed := h.updTeam

theorem State.Formed.settleSlices (h : s.Formed) : s.settleSlices.Formed := by
  dsimp only [State.settleSlices]
  refine h.foldl fun s x h => ?_
  split
  · exact h.foldl fun _ _ h => .ite h.sliceTeam h
  · exact h.foldl fun _ _ h => h.sliceTeam
  · exact h

theorem State.Formed.execPreemptForcedStop {p} (h : s.Formed) : (Machine.execPreemptForcedStop p s).Formed := by
  unfold Machine.execPreemptForcedStop
  split
  · exact h
  split
  · exact .ite (h.foldl fun _ _ h => h.sliceTeam).updPart h
  · exact h

theorem State.Formed.haltCopy {core x} (h : s.Formed) : (s.haltCopy core x).Formed := by
  dsimp only [State.haltCopy]
  split
  · exact h.copyVisits.copyVisits.copyVisits
  · exact .ite h.copyVisits.copyVisits.copyVisits.copySettle.copyEnd
      h.copyVisits.copyVisits.copyVisits.copySettle.updCopy

theorem State.Formed.haltCopies {c core} (h : s.Formed) : (s.haltCopies c core).Formed :=
  h.foldl fun _ _ h => h.haltCopy

theorem State.Formed.haltAll {p c} (h : s.Formed) : (s.haltAll p c).Formed := h.foldl fun _ _ h => h.haltCopies
theorem State.Formed.leaveCores {p c} (h : s.Formed) : (s.leaveCores p c).Formed := .frame h.dropAllLines rfl

theorem State.Formed.saveCtx {p c} (h : s.Formed) : (s.saveCtx p c).Formed := by
  unfold State.saveCtx
  extract_lets v s₁ anon s₂
  have h₂ : (s₁.leaveCores p c).Formed := h.dropAllLines.writeSave.leaveCores
  exact h₂

theorem State.Formed.endBack {c} (h : s.Formed) : (s.endBack c).Formed := h.foldl fun _ _ h => h.endRefused

theorem State.Formed.resumeCtx {c} (h : s.Formed) : (s.resumeCtx c).Formed := by
  unfold State.resumeCtx
  split
  · exact h
  extract_lets v cores s₁ healed s₂ s₃ s₄
  have h₂ : s₂.Formed := h
  have h₃ : s₃.Formed := h₂.foldl fun _ _ h => h.updCore
  have h₄ : s₄.Formed := h₃.foldl fun _ _ h => h.restoreTeam
  exact h₄.endBack.foldl fun _ _ h => h.suspReady

theorem State.Formed.withdraw (h : s.Formed) : s.withdraw.Formed := h

theorem State.Formed.endCtx {p c} (h : s.Formed) : (s.endCtx p c).Formed := by
  unfold State.endCtx
  extract_lets sp tags s₁ s₂ s₃
  have h₁ : s₁.Formed := .ite h.leaveCores h
  have h₂ : s₂.Formed := h₁.dropTraffic.dropGateReqs
  have h₃ : s₃.Formed := h₂
  exact h₃.withdraw.foldl fun _ _ h => h.complete

theorem State.Formed.startSlice {p c quanta} (h : s.Formed) : (s.startSlice p c quanta).Formed :=
  .ite h.updPart.resetPart h.updPart.resumeCtx

theorem State.Formed.pauseNow {p} (h : s.Formed) : (s.pauseNow p).Formed := by
  dsimp only [State.pauseNow]
  split
  · exact h
  split
  · exact h.updPart.complete
  · exact h.updPart

theorem State.Formed.afterSlice {p used} (h : s.Formed) : (s.afterSlice p used).Formed := by
  unfold State.afterSlice
  split
  · exact h
  refine .ite h.updPart.pauseNow <| .ite h ?_
  split
  · exact h.updPart
  · exact h.startSlice

theorem State.Formed.execSliceBoundary {p} (h : s.Formed) : (Machine.execSliceBoundary p s).Formed := by
  dsimp only [Machine.execSliceBoundary]
  split
  · exact h
  split
  · exact .next (.ite h h.afterSlice)
  · refine .ite h ?_
    split
    · exact .ite h.updPart h.updPart.settleSlices
    · exact h.updPart.settleSlices
  · exact h

theorem State.Formed.execContextSave {p} (h : s.Formed) : (Machine.execContextSave p s).Formed := by
  dsimp only [Machine.execContextSave]
  split
  · exact h
  split
  · exact h
  · exact h
  · exact .ite h (.ite h.haltAll.endCtx.updPart.afterSlice h.haltAll.saveCtx.updPart.afterSlice)

theorem State.Formed.answerSaved {tag refuse} (h : s.Formed) : (s.answerSaved tag refuse).Formed := h

/-! ## Registers of BAR 0 and the frame of a command -/

theorem State.Formed.execCrdoor {fn v} (h : s.Formed) : (Machine.execCrdoor fn v s).Formed :=
  .ite h (.ite h h.fresh.updFn)

theorem State.Formed.execCrsize {fn v} (h : s.Formed) : (Machine.execCrsize fn v s).Formed :=
  .ite h (.ite h.updFn h.updFn)

theorem State.Formed.execErsize {fn v} (h : s.Formed) : (Machine.execErsize fn v s).Formed :=
  .ite h h.updFn.flushEvents

theorem State.Formed.execErhead {fn v} (h : s.Formed) : (Machine.execErhead fn v s).Formed :=
  .ite h h.updFn.flushEvents

theorem State.Formed.execPrhead {fn v} (h : s.Formed) : (Machine.execPrhead fn v s).Formed :=
  .ite h h.updFn.flushPages

theorem State.Formed.execEventCoalesceTimeout {fn} (h : s.Formed) :
    (Machine.execEventCoalesceTimeout fn s).Formed := by
  dsimp only [Machine.execEventCoalesceTimeout]
  split
  · exact h
  · exact .ite h.updFn h

theorem State.Formed.runCmd {c who sub used} {act : State → CmdRes}
    (h : s.Formed) (hact : ∀ t, t.Formed → (act t).Formed) : (Machine.runCmd c who sub used act s).Formed := by
  unfold Machine.runCmd
  split
  · exact h.complete
  split
  · exact h.complete
  have hr := hact s h
  split
  case h_1 e => exact (hr.of_ok e).complete
  case h_2 => exact h.complete
  case h_3 e => exact hr.of_later e
  case h_4 e => exact (hr.of_status e).complete

/-! ## Commands on partitions, VFs, windows and gates -/

theorem State.Formed.partLeaves {n} {before : State} (h : s.Formed) : (s.partLeaves n before).Formed := by
  unfold State.partLeaves
  extract_lets gone units s₁ healed s₂
  have h₁ : s₁.Formed := h.dropAllLines
  have h₂ : s₂.Formed := h₁
  exact h₂.l2DropAll

theorem State.Formed.execPartSet {c} (h : s.Formed) : (Machine.execPartSet c s).Formed := by
  unfold Machine.execPartSet
  refine h.runCmd fun t h => ?_
  dsimp only
  split
  · trivial
  · exact .ite trivial <| .ite trivial <| .ite trivial <| .ite trivial <| .ite trivial <| .ite trivial <|
      .ok <| .partLeaves <| .frame h rfl

theorem CmdRes.Formed.onPart {c : Cmd} {act : Nat → Part → CmdRes} (hact : ∀ n p, (act n p).Formed) :
    (Machine.onPart c s act).Formed := by
  unfold Machine.onPart
  split
  · trivial
  · split
    · trivial
    · exact hact _ _

theorem State.Formed.execPartPause {c} (h : s.Formed) : (Machine.execPartPause c s).Formed := by
  unfold Machine.execPartPause
  exact h.runCmd fun _ h => .onPart fun _ _ => .ite h (.later (.ite h.updPart.pauseNow h.updPart))

theorem State.Formed.execPartResume {c} (h : s.Formed) : (Machine.execPartResume c s).Formed := by
  unfold Machine.execPartResume
  exact h.runCmd fun _ h => .onPart fun _ _ => .ite trivial (.ite trivial h.updPart)

theorem State.Formed.execPartReset {c} (h : s.Formed) : (Machine.execPartReset c s).Formed := by
  unfold Machine.execPartReset
  exact h.runCmd fun _ h => .onPart fun _ _ => h.resetPart

theorem State.Formed.fatalErrors (h : s.Formed) : s.fatalErrors.Formed := by
  dsimp only [State.fatalErrors]
  refine .ite h ?_
  refine h.foldl fun s x h => ?_
  refine .ite h ?_
  split
  · exact h.countPkg.resetPart
  · exact .ite h.resetPart h

theorem State.Formed.moveLines {l} (h : s.Formed) : (s.moveLines l).Formed := by
  unfold State.moveLines
  exact h.setMem (foldl_wf (fun _ _ h => memPut_wf _ _ _ h) h.1)

theorem State.Formed.execRehome {c} (h : s.Formed) : (Machine.execRehome c s).Formed := by
  dsimp only [Machine.execRehome]
  refine h.runCmd fun _ h => ?_
  refine .onPart fun _ _ => ?_
  refine .ite trivial ?_
  split
  · exact h
  split
  · exact trivial
  · exact .ok (.frame h.moveLines rfl)

theorem State.Formed.execVfBind {c} (h : s.Formed) : (Machine.execVfBind c s).Formed := by
  dsimp only [Machine.execVfBind]
  refine h.runCmd fun _ h => ?_
  split
  · exact trivial
  · exact .ite trivial h

theorem State.Formed.execVfUnbind {c} (h : s.Formed) : (Machine.execVfUnbind c s).Formed := by
  unfold Machine.execVfUnbind
  exact h.runCmd fun _ h => .ite trivial (.ite trivial h)

theorem State.Formed.execGrant {c} (h : s.Formed) : (Machine.execGrant c s).Formed := by
  dsimp only [Machine.execGrant]
  refine h.runCmd fun _ h => ?_
  split
  · exact .ite trivial (.ite trivial h)
  · exact trivial

theorem State.Formed.s2Forget {part start len} (h : s.Formed) : (s.s2Forget part start len).Formed :=
  .frame h.dropAllLines rfl

theorem State.Formed.invalDone {c parts way} (h : s.Formed) : (Machine.invalDone c parts s way).Formed :=
  .ite h h.updFn

theorem State.Formed.execRevoke {c} (h : s.Formed) : (Machine.execRevoke c s).Formed := by
  dsimp only [Machine.execRevoke]
  refine h.runCmd fun _ h => ?_
  split
  · exact trivial
  · exact State.Formed.invalDone (.frame h.dropAllLines rfl)

theorem State.Formed.execS2Root {c} (h : s.Formed) : (Machine.execS2Root c s).Formed := by
  dsimp only [Machine.execS2Root]
  refine h.runCmd fun _ h => ?_
  refine .onPart fun _ _ => ?_
  split
  · exact trivial
  · exact .ite trivial (.ite trivial h.updPart)

theorem State.Formed.execS2Inval {c} (h : s.Formed) : (Machine.execS2Inval c s).Formed := by
  unfold Machine.execS2Inval
  exact h.runCmd fun _ h => .onPart fun _ _ => .ite trivial h.s2Forget.invalDone

theorem State.Formed.gateCmd {c sub image} {act : Nat → Gate → Nat → State → State} (h : s.Formed)
    (hact : ∀ n g v t, t.Formed → (act n g v t).Formed) : (Machine.gateCmd c sub image act s).Formed := by
  refine h.runCmd fun t h => ?_
  dsimp only
  split
  · trivial
  · exact .ite trivial (hact _ _ _ _ h)

theorem State.Formed.execGateCreate {c} (h : s.Formed) : (Machine.execGateCreate c s).Formed := by
  unfold Machine.execGateCreate
  exact h.runCmd fun _ h => .ite trivial (.ite trivial h)

theorem State.Formed.execGateConfigure {c} (h : s.Formed) : (Machine.execGateConfigure c s).Formed := by
  unfold Machine.execGateConfigure
  exact h.gateCmd fun _ _ _ _ h => h.updGate.releaseWaiters

theorem State.Formed.execGateRecycle {c} (h : s.Formed) : (Machine.execGateRecycle c s).Formed := by
  unfold Machine.execGateRecycle
  exact h.gateCmd fun _ _ _ _ h => h.releaseWaiters.updGate

theorem State.Formed.execGateDelete {c} (h : s.Formed) : (Machine.execGateDelete c s).Formed := by
  unfold Machine.execGateDelete
  exact h.gateCmd fun _ _ _ _ h => h.releaseWaiters.updGate

theorem State.Formed.execMigrateQuiesce {c} (h : s.Formed) : (Machine.execMigrateQuiesce c s).Formed := by
  unfold Machine.execMigrateQuiesce
  exact h.runCmd fun _ h => .onPart fun _ _ => .ite h.updPart (.later (.ite h.updPart.pauseNow h.updPart))

theorem State.Formed.migrate {m} (h : s.Formed) : (s.migrate m).Formed := h

theorem State.Formed.execMigrateStart {c} (h : s.Formed) : (Machine.execMigrateStart c s).Formed := by
  unfold Machine.execMigrateStart
  exact h.runCmd fun _ h => .onPart fun _ _ => .ite trivial (.ite trivial (.ite trivial h.migrate.updPart))

/-! ## Commands on contexts, queue sets, pages and rings -/

theorem State.Formed.execErrread {c} (h : s.Formed) : (Machine.execErrread c s).Formed := by
  unfold Machine.execErrread
  exact h.runCmd fun _ h => h.hostPut

theorem State.Formed.execCtxCreate {c} (h : s.Formed) : (Machine.execCtxCreate c s).Formed := by
  unfold Machine.execCtxCreate
  exact h.runCmd fun _ h => .ite trivial (.ite trivial (.ite trivial (.ite trivial h)))

theorem State.Formed.unpend {f} (h : s.Formed) : (s.unpend f).Formed := h.updFn
theorem State.Formed.startCtx {x sup prio l} (h : s.Formed) : (s.startCtx x sup prio l).Formed := h.updCtx

theorem State.Formed.execCtxStart {c} (h : s.Formed) : (Machine.execCtxStart c s).Formed := by
  dsimp only [Machine.execCtxStart]
  refine h.unpend.runCmd fun _ h => ?_
  split
  · refine .ite trivial <| .ite trivial <| .ite trivial <| .ite trivial ?_
    split
    · exact trivial
    · exact h.pageRequest.updFn
    split
    · exact trivial
    · exact .ite h.startCtx trivial
  · exact trivial

theorem State.Formed.execCtxEnd {c} (h : s.Formed) : (Machine.execCtxEnd c s).Formed := by
  unfold Machine.execCtxEnd
  exact h.runCmd fun _ h => .ite trivial (.later (.ite h.updCtx h.updCtx.endCtx))

theorem State.Formed.execS1Inval {c} (h : s.Formed) : (Machine.execS1Inval c s).Formed := by
  unfold Machine.execS1Inval
  exact h.runCmd fun _ h => .ite trivial (.ite trivial (State.Formed.invalDone (.frame h.dropAllLines rfl)))

theorem State.Formed.execQsetCreate {c} (h : s.Formed) : (Machine.execQsetCreate c s).Formed := by
  dsimp only [Machine.execQsetCreate]
  refine h.runCmd fun _ h => ?_
  refine .ite trivial <| .ite trivial ?_
  split
  · exact trivial
  · exact h

theorem State.Formed.execQsetDelete {c} (h : s.Formed) : (Machine.execQsetDelete c s).Formed := by
  dsimp only [Machine.execQsetDelete]
  refine h.runCmd fun _ h => ?_
  split
  · exact trivial
  · exact .ite trivial (.ok (.updVf (.frame h rfl)))

theorem State.Formed.hostPush {q d r} (h : s.Formed) : (s.hostPush q d r).1.Formed := by
  dsimp only [State.hostPush]
  split
  · exact h.countDrop
  split
  · exact .ite h.queueRec h
  · exact .ite h.queueGrid h

theorem State.Formed.execQsubmit {c} (h : s.Formed) : (Machine.execQsubmit c s).Formed := by
  unfold Machine.execQsubmit
  exact h.runCmd fun _ h => .ite trivial (.ite trivial (.ite trivial h.hostPush))

theorem State.Formed.answerPending {tag refuse} (h : s.Formed) : (s.answerPending tag refuse).Formed := h

theorem State.Formed.pageAnswer {tag refuse} (h : s.Formed) : (s.pageAnswer tag refuse).Formed := by
  unfold State.pageAnswer
  extract_lets s₁ s₂ s₃ s₄ s₅
  have h₁ : s₁.Formed := h
  have h₂ : s₂.Formed := h₁.answerSaved.answerCopies
  have h₃ : s₃.Formed := h₂.answerMats.answerAccs
  have h₄ : s₄.Formed := h₃.answerJoins.answerLogs.answerLaunches
  have h₅ : s₅.Formed := h₄.answerFills.answerPending
  exact h₅.foldl fun _ _ h => .answerSusp (.ite h.markFrames h)

theorem State.Formed.execPageReply {c} (h : s.Formed) : (Machine.execPageReply c s).Formed := by
  unfold Machine.execPageReply
  refine h.runCmd fun t h => .ite trivial (.ite trivial ?_)
  split
  · exact h.countPkg
  · exact .ite trivial h.pageAnswer

theorem State.Formed.execRingSet {c} (h : s.Formed) : (Machine.execRingSet c s).Formed := by
  unfold Machine.execRingSet
  exact h.runCmd fun _ h => .ite trivial h.updFn.flushEvents

/-! ## Control flow -/

theorem State.Formed.runJump {i} (h : s.Formed) : (Machine.runJump i s).Formed := .ite h.overGroup h.illegal

theorem State.Formed.returnTo {id tok off} (h : s.Formed) : (s.returnTo id tok off).Formed := by
  dsimp only [State.returnTo]
  split
  · exact h
  split
  · exact h.deliver
  · exact .goTo (.ite h.updThread h)
  · exact .ite h.commitFirst h.updThread.goTo

theorem State.Formed.execRet {f} (h : s.Formed) : (Machine.execRet f s).Formed :=
  .ite h.illegal (h.overGroup.foldl fun _ _ h => h.ifRuns fun _ h => h.returnTo)

theorem State.Formed.retireTeam {t ids} (h : s.Formed) : (s.retireTeam t ids).Formed :=
  .ite (.ite h.updThreads.commitFirst h.updThreads.endTask) h.updThreads.checkRendezvous

theorem State.Formed.retire {ids} (h : s.Formed) : (s.retire ids).Formed := h.foldl fun _ _ h => h.retireTeam

theorem State.Formed.execExit {f} (h : s.Formed) : (Machine.execExit f s).Formed :=
  .ite h.illegal h.stepAll.updThreads.retire

theorem State.Formed.execThreadRetire {t} (h : s.Formed) : (Machine.execThreadRetire t s).Formed := by
  unfold Machine.execThreadRetire
  split
  · exact .next (.ite h.retire h)
  · exact h

theorem State.Formed.execConv {f} (h : s.Formed) : (Machine.execConv f s).Formed :=
  .ite h.illegal (.ite h.stepAll h.arrive)

/-! ## Firmware, self-test and outside events -/

theorem State.Formed.execFirmwareBoot {pkg} (h : s.Formed) : (Machine.execFirmwareBoot pkg s).Formed :=
  .ite h (.next (.ite h.updPkg.postEvent h.updPkg))

theorem State.Formed.execFwUpdate {c} (h : s.Formed) : (Machine.execFwUpdate c s).Formed := by
  unfold Machine.execFwUpdate
  exact h.runCmd fun _ h => .ite trivial h.updPkg

theorem State.Formed.execFwRecover {c} (h : s.Formed) : (Machine.execFwRecover c s).Formed := by
  unfold Machine.execFwRecover
  exact h.unpend.runCmd fun _ h => .ite h.updFn h.updPkg

theorem State.Formed.execAttest {c} (h : s.Formed) : (Machine.execAttest c s).Formed := by
  unfold Machine.execAttest
  exact h.runCmd fun _ h => .ite trivial (.ite trivial h.hostPut.updPkg)

theorem State.Formed.wipeChannel {pkg n} (h : s.Formed) : (s.wipeChannel pkg n).Formed := by
  unfold State.wipeChannel
  exact h.setMem (foldl_wf (fun _ _ h => memSet_wf _ _ _ h) h.1)

theorem State.Formed.destroyUnit {pkg path} (h : s.Formed) : (s.destroyUnit pkg path).Formed := by
  unfold State.destroyUnit
  split
  · exact h.wipeChannel
  · exact h
  · exact h.updCore
  · exact h

theorem State.Formed.testUnit {c depth path} (h : s.Formed) : (s.testUnit c depth path).Formed :=
  .ite (.postEvent (.updPkg (.ite h.destroyUnit h))) (.updPkg (.ite h.destroyUnit h))

theorem State.Formed.execSelftest {c} (h : s.Formed) : (Machine.execSelftest c s).Formed := by
  dsimp only [Machine.execSelftest]
  refine h.unpend.runCmd fun _ h => ?_
  split
  · exact h.foldl fun _ _ h => h.testUnit
  · exact .ite trivial (.ite trivial h.updFn)

theorem State.Formed.execLinkFlitReplay {pkg link recovered} (h : s.Formed) :
    (Machine.execLinkFlitReplay pkg link recovered s).Formed :=
  .next (.ite h.countPkg h.countPkg.postEvent)

theorem State.Formed.execEthernetFrameReceived {pkg good} (h : s.Formed) :
    (Machine.execEthernetFrameReceived pkg good s).Formed :=
  .next (.ite h.updPkg h.countPkg)

/-! ## Uniform instructions and repetition -/

theorem State.Formed.uniR {op f} (h : s.Formed) : (Machine.uniR op f s).Formed := by
  unfold Machine.uniR
  exact h.runUniform fun _ _ h => h.result

theorem State.Formed.uniShR {op f} (h : s.Formed) : (Machine.uniShR op f s).Formed := by
  unfold Machine.uniShR
  exact h.runUniform fun _ _ h => h.result

theorem State.Formed.uniI {op f} (h : s.Formed) : (Machine.uniI op f s).Formed := by
  unfold Machine.uniI
  exact h.runUniform fun _ _ h => h.result

theorem State.Formed.uniShI {op f} (h : s.Formed) : (Machine.uniShI op f s).Formed := by
  unfold Machine.uniShI
  exact h.runUniform fun _ _ h => h.result

theorem State.Formed.uniCmp {k f} (h : s.Formed) : (Machine.uniCmp k f s).Formed := by
  unfold Machine.uniCmp
  exact h.runUniform fun _ _ h => h.updThreads

theorem State.Formed.uniGroup {k f} (h : s.Formed) : (Machine.uniGroup k f s).Formed := by
  unfold Machine.uniGroup
  exact h.runUniform fun _ _ h => h.mapThreads

theorem State.Formed.execUlane {f} (h : s.Formed) : (Machine.execUlane f s).Formed := h.uniGroup
theorem State.Formed.execUcnt {f} (h : s.Formed) : (Machine.execUcnt f s).Formed := h.uniGroup
theorem State.Formed.execUlead {f} (h : s.Formed) : (Machine.execUlead f s).Formed := h.uniGroup

theorem State.Formed.repAll {i win n on} (h : s.Formed) : (s.repAll i win n on).Formed := by
  dsimp only [State.repAll]
  split
  · exact h.runMovWindow.raises
  · exact h.mapThreads.raises

theorem State.Formed.execRep {f} (h : s.Formed) : (Machine.execRep f s).Formed := by
  dsimp only [Machine.execRep]
  refine .ite h.illegal ?_
  split
  · exact h
  split
  · exact h.stepAll.allRaise
  split
  · exact h.stepAll.allRaise
  · exact h.stepAll.allRaise
  refine .ite h.stepAll.allRaise ?_
  split
  · exact h.stepAll.allRaise
  · exact .ite h.illegal h.stepAll.repAll

/-! ## Every instruction, event and command -/

theorem State.Formed.exec {i} (h : s.Formed) : Out.Formed (Machine.exec i s) := by
  unfold Machine.exec
  cases i with
  | rendezvousComplete => exact h.releaseSet
  | yieldReady => exact h.updThread
  | threadRetire => exact h.execThreadRetire
  | loadDataReturn => exact h.execLoadDataReturn
  | storePerformed => exact h.execStorePerformed
  | heldAccessRelease => exact h.execHeldAccessRelease
  | putsigSignal => exact h.execPutsigSignal
  | requestLeaveCore => exact h.execRequestLeaveCore
  | stageArrival => exact h.execStageArrival
  | stageDepart => exact h.execStageDepart
  | homePerform => exact h.execHomePerform
  | replySplit => exact h.execReplySplit
  | atomicValueReturn => exact h.execAtomicValueReturn
  | barrierRelease => exact h.execBarrierRelease
  | pageFault => exact h.execPageFault
  | faultFrameSave => exact h.execFaultFrameSave
  | deferredTrap => exact h.execDeferredTrap
  | freshStart => exact h.execFreshStart
  | rollback => exact h.execRollback
  | copyAccept => exact h.execCopyAccept
  | copyPageFault => exact h.execCopyPageFault
  | copyLineFull => exact h.execCopyLineFull
  | copyComplete => exact h.execCopyComplete
  | matrixStepRetire => exact h.execMatrixStepRetire
  | pendingLaunchTake => exact h.execPendingLaunchTake
  | stealMessage => exact h.execStealMessage
  | joinDecrement => exact h.execJoinDecrement
  | fenceComplete => exact h.execFenceComplete
  | gateHomeRequest => exact h.execGateHomeRequest
  | gateReply => exact h.execGateReply
  | overlayHeaderRead => exact h.execOverlayHeaderRead
  | overlayFillComplete => exact h.execOverlayFillComplete
  | sliceBoundary => exact h.execSliceBoundary
  | preemptForcedStop => exact h.execPreemptForcedStop
  | contextSave => exact h.execContextSave
  | windowEnd => exact h.execWindowEnd
  | bucketRefill => exact h.updGate
  | watchdogFire => exact h.execWatchdogFire
  | eventCoalesceTimeout => exact h.execEventCoalesceTimeout
  | crdoor => exact h.execCrdoor
  | crsize => exact h.execCrsize
  | ersize => exact h.execErsize
  | erhead => exact h.execErhead
  | prhead => exact h.execPrhead
  | bar0RegisterWrite => exact h.updFn
  | partSet => exact h.execPartSet
  | partPause => exact h.execPartPause
  | partResume => exact h.execPartResume
  | partReset => exact h.execPartReset
  | rehome => exact h.execRehome
  | vfBind => exact h.execVfBind
  | vfUnbind => exact h.execVfUnbind
  | grant => exact h.execGrant
  | revoke => exact h.execRevoke
  | s2Root => exact h.execS2Root
  | s2Inval => exact h.execS2Inval
  | gateCreate => exact h.execGateCreate
  | gateConfigure => exact h.execGateConfigure
  | gateRecycle => exact h.execGateRecycle
  | gateDelete => exact h.execGateDelete
  | migrateQuiesce => exact h.execMigrateQuiesce
  | migrateStart => exact h.execMigrateStart
  | errread => exact h.execErrread
  | ctxCreate => exact h.execCtxCreate
  | ctxStart => exact h.execCtxStart
  | ctxEnd => exact h.execCtxEnd
  | s1Inval => exact h.execS1Inval
  | qsetCreate => exact h.execQsetCreate
  | qsetDelete => exact h.execQsetDelete
  | qsubmit => exact h.execQsubmit
  | pageReply => exact h.execPageReply
  | ringSet => exact h.execRingSet
  | selftest => exact h.execSelftest
  | fwUpdate => exact h.execFwUpdate
  | fwRecover => exact h.execFwRecover
  | attest => exact h.execAttest
  | firmwareBoot => exact h.execFirmwareBoot
  | powerLimit | thermalShutdown => exact h.updPkg
  | linkFlitReplay => exact h.execLinkFlitReplay
  | ethernetFrameReceived => exact h.execEthernetFrameReceived
  | add | sub | and | or | xor | shl | shr | sar | addReg | subReg | andReg | orReg | xorReg | shlReg | shrReg
    | sarReg | addLit | subLit | andLit | orLit | xorLit | shlLit | shrLit | sarLit | mul | mulhs | mulhu
    | mad | madw | min | max | minu | maxu | sel | leax | div | divu | rem | remu | bfx | bfxu | bfi | bsel
    | rotl | andn | not | neg | abs | popc | clz | ctz | brev | movl | lea | sext | zext | cmpEq | cmpNe
    | cmpLt | cmpGe | cmpLtu | cmpGeu | cmpTst | cmpTstz | cmpiEq | cmpiNe | cmpiLt | cmpiGe | cmpiLtu
    | cmpiGeu | cmpiTst | cmpiTstz | pand | por | pxor | pandn | pmov | prd | pwr | pset | yield | nop | bkpt
    | fadd | fsub | fmul | fmin | fmax | ffma | fcmpEq | fcmpNe | fcmpLt | fcmpLe | fcmpUno | fcmpOrd | fclass
    | frint | fsat | rcp | rsq | sqrt | ex2 | lg2 | sin | cos | tanh | tagget | cvt | cvti | cvtf | pack
    | unpk | dot2 | dot4 | dot8 | dot4f | dot8f | scl | tagset | tagchk => exact h.runLane
  | mov => exact h.execMov
  | bra | call | brx | callx => exact h.runJump
  | rep => exact h.execRep
  | ret => exact h.execRet
  | exit => exact h.execExit
  | conv => exact h.execConv
  | peek | flip | allof | anyof | pmask | peers | leadp | tsum | tmax | tmin | tscan => exact h.runCross
  | ldb | ldbu | ldh | ldhu | ldw | ldt => exact h.runLoad
  | ldfe => exact h.execLdfe
  | stb => exact h.execStb
  | sth => exact h.execSth
  | stw => exact h.execStw
  | stfe => exact h.execStfe
  | ste => exact h.execSte
  | putsig => exact h.execPutsig
  | pref => exact h.execPref
  | cflush => exact h.execCflush
  | atadd | atand | ator | atxor | atmax | atmin | atmaxu | atminu | atswp | atld | atfadd | atcas => exact h.runAtomic
  | uadd | usub | uand | uor | uxor | umul => exact h.uniR
  | ushl | ushr => exact h.uniShR
  | uaddLit | usubLit | uandLit | uorLit | uxorLit | umulLit => exact h.uniI
  | ushlLit | ushrLit => exact h.uniShI
  | umov => exact h.execUmov
  | ulane => exact h.execUlane
  | ucnt => exact h.execUcnt
  | ulead => exact h.execUlead
  | ucmpEq | ucmpNe | ucmpLt | ucmpGe | ucmpLtu | ucmpGeu => exact h.uniCmp
  | uldw | uldt => exact h.runUload
  | ustw => exact h.execUstw
  | cpy | cpy2 | cpyg | cpys | cpyx | cpyf => exact h.runCopy
  | twait => exact h.execTwait
  | twany => exact h.execTwany
  | tfirst => exact h.execTfirst
  | tclr => exact h.execTclr
  | mma | mmam | mmas | accz | accld | accst | mwalk => exact h.runMatrix
  | mstat => exact h.execMstat
  | tspawn | grid | qpush => exact h.runPush
  | qpop | qsteal => exact h.runQpop
  | qcap => exact h.execQcap
  | qbind => exact h.execQbind
  | jadd => exact h.execJadd
  | jwait => exact h.execJwait
  | jrd => exact h.execJrd
  | rgive => exact h.execRgive
  | rclaim => exact h.execRclaim
  | snap => exact h.execSnap
  | qfence => exact h.execQfence
  | bar => exact h.execBar
  | bara => exact h.execBara
  | barw => exact h.execBarw
  | fence => exact h.execFence
  | xfence => exact h.execXfence
  | waitc => exact h.execWaitc
  | gopen | gclose | gsig | gwait | gadd | gpoll => exact h.runGate
  | ovld => exact h.execOvld
  | ovwait => exact h.execOvwait
  | ovpin | ovunpin | ovrel => exact h.runOvCount
  | callo => exact h.execCallo
  | trap => exact h.execTrap
  | srd => exact h.execSrd
  | swr => exact h.execSwr
  | clkw | clkr => exact h.runClock
  | errd => exact h.execErrd

theorem State.Formed.execParts {p} (h : s.Formed) : (Machine.execParts p s).Formed := by
  unfold Machine.execParts
  split
  · exact h.exec
  · exact h.illegal

/-! ## Issue, actions and what follows them -/

theorem State.Formed.resumeAt {id pc} (h : s.Formed) : (s.resumeAt id pc).Formed := by
  unfold State.resumeAt
  split
  · exact h
  split
  · exact h.deliver
  · exact h.goTo
  · exact h.goTo

theorem State.Formed.gather {g o pc} (h : s.Formed) : (s.gather g o pc).Formed :=
  .stampOverlay (.updThreads (.frame h rfl))

theorem State.Formed.issue {g} (h : s.Formed) : (s.issue g).Formed := by
  dsimp only [State.issue]
  split
  · exact h
  split
  · exact h.updThreads.foldl fun _ _ h => h.ifRuns fun _ h => h.resumeAt
  split
  · refine .next (.allRaise ?_)
    split
    · exact h.gather.countVf
    · exact h.gather
  · split
    · exact h.gather.allRaise
    · exact h.gather.illegal
    · exact h.gather.execParts

theorem State.Formed.takeUp {c} (h : s.Formed) : (s.takeUp c).Formed := by
  unfold State.takeUp
  split
  · exact h.unpend.complete
  · exact h.exec
  · exact h.exec
  · exact h.exec

theorem State.Formed.takeCommand {f} (h : s.Formed) : (s.takeCommand f).Formed := by
  dsimp only [State.takeCommand]
  split
  · exact h.updFn.exec
  · exact h.updFn.complete

theorem State.Formed.strike {e} (h : s.Formed) : (s.strike e).Formed := by
  unfold State.strike
  split
  · exact h
  · exact h
  · exact h
  · exact .ite h.countPart h
  · exact .ite h.countPkg h
  refine .resetPart ?_
  split
  · exact .ite h.countPkg h
  · exact h

theorem State.Formed.takeInput (h : s.Formed) : s.takeInput.Formed := by
  dsimp only [State.takeInput]
  split
  · exact h
  split
  · exact .next (.hostPut (.frame h rfl))
  · exact .next (.memPlace (.frame h rfl))
  · exact .next (.strike (.frame h rfl))
  · exact .ite (State.Formed.exec (.frame h rfl)) h

theorem State.Formed.act {a} (h : s.Formed) : (s.act a).Formed := by
  cases a with
  | issue g => exact h.issue
  | event i => exact h.exec
  | input => exact h.takeInput
  | command f => exact h.takeCommand
  | retry c => exact h.takeUp

theorem State.Formed.commitsDue (h : s.Formed) : s.commitsDue.Formed := h.foldl fun _ _ h => .ite h.commit h

theorem State.Formed.replaysDone (h : s.Formed) :
    s.replaysDone.Formed := h.foldl fun _ _ h => .ite h.endReplay h

theorem State.Formed.settle (h : s.Formed) : s.settle.Formed :=
  h.fatalErrors.commitsDue.replaysDone.settleBars.settleSlices

theorem State.Formed.passCycles {before a} (h : s.Formed) : (State.passCycles before a s).Formed :=
  .mapThreads (.frame h rfl)

theorem State.Formed.finish {before : State} {a} (h : s.Formed) : (before.finish a s).Formed := by
  unfold State.finish
  extract_lets s₁ s₂
  have h₁ : s₁.Formed := by
    unfold s₁
    split
    · exact h.updPart
    · exact h
  have h₂ : s₂.Formed := h₁.settle.passCycles
  exact h₂

theorem State.Formed.step (h : s.Formed) : (Machine.step s).Formed := by
  unfold Machine.step
  split
  · exact h.finish
  · split
    · exact (h.act.of_next ‹_›).finish
    · trivial
    · trivial

/-- Settles O6: every action, and what follows it, writes memory in canonical form only. -/
theorem memoryKeepsItsForm : Obligations.MemoryKeepsItsForm := by
  intro s t hm hh e
  exact (State.Formed.step ⟨hm, hh⟩).of_next e

end Sys2Proof.Machine

namespace Sys2Proof.Machine

/-! ## What the end of a step does to CLKW, the step's number and the gathered group

Only a step's end (`finish`) counts: it sets the three fields anew, and CLKW from the value at the step's beginning, whatever the action
has left in them. -/

/-- Every step that answers a state ends in `finish`, from the state at its beginning. -/
theorem step_eq_next_iff {s t : State} : step s = .next t ↔
    (s.choose = none ∧ s.finish none s = t) ∨
    ∃ a u, s.choose = some a ∧ s.act a = .next u ∧ s.finish (some a) u = t := by
  unfold step
  cases hc : s.choose with
  | none => simp
  | some a => cases ha : s.act a <;> simp [ha]

/-- CLKW after a step is at least the time at which the step began (R25): `nextClock` takes the greater of the two. -/
theorem State.le_nextClock (s : State) (n : Nat) : n ≤ s.nextClock n := Nat.le_max_left _ _

@[simp] theorem State.passTime_clkw (s : State) (n : Nat) : (s.passTime n).clkw = s.nextClock n := rfl
@[simp] theorem State.passTime_tick (s : State) (n : Nat) : (s.passTime n).tick = s.tick := rfl
@[simp] theorem State.passTime_gathered (s : State) (n : Nat) : (s.passTime n).gathered = s.gathered := rfl

section Finish
variable (before s : State) (a : Option Action)

theorem State.clkw_le_finish : before.clkw ≤ (before.finish a s).clkw := by
  simp only [State.finish, passTime_clkw, le_nextClock]

@[simp] theorem State.finish_tick : (before.finish a s).tick = before.tick + 1 := by
  simp only [State.finish, passTime_tick]

@[simp] theorem State.finish_gathered : (before.finish a s).gathered = State.reset.gathered := by
  simp only [State.finish, passTime_gathered]

end Finish

/-- Settles O7: with or without an action, a step ends in `finish`, which lets CLKW go on from its value at the step's beginning. -/
theorem clocksNeverFall : Obligations.ClocksNeverFall := by
  have finished : ∀ (s u : State) (a : Option Action),
      s.clkw ≤ (s.finish a u).clkw ∧ (s.finish a u).tick = s.tick + 1 ∧ (s.finish a u).gathered.ids = [] :=
    fun s u a => ⟨s.clkw_le_finish u a, s.finish_tick u a, congrArg Group.ids (s.finish_gathered u a)⟩
  intro s t h
  obtain ⟨-, rfl⟩ | ⟨a, u, -, -, rfl⟩ := step_eq_next_iff.mp h
  · exact finished s s none
  · exact finished s u (some a)

end Sys2Proof.Machine

namespace Sys2Proof

open Claims

/-! # The words of an instruction (R31, R32, R39 to R41)

A word is its fields side by side. So reading the fields of a word put together from them gives them back (`extractLsb'` of an append), and
putting together what was read from a word gives the word (adjacent `extractLsb'`). -/

/-! ## Single bits -/

theorem ofBool_eq_one (b : Bool) : (BitVec.ofBool b = 1#1) = (b = true) := by
  cases b <;> simp

theorem ofBool_decide_eq_one (x : BitVec 1) : BitVec.ofBool (x = 1#1) = x := by
  revert x; decide

/-! ## Fields of the words put together -/

section
variable (s : Bool) (maj : BitVec 6) (min : BitVec 3) (f : L1)

/-- The base word under the sum of its fields' widths, the form in which the laws of append apply. -/
theorem extractLsb'_baseWord (lo n : Nat) : (baseWord s maj min f).extractLsb' lo n =
    (BitVec.ofBool s ++ maj ++ f.g ++ BitVec.ofBool f.gn ++ f.w ++ f.d ++ f.a ++ min).extractLsb' lo n := rfl

@[simp] theorem setOf_baseWord : setOf (baseWord s maj min f) = s := by
  simp (disch := omega) only [setOf, extractLsb'_baseWord, BitVec.extractLsb'_append_eq_of_le]
  simp [ofBool_eq_one]

@[simp] theorem majOf_baseWord : majOf (baseWord s maj min f) = maj := by
  simp (disch := omega) only [majOf, extractLsb'_baseWord, BitVec.extractLsb'_append_eq_of_le,
    BitVec.extractLsb'_append_eq_of_add_le]
  simp

@[simp] theorem minOf_baseWord : minOf (baseWord s maj min f) = min := by
  simp (disch := omega) only [minOf, extractLsb'_baseWord, BitVec.extractLsb'_append_eq_of_add_le]
  simp

@[simp] theorem fieldsL1_baseWord : fieldsL1 (baseWord s maj min f) = f := by
  simp (disch := omega) only [fieldsL1, extractLsb'_baseWord, BitVec.extractLsb'_append_eq_of_le,
    BitVec.extractLsb'_append_eq_of_add_le]
  simp [ofBool_eq_one]

end

theorem extractLsb'_extWordR (f : L2R) (lo n : Nat) :
    (extWordR f).extractLsb' lo n = (f.b ++ f.c ++ f.mod ++ f.imm).extractLsb' lo n := rfl

theorem extractLsb'_extWordM (f : LM) (lo n : Nat) : (extWordM f).extractLsb' lo n =
    (f.strm ++ f.space ++ f.ix ++ f.sc ++ f.cp ++ f.scope ++ f.off).extractLsb' lo n := rfl

@[simp] theorem fieldsL2R_words (s : Bool) (maj : BitVec 6) (min : BitVec 3) (f : L2R) :
    fieldsL2R (baseWord s maj min f.toL1) (extWordR f) = f := by
  simp (disch := omega) only [fieldsL2R, fieldsL1_baseWord, extractLsb'_extWordR, BitVec.extractLsb'_append_eq_of_le,
    BitVec.extractLsb'_append_eq_of_add_le]
  simp

@[simp] theorem fieldsL2I_words (s : Bool) (maj : BitVec 6) (min : BitVec 3) (f : L2I) :
    fieldsL2I (baseWord s maj min f.toL1) f.lit = f := by
  simp [fieldsL2I]

@[simp] theorem fieldsLM_words (s : Bool) (maj : BitVec 6) (min : BitVec 3) (f : LM) :
    fieldsLM (baseWord s maj min f.toL1) (extWordM f) = f := by
  simp (disch := omega) only [fieldsLM, fieldsL1_baseWord, extractLsb'_extWordM, BitVec.extractLsb'_append_eq_of_le,
    BitVec.extractLsb'_append_eq_of_add_le]
  simp

/-! ## Words put together from their fields -/

@[simp] theorem baseWord_fields (w : W32) : baseWord (setOf w) (majOf w) (minOf w) (fieldsL1 w) = w := by
  simp (disch := omega) only [baseWord, setOf, majOf, minOf, fieldsL1, ofBool_decide_eq_one,
    BitVec.extractLsb'_append_extractLsb'_eq_extractLsb']
  simp

@[simp] theorem extWordR_fields (w x : W32) : extWordR (fieldsL2R w x) = x := by
  simp (disch := omega) only [extWordR, fieldsL2R, BitVec.extractLsb'_append_extractLsb'_eq_extractLsb']
  simp

@[simp] theorem extWordM_fields (w x : W32) : extWordM (fieldsLM w x) = x := by
  simp (disch := omega) only [extWordM, fieldsLM, BitVec.extractLsb'_append_extractLsb'_eq_extractLsb']
  simp

/-! # The opcode map (R56, R57) -/

/-- The format that the fields of an instruction stand in. -/
def Fields.format : Fields → Format
  | .l1 _ => .l1
  | .l2r _ => .l2r
  | .l2i _ => .l2i
  | .m _ => .m

/-- The decoder's map has every instruction word where the encoder puts it. -/
theorem partsOf_assigned {i : Instr} {p : Parts} (h : partsOf i = some p) :
    formatOf p.s p.maj.toNat = some p.fields.format ∧ p.min.toNat < minorsOf p.s p.maj.toNat ∧ assemble p = some i := by
  cases i <;> cases h <;> exact ⟨rfl, Nat.le_of_ble_eq_true rfl, rfl⟩

/-- The encoder puts the rows of a major under its minors, from 0 on. -/
def RowsAt {α : Type} (rows : List (α → Instr)) (s : Bool) (maj : BitVec 6) (fl : α → Fields) : Prop :=
  ∀ f, rows.map (fun c => partsOf (c f)) = (List.range rows.length).map fun k => some ⟨s, maj, BitVec.ofNat 3 k, fl f⟩

section
variable (s : Bool) (maj : Nat)

theorem rowsL1_at : RowsAt (rowsL1 s maj) s (BitVec.ofNat 6 maj) .l1 := by
  unfold rowsL1
  split <;> exact fun _ => rfl

theorem rowsL2R_at : RowsAt (rowsL2R s maj) s (BitVec.ofNat 6 maj) .l2r := by
  unfold rowsL2R
  split <;> exact fun _ => rfl

theorem rowsL2I_at : RowsAt (rowsL2I s maj) s (BitVec.ofNat 6 maj) .l2i := by
  unfold rowsL2I
  split <;> exact fun _ => rfl

theorem rowsM_at : RowsAt (rowsM s maj) s (BitVec.ofNat 6 maj) .m := by
  unfold rowsM
  split <;> exact fun _ => rfl

end

/-- So the row of a minor is encoded under that minor. -/
theorem RowsAt.partsOf {α : Type} {rows : List (α → Instr)} {s : Bool} {maj : BitVec 6} {fl : α → Fields} {f : α} {i : Instr}
    {min : BitVec 3} (h : RowsAt rows s maj fl) (e : rows[min.toNat]?.map (· f) = some i) :
    partsOf i = some ⟨s, maj, min, fl f⟩ := by
  obtain ⟨c, hc, rfl⟩ := Option.map_eq_some_iff.mp e
  obtain ⟨hn, rfl⟩ := List.getElem?_eq_some_iff.mp hc
  have at_min := congrArg (·[min.toNat]?) (h f)
  simpa [hn] using at_min

/-- The encoder puts an instruction where the decoder's map has it. -/
theorem partsOf_assemble {p : Parts} {i : Instr} (h : assemble p = some i) : partsOf i = some p := by
  obtain ⟨s, maj, min, fl⟩ := p
  cases fl with
  | l1 f => simpa using (rowsL1_at s maj.toNat).partsOf h
  | l2r f => simpa using (rowsL2R_at s maj.toNat).partsOf h
  | l2i f => simpa using (rowsL2I_at s maj.toNat).partsOf h
  | m f => simpa using (rowsM_at s maj.toNat).partsOf h

/-- The fields of every format begin with the base word's. -/
@[simp] theorem fieldsL2R_toL1 (w x : W32) : (fieldsL2R w x).toL1 = fieldsL1 w := rfl
@[simp] theorem fieldsL2I_toL1 (w x : W32) : (fieldsL2I w x).toL1 = fieldsL1 w := rfl
@[simp] theorem fieldsL2I_lit (w x : W32) : (fieldsL2I w x).lit = x := rfl
@[simp] theorem fieldsLM_toL1 (w x : W32) : (fieldsLM w x).toL1 = fieldsL1 w := rfl

/-! # Decoding and encoding -/

theorem decode_eq_ok_iff {w : W32} {x : Option W32} {i : Instr} :
    decode w x = .ok i ↔ ∃ p, decodeParts w x = .ok p ∧ assemble p = some i := by
  unfold decode
  cases decodeParts w x with
  | error e => simp
  | ok p => cases h : assemble p <;> simp [h]

theorem encode_eq_cons_iff {i : Instr} {w : W32} {ws : List W32} :
    encode i = w :: ws ↔ ∃ p, partsOf i = some p ∧ encodeParts p = w :: ws := by
  unfold encode
  cases partsOf i <;> simp

/-- What the parts of an assigned word decode from. -/
theorem decodeParts_encodeParts {p : Parts} {w : W32} {ws : List W32} (hf : formatOf p.s p.maj.toNat = some p.fields.format)
    (hm : p.min.toNat < minorsOf p.s p.maj.toNat) (he : encodeParts p = w :: ws) : decodeParts w ws.head? = .ok p := by
  obtain ⟨s, maj, min, fl⟩ := p
  cases fl <;> cases he <;> simp_all [decodeParts, minorAssigned, fieldsOf, Fields.format]

/-- The words that parts decode from are their encoding. -/
theorem encodeParts_decodeParts {w : W32} {x : Option W32} {p : Parts} (h : decodeParts w x = .ok p) :
    encodeParts p = [w] ∨ ∃ y, x = some y ∧ encodeParts p = [w, y] := by
  unfold decodeParts at h
  split at h
  · cases h
  next fmt _ =>
    split at h
    · cases fmt <;> cases x <;> cases h <;> simp [encodeParts]
    · cases h

theorem decode_encode {i : Instr} {w : W32} {ws : List W32} (h : encode i = w :: ws) : decode w ws.head? = .ok i := by
  obtain ⟨p, hp, he⟩ := encode_eq_cons_iff.mp h
  obtain ⟨hf, hm, ha⟩ := partsOf_assigned hp
  exact decode_eq_ok_iff.mpr ⟨p, decodeParts_encodeParts hf hm he, ha⟩

theorem encode_decode {w : W32} {x : Option W32} {i : Instr} (h : decode w x = .ok i) :
    encode i = [w] ∨ ∃ y, x = some y ∧ encode i = [w, y] := by
  obtain ⟨p, hd, ha⟩ := decode_eq_ok_iff.mp h
  simpa [encode, partsOf_assemble ha] using encodeParts_decodeParts hd

/-! ## From bytes -/

/-- A one-word instruction does not look at the next word (R31). -/
theorem decode_l1 {w : W32} (h : formatOf (setOf w) (majOf w).toNat = some .l1) (x y : Option W32) : decode w x = decode w y := by
  simp [decode, decodeParts, h, fieldsOf]

theorem wordOfBytes_bytesOfWord (w : W32) :
    wordOfBytes (w.extractLsb' 0 8) (w.extractLsb' 8 8) (w.extractLsb' 16 8) (w.extractLsb' 24 8) = w := by
  simp (disch := omega) only [wordOfBytes, BitVec.extractLsb'_append_extractLsb'_eq_extractLsb']
  simp

/-- The bytes of a one-word instruction, with anything after them. -/
theorem decodeBytes_l1 {w : W32} (h : formatOf (setOf w) (majOf w).toNat = some .l1) (rest : List Byte) :
    decodeBytes (bytesOfWord w ++ rest) = (decode w none).map fun i => (i, rest) := by
  simp only [decodeBytes, bytesOfWord, List.cons_append, List.nil_append, wordOfBytes_bytesOfWord]
  split
  · simp [h, decode_l1 h _ none]
  · rfl

/-- The bytes of two words, of which the first is no one-word instruction. -/
theorem decodeBytes_two {w : W32} (h : formatOf (setOf w) (majOf w).toNat ≠ some .l1) (x : W32) (rest : List Byte) :
    decodeBytes (bytesOfWord w ++ (bytesOfWord x ++ rest)) = (decode w (some x)).map fun i => (i, rest) := by
  simp [decodeBytes, bytesOfWord, wordOfBytes_bytesOfWord, h]

/-- An instruction word takes one word or two, and one exactly in format L1 (R31). -/
theorem encode_length_cases {i : Instr} (h : encode i ≠ []) :
    (∃ w, encode i = [w] ∧ formatOf (setOf w) (majOf w).toNat = some .l1) ∨
    ∃ w x, encode i = [w, x] ∧ formatOf (setOf w) (majOf w).toNat ≠ some .l1 := by
  obtain ⟨w, ws, e⟩ := List.exists_cons_of_ne_nil h
  obtain ⟨p, hp, he⟩ := encode_eq_cons_iff.mp e
  obtain ⟨hf, -, -⟩ := partsOf_assigned hp
  rw [e]
  obtain ⟨s, maj, min, fl⟩ := p
  cases fl <;> cases he <;> simp [hf, Fields.format]

theorem decodeBytes_encode {i : Instr} (h : encode i ≠ []) (rest : List Byte) :
    decodeBytes ((encode i).flatMap bytesOfWord ++ rest) = .ok (i, rest) := by
  obtain ⟨w, e, hf⟩ | ⟨w, x, e, hf⟩ := encode_length_cases h
  · have decodes : decode w none = .ok i := decode_encode e
    simp [e, decodeBytes_l1 hf, decodes, Except.map]
  · have decodes : decode w (some x) = .ok i := decode_encode e
    simp [e, decodeBytes_two hf, decodes, Except.map]

/-- Settles O3: encoder and decoder have one opcode map (`partsOf_assigned`, `partsOf_assemble`), and a word is its fields side by side. -/
theorem decodeEncodeRoundTrip : Obligations.DecodeEncodeRoundTrip :=
  ⟨fun _ _ _ => decode_encode, fun _ _ h => decodeBytes_encode h _, fun _ _ _ => encode_decode⟩

/-! ## Words written out -/

theorem decode_of_encode_one {i : Instr} {w : W32} (h : encode i = [w]) : decode w none = .ok i := decode_encode h

theorem decode_of_encode_two {i : Instr} {w x : W32} (h : encode i = [w, x]) : decode w (some x) = .ok i := decode_encode h

theorem decode_unassignedMajor {w : W32} (h : formatOf (setOf w) (majOf w).toNat = none) (x : Option W32) :
    decode w x = .error .unassignedMajor := by
  simp [decode, decodeParts, h]

theorem decode_unassignedMinor {w : W32} (hf : (formatOf (setOf w) (majOf w).toNat).isSome = true) (hm : minorAssigned w = false)
    (x : Option W32) : decode w x = .error .unassignedMinor := by
  obtain ⟨fmt, hf⟩ := Option.isSome_iff_exists.mp hf
  simp [decode, decodeParts, hf, hm]

/-- Settles O4: the words are the encodings, so they decode to their instructions. -/
theorem writtenWordsDecode : Obligations.WrittenWordsDecode := by
  unfold Obligations.WrittenWordsDecode
  refine ⟨decode_of_encode_one ?_, decode_of_encode_two ?_, decode_of_encode_two ?_, decode_of_encode_two ?_,
    decode_of_encode_two ?_, decode_of_encode_two ?_, decode_of_encode_one ?_, decode_of_encode_two ?_,
    decode_of_encode_two ?_, decode_of_encode_two ?_, decode_of_encode_two ?_, decode_of_encode_two ?_,
    decode_of_encode_two ?_, decode_of_encode_two ?_, decode_unassignedMajor ?_, decode_unassignedMinor ?_ ?_, ?_⟩
  all_goals rfl

end Sys2Proof

namespace Sys2Proof.Machine

/-! # From the words at a PC to the instruction that runs (R31, R43, R58, R107) -/

theorem nodup_eraseDups {α : Type} [BEq α] [LawfulBEq α] (l : List α) : l.eraseDups.Nodup := by
  match l with
  | [] => simp
  | a :: l =>
    rw [List.eraseDups_cons, List.nodup_cons]
    exact ⟨by simp, nodup_eraseDups _⟩
termination_by l.length
decreasing_by exact Nat.lt_succ_of_le (List.length_filter_le _ _)

/-! ## What stands at an offset of an overlay -/

section
variable {o : Overlay} {off : Nat} {w : W32}

theorem fetch_of_no_word (h : o.word off = none) : o.fetch off = .target := by
  simp [Overlay.fetch, h]

theorem fetch_of_ok {p : Parts} (h : o.word off = some w) (hd : decodeParts w (o.word (off + 1)) = .ok p) :
    o.fetch off = .parts p := by
  simp [Overlay.fetch, h, hd]

theorem fetch_of_missingWord (h : o.word off = some w) (hd : decodeParts w (o.word (off + 1)) = .error .missingWord) :
    o.fetch off = .target := by
  simp [Overlay.fetch, h, hd]

theorem fetch_of_unassigned {e : DecodeErr} (he : e ≠ .missingWord) (h : o.word off = some w)
    (hd : decodeParts w (o.word (off + 1)) = .error e) : o.fetch off = .encoding := by
  cases e <;> simp_all [Overlay.fetch]

end

/-- What the decoder refuses, its first part refuses for the same reason, or the opcode map has no row for it. -/
theorem decode_eq_error {w : W32} {x : Option W32} {e : DecodeErr} (h : decode w x = .error e) :
    decodeParts w x = .error e ∨ e = .unassignedMinor ∧ ∃ p, decodeParts w x = .ok p ∧ assemble p = none := by
  unfold decode at h
  cases hd : decodeParts w x with
  | error e' => simp_all
  | ok p => cases ha : assemble p <;> simp_all

theorem execParts_of_assemble {p : Parts} {i : Instr} (h : assemble p = some i) (s : State) : execParts p s = exec i s := by
  simp [execParts, h]

theorem execParts_of_no_row {p : Parts} (h : assemble p = none) (s : State) : execParts p s = .next s.illegal := by
  simp [execParts, h]

/-! ## The issue of a group whose first thread stands in a resident overlay -/

section
variable {s : State} {g : Group} {l : ThreadId} {t : Thread} {o : Overlay}
variable (hl : g.ids.head? = some l) (ht : s.thread l = some t) (ho : s.overlayUnder l t = some o)
include hl ht ho

theorem issue_of_parts {p : Parts} (hb : s.badCode g.core o t.pc.off = false) (hf : o.fetch t.pc.off = .parts p) :
    s.issue g = execParts p (s.gather g o t.pc) := by
  simp [State.issue, hl, ht, ho, hb, hf]

theorem issue_of_encoding (hb : s.badCode g.core o t.pc.off = false) (hf : o.fetch t.pc.off = .encoding) :
    s.issue g = .next (s.gather g o t.pc).illegal := by
  simp [State.issue, hl, ht, ho, hb, hf]

theorem issue_of_target (hb : s.badCode g.core o t.pc.off = false) (hf : o.fetch t.pc.off = .target) :
    s.issue g = .next ((s.gather g o t.pc).allRaise (trapR 0x06 t.pc.off 0)) := by
  simp [State.issue, hl, ht, ho, hb, hf]

theorem issue_of_badCode {c : CtxId} (hb : s.badCode g.core o t.pc.off = true) (hc : (s.gather g o t.pc).ctxOf l.team = some c) :
    s.issue g = .next (((s.gather g o t.pc).countVf c.vf 5).allRaise (trapR 0x21 4 0)) := by
  simp [State.issue, hl, ht, ho, hb, hc, errCounter]

end

/-- Gathering leaves the threads as they are, but for those that were parked in the group. -/
theorem thread_gather (s : State) (g : Group) (o : Overlay) (pc : Pc) (i : ThreadId) :
    (s.gather g o pc).thread i = (s.thread i).map fun t => if i ∈ g.ids then { t with park := .ready } else t :=
  thread_mapThreads s (fun k t => if k ∈ g.ids then { t with park := .ready } else t) i

/-- Settles O2: the step's action is the group's issue, which fetches what the decoder reads. -/
theorem stepRunsTheDecodedInstruction : Obligations.StepRunsTheDecodedInstruction := by
  intro s g l ls t o hc hids ht ho u after sound
  have hl : g.ids.head? = some l := by simp [hids]
  have step_eq : step s = after (s.issue g) := by
    simp only [step, hc, State.act]
    cases s.issue g <;> rfl
  rw [step_eq]
  refine ⟨?decoded, ?unassigned, ?missing, ?upset, nodup_eraseDups _, fun i => List.mem_eraseDups.mp, ?threads⟩
  case decoded =>
    intro w i hb hw hd
    obtain ⟨p, hp, ha⟩ := decode_eq_ok_iff.mp hd
    rw [issue_of_parts hl ht ho hb (fetch_of_ok hw hp), execParts_of_assemble ha]
  case unassigned =>
    have refused : ∀ w e, sound → o.word t.pc.off = some w → e ≠ .missingWord → decode w (o.word (t.pc.off + 1)) = .error e →
        s.issue g = .next u.illegal := by
      intro w e hb hw he hd
      obtain hp | ⟨-, p, hp, ha⟩ := decode_eq_error hd
      · exact issue_of_encoding hl ht ho hb (fetch_of_unassigned he hw hp)
      · rw [issue_of_parts hl ht ho hb (fetch_of_ok hw hp), execParts_of_no_row ha]
    rintro w hb hw (hd | hd)
    · rw [refused w _ hb hw (by decide) hd]; rfl
    · rw [refused w _ hb hw (by decide) hd]; rfl
  case missing =>
    rintro hb (hw | ⟨w, hw, hd⟩)
    · rw [issue_of_target hl ht ho hb (fetch_of_no_word hw)]
    · have hp : decodeParts w (o.word (t.pc.off + 1)) = .error .missingWord := by simpa using decode_eq_error hd
      rw [issue_of_target hl ht ho hb (fetch_of_missingWord hw hp)]
  case upset =>
    intro c hb hctx
    rw [issue_of_badCode hl ht ho (by simpa [sound] using hb) hctx]
  case threads =>
    intro i th hi
    rw [thread_gather, hi, Option.map_some]

end Sys2Proof.Machine

namespace Sys2Proof.Machine

/-! # An illegal atomic beside a stray access

A lane atomic forms requests of the accesses that its issue has entered, which it knows by their numbers: those from the state's next
number on (`runAtomic`). No run of the machine leaves an access outstanding under a number that has not been given, but a state may hold
one, and then an illegal atomic, which enters no access of its own, sends that one. -/

/-- An atomic access outstanding under the number 0. -/
def strayAtomic : Access :=
  { seq := 0, kind := .atomic .add, owners := [], ctx := ⟨⟨0, 0⟩, 0⟩, core := ⟨0, 0⟩, space := 0, addr := 0, size := 4, data := 0,
    data2 := 0, dst := 124, g := 1, tag := 0, sext := false, strm := 0, scope := 0, cp := 0, loc := none, held := false, replay := false,
    state := .waiting, reqs := [], got := none, word := 0, rcv := [], born := 0, after := none, base := 0, extw := 0 }

/-- The machine at reset, whose next number is 0, with that access. -/
def strayState : State := { State.reset with accs := [strayAtomic] }

/-- ATADD with the width code 3, which it does not allow (R257). -/
def wideAtadd : LM := ⟨⟨31, false, 3, 0, 0⟩, 0, 0, 0, 0, 0, 0, 0⟩

/-- The illegal ATADD sends the stray access. -/
theorem exec_wideAtadd_strayState : exec (.atadd wideAtadd) strayState = .next (strayState.addFlight 0 [strayAtomic]) := rfl

/-- Refutes O9, in its first part: an illegal ATADD does not only raise ILLEGAL_ENCODING when an atomic access is outstanding under a number
that no access has been given. -/
theorem not_checksTrap : ¬ Obligations.ChecksTrap := by
  rintro ⟨illegal_traps, -⟩
  have traps := illegal_traps (.atadd wideAtadd) strayState (by decide) (by decide)
  have same_state := Host.Outcome.next.inj (exec_wideAtadd_strayState.symm.trans traps)
  have same_flights : 1 = 0 := congrArg (·.flights.length) same_state
  exact absurd same_flights (by decide)

end Sys2Proof.Machine

namespace Sys2Proof.Machine

/-! # REP (R53) -/

@[simp] theorem inOrder_nil (ids : List ThreadId) : inOrder ids [] = [] := by
  simp [inOrder]

/-- When the checks pass in every thread and no repetition traps, every thread takes its repetitions and nothing else happens. -/
theorem repAll_passes {s : State} {i : LaneDef} {n : Nat} {on : List (ThreadId × Thread)}
    (h : ∀ x ∈ on, regCheck x.2 (i.repOpds n) = none ∧ (i.repeat (s.env x.1) n 0 x.2).2 = none) :
    s.repAll i none n on = s.mapThreads fun id t => if id ∈ on.map (·.1) then (i.repeat (s.env id) n 0 t).1 else t := by
  have none_fails : (on.filterMap fun x => (regCheck x.2 (i.repOpds n)).map fun r => (x.1, r)) = [] :=
    List.filterMap_eq_nil_iff.mpr fun x hx => by simp [(h x hx).1]
  have all_pass : (on.filter fun x => (regCheck x.2 (i.repOpds n)).isNone) = on :=
    List.filter_eq_self.mpr fun x hx => by simp [(h x hx).1]
  have none_traps : ∀ ok : List ThreadId, (on.filterMap fun x =>
      if x.1 ∈ ok then (i.repeat (s.env x.1) n 0 x.2).2.map fun r => (x.1, r) else none) = [] :=
    fun ok => List.filterMap_eq_nil_iff.mpr fun x hx => by simp [(h x hx).2]
  simp only [State.repAll, none_fails, all_pass, none_traps, List.append_nil, inOrder_nil, raises_nil]

/-- REP before a legal word of the repeatable majors whose operands stay among the general registers: the guard-false threads step to it, and
the others repeat it. -/
theorem execRep_repeats {f : L2I} {s : State} {l : ThreadId} {lt : Thread} {rest : List (ThreadId × Thread)} {o : Overlay} {p : Parts}
    {i : LaneDef} (hf : repOk f = true) (hs : s.group = (l, lt) :: rest)
    (ho : (s.core l.team.core).current lt.pc.tok.toNat = some o) (hp : o.fetch (lt.pc.off + 2) = .parts p) (hl : legalParts p = true)
    (hi : laneDef p = some i) (he : i.pastEnd f.lit.toNat = false) :
    execRep f s = .next ((s.stepAll (s.offIds f.toL1) 2).repAll i (windowMov p) f.lit.toNat (s.onGroup f.toL1)) := by
  simp [execRep, State.onGroup, State.offIds, hf, hs, ho, hp, hl, hi, he]

/-- Settles O19: the word is repeatable, so REP comes to its repetitions, of which none fails. -/
theorem repeatRunsEveryRepetition : Obligations.RepeatRunsEveryRepetition := by
  intro f s l lt rest o p i hf hs ho hp hl hi hw he hon
  have goes : exec (.rep f) s = _ := execRep_repeats hf hs ho hp hl hi he
  rw [goes, hw, repAll_passes hon]
  rfl

end Sys2Proof.Machine

namespace Sys2Proof.Machine

open Claims

/-! # Arrival at a cross-lane instruction (R44, R120) -/

theorem eraseDups_of_all_eq {α : Type} [BEq α] [LawfulBEq α] {a : α} {l : List α} (hne : l ≠ []) (h : ∀ x ∈ l, x = a) :
    l.eraseDups = [a] := by
  obtain ⟨x, xs, rfl⟩ := List.exists_cons_of_ne_nil hne
  obtain ⟨rfl, hxs⟩ := List.forall_mem_cons.mp h
  have none_left : xs.filter (fun y => !y == x) = [] := List.filter_eq_nil_iff.mpr fun y hy => by simp [hxs y hy]
  rw [List.eraseDups_cons, none_left, List.eraseDups_nil]

/-- What a thread arrives with at a cross-lane instruction: its mask, or that it is guarded off. -/
def laneArrival (i : CrossDef) (m : Nat) (t : Thread) : Arrival := .lanes (if t.guard i.g i.gn then some (w32 m) else none)

/-- The masks of such arrivals are equal. -/
theorem arrivalMasks_laneArrival (i : CrossDef) (m : Nat) (xs : List (ThreadId × Thread)) :
    ∀ k ∈ arrivalMasks (xs.map fun x => (x.1, laneArrival i m x.2)), k = w32 m := by
  intro k hk
  simp only [arrivalMasks, List.mem_filterMap, List.mem_map, laneArrival] at hk
  obtain ⟨_, ⟨x, -, rfl⟩, hx⟩ := hk
  cases hg : x.2.guard i.g i.gn <;> simp_all

/-- The first arrivals at a PC, with equal masks, arrive. -/
theorem arriveLanes_first {s : State} {tm : TeamId} {pc : Pc} {new : List (ThreadId × Arrival)} {k : W32}
    (ha : s.arrivals tm pc = []) (hm : ∀ x ∈ arrivalMasks new, x = k) : s.arriveLanes tm pc new = s.arrive new := by
  simp only [State.arriveLanes, ha, List.nil_append]
  cases hn : arrivalMasks new with
  | nil => rfl
  | cons x xs =>
    rw [hn] at hm
    obtain ⟨rfl, hxs⟩ := List.forall_mem_cons.mp hm
    exact if_pos (by simpa using hxs)

/-- A function that answers something for every element of a list drops none of them. -/
theorem filterMap_eq_map_of_forall {α β : Type} {f : α → Option β} {g : α → β} {l : List α} (h : ∀ x ∈ l, f x = some (g x)) :
    l.filterMap f = l.map g := by
  induction l with
  | nil => rfl
  | cons x xs ih =>
    obtain ⟨hx, hxs⟩ := List.forall_mem_cons.mp h
    rw [List.filterMap_cons_some hx, List.map_cons, ih hxs]

/-- Threads of one team at one PC, of which the guard-true ones pass their checks and name themselves in one mask, arrive together. -/
theorem arriveCross_first {i : CrossDef} {s : State} {tm : TeamId} {pc : Pc} {m : Nat} (hne : s.group ≠ [])
    (ht : ∀ x ∈ s.group, x.1.team = tm ∧ x.2.pc = pc) (ha : s.arrivals tm pc = [])
    (hon : ∀ x ∈ s.group, x.2.guard i.g i.gn = true →
      i.check x.2 = none ∧ x.2.readReg (s.env x.1) i.mask 1 = m ∧ m.testBit x.1.lane = true) :
    s.arriveCross i = s.arrive (s.group.map fun x => (x.1, laneArrival i m x.2)) := by
  unfold State.arriveCross
  extract_lets judged s' teams
  have judged_eq : judged = s.group.map fun x => (x.1, pc, .ok (laneArrival i m x.2)) := by
    refine List.map_congr_left fun x hx => ?_
    cases hg : x.2.guard i.g i.gn with
    | false => simp [laneArrival, hg, (ht x hx).2]
    | true =>
      obtain ⟨hc, hr, hb⟩ := hon x hx hg
      simp [laneArrival, hg, (ht x hx).2, hc, hr, hb]
  have teams_eq : teams = [tm] := by
    refine eraseDups_of_all_eq (by simpa [judged_eq] using hne) ?_
    simp only [judged_eq, List.map_map, List.mem_map]
    rintro _ ⟨x, hx, rfl⟩
    exact (ht x hx).1
  have none_traps : s' = s := by
    refine (congrArg s.raises (List.filterMap_eq_nil_iff.mpr fun x hx => ?_)).trans (raises_nil s)
    rw [judged_eq] at hx
    obtain ⟨y, -, rfl⟩ := List.mem_map.mp hx
    rfl
  have all_arrive : (s.group.filterMap fun x => if x.1.team = tm then some (x.1, laneArrival i m x.2) else none) =
      s.group.map fun x => (x.1, laneArrival i m x.2) :=
    filterMap_eq_map_of_forall fun x hx => if_pos (ht x hx).1
  have has_first : (s.group.find? fun x => x.1.team = tm).isSome = true := by
    obtain ⟨x, hx⟩ := List.exists_mem_of_ne_nil _ hne
    exact List.find?_isSome.mpr ⟨x, hx, by simp [(ht x hx).1]⟩
  obtain ⟨first, hf⟩ := Option.isSome_iff_exists.mp has_first
  rw [teams_eq, none_traps, judged_eq]
  simp only [List.foldl_cons, List.foldl_nil, List.filterMap_map, List.find?_map, Function.comp_def, all_arrive, hf, Option.map_some,
    List.isEmpty_iff, arriveLanes_first ha (arrivalMasks_laneArrival i m _)]
  exact if_neg (mt List.map_eq_nil_iff.mp hne)

/-- A cross-lane instruction of gathered threads that are no released set is an arrival. -/
theorem runCross_arrives {i : CrossDef} {s : State} (hl : i.legal = true) (hr : s.gathered.rdv = false) :
    runCross i s = .next (s.arriveCross i) := by
  simp [runCross, hl, hr]

/-- An instruction that runs the frame of cross-lane instructions arrives, when its frame checks the operands `ops`, and the mask B. -/
theorem arrives_of_runCross (d : L2R → CrossDef) {c : L2R → Instr} {ops : L2R → List Opd}
    (hc : ∀ f s, exec (c f) s = runCross (d f) s := by exact fun _ _ => rfl)
    (hl : ∀ f, (c f).WellFormed → (d f).legal = true := by exact fun _ h => h)
    (hd : ∀ f, (d f).g = f.g ∧ (d f).gn = f.gn ∧ (d f).mask = f.b.toNat := by exact fun _ => ⟨rfl, rfl, rfl⟩)
    (ho : ∀ f t, (d f).check t = regCheck t (ops f) := by exact fun _ _ => rfl) :
    Arrives c ops := by
  intro f s tm pc m hw hr hne ht ha hon
  obtain ⟨hg, hgn, hm⟩ := hd f
  rw [hc, runCross_arrives (hl f hw) hr, arriveCross_first (m := m) hne ht ha]
  · simp only [laneArrival, hg, hgn]
  · intro x hx hgx
    rw [ho, hm]
    rw [hg, hgn] at hgx
    exact hon x (List.mem_filter.mpr ⟨hx, hgx⟩)

/-- Settles O21: all eleven run one frame; they differ in the operands that it checks. -/
theorem crossLaneArrives : Obligations.CrossLaneArrives :=
  ⟨arrives_of_runCross (peekDef false), arrives_of_runCross (peekDef true), arrives_of_runCross (voteDef true),
    arrives_of_runCross (voteDef false), arrives_of_runCross pmaskDef, arrives_of_runCross peersDef, arrives_of_runCross leadpDef,
    arrives_of_runCross (reduceDef 0), arrives_of_runCross (reduceDef 1), arrives_of_runCross (reduceDef 2),
    arrives_of_runCross (reduceDef 3)⟩

end Sys2Proof.Machine

namespace Sys2Proof.Machine

open Claims

/-! # Moves with a queue window (R36, R101, R325) -/

@[simp] theorem updThreads_nil (s : State) (f : Thread → Thread) : s.updThreads [] f = s := by
  simp [State.updThreads, State.mapThreads, tmap]

@[simp] theorem stepAll_nil (s : State) (k : Nat) : s.stepAll [] k = s := updThreads_nil s _
@[simp] theorem waitWindow_nil (s : State) (w : Nat) (n : WinNeed) : s.waitWindow [] w n = s := updThreads_nil s _

/-! ## What a pop comes to -/

section
variable {s : State} {t : TeamId} {team : Bool} {q : QSetId} {x : QSet}

theorem deliverRec_whole {tail : Bool} {cd : Cand} {r : QRec} (h : cd.what = .whole r) :
    (s.deliverRec t team tail q x cd).1.acquire t.core = popped s t team tail q x cd.no r ∧
    (s.deliverRec t team tail q x cd).2 = r.body := by
  simp [State.deliverRec, popped, h, Taken.counted, Taken.body]

/-- A shard that holds nothing to take gives nothing. -/
theorem popShards_empty (hq : s.qset q = some x) (hf : finds s t team false x (coreDieId t.core) = none) :
    s.popShards t team false q [coreDieId t.core] = .empty := by
  simp only [finds, decide_true] at hf
  simp [State.popShards, hq, hf]

/-- A shard whose first candidate is a record gives it. -/
theorem popShards_given {cd : Cand} {r : QRec} (hq : s.qset q = some x)
    (hf : finds s t team false x (coreDieId t.core) = some cd) (hw : cd.what = .whole r) :
    s.popShards t team false q [coreDieId t.core] = .given (popped s t team false q x cd.no r) r.body := by
  obtain ⟨acquired, body⟩ := deliverRec_whole (s := s) (t := t) (team := team) (q := q) (x := x) (tail := false) hw
  simp only [finds, decide_true] at hf
  simp [State.popShards, hq, hf, hw, acquired, body]

/-- A pop that has no saved task to resume looks at the shards. -/
theorem pop_eq_popShards {dies : List DieId} (h : team = true → (s.takeResume t).isNone = true) :
    s.pop t team false q dies = s.popShards t team false q dies := by
  cases team <;> simp_all [State.pop]

end

/-! ## UMOV from a window -/

/-- The group of a uniform instruction whose destinations pass in every guard-true thread. -/
def fullGroup (s u : State) (f : L1) (l : ThreadId) (lt : Thread) : UniGroup := ⟨l, lt, u.env l, s.onIds f, s.onIds f, []⟩

/-- A legal uniform instruction whose operands pass is its effect when that is performed, or parks. -/
theorem runUniform_next {d : UniDef} {s u v : State} {f : L1} {l : ThreadId} {lt : Thread} (hg : d.g = f.g) (hn : d.gn = f.gn)
    (hl : d.legal = true) (h : s.leads f d.srcs d.dsts l lt) (hu : s.stepAll (s.offIds f) d.words = u) {act : UniGroup → State → UniRes}
    (ha : act (fullGroup s u f l lt) u = .done v ∨ act (fullGroup s u f l lt) u = .parked v) : runUniform d s act = .next v := by
  rw [runUniform_leads hg hn hl h, hu]
  obtain ha | ha := ha <;> simp only [fullGroup] at ha <;> rw [ha]

theorem umovUni_window {f : L1} {w : Nat} (h : windowNo f.a = some w) : umovUni f =
    { g := f.g, gn := f.gn, ok := wIn f [3], words := 1, srcs := [], dsts := [⟨.dst 8, f.d.toNat⟩] } := by
  simp [umovUni, h]

theorem exec_umov_window {f : L1} {w : Nat} (h : windowNo f.a = some w) (s : State) : exec (.umov f) s = umovWindow w f s := by
  show execUmov f s = _
  simp [execUmov, h]

section
variable {f : L1} {s u v : State} {l : ThreadId} {lt : Thread} {w : Nat} {team : Bool} {q : QSetId}
variable (hl : (umovUni f).legal = true) (hw : windowNo f.a = some w) (h : s.leads f [] [⟨.dst 8, f.d.toNat⟩] l lt)
variable (hu : s.stepAll (s.offIds f) 1 = u) (ht : (u.liveIds l.team).all (s.onIds f).contains = team)
variable (hq : u.handleSet (u.ctxId l).vf (u.windowOf l w) = q) (hb : u.windowBad l w rightDeq = none)
variable (hc : u.popCommits l.team team = false)
include hl hw h hu ht hq hb hc

/-- A UMOV from a window whose leader may pop, and whose team has nothing to commit first, waits when it finds nothing. -/
theorem umov_of_pop_empty (hp : u.pop l.team team false q [coreDieId l.team.core] = .empty) :
    exec (.umov f) s = .next ((if team then u.endTask l.team true else u).waitWindow (s.onIds f) w .entry) := by
  rw [umovUni_window hw] at hl
  rw [exec_umov_window hw, umovWindow, umovUni_window hw]
  refine runUniform_next rfl rfl hl h hu (.inr ?_)
  simp only [fullGroup, State.isTeamPop, ht, hb, hc, hq, hp, Bool.false_eq_true, if_false]

/-- It gives every thread of the group the record that it finds. -/
theorem umov_of_pop_given {r : Rec} (hp : u.pop l.team team false q [coreDieId l.team.core] = .given v r) : exec (.umov f) s =
    .next ((v.updThreads (s.onIds f) fun t => (t.writeReg f.d.toNat 8 r.num 0).step 1).commitAfter l.team) := by
  rw [umovUni_window hw] at hl
  rw [exec_umov_window hw, umovWindow, umovUni_window hw]
  refine runUniform_next rfl rfl hl h hu (.inl ?_)
  simp only [fullGroup, State.isTeamPop, State.result, ht, hb, hc, hq, hp, Bool.false_eq_true, if_false]

end

/-! ## MOV with a window, in one thread -/

/-- One guard-true thread whose registers pass uses a window: it goes on, or it waits. -/
theorem windowEach_single {words w : Nat} {g : BitVec 5} {gn : Bool} {need : WinNeed} {opds : List Opd}
    {act : ThreadId → Thread → State → IssueRes} {s : State} {l : ThreadId} {t : Thread} (ht : s.thread l = some t)
    (hg : t.guard g gn = true) (hc : regCheck t opds = none) :
    (∀ u, act l t s = .ok u → windowEach words g gn w need opds act [l] (s, []) = (u.updThread l fun t => t.step words, [])) ∧
    (∀ u, act l t s = .wait u → windowEach words g gn w need opds act [l] (s, []) = (u, [])) := by
  constructor <;> intro u ha <;> simp [windowEach, ht, hg, hc, ha]

theorem movWindowOk_of_wellFormed {f : L1} (hl : (Instr.mov f).WellFormed) (hw : movWindowed f = true) : movWindowOk f = true := by
  have ok : movOk f = true := hl
  simpa [movOk, hw] using ok

/-- A legal MOV names one window. -/
theorem windowNo_a_of_d {f : L1} {w : Nat} (hl : movWindowOk f = true) (hd : windowNo f.d = some w) : windowNo f.a = none := by
  cases ha : windowNo f.a <;> simp_all [movWindowOk]

theorem exec_mov_window {f : L1} (hl : (Instr.mov f).WellFormed) (hw : movWindowed f = true) (s : State) :
    exec (.mov f) s = .next ((runMovWindow 1 1 f s.gathered.ids s).1.raises (runMovWindow 1 1 f s.gathered.ids s).2) := by
  have windowed : ((windowNo f.a).isSome || (windowNo f.d).isSome) = true := hw
  show execMov f s = _
  rw [execMov, if_pos windowed, if_pos (movWindowOk_of_wellFormed hl hw)]

section
variable {f : L1} {s : State} {l : ThreadId} {t : Thread} {w : Nat}
variable (hl : (Instr.mov f).WellFormed) (hs : s.gathered.ids = [l]) (ht : s.thread l = some t) (hg : t.guard f.g f.gn = true)
include hl hs ht hg

/-- A MOV from a window in one thread is its pop. -/
theorem mov_from_window (hw : windowNo f.a = some w) (hc : regCheck t [⟨.dst 8, f.d.toNat⟩] = none) :
    (∀ u, movPop w f.d.toNat 1 l s = .ok u → exec (.mov f) s = .next (u.updThread l fun t => t.step 1)) ∧
    (∀ u, movPop w f.d.toNat 1 l s = .wait u → exec (.mov f) s = .next u) := by
  obtain ⟨goes, waits⟩ := windowEach_single (words := 1) (w := w) (need := .pop 1) (act := fun id _ s => movPop w f.d.toNat 1 id s) ht hg hc
  have runs : runMovWindow 1 1 f [l] s = windowEach 1 f.g f.gn w (.pop 1) [⟨.dst 8, f.d.toNat⟩]
      (fun id _ s => movPop w f.d.toNat 1 id s) [l] (s, []) := by
    simp [runMovWindow, hw]
  rw [exec_mov_window hl (by simp [movWindowed, hw]), hs, runs]
  exact ⟨fun u h => by rw [goes u h, raises_nil], fun u h => by rw [waits u h, raises_nil]⟩

/-- A MOV to a window in one thread is its push. -/
theorem mov_to_window (hw : windowNo f.d = some w) (hc : regCheck t [⟨.src 8, f.a.toNat⟩] = none) :
    (∀ u, movPush w f.a.toNat 1 l t s = .ok u → exec (.mov f) s = .next (u.updThread l fun t => t.step 1)) ∧
    (∀ u, movPush w f.a.toNat 1 l t s = .wait u → exec (.mov f) s = .next u) := by
  have windowed : movWindowed f = true := by simp [movWindowed, hw]
  obtain ⟨goes, waits⟩ := windowEach_single (words := 1) (w := w) (need := .push 1) (act := movPush w f.a.toNat 1) ht hg hc
  have runs : runMovWindow 1 1 f [l] s = windowEach 1 f.g f.gn w (.push 1) [⟨.src 8, f.a.toNat⟩] (movPush w f.a.toNat 1) [l] (s, []) := by
    simp [runMovWindow, hw, windowNo_a_of_d (movWindowOk_of_wellFormed hl windowed) hw]
  rw [exec_mov_window hl windowed, hs, runs]
  exact ⟨fun u h => by rw [goes u h, raises_nil], fun u h => by rw [waits u h, raises_nil]⟩

end

/-! ## One pop of one thread -/

section
variable {s : State} {l : ThreadId} {w d : Nat} {q : QSetId}
variable (hb : s.windowBad l w rightDeq = none) (hc : s.mustCommit l.team = false)
variable (hq : s.handleSet (s.ctxId l).vf (s.windowOf l w) = q)
include hb hc hq

theorem movPop_empty (hp : s.popShards l.team false false q [coreDieId l.team.core] = .empty) :
    movPop w d 1 l s = .wait (s.waitWindow [l] w (.pop 1)) := by
  simp [movPop, State.popMany, hb, hc, hq, hp]

theorem movPop_given {v : State} {r : Rec} (hp : s.popShards l.team false false q [coreDieId l.team.core] = .given v r) :
    movPop w d 1 l s = .ok ((v.updThread l fun t => t.writeReg d 8 r.num 0).commitAfter l.team) := by
  simp [movPop, State.popMany, hb, hc, hq, hp]

end

/-! ## One push of one thread -/

section
variable {s : State} {l : ThreadId} {t : Thread} {w a : Nat} {r : Rec} {q : QSetId}
variable (hr : recOf (t.readReg (s.env l) a 8) = r) (hq : s.handleSet (s.ctxId l).vf (s.windowOf l w) = q)
variable (hb : s.windowBad l w rightEnq = none) (hj : s.joinBad l r.join.toNat = none) (hc : s.mustCommit l.team = false)
include hr hq hb hj hc

omit hq in
/-- A push of a record that is no launch, whose window and join are good, waits for the thread's earlier accesses. -/
theorem movPush_earlier (hk : r.kind = 0 ∨ 5 ≤ r.kind) (he : s.earlier [l] ≠ []) :
    movPush w a 1 l t s = .wait (s.waitOrder [l] .earlier) := by
  have kind_ok : r.kind = 0 ∨ ¬ r.kind < 5 := hk.imp_right Nat.not_lt.mpr
  obtain k | k := kind_ok <;> simp [movPush, hr, hb, hj, hc, he, k]

/-- One of kind 0 waits for room. -/
theorem movPush_full (he : s.earlier [l] = []) (hk : r.kind = 0) (hf : s.pushStatus q (coreDieId l.team.core) 1 true ≠ 0) :
    movPush w a 1 l t s = .wait (s.waitWindow [l] w (.push 1)) := by
  simp [movPush, accepted, hr, hq, hb, hj, hc, he, hk, hf]

/-- With room it enters the shard. -/
theorem movPush_queued (he : s.earlier [l] = []) (hk : r.kind = 0) (hf : s.pushStatus q (coreDieId l.team.core) 1 true = 0) :
    movPush w a 1 l t s = .ok (((s.expose l.team.core fun d => d.owners.contains l).queueRec q (coreDieId l.team.core) r
      (s.taskNo l.team)).commitAfter l.team) := by
  simp [movPush, accepted, State.pushAll, hr, hq, hb, hj, hc, he, hk, hf]

/-- A malformed one is dropped. -/
theorem movPush_dropped (he : s.earlier [l] = []) (hk : 5 ≤ r.kind) : movPush w a 1 l t s =
    .ok (((s.expose l.team.core fun d => d.owners.contains l).countDrop q).commitAfter l.team) := by
  have not_zero : r.kind ≠ 0 := by omega
  have not_launch : ¬ r.kind < 5 := by omega
  simp [movPush, State.pushAll, hr, hq, hb, hj, hc, he, hk, not_zero, not_launch]

end

theorem joinBad_eq_none {s : State} {l : ThreadId} {join : W64} (h : join = 0 ∨ s.place l 0 join.toNat 16 true = .ok none) :
    s.joinBad l join.toNat = none := by
  obtain rfl | h := h
  · simp [State.joinBad]
  · simp [State.joinBad, h]

/-- Settles O43: a UMOV is one pop of its group, a MOV one pop or one push of its thread. -/
theorem windowMoves : Obligations.WindowMoves := by
  refine ⟨?umov, ?mov_pop, ?mov_push⟩
  case umov =>
    intro f s l lt w x hl hw h u q team found hb hc hr hq
    have shards := pop_eq_popShards (s := u) (t := l.team) (q := q) (dies := [coreDieId l.team.core]) hr
    constructor
    · intro hf
      exact umov_of_pop_empty hl hw h rfl rfl rfl hb hc (shards.trans (popShards_empty hq hf))
    · intro cd r hf hwhole
      exact umov_of_pop_given hl hw h rfl rfl rfl hb hc (shards.trans (popShards_given hq hf hwhole))
  case mov_pop =>
    intro f s l t w x hl hw hs ht hg hc hb hm q found hq
    obtain ⟨goes, waits⟩ := mov_from_window hl hs ht hg hw hc
    constructor
    · intro hf
      exact waits _ (movPop_empty hb hm rfl (popShards_empty hq hf))
    · intro cd r hf hwhole
      exact goes _ (movPop_given hb hm rfl (popShards_given hq hf hwhole))
  case mov_push =>
    intro f s l t w hl hw hs ht hg hc hb hm r q u parks hjoin
    have hj := joinBad_eq_none hjoin
    obtain ⟨goes, waits⟩ := mov_to_window hl hs ht hg hw hc
    exact ⟨fun hk he hf => goes _ (movPush_queued rfl rfl hb hj hm he hk hf), fun hk he hf => waits _ (movPush_full rfl rfl hb hj hm he hk hf),
      fun hk he => goes _ (movPush_dropped rfl rfl hb hj hm he hk), fun hk he => waits _ (movPush_earlier rfl hb hj hm hk he)⟩

end Sys2Proof.Machine

namespace Sys2Proof.Machine

/-! # Traps of a whole group (R44) -/

theorem filterMap_eq_map_filter {α β : Type} {p : α → Bool} {f : α → Option β} {g : α → β} {l : List α}
    (h : ∀ x ∈ l, f x = if p x then some (g x) else none) : l.filterMap f = (l.filter p).map g := by
  induction l with
  | nil => rfl
  | cons x xs ih =>
    obtain ⟨hx, hxs⟩ := List.forall_mem_cons.mp h
    rw [List.filterMap_cons, List.filter_cons, hx, ih hxs]
    cases p x <;> rfl

/-- When the function traps in every guard-true thread, these keep their records, and the traps are raised once the others have stepped. -/
theorem overGroup_traps {s : State} {l : L1} {k : Nat} {f : ThreadId → Thread → Except Raise Thread} {r : ThreadId → Thread → Raise}
    (hon : s.forOn l fun id t => f id t = .error (r id t)) (hoff : ∀ id t, t.guard l.g l.gn = false → f id t = .ok (t.step k)) :
    s.overGroup f = (s.jumpNext l k fun _ t => t).raises ((s.onGroup l).map fun x => (x.1, r x.1 x.2)) := by
  have records : s.mapThreads (fun id t => if id ∈ s.gathered.ids then (match f id t with | .ok t' => t' | .error _ => t) else t) =
      s.jumpNext l k fun _ t => t := by
    refine mapThreads_congr s _ _ fun x hx => ?_
    by_cases hi : x.1 ∈ s.gathered.ids
    · cases hg : x.2.guard l.g l.gn with
      | true => simp [hi, hon x hx hi hg]
      | false => simp [hi, hoff _ _ hg]
    · simp [hi]
  have traps : (s.group.filterMap fun x => match f x.1 x.2 with | .ok _ => none | .error e => some (x.1, e)) =
      (s.onGroup l).map fun x => (x.1, r x.1 x.2) := by
    refine filterMap_eq_map_filter fun x hx => ?_
    obtain ⟨row, gathered, -⟩ := group_mem hx
    cases hg : x.2.guard l.g l.gn with
    | true => simp [hon x row gathered hg]
    | false => simp [hoff _ _ hg]
  unfold State.overGroup
  exact (congrArg (State.raises _) traps).trans (congrArg (State.raises · _) records)

section
variable {i : LaneDef} {s : State} {f : L1} {r : ThreadId → Thread → Raise}
variable (hg : i.g = f.g) (hn : i.gn = f.gn) (hl : i.legal = true) (ho : s.operandsPass f (i.opds i.nums))
variable (hs : s.forOn f fun id t => i.sem (s.env id) i.nums t = .error (r id t))
include hg hn hl ho hs

/-- A legal branch whose operands pass, and whose effect traps in every guard-true thread. -/
theorem runJump_traps : runJump i s = .next ((s.jumpNext f i.words fun _ t => t).raises ((s.onGroup f).map fun x => (x.1, r x.1 x.2))) := by
  rw [runJump, if_pos hl]
  refine congrArg _ (overGroup_traps (fun x hx hi hgx => ?_) fun id t ht => ?_)
  · simp [LaneDef.jump, hg, hn, hgx, ho x hx hi hgx, hs x hx hi hgx]
  · simp [LaneDef.jump, hg, hn, ht]

/-- The same for any other lane instruction. -/
theorem runLane_traps : runLane i s = .next ((s.jumpNext f i.words fun _ t => t).raises ((s.onGroup f).map fun x => (x.1, r x.1 x.2))) := by
  rw [runLane, if_pos hl]
  refine congrArg _ (overGroup_traps (fun x hx hi hgx => ?_) fun id t ht => ?_)
  · simp [LaneDef.run, hg, hn, hgx, ho x hx hi hgx, hs x hx hi hgx]
  · simp [LaneDef.run, hg, hn, ht]

end

/-- An instruction without register operands passes its operand checks. -/
theorem operandsPass_nil (s : State) (f : L1) : s.operandsPass f [] := fun _ _ _ _ => rfl

end Sys2Proof.Machine

namespace Sys2Proof.Machine

open Claims

/-! # Branches and calls (R111, R113) -/

theorem sgn_toNat_32 (x : W32) : sgn x.toNat 32 = x.toInt := by
  simp only [sgn, BitVec.toInt_eq_toNat_cond, Nat.mod_eq_of_lt x.isLt]
  split <;> split <;> omega

/-- The target of a relative branch, as the word offset that it reaches. -/
theorem relTarget_eq (e : Env) (t : Thread) (lit : W32) :
    relTarget e t lit = if branchTo t lit < 0 ∨ e.len ≤ branchTo t lit then none else some (branchTo t lit).toNat := by
  simp only [relTarget, sgn_toNat_32]
  exact ite_congr (by simp [branchTo]) (fun _ => rfl) fun _ => rfl

section
variable {link : Bool} {f : L2I} {s : State} (hl : (braDef link f).legal = true)
variable (ho : s.operandsPass f.toL1 ((braDef link f).opds (nums1 f.toL1)))
include hl ho

theorem runJump_braDef_inside (h : s.forOn f.toL1 fun id t => 0 ≤ branchTo t f.lit ∧ branchTo t f.lit < (s.env id).len) :
    runJump (braDef link f) s = .next (s.jumpNext f.toL1 2 fun _ t =>
      (if link then t.link f.d.toNat 2 else t).goto (branchTo t f.lit).toNat) := by
  refine runJump_next rfl rfl hl ho fun x hx hi hg => ?_
  have inside : ¬(branchTo x.2 f.lit < 0 ∨ ((s.env x.1).len : Int) ≤ branchTo x.2 f.lit) := by
    have := h x hx hi hg
    omega
  simp [braDef, nums1, relTarget_eq, inside]

theorem runJump_braDef_outside (h : s.forOn f.toL1 fun id t => branchTo t f.lit < 0 ∨ (s.env id).len ≤ branchTo t f.lit) :
    runJump (braDef link f) s = .next ((s.jumpNext f.toL1 2 fun _ t => t).raises
      ((s.onGroup f.toL1).map fun x => (x.1, trapR 0x06 0 0))) := by
  refine runJump_traps (r := fun _ _ => trapR 0x06 0 0) rfl rfl hl ho fun x hx hi hg => ?_
  simp [braDef, relTarget_eq, h x hx hi hg]

end

section
variable {link : Bool} {f : L1} {s : State} (hl : (brxDef link f).legal = true)
variable (ho : s.operandsPass f ((brxDef link f).opds (nums1 f)))
include hl ho

theorem runJump_brxDef_inside (h : s.forOn f fun id t => t.readReg (s.env id) f.a.toNat 1 < (s.env id).len) :
    runJump (brxDef link f) s = .next (s.jumpNext f 1 fun e t =>
      (if link then t.link f.d.toNat 1 else t).goto (t.readReg e f.a.toNat 1)) := by
  refine runJump_next rfl rfl hl ho fun x hx hi hg => ?_
  exact if_neg (Nat.not_le.mpr (h x hx hi hg))

theorem runJump_brxDef_outside (h : s.forOn f fun id t => (s.env id).len ≤ t.readReg (s.env id) f.a.toNat 1) :
    runJump (brxDef link f) s = .next ((s.jumpNext f 1 fun _ t => t).raises
      ((s.onGroup f).map fun x => (x.1, trapR 0x06 (x.2.readReg (s.env x.1) f.a.toNat 1) 0))) :=
  runJump_traps (r := fun id t => trapR 0x06 (t.readReg (s.env id) f.a.toNat 1) 0) rfl rfl hl ho fun x hx hi hg => if_pos (h x hx hi hg)

end

@[simp] theorem exec_bra (f : L2I) (s : State) : exec (.bra f) s = runJump (braDef false f) s := rfl
@[simp] theorem exec_call (f : L2I) (s : State) : exec (.call f) s = runJump (braDef true f) s := rfl
@[simp] theorem exec_brx (f : L1) (s : State) : exec (.brx f) s = runJump (brxDef false f) s := rfl
@[simp] theorem exec_callx (f : L1) (s : State) : exec (.callx f) s = runJump (brxDef true f) s := rfl

/-- Settles O17: the four are the relative and the indexed branch, each with and without a link. -/
theorem branchesAndCalls : Obligations.BranchesAndCalls := by
  unfold Obligations.BranchesAndCalls
  simp only [exec_bra, exec_call, exec_brx, exec_callx]
  refine ⟨fun f s hw h => ?bra, fun f s hw ho h => ?call, fun f s hw ho h => ?brx, fun f s hw ho h => ?callx,
    fun f s hw => runJump_braDef_outside hw (operandsPass_nil s f.toL1), fun _ _ hw ho => runJump_braDef_outside hw ho,
    fun _ _ hw ho => runJump_brxDef_outside hw ho, fun _ _ hw ho => runJump_brxDef_outside hw ho⟩
  case bra => simpa using runJump_braDef_inside (link := false) hw (operandsPass_nil s f.toL1) h
  case call => simpa [Thread.link] using runJump_braDef_inside (link := true) hw ho h
  case brx => simpa using runJump_brxDef_inside (link := false) hw ho h
  case callx => simpa [Thread.link] using runJump_brxDef_inside (link := true) hw ho h

end Sys2Proof.Machine

namespace Sys2Proof.Machine

/-! # The members of a team after a change of threads -/

theorem members_mapThreads (s : State) (f : ThreadId → Thread → Thread) (tm : TeamId) :
    (s.mapThreads f).members tm = (s.members tm).map fun x => (x.1, f x.1 x.2) := by
  simp [State.members, List.map_filterMap, Function.comp_def]

/-- A change that leaves every thread's life leaves the team's live threads. -/
theorem liveIds_updThreads {s : State} {ids : List ThreadId} {f : Thread → Thread} (hf : ∀ t, (f t).live = t.live) (tm : TeamId) :
    (s.updThreads ids f).liveIds tm = s.liveIds tm := by
  have same_life : ∀ x : ThreadId × Thread, (if x.1 ∈ ids then f x.2 else x.2).live = x.2.live := fun x => by split <;> simp [hf]
  simp [State.liveIds, State.updThreads, members_mapThreads, List.filter_map, Function.comp_def, same_life]

theorem eraseDups_eq_nil {α : Type} [BEq α] {l : List α} : l.eraseDups = [] ↔ l = [] := by
  cases l <;> simp [List.eraseDups_cons]

/-- A team waits at no rendezvous when no live member of it has arrived at one. -/
theorem arrivalPcs_eq_nil {s : State} {tm : TeamId} :
    s.arrivalPcs tm = [] ↔ ∀ x ∈ s.members tm, x.2.live = true → ∀ k, x.2.park ≠ .arrived k := by
  rw [State.arrivalPcs, eraseDups_eq_nil, List.filterMap_eq_nil_iff]
  refine forall₂_congr fun ⟨i, th⟩ _ => ?_
  dsimp only
  split
  · simp [*]
  · simp_all

/-- A change after which no thread has newly arrived leaves a team without arrivals. -/
theorem arrivalPcs_updThreads {s : State} {tm : TeamId} {ids : List ThreadId} {f : Thread → Thread}
    (hf : ∀ t k, (f t).live = true → (f t).park = .arrived k → t.live = true ∧ t.park = .arrived k) (ha : s.arrivalPcs tm = []) :
    (s.updThreads ids f).arrivalPcs tm = [] := by
  rw [arrivalPcs_eq_nil] at ha ⊢
  simp only [State.updThreads, members_mapThreads, List.forall_mem_map]
  intro x hx hlive k hk
  split at hlive
  · rw [if_pos ‹_›] at hk
    obtain ⟨live, arrived⟩ := hf x.2 k hlive hk
    exact ha x hx live k arrived
  · rw [if_neg ‹_›] at hk
    exact ha x hx hlive k hk

theorem checkRendezvous_of_no_arrivals {s : State} {tm : TeamId} (h : s.arrivalPcs tm = []) : s.checkRendezvous tm = s := by
  simp [State.checkRendezvous, h]

/-! # Threads that retire (R115, R316) -/

/-- A thread that has ended. -/
def Thread.ended (t : Thread) : Thread := { t with live := false, park := .ready }

section
variable {s : State} {tm : TeamId} {ids : List ThreadId}

theorem retire_of_team (hne : ids ≠ []) (ht : ∀ i ∈ ids, i.team = tm) : s.retire ids = s.retireTeam tm ids := by
  have one_team : (ids.map (·.team)).eraseDups = [tm] := eraseDups_of_all_eq (by simpa using hne) (by simpa using ht)
  have all_of_it : (ids.filter fun i => i.team = tm) = ids := List.filter_eq_self.mpr fun i hi => by simp [ht i hi]
  simp [State.retire, one_team, all_of_it]

/-- While another live thread stays, and nobody waits at a rendezvous, the threads end and nothing else happens. -/
theorem retireTeam_of_stays (hs : ∃ i ∈ s.liveIds tm, i ∉ ids) (ha : s.arrivalPcs tm = []) :
    s.retireTeam tm ids = s.updThreads ids Thread.ended := by
  obtain ⟨i, live, stays⟩ := hs
  have not_all : ¬(s.liveIds tm).all (fun i => ids.contains i) = true := fun h => stays (by simpa using List.all_eq_true.mp h i live)
  rw [State.retireTeam, if_neg not_all]
  exact checkRendezvous_of_no_arrivals (arrivalPcs_updThreads (fun _ _ h => nomatch h) ha)

/-- The last live threads end the task with them. -/
theorem retireTeam_of_last (hs : ∀ i ∈ s.liveIds tm, i ∈ ids) (hc : s.endCommits tm = false) :
    s.retireTeam tm ids = (s.updThreads ids Thread.ended).endTask tm true := by
  have all : (s.liveIds tm).all (fun i => ids.contains i) = true := List.all_eq_true.mpr fun i hi => by simpa using hs i hi
  rw [State.retireTeam, if_pos all, hc]
  rfl

end

end Sys2Proof.Machine

namespace Sys2Proof.Machine

open Claims

/-! # Control without targets (R114 to R118, R121) -/

@[simp] theorem exec_nop (f : L1) (s : State) : exec (.nop f) s = runLane (bareDef f) s := rfl
@[simp] theorem exec_yield (f : L1) (s : State) : exec (.yield f) s = execYield f s := rfl
@[simp] theorem exec_bkpt (f : L1) (s : State) : exec (.bkpt f) s = execBkpt f s := rfl
@[simp] theorem exec_conv (f : L1) (s : State) : exec (.conv f) s = execConv f s := rfl
@[simp] theorem exec_ret (f : L1) (s : State) : exec (.ret f) s = execRet f s := rfl
@[simp] theorem exec_exit (f : L1) (s : State) : exec (.exit f) s = execExit f s := rfl

section
variable {f : L1} {s : State} (hl : (bareDef f).legal = true)
include hl

theorem runLane_bareDef : runLane (bareDef f) s = .next (s.laneNext f 1 fun _ t => t) :=
  runLane_next rfl rfl hl (operandsPass_nil s f) fun _ _ _ _ => rfl

theorem execYield_waits : execYield f s = .next (s.laneNext f 1 fun _ t => { t with park := .yielding }) :=
  runLane_next rfl rfl hl (operandsPass_nil s f) fun _ _ _ _ => rfl

theorem execBkpt_traps : execBkpt f s = .next ((s.jumpNext f 1 fun _ t => t).raises ((s.onGroup f).map fun x =>
    (x.1, { trapR 0x30 0 0 with link := some { x.2.pc with off := x.2.pc.off + 1 } }))) :=
  runLane_traps (r := fun _ t => { trapR 0x30 0 0 with link := some { t.pc with off := t.pc.off + 1 } }) rfl rfl hl (operandsPass_nil s f)
    fun _ _ _ _ => rfl

theorem execConv_arrives (hr : s.gathered.rdv = false) : execConv f s = .next (s.arrive (s.gathered.ids.map fun i => (i, .conv))) := by
  simp [execConv, hl, hr]

theorem execConv_released (hr : s.gathered.rdv = true) : execConv f s = .next (s.stepAll s.gathered.ids 1) := by
  simp [execConv, hl, hr]

end

/-- NOP, YIELD, BKPT and CONV do what R116 to R118 and R121 say. -/
theorem bareControl : BareControl := by
  unfold BareControl
  simp only [exec_nop, exec_yield, exec_bkpt, exec_conv]
  exact ⟨fun _ _ hw => runLane_bareDef hw, fun _ _ hw => execYield_waits hw, fun _ _ hw => execBkpt_traps hw,
    fun _ _ hw hr => execConv_arrives hw hr, fun _ _ hw hr => execConv_released hw hr⟩

/-! ## RET -/

/-- The link pair that a RET of a thread reads. -/
def linkRead (s : State) (f : L1) (x : ThreadId × Thread) : ThreadId × Nat × Nat :=
  (x.1, x.2.readReg (s.env x.1) f.a.toNat 1, x.2.readReg (s.env x.1) (f.a.toNat + 1) 1)

theorem execRet_returns {f : L1} {s : State} (hl : (retDef f).legal = true) (ho : s.operandsPass f [⟨.src 2, f.a.toNat⟩])
    (hr : s.forOn f fun id t => t.readReg (s.env id) f.a.toNat 1 < 2 ^ 16 ∧ t.readReg (s.env id) (f.a.toNat + 1) 1 < 2 ^ 14) :
    execRet f s = .next ((s.onGroup f).foldl (fun u x => u.ifRuns x.1.team fun u =>
      u.returnTo x.1 (x.2.readReg (s.env x.1) f.a.toNat 1) (x.2.readReg (s.env x.1) (f.a.toNat + 1) 1)) (s.jumpNext f 1 fun _ t => t)) := by
  have passes : s.forOn f fun id t => (retDef f).sem (s.env id) (retDef f).nums t = .ok t := fun x hx hi hg => by
    obtain ⟨htok, hoff⟩ := hr x hx hi hg
    simpa [retDef, nums1] using And.intro htok hoff
  have steps : s.overGroup (fun id t => (retDef f).jump (s.env id) t) = s.jumpNext f 1 fun _ t => t := by
    have runs := runJump_next (e := fun _ t => t) rfl rfl hl ho passes
    rw [runJump, if_pos hl] at runs
    exact Host.Outcome.next.inj runs
  rw [execRet]
  simp only [hl, Bool.not_true, Bool.false_eq_true, if_false, steps]
  rw [filterMap_eq_map_filter (p := fun x => x.2.guard f.g f.gn) (g := linkRead s f), List.foldl_map]
  · rfl
  · intro x hx
    obtain ⟨row, gathered, -⟩ := group_mem hx
    by_cases hg : x.2.guard f.g f.gn = true
    · have checks : regCheck x.2 ((retDef f).opds (retDef f).nums) = none := ho x row gathered hg
      have jumps : (retDef f).jump (s.env x.1) x.2 = .ok x.2 := by
        simp only [LaneDef.jump, checks, passes x row gathered hg]
        exact if_pos hg
      simp only [jumps]
      rfl
    · exact (if_neg hg).trans (if_neg hg).symm

/-! ## EXIT -/

/-- The guard-true threads of a group that retire at once, and those that wait for their loads. -/
def State.goIds (s : State) (f : L1) : List ThreadId := ((s.onGroup f).filter fun x => x.2.ldn = 0).map (·.1)
def State.waitIds (s : State) (f : L1) : List ThreadId := ((s.onGroup f).filter fun x => x.2.ldn ≠ 0).map (·.1)

/-- The state in which the threads of an EXIT that do not retire at once have stepped past it or wait. -/
def State.exiting (s : State) (f : L1) : State :=
  (s.stepAll (s.offIds f) 1).updThreads (s.waitIds f) fun t => { t with park := .exiting }

theorem liveIds_exiting (s : State) (f : L1) (tm : TeamId) : (s.exiting f).liveIds tm = s.liveIds tm := by
  rw [State.exiting, State.stepAll, liveIds_updThreads, liveIds_updThreads] <;> exact fun _ => rfl

theorem endCommits_exiting (s : State) (f : L1) (tm : TeamId) : (s.exiting f).endCommits tm = s.endCommits tm := rfl

theorem arrivalPcs_exiting {s : State} {f : L1} {tm : TeamId} (h : s.arrivalPcs tm = []) : (s.exiting f).arrivalPcs tm = [] :=
  arrivalPcs_updThreads (fun _ _ _ h => nomatch h) (arrivalPcs_updThreads (fun _ _ hl hp => ⟨hl, hp⟩) h)

section
variable {f : L1} {s : State} {tm : TeamId}

theorem execExit_eq (hl : (bareDef f).legal = true) : execExit f s = .next ((s.exiting f).retire (s.goIds f)) := by
  rw [execExit]
  simp only [hl, Bool.not_true, Bool.false_eq_true, if_false]
  rfl

theorem go_team (ht : ∀ x ∈ s.onGroup f, x.1.team = tm) : ∀ i ∈ s.goIds f, i.team = tm := by
  intro i hi
  obtain ⟨x, hx, rfl⟩ := List.mem_map.mp hi
  exact ht x (List.mem_filter.mp hx).1

theorem goIds_of_no_loads (h : ∀ x ∈ s.onGroup f, x.2.ldn = 0) : s.goIds f = s.onIds f := by
  rw [State.goIds, List.filter_eq_self.mpr fun x hx => by simp [h x hx]]
  rfl

theorem goIds_of_loads (h : ∀ x ∈ s.onGroup f, x.2.ldn ≠ 0) : s.goIds f = [] := by
  rw [State.goIds, List.filter_eq_nil_iff.mpr fun x hx => by simp [h x hx]]
  rfl

theorem exiting_of_no_loads (h : ∀ x ∈ s.onGroup f, x.2.ldn = 0) : s.exiting f = s.stepAll (s.offIds f) 1 := by
  have none_wait : s.waitIds f = [] := by
    rw [State.waitIds, List.filter_eq_nil_iff.mpr fun x hx => by simp [h x hx]]
    rfl
  rw [State.exiting, none_wait, updThreads_nil]

theorem exiting_of_loads (h : ∀ x ∈ s.onGroup f, x.2.ldn ≠ 0) :
    s.exiting f = (s.stepAll (s.offIds f) 1).updThreads (s.onIds f) fun t => { t with park := .exiting } := by
  rw [State.exiting, State.waitIds, List.filter_eq_self.mpr fun x hx => by simp [h x hx]]
  rfl

/-- While another live thread of the team stays, the threads without loads end and nothing else happens. -/
theorem execExit_of_stays (hl : (bareDef f).legal = true) (ht : ∀ x ∈ s.onGroup f, x.1.team = tm) (hne : s.goIds f ≠ [])
    (hs : ∃ i ∈ s.liveIds tm, i ∉ s.goIds f) (ha : s.arrivalPcs tm = []) :
    execExit f s = .next ((s.exiting f).updThreads (s.goIds f) Thread.ended) := by
  rw [execExit_eq hl, retire_of_team hne (go_team ht)]
  rw [retireTeam_of_stays (by rwa [liveIds_exiting]) (arrivalPcs_exiting ha)]

/-- The exit of a team's last live threads ends the task. -/
theorem execExit_of_last (hl : (bareDef f).legal = true) (ht : ∀ x ∈ s.onGroup f, x.1.team = tm) (hne : s.goIds f ≠ [])
    (hs : ∀ i ∈ s.liveIds tm, i ∈ s.goIds f) (hc : s.endCommits tm = false) :
    execExit f s = .next (((s.exiting f).updThreads (s.goIds f) Thread.ended).endTask tm true) := by
  rw [execExit_eq hl, retire_of_team hne (go_team ht)]
  rw [retireTeam_of_last (by rwa [liveIds_exiting]) ((endCommits_exiting s f tm).trans hc)]

end

/-- RET and EXIT do what R114, R115 and R316 say. -/
theorem returnAndExit : ReturnAndExit := by
  unfold ReturnAndExit
  simp only [exec_ret, exec_exit]
  refine ⟨fun _ _ hw ho hr => execRet_returns hw ho hr, ?no_loads, ?loads, fun _ _ _ hw ht hne hs ha => execExit_of_stays hw ht hne hs ha, ?last⟩
  case no_loads =>
    intro f s tm hw hld ht hne hs ha
    rw [← goIds_of_no_loads hld] at hne hs ⊢
    rw [execExit_of_stays hw ht hne hs ha, exiting_of_no_loads hld]
    rfl
  case loads =>
    intro f s hw hld
    rw [execExit_eq hw, goIds_of_loads hld, exiting_of_loads hld]
    rfl
  case last =>
    intro f s tm hw hon hne hs hc
    have hld : ∀ x ∈ s.onGroup f, x.2.ldn = 0 := fun x hx => (hon x hx).2
    have hon_ids : s.onIds f ≠ [] := mt List.map_eq_nil_iff.mp hne
    rw [← goIds_of_no_loads hld] at hon_ids hs ⊢
    rw [execExit_of_last hw (fun x hx => (hon x hx).1) hon_ids hs hc, exiting_of_no_loads hld]
    rfl

/-- Settles O18: NOP, YIELD and BKPT are lane frames, CONV an arrival, RET a jump and then its threads' returns, EXIT a retirement. -/
theorem controlWithoutTargets : Obligations.ControlWithoutTargets := ⟨bareControl, returnAndExit⟩

end Sys2Proof.Machine

namespace Sys2Proof.Machine

open Claims

/-! # The order and the values of reductions (R128 to R130) -/

/-- A level of the tree joins the nodes of the level below, two and two (R129). -/
theorem treeLevel_range (tag n : Nat) (node : Nat → Option Res) : treeLevel tag ((List.range (2 * n)).map node) =
    (List.range n).map fun i => joinNodes tag (node (2 * i)) (node (2 * i + 1)) := by
  induction n generalizing node with
  | zero => rfl
  | succ n ih =>
    have later : ∀ i, 2 * (i + 1) = 2 * i + 1 + 1 := fun i => by omega
    rw [later, List.range_succ_eq_map, List.range_succ_eq_map, List.range_succ_eq_map]
    simp only [List.map_cons, List.map_map, treeLevel]
    exact congrArg _ (ih (node ∘ Nat.succ ∘ Nat.succ))

theorem treeNode_succ (tag : Nat) (leaf : Nat → Option Res) (n i : Nat) :
    treeNode tag leaf (n + 1) i = joinNodes tag (treeNode tag leaf n (2 * i)) (treeNode tag leaf n (2 * i + 1)) := by
  rw [treeNode]
  cases treeNode tag leaf n (2 * i) <;> cases treeNode tag leaf n (2 * i + 1) <;> rfl

/-- The nodes of level n of the tree make those of the next. -/
theorem treeLevel_treeNode (tag k n : Nat) (leaf : Nat → Option Res) :
    treeLevel tag ((List.range (2 * k)).map (treeNode tag leaf n)) = (List.range k).map (treeNode tag leaf (n + 1)) := by
  rw [treeLevel_range]
  exact List.map_congr_left fun i _ => (treeNode_succ tag leaf n i).symm

theorem treeSum_eq_root (tag : Nat) (leaf : Nat → Option Res) :
    treeSum tag ((List.range 32).map leaf) = (treeNode tag leaf 5 0).getD ⟨0, 0⟩ := by
  have leaves : (List.range 32).map leaf = (List.range 32).map (treeNode tag leaf 0) := rfl
  have root : treeLevel tag (treeLevel tag (treeLevel tag (treeLevel tag (treeLevel tag ((List.range 32).map leaf))))) =
      [treeNode tag leaf 5 0] := by
    rw [leaves, treeLevel_treeNode tag 16, treeLevel_treeNode tag 8, treeLevel_treeNode tag 4, treeLevel_treeNode tag 2,
      treeLevel_treeNode tag 1]
    rfl
  rw [treeSum, root]
  cases treeNode tag leaf 5 0 <;> rfl

theorem scanSum_append (tag x y : Nat) (xs : List Nat) : scanSum tag (x :: xs ++ [y]) =
    ⟨(addTag tag (scanSum tag (x :: xs)).val y).val, (addTag tag (scanSum tag (x :: xs)).val y).flags ||| (scanSum tag (x :: xs)).flags⟩ := by
  simp only [scanSum, List.cons_append, List.foldl_append, List.foldl_cons, List.foldl_nil]

/-- A fold that keeps, of the value that it has and the next one, the one that bounds both, ends with one of the values, which bounds all. -/
theorem foldl_pick_extreme {α : Type} {le : α → α → Prop} {pick : α → α → α} (hrefl : ∀ a, le a a)
    (htrans : ∀ a b c, le a b → le b c → le a c) (hpick : ∀ a b, pick a b = a ∨ pick a b = b)
    (hle : ∀ a b, le a (pick a b) ∧ le b (pick a b)) (y : α) (ys : List α) :
    ys.foldl pick y ∈ y :: ys ∧ ∀ x ∈ y :: ys, le x (ys.foldl pick y) := by
  induction ys generalizing y with
  | nil => simpa using hrefl y
  | cons z zs ih =>
    obtain ⟨mem, bounds⟩ := ih (pick y z)
    obtain ⟨first, rest⟩ := List.forall_mem_cons.mp bounds
    refine ⟨?_, List.forall_mem_cons.mpr ⟨htrans _ _ _ (hle y z).1 first, List.forall_mem_cons.mpr ⟨htrans _ _ _ (hle y z).2 first, rest⟩⟩⟩
    obtain h | h := List.mem_cons.mp mem
    · rw [List.foldl_cons, h]
      obtain h | h := hpick y z <;> simp [h]
    · exact List.mem_cons_of_mem _ (List.mem_cons_of_mem _ h)

/-- A register value as a reduction's MOD reads it (R128). -/
def intValue (unsigned : Bool) (n : Nat) : Int := if unsigned then (n : Int) else sgn n 32

/-- The one of two values that a maximum or a minimum keeps. -/
def pickInt (big unsigned : Bool) (a b : Nat) : Nat :=
  if intValue unsigned a < intValue unsigned b then (if big then b else a) else (if big then a else b)

theorem extremeI_cons (big unsigned : Bool) (y : Nat) (ys : List Nat) : extremeI big unsigned (y :: ys) = ys.foldl (pickInt big unsigned) y := by
  have same_pick : ∀ a b, (if big then (if (if unsigned then decide (a < b) else decide (sgn a 32 < sgn b 32)) then b else a)
      else (if (if unsigned then decide (a < b) else decide (sgn a 32 < sgn b 32)) then a else b)) = pickInt big unsigned a b := by
    intro a b
    cases big <;> cases unsigned <;> simp [pickInt, intValue]
  simp only [extremeI, same_pick]

/-- A value lies no further than another in the direction of a maximum or a minimum. -/
def NotBeyond (big unsigned : Bool) (a b : Nat) : Prop :=
  if big then intValue unsigned a ≤ intValue unsigned b else intValue unsigned b ≤ intValue unsigned a

theorem notBeyond_trans {big unsigned : Bool} {a b c : Nat} (hab : NotBeyond big unsigned a b) (hbc : NotBeyond big unsigned b c) :
    NotBeyond big unsigned a c := by
  cases big with
  | true => exact Int.le_trans hab hbc
  | false => exact Int.le_trans hbc hab

theorem notBeyond_pickInt (big unsigned : Bool) (a b : Nat) :
    NotBeyond big unsigned a (pickInt big unsigned a b) ∧ NotBeyond big unsigned b (pickInt big unsigned a b) := by
  by_cases h : intValue unsigned a < intValue unsigned b
  · cases big <;> simp [NotBeyond, pickInt, h, Int.le_of_lt h]
  · cases big <;> simp [NotBeyond, pickInt, h, Int.not_lt.mp h]

theorem pickInt_eq_or_eq (big unsigned : Bool) (a b : Nat) : pickInt big unsigned a b = a ∨ pickInt big unsigned a b = b := by
  by_cases h : intValue unsigned a < intValue unsigned b
  · cases big <;> simp [pickInt, h]
  · cases big <;> simp [pickInt, h]

theorem extremeI_extreme (big unsigned : Bool) {xs : List Nat} (hne : xs ≠ []) :
    extremeI big unsigned xs ∈ xs ∧ ∀ x ∈ xs, NotBeyond big unsigned x (extremeI big unsigned xs) := by
  obtain ⟨y, ys, rfl⟩ := List.exists_cons_of_ne_nil hne
  rw [extremeI_cons]
  exact foldl_pick_extreme (le := NotBeyond big unsigned) (pick := pickInt big unsigned) (fun a => by simp [NotBeyond])
    (fun _ _ _ => notBeyond_trans) (pickInt_eq_or_eq big unsigned) (notBeyond_pickInt big unsigned) y ys

/-- The reductions add and choose as R128 and R129 say. -/
theorem reductionValues : ReductionValues :=
  ⟨treeSum_eq_root, scanSum_append, fun big unsigned _ hne => extremeI_extreme big unsigned hne⟩

end Sys2Proof.Machine

namespace Sys2Proof.Machine

open Claims

/-! # What a released set performs (R121, R126 to R128) -/

/-- A legal cross-lane instruction of a released set, whose act does not trap. -/
theorem runCross_performs {i : CrossDef} {s : State} {f : L1} {e : ThreadId → Thread → Thread} (hg : i.g = f.g) (hn : i.gn = f.gn)
    (hl : i.legal = true) (hr : s.gathered.rdv = true) (ha : i.act s.env (s.onGroup f) = .ok e) :
    runCross i s = .next (s.crossNext f e) := by
  have active : (s.group.filter fun x => x.2.guard i.g i.gn) = s.onGroup f := by rw [hg, hn]; rfl
  simp only [runCross, hl, hr, Bool.not_true, Bool.false_eq_true, if_false, if_true, active, ha]
  rfl

/-- An instruction that runs the frame of cross-lane instructions performs its act, which never traps. -/
theorem crossForm_of_runCross (d : L2R → CrossDef) {c : L2R → Instr}
    {e : (f : L2R) → (ThreadId → Env) → List (ThreadId × Thread) → ThreadId → Thread → Thread}
    (hc : ∀ f s, exec (c f) s = runCross (d f) s := by exact fun _ _ => rfl)
    (hl : ∀ f, (c f).WellFormed → (d f).legal = true := by exact fun _ h => h)
    (hd : ∀ f, (d f).g = f.g ∧ (d f).gn = f.gn := by exact fun _ => ⟨rfl, rfl⟩)
    (ha : ∀ f env active, (d f).act env active = .ok (e f env active) := by exact fun _ _ _ => rfl) : CrossForm c e :=
  fun f s hw hr => (hc f s).trans (runCross_performs (hd f).1 (hd f).2 (hl f hw) hr (ha f s.env _))

/-- What the reduction of minor k gives a member, over active members that carry a common tag. -/
def reduceResult (k : Nat) (f : L2R) (env : ThreadId → Env) (tag : Nat) (active : List (ThreadId × Thread)) (id : ThreadId) : Res :=
  match k with
  | 0 => treeSum tag ((List.range 32).map fun l => (active.find? fun x => x.1.lane = l).map fun x => ⟨x.2.readReg (env x.1) f.a.toNat 1, 0⟩)
  | 3 => scanSum tag (laneValues f env (active.filter fun x => x.1.lane < id.lane || (x.1.lane = id.lane && !f.mod.getLsbD 1)))
  | k => if tag = 1 then extremeF (k = 1) (laneValues f env active) else ⟨extremeI (k = 1) (f.mod.getLsbD 0) (laneValues f env active), 0⟩

/-- A reduction over active members with a common tag that it takes does not trap. -/
theorem reduceDef_act {k : Nat} {f : L2R} {env : ThreadId → Env} {tag : Nat} {active : List (ThreadId × Thread)} (hk : k < 4)
    (hne : active ≠ []) (ht : tag ∈ [0, 1, 12]) (ha : ∀ x ∈ active, x.2.tagOf f.a.toNat = tag) (hu : tag = 1 → f.mod.getLsbD 0 = false) :
    (reduceDef k f).act env active = .ok fun id t =>
      (t.writeReg f.d.toNat 1 (reduceResult k f env tag active id).val tag).addFlags (reduceResult k f env tag active id).flags := by
  have first_tag : (active.map fun x => x.2.tagOf f.a.toNat).headD 0 = tag := by
    obtain ⟨x, xs, rfl⟩ := List.exists_cons_of_ne_nil hne
    exact ha x List.mem_cons_self
  have common : (active.map fun x => x.2.tagOf f.a.toNat).all (· = tag) = true := by simpa using ha
  have taken : [0, 1, 12].contains tag = true := List.contains_iff_mem.mpr ht
  have signed : (decide (tag = 1) && f.mod.getLsbD 0) = false := by
    rw [Bool.and_eq_false_imp]
    exact fun h => hu (of_decide_eq_true h)
  simp only [reduceDef, first_tag, common, taken, signed]
  match k, hk with
  | 0, _ | 1, _ | 2, _ | 3, _ => rfl

/-- The reduction of minor k, as its instruction. -/
theorem reduceForm_of_minor (k : Nat) {c : L2R → Instr} (hk : k < 4 := by decide)
    (hc : ∀ f s, exec (c f) s = runCross (reduceDef k f) s := by exact fun _ _ => rfl)
    (hl : ∀ f, (c f).WellFormed → (reduceDef k f).legal = true := by exact fun _ h => h) : ReduceForm c (reduceResult k) :=
  fun f s _ hw hr hne ht ha hu => (hc f s).trans (runCross_performs rfl rfl (hl f hw) hr (reduceDef_act hk hne ht ha hu))

theorem crossForm_leadp : CrossForm .leadp fun f _ active id t => t.setPred f.d.toNat (active.head?.map (·.1) = some id) :=
  crossForm_of_runCross leadpDef (ha := fun f env active => by simp only [leadpDef, eq_comm])

/-- Settles O20: all eleven run one frame, and differ in the act that it performs; the reductions' acts take the members' common tag. -/
theorem crossLanePerforms : Obligations.CrossLanePerforms :=
  ⟨crossForm_of_runCross (peekDef false), crossForm_of_runCross (peekDef true), crossForm_of_runCross (voteDef true),
    crossForm_of_runCross (voteDef false), crossForm_of_runCross pmaskDef, crossForm_of_runCross peersDef, crossForm_leadp,
    reduceForm_of_minor 0, reduceForm_of_minor 1, reduceForm_of_minor 2, reduceForm_of_minor 3, reductionValues⟩

end Sys2Proof.Machine

namespace Sys2Proof.Machine

/-! # Waits that end (R115, R116, R121, R217, R221, R343) -/

@[simp] theorem exec_rendezvousComplete (t : TeamId) (s : State) : exec (.rendezvousComplete t) s = .next (s.releaseSet t) := rfl
@[simp] theorem exec_threadRetire (i : ThreadId) (s : State) : exec (.threadRetire i) s = execThreadRetire i s := rfl

/-- The rendezvous found first, when complete, is released as the set of the next number. -/
theorem releaseSet_of_complete {s : State} {t : TeamId} {pc : Pc} {pcs : List Pc} {ids : List ThreadId} (ha : s.arrivalPcs t = pc :: pcs)
    (hc : s.complete? t pc = some ids) : s.releaseSet t = { s with seq := s.seq + 1 }.updThreads ids fun th => th.release s.seq := by
  simp [State.releaseSet, ha, hc, State.fresh]

/-! ## The end of a wait at EXIT -/

theorem execThreadRetire_of_no_loads {s : State} {i : ThreadId} {th : Thread} (ht : s.thread i = some th) (hp : th.park = .exiting)
    (hv : th.live = true) (hl : th.ldn = 0) (hd : th.deferred = []) : execThreadRetire i s = .next (s.retireTeam i.team [i]) := by
  simp [execThreadRetire, ht, hp, hv, hl, hd, retire_of_team (s := s) (tm := i.team) (List.cons_ne_nil i [])]

/-! ## The end of a wait at a barrier -/

/-- The wait of a member of a team at a barrier is over. -/
def State.waitOver (s : State) (t : TeamId) (i : ThreadId) (th : Thread) : Bool :=
  match th.park with
  | .bar b d => phaseOver (s.bar b).phase d
  | .barWord a d =>
    (match s.translate (viewAt (s.ctxId i) t.core) (a + 4) false with
     | .ok p => phaseOver (w32 (memRead s.mem p.key 4)) d
     | .error _ => false)
  | _ => false

/-- The address at which the barrier word that a member waits at does not translate. -/
def State.lostWord (s : State) (t : TeamId) (i : ThreadId) (th : Thread) : Option Nat :=
  match th.park with
  | .barWord a _ => s.missVa (viewAt (s.ctxId i) t.core) (a + 4) 4 false
  | _ => none

/-- The members of a team whose wait at a barrier is over. -/
def State.dueMembers (s : State) (t : TeamId) : List (ThreadId × Thread) :=
  (s.members t).filter fun x => x.2.live && s.waitOver t x.1 x.2

/-- When every barrier word that a member waits at translates, the members whose wait is over step past the barrier. -/
theorem execBarrierRelease_of_translates {s : State} {t : TeamId} (hw : ∀ x ∈ s.members t, s.lostWord t x.1 x.2 = none) :
    execBarrierRelease t s = .next ((if (s.dueMembers t).any (fun x => atWord x.2.park) then s.acquire t.core else s).updThreads
      ((s.dueMembers t).map (·.1)) fun th => { th.step 2 with park := .ready }) := by
  unfold execBarrierRelease
  extract_lets due lost
  have none_lost : lost = none := List.findSome?_eq_none_iff.mpr fun x hx => by
    have translates := hw x hx
    unfold State.lostWord at translates
    split at translates <;> simp_all
  rw [none_lost]
  rfl

/-- Without a barrier word, a member is due when the phase of its barrier has ended. -/
theorem dueMembers_of_no_word {s : State} {t : TeamId} (hw : ∀ x ∈ s.members t, ∀ a d, x.2.park ≠ .barWord a d) :
    s.dueMembers t = (s.members t).filter fun x => x.2.live && (match x.2.park with
      | .bar b d => 1 ≤ ((s.bar b).phase - d).toNat && ((s.bar b).phase - d).toNat ≤ 2 ^ 31
      | _ => false) := by
  refine List.filter_congr fun x hx => congrArg _ ?_
  have no_word := hw x hx
  unfold State.waitOver
  split <;> simp_all [phaseOver]

theorem atWord_eq_false {p : Park} (h : ∀ a d, p ≠ .barWord a d) : atWord p = false := by
  cases p with
  | barWord a d => exact absurd rfl (h a d)
  | _ => rfl

theorem execBarrierRelease_of_no_word {s : State} {t : TeamId} {due : List (ThreadId × Thread)}
    (hw : ∀ x ∈ s.members t, ∀ a d, x.2.park ≠ .barWord a d) (hd : s.dueMembers t = due) :
    execBarrierRelease t s = .next (s.updThreads (due.map (·.1)) fun th => { th.step 2 with park := .ready }) := by
  have no_acquire : (s.dueMembers t).any (fun x => atWord x.2.park) = false :=
    List.any_eq_false.mpr fun x hx => by simp [atWord_eq_false (hw x (List.mem_filter.mp hx).1)]
  rw [execBarrierRelease_of_translates, no_acquire, hd]
  · rfl
  · intro x hx
    have no_word := hw x hx
    unfold State.lostWord
    split <;> simp_all

/-- A team of one thread whose phase of a barrier word has ended. -/
theorem execBarrierRelease_of_word {s : State} {t : TeamId} {i : ThreadId} {th : Thread} {a : Nat} {d : W32} {p : Place}
    (hm : s.members t = [(i, th)]) (hv : th.live = true) (hp : th.park = .barWord a d)
    (htr : s.translate (viewAt (s.ctxId i) t.core) (a + 4) false = .ok p)
    (hmiss : s.missVa (viewAt (s.ctxId i) t.core) (a + 4) 4 false = none) (hph : phaseOver (w32 (memRead s.mem p.key 4)) d = true) :
    execBarrierRelease t s = .next ((s.acquire t.core).updThreads [i] fun th => { th.step 2 with park := .ready }) := by
  have due : s.dueMembers t = [(i, th)] := by simp [State.dueMembers, hm, hv, State.waitOver, hp, htr, hph]
  rw [execBarrierRelease_of_translates, due]
  · simp [hp, atWord]
  · simp [hm, State.lostWord, hp, hmiss]

/-! ## The end of a fence -/

theorem execHeldAccessRelease_of_done {s : State} {i : ThreadId} {th : Thread} {f : Fence} (ht : s.thread i = some th)
    (hf : th.fences = [f]) (hd : s.fenceDone i f = true) : execHeldAccessRelease i s =
      .next (((s.windowDrop i f.scope).exposeFence i f).updThread i fun th => { th with fences := th.fences.filter fun g => g ≠ f }) := by
  simp [execHeldAccessRelease, ht, hf, hd]

/-- Settles O33: a complete rendezvous is released, a thread at EXIT retires, the due members of a barrier step past it, and a satisfied fence
goes. -/
theorem waitsEnd : Obligations.WaitsEnd := by
  refine ⟨?rendezvous, fun _ _ _ _ _ => rfl, ?retire, ?retire_last, ?barrier, ?word, ?fence⟩
  case rendezvous =>
    intro s t pc pcs ids ha hc
    rw [exec_rendezvousComplete, releaseSet_of_complete ha hc]
    rfl
  case retire =>
    intro s i th ht hp hv hl hd ⟨j, live, stays⟩ ha
    rw [exec_threadRetire, execThreadRetire_of_no_loads ht hp hv hl hd, retireTeam_of_stays ⟨j, live, by simpa using stays⟩ ha]
    rfl
  case retire_last =>
    intro s i th ht hp hv hl hd last hc
    rw [exec_threadRetire, execThreadRetire_of_no_loads ht hp hv hl hd, retireTeam_of_last (by simpa using last) hc]
    rfl
  case barrier =>
    intro s t hw
    exact execBarrierRelease_of_no_word hw (dueMembers_of_no_word hw)
  case word =>
    intro s t i th a d p hm hv hp htr hmiss ph hlow hhigh
    exact execBarrierRelease_of_word hm hv hp htr hmiss (by simpa [phaseOver] using And.intro hlow hhigh)
  case fence =>
    intro s i th f ht hf hd
    exact execHeldAccessRelease_of_done ht hf hd

end Sys2Proof.Machine

namespace Sys2Proof.Machine

open Claims

/-! # Element instructions: the checks of tags and of the shadow units (R133, R149) -/

theorem mem_rangeFrom {n w k : Nat} : k ∈ rangeFrom n w ↔ ∃ j < w, n + j = k := by
  simp [rangeFrom]

/-- The tags pass when every register of every group carries one that the group accepts. -/
theorem tagFail_eq_none {t : Thread} {gs : List (Nat × Nat × List Nat)} (h : ∀ g ∈ gs, ∀ j < g.2.1, t.tagOf (g.1 + j) ∈ g.2.2) :
    tagFail t gs = none := by
  induction gs with
  | nil => rfl
  | cons g gs ih =>
    obtain ⟨hg, hgs⟩ := List.forall_mem_cons.mp h
    have none_fails : ((rangeFrom g.1 g.2.1).find? fun k => !g.2.2.contains (t.tagOf k)) = none := by
      rw [List.find?_eq_none]
      intro k hk
      obtain ⟨j, hj, rfl⟩ := mem_rangeFrom.mp hk
      simp [hg j hj]
    simp only [tagFail, none_fails, ih hgs]

theorem shadowTrap_of_sound {e : Env} (h : e.sound) (f : FFmt) (compared : Nat → Nat → Bool) (full : Nat → Nat → Nat) (g n : Nat) :
    shadowTrap e f compared full g n = none := by
  unfold shadowTrap
  obtain h | h := h
  · rw [h]
  · split <;> simp [h]

theorem fmtOfTag_of_isSome {t : Thread} {n : Nat} (h : (fmtOfTag (t.tagOf n)).isSome = true) : fmtOfTag (t.tagOf n) = some (t.fmt n) := by
  obtain ⟨ff, hff⟩ := Option.isSome_iff_exists.mp h
  simp only [Thread.fmt, hff, Option.getD_some]

/-! ## Groups of one floating-point tag (R133) -/

/-- What element arithmetic accepts in every source group: the tag of A, when it is one of its three formats. -/
def arithTags (tag : Nat) : List Nat := if [1, 2, 3].contains tag then [tag] else []

section
variable {t : Thread} {n w : Nat} {gs : List (Nat × Nat)} (hw : 0 < w) (h : t.floatGroups ((n, w) :: gs))
include hw h

theorem floatGroups_tag_mem : t.tagOf n ∈ [1, 2, 3] := by
  obtain ⟨tag, hm, ht⟩ := h
  rw [show t.tagOf n = tag from ht _ List.mem_cons_self 0 hw]
  exact hm

theorem floatGroups_tag_eq {g : Nat × Nat} (hg : g ∈ (n, w) :: gs) {j : Nat} (hj : j < g.2) : t.tagOf (g.1 + j) = t.tagOf n := by
  obtain ⟨tag, hm, ht⟩ := h
  rw [show t.tagOf n = tag from ht _ List.mem_cons_self 0 hw, ht g hg j hj]

theorem fmtOfTag_of_floatGroups : fmtOfTag (t.tagOf n) = some (t.fmt n) :=
  fmtOfTag_of_isSome ((by decide : ∀ tag ∈ [1, 2, 3], (fmtOfTag tag).isSome = true) _ (floatGroups_tag_mem hw h))

theorem tagFail_of_floatGroups : tagFail t (((n, w) :: gs).map fun g => (g.1, g.2, arithTags (t.tagOf n))) = none := by
  refine tagFail_eq_none fun _ hx j hj => ?_
  obtain ⟨g, hg, rfl⟩ := List.mem_map.mp hx
  simpa [floatGroups_tag_eq hw h hg hj, arithTags] using floatGroups_tag_mem hw h

/-- A group among them whose tag is read at its first register has the format of A. -/
theorem floatGroups_fmt_eq {g : Nat × Nat} (hg : g ∈ (n, w) :: gs) (hj : 0 < g.2) : t.tagOf g.1 = t.tagOf n ∧ t.fmt g.1 = t.fmt n := by
  have tag_eq : t.tagOf g.1 = t.tagOf n := floatGroups_tag_eq hw h hg hj
  exact ⟨tag_eq, by rw [Thread.fmt, tag_eq, Thread.fmt]⟩

end

@[simp] theorem fld_zero (x len : Nat) : fld x 0 len = x % 2 ^ len := by
  simp [fld]

/-! # The forms of element instructions: from their lane definitions to the effect on every thread -/

/-- The source groups of three-operand arithmetic. -/
def arithGroups (k : Nat) (f : L2R) : List (Nat × Nat) :=
  [(f.a.toNat, gsz f.w), (f.b.toNat, gsz f.w)] ++ (if k = 5 then [(f.c.toNat, gsz f.w)] else [])

theorem arithR_opds (k : Nat) (f : L2R) : (arithR k f).opds (arithR k f).nums =
    (arithGroups k f).map (fun g => (⟨.src g.2, g.1⟩ : Opd)) ++ [⟨.dst (gsz f.w), f.d.toNat⟩] := by
  by_cases h : k = 5 <;> simp [arithR, arithGroups, numsR, h]

/-- Arithmetic on groups of one tag, which no shadow unit contradicts, traps in no thread. -/
theorem arithSem_ok {k : Nat} {f : L2R} {e : Env} {t : Thread} (h : t.floatGroups (arithGroups k f)) (he : e.sound) :
    arithSem k f e (numsR f) t =
      let r := overElems (t.tagOf f.a.toNat) (gsz f.w) fun j i =>
        arith k (t.fmt f.a.toNat) (t.mode (f.mod.toNat % 8)) (f.mod.getLsbD 4) (f.mod.getLsbD 3)
          (operand f e t f.a.toNat 0 j i) (operand f e t f.b.toNat 2 j i) (if k = 5 then operand f e t f.c.toNat 4 j i else 0)
      .ok ((t.writeReg f.d.toNat (gsz f.w) r.val (t.tagOf f.a.toNat)).addFlags r.flags) := by
  have hw := gsz_pos f.w
  have same_b := floatGroups_fmt_eq hw h (g := (f.b.toNat, gsz f.w)) (by simp) hw
  have same_c : k = 5 → t.tagOf f.c.toNat = t.tagOf f.a.toNat ∧ t.fmt f.c.toNat = t.fmt f.a.toNat := fun hk =>
    floatGroups_fmt_eq hw h (g := (f.c.toNat, gsz f.w)) (by simp [hk]) hw
  have tags := tagFail_of_floatGroups hw h
  have fmt := fmtOfTag_of_floatGroups hw h
  by_cases hk : k = 5 <;> simp_all [arithSem, arithTags, numsR, shadowTrap_of_sound he, operand]

theorem arithForm_of_arithR {c : L2R → Instr} {k : Nat} (hc : ∀ f s, exec (c f) s = runLane (arithR k f) s := by exact fun _ _ => rfl)
    (hl : ∀ f, (c f).WellFormed → (arithR k f).legal = true := by exact fun _ h => h) : ArithForm c k := by
  intro f s hw srcs ho hs
  rw [hc]
  refine runLane_next (i := arithR k f) rfl rfl (hl f hw) (by rwa [arithR_opds]) fun x hx hi hg => ?_
  obtain ⟨groups, sound⟩ := hs x hx hi hg
  exact arithSem_ok groups sound

theorem floatCompare_of_fcmpR {c : L2R → Instr} {k : Nat} (hc : ∀ f s, exec (c f) s = runLane (fcmpR k f) s := by exact fun _ _ => rfl)
    (hl : ∀ f, (c f).WellFormed → (fcmpR k f).legal = true := by exact fun _ h => h) : FloatCompare c k := by
  intro f s hw ho hs
  rw [hc]
  refine runLane_next (i := fcmpR k f) rfl rfl (hl f hw) ho fun x hx hi hg => ?_
  have groups := hs x hx hi hg
  have same_b := floatGroups_fmt_eq Nat.one_pos groups (g := (f.b.toNat, 1)) (by simp) Nat.one_pos
  have tags := tagFail_of_floatGroups Nat.one_pos groups
  have fmt := fmtOfTag_of_floatGroups Nat.one_pos groups
  simp_all [fcmpR, arithTags, numsR, operand]

theorem elementForm_of_unary {c : L1 → Instr} {op : FFmt → RMode → Nat → Res}
    (hc : ∀ f s, exec (c f) s = runLane (unary op f) s := by exact fun _ _ => rfl)
    (hl : ∀ f, (c f).WellFormed → (unary op f).legal = true := by exact fun _ h => h) : ElementForm c op := by
  intro f s hw ho hs
  rw [hc]
  refine runLane_next (i := unary op f) rfl rfl (hl f hw) ho fun x hx hi hg => ?_
  have groups := hs x hx hi hg
  have tags := tagFail_of_floatGroups (gsz_pos f.w) groups
  have fmt := fmtOfTag_of_floatGroups (gsz_pos f.w) groups
  simp_all [unary, arithTags, nums1]

end Sys2Proof.Machine

namespace Sys2Proof.Machine

open Claims

/-! # Rounding (R141, R142) -/

theorem roundsUp_double (mode : RMode) (neg : Bool) (n r d : Nat) : roundsUp mode neg n (2 * r) (2 * d) = roundsUp mode neg n r d := by
  have beyond_half : 2 * d < 2 * (2 * r) ↔ d < 2 * r := by omega
  have at_half : 2 * (2 * r) = 2 * d ↔ 2 * r = d := by omega
  have nonzero : 2 * r ≠ 0 ↔ r ≠ 0 := by omega
  cases mode <;> simp only [roundsUp, beyond_half, at_half, nonzero]

/-- The whole units and the rest of n units and r parts of 2^k of the next. -/
theorem units_div {n k r : Nat} (hr : r < 2 ^ k) : (n * 2 ^ k + r) / 2 ^ k = n := by
  rw [Nat.mul_comm, Nat.mul_add_div (Nat.two_pow_pos k), Nat.div_eq_of_lt hr, Nat.add_zero]

theorem units_mod {n k r : Nat} (hr : r < 2 ^ k) : (n * 2 ^ k + r) % 2 ^ k = r := by
  rw [Nat.mul_comm, Nat.mul_add_mod, Nat.mod_eq_of_lt hr]

/-- n units, n a full fraction of m bits, and r parts of 2^k of the next lie in the binade m + k. -/
theorem log2_full {m n k r : Nat} (h1 : 2 ^ m ≤ n) (h2 : n < 2 ^ (m + 1)) (hr : r < 2 ^ k) : Nat.log2 (n * 2 ^ k + r) = m + k := by
  have low : 2 ^ (m + k) ≤ n * 2 ^ k := by rw [Nat.pow_add]; exact Nat.mul_le_mul_right _ h1
  have high : (n + 1) * 2 ^ k ≤ 2 ^ (m + k + 1) := by
    rw [Nat.add_right_comm, Nat.pow_add]; exact Nat.mul_le_mul_right _ h2
  rw [Nat.add_one_mul] at high
  have pos := Nat.two_pow_pos (m + k)
  exact (Nat.log2_eq_iff (by omega)).mpr ⟨by omega, by omega⟩

section
variable {f : FFmt} {mode : RMode} {sat neg : Bool} {n n' k r : Nat} {e : Int}

/-- The encoding that a magnitude of n' units of 2^(k + e) has, n' a full fraction or one more. -/
def fullEnc (f : FFmt) (k : Nat) (e : Int) (n' : Nat) : Nat := ((f.m + k + e) - (1 - (f.bias : Int))).toNat * 2 ^ f.m + n'

/-- A magnitude of n units and r parts of 2^k of the next, n a full fraction: the unit is its quantum, and n' units are what it rounds to. -/
theorem roundMag_full (h1 : 2 ^ f.m ≤ n) (h2 : n < 2 ^ (f.m + 1)) (hr : r < 2 ^ k) (he : 1 - (f.bias : Int) ≤ f.m + k + e)
    (hn : (if roundsUp mode neg n r (2 ^ k) then n + 1 else n) = n') :
    roundMag f mode sat neg false (n * 2 ^ k + r) e =
      if f.maxEnc < fullEnc f k e n' then overflowF f mode sat neg else ⟨signed f neg (fullEnc f k e n'), if r = 0 then 0 else fNX⟩ := by
  have exponent : max (((f.m + k : Nat) : Int) + e) (1 - (f.bias : Int)) = f.m + k + e := by omega
  have up : (e - (f.m + k + e - f.m)).toNat = 0 := by omega
  have down : (f.m + k + e - f.m - e).toNat = k := by omega
  have n_le : n ≤ n' := by rw [← hn]; split <;> omega
  have normal : ¬ fullEnc f k e n' < 2 ^ f.m := by unfold fullEnc; omega
  have exact_iff : 2 * r = 0 ↔ r = 0 := by omega
  simp only [roundMag, log2_full h1 h2 hr, exponent, up, down, Nat.pow_zero, Nat.mul_one, units_div hr, units_mod hr, b2n,
    Bool.false_eq_true, if_false, Nat.add_zero, roundsUp_double, hn, ne_eq, exact_iff]
  rw [← fullEnc]
  by_cases hz : r = 0 <;> simp [hz, normal]

theorem overflowF_of_sat (h : sat = true ∨ f.sat = true) : overflowF f mode sat neg = ⟨signed f neg f.maxEnc, fOF + fNX + fSAT⟩ := by
  simp [overflowF, h, maxFin]

theorem overflowF_rne (h : f.sat = false) : overflowF f .rne false neg = ⟨signed f neg (f.maxEnc + 1), fOF + fNX⟩ := by
  simp [overflowF, h, infEnc]

end

/-- R141 and R142: what `up` says of each mode is what the model's rounding does. -/
theorem roundingValues : RoundingValues := by
  intro f _ mode sat neg n k r e h1 h2 hr he up n' hup hdown enc
  have up_iff : up ↔ roundsUp mode neg n r (2 ^ k) = true := by
    cases mode <;> simp [up, roundsUp]
  have rounded : (if roundsUp mode neg n r (2 ^ k) then n + 1 else n) = n' := by
    rw [up_iff] at hup hdown
    split
    next h => exact (hup h).symm
    next h => exact (hdown h).symm
  rw [roundMag_full h1 h2 hr he rounded]
  refine ⟨fun fits => if_neg (Nat.not_lt.mpr fits), fun beyond hs => ?saturates, fun beyond hs hf hm => ?infinite⟩
  case saturates => exact (if_pos beyond).trans (overflowF_of_sat hs)
  case infinite =>
    subst hs hm
    exact (if_pos beyond).trans (overflowF_rne hf)

/-! # Exact sums (R158) -/

section
variable {ts : List FV} (h : ∀ v ∈ ts, isFin v = true)
include h

/-- The unit of an exact sum divides every term. -/
theorem minExp_le {n : Bool} {m : Nat} {e : Int} (he : .fin n m e ∈ ts) : minExp ts ≤ e := by
  induction ts with
  | nil => cases he
  | cons v vs ih =>
    obtain ⟨hv, hvs⟩ := List.forall_mem_cons.mp h
    match v, vs with
    | .fin n' m' e', [] => simp_all [minExp]
    | .fin n' m' e', w :: ws =>
      obtain he | he := List.mem_cons.mp he
      · cases he; exact Int.min_le_left ..
      · exact Int.le_trans (Int.min_le_right ..) (ih hvs he)

variable {f : FFmt} {mode : RMode} {sat : Bool} {lo x : Int} (hlo : minExp ts = lo) (hx : sumAt lo ts = x) (hz : x ≠ 0)
include hlo hx hz

theorem sumV_of_finite : sumV mode ts = some (.fin (x < 0) x.natAbs lo) := by
  have none_infinite : ∀ n, ts.any (· == .inf n) = false := by
    intro n
    rw [List.any_eq_false]
    intro v hv
    have finite := h v hv
    cases v <;> simp_all [isFin]
  simp [sumV, none_infinite, hlo, hx, hz]

/-- A sum of finite terms that is not zero is rounded once. -/
theorem roundSum_of_finite : roundSum f mode sat (ts.map some) = roundMag f mode sat (x < 0) false x.natAbs lo := by
  have none_missing : (ts.map some).any Option.isNone = false := by simp
  have terms : (ts.map some).filterMap id = ts := by simp [List.filterMap_map]
  simp only [roundSum, none_missing, Bool.false_eq_true, if_false, terms, sumV_of_finite h hlo hx hz, roundF, Int.natAbs_eq_zero, hz]

end

end Sys2Proof.Machine

namespace Sys2Proof.Machine

open Claims

/-! # The values of floating-point arithmetic (R143, R158) -/

section
variable {f : FFmt} {mode : RMode} {sat : Bool}

/-- The rounded sum of two finite values. -/
theorem roundSum_pair {na nb : Bool} {ma mb : Nat} {ea eb : Int} {x : Int} (hz : x ≠ 0)
    (hx : FV.sm na (ma * 2 ^ (ea - min ea eb).toNat) + FV.sm nb (mb * 2 ^ (eb - min ea eb).toNat) = x) :
    roundSum f mode sat [some (.fin na ma ea), some (.fin nb mb eb)] = roundMag f mode sat (x < 0) false x.natAbs (min ea eb) :=
  roundSum_of_finite (ts := [.fin na ma ea, .fin nb mb eb]) (by simp [isFin]) rfl (by simpa [sumAt] using hx) hz

/-- One finite value other than zero, rounded. -/
theorem roundSum_single {n : Bool} {m : Nat} {e : Int} (hm : m ≠ 0) :
    roundSum f mode sat [some (.fin n m e)] = roundMag f mode sat n false m e := by
  have sum_eq : sumAt e [.fin n m e] = FV.sm n m := by simp [sumAt]
  have rounds := roundSum_of_finite (ts := [.fin n m e]) (lo := e) (f := f) (mode := mode) (sat := sat) (by simp [isFin]) rfl sum_eq
  have not_neg : ¬ (m : Int) < 0 := by omega
  cases n <;> simpa [FV.sm, hm, Nat.pos_iff_ne_zero, not_neg] using rounds

/-- In canonical mode the result of an operation on a NaN is the canonical NaN. -/
theorem nanResult_canonical (xs : List Nat) :
    nanResult f false xs = ⟨f.nan, if xs.any (fun x => isSNaN (decodeF f x)) then fNV else 0⟩ := by
  unfold nanResult
  cases xs.find? fun x => isNaN (decodeF f x) <;> rfl

theorem arith_of_nan {prop : Bool} {k a b c : Nat} (hk : k ∈ [0, 1, 2]) (hn : isNaN (decodeF f a) = true ∨ isNaN (decodeF f b) = true) :
    arith k f mode sat prop a b c = nanResult f prop [a, b] := by
  rw [List.mem_cons, List.mem_cons, List.mem_singleton] at hk
  obtain rfl | rfl | rfl := hk <;> simp only [arith, Bool.or_eq_true, hn, if_true]

end

theorem arithmeticValues : ArithmeticValues := by
  intro f _ mode sat prop a b c
  refine ⟨fun na nb ma mb ea eb ha hb => ⟨fun hx => ?sum, fun hm => ?product⟩, fun k hk hn => ?nan, fun n ha hb => ?infinities,
    fun n z e ha hb => ?zeroInfinity⟩
  case sum => simpa [arith, ha, hb, isNaN] using roundSum_pair hx rfl
  case product => simpa [arith, ha, hb, isNaN, mulV] using roundSum_single hm
  case nan =>
    rw [arith_of_nan hk hn, nanResult_canonical]
    simp
  case infinities => cases n <;> simp [arith, ha, hb, isNaN, roundSum, sumV]
  case zeroInfinity => simp [arith, ha, hb, isNaN, mulV, roundSum]

theorem floatArithmetic : FloatArithmetic :=
  ⟨roundingValues, arithmeticValues, arithForm_of_arithR, arithForm_of_arithR, arithForm_of_arithR, arithForm_of_arithR,
    arithForm_of_arithR, arithForm_of_arithR⟩

theorem floatCompares : FloatCompares :=
  ⟨floatCompare_of_fcmpR, floatCompare_of_fcmpR, floatCompare_of_fcmpR, floatCompare_of_fcmpR, floatCompare_of_fcmpR,
    floatCompare_of_fcmpR⟩

/-- Settles O22: the six operations are the minors of one lane definition, the six compares those of another, and a value is one rounding of an
exact sum or product. -/
theorem floatArithmeticAndCompares : Obligations.FloatArithmeticAndCompares := ⟨floatArithmetic, floatCompares⟩

/-! # The values of FRINT and FSAT (R164) -/

/-- FRINT of n units and r parts of 2^k of the next, r not 0. -/
theorem frint_of_fraction {f : FFmt} {mode : RMode} {x n k r v : Nat} {neg : Bool} (hx : decodeF f x = .fin neg (n * 2 ^ k + r) (-(k : Int)))
    (hr : r < 2 ^ k) (hz : r ≠ 0)
    (hv : (if roundsUp mode neg n r (2 ^ k) then n + 1 else n) = v) :
    frint f mode x = ⟨if v = 0 then signed f neg 0 else (roundMag f mode false neg false v 0).val, fNX⟩ := by
  have fraction : k ≠ 0 := by rintro rfl; omega
  simp [frint, hx, units_div hr, units_mod hr, hz, fraction, hv, zeroEnc]

/-- A multiple of 2^e, e positive, lies above 1. -/
theorem one_lt_of_exp_pos {m : Nat} {e : Int} (he : 0 < e) (hm : m ≠ 0) : ltV false (.fin false 1 0) (.fin false m e) = true := by
  have low : min 0 e = 0 := by omega
  have two_le : 2 ≤ 2 ^ e.toNat := Nat.le_self_pow (by omega) 2
  have above : 1 < m * 2 ^ e.toNat := Nat.lt_of_lt_of_le two_le (Nat.le_mul_of_pos_left _ (Nat.pos_of_ne_zero hm))
  simpa [ltV, low, FV.sm] using mod_cast above

theorem roundToIntegral : RoundToIntegral := by
  intro f _ mode x
  refine ⟨fun hn => ?nan, fun n hi => ?infinite, fun neg m e hx he => ?integral, fun neg n k r hx hr => ⟨fun hz => ?exact, fun hz hm => ?rne,
    fun hz hm => ?rz⟩, fun neg m e hx => ⟨fun hm => ?zero, fun hm hneg => ?negative⟩, fun m e hx he hm => ?above⟩
  case nan =>
    unfold frint
    cases hx : decodeF f x <;> simp_all [isNaN]
  case infinite => simp [frint, hi]
  case integral => simp [frint, hx, he]
  case exact => simp [frint, hx, hz]
  case rne =>
    subst hm
    exact frint_of_fraction hx hr hz (by simp [roundsUp])
  case rz =>
    subst hm
    exact frint_of_fraction hx hr hz rfl
  case zero => simp [fsat, hx, hm]
  case negative => simp [fsat, hx, hm, hneg]
  case above =>
    simp [fsat, hx, hm, one_lt_of_exp_pos he hm]

end Sys2Proof.Machine

namespace Sys2Proof.Machine

open Claims

/-! # Tag instructions (R166, R174, R175) -/

theorem tagget_next {f : L1} {s : State} (hl : (Instr.tagget f).WellFormed)
    (ho : s.operandsPass f [⟨.src (gsz f.w), f.a.toNat⟩, ⟨.dst (gsz f.w), f.d.toNat⟩]) :
    exec (.tagget f) s = .next (s.laneNext f 1 fun _ t => t.writeReg f.d.toNat (gsz f.w)
      (wordsToNat ((List.range (gsz f.w)).map fun j => w32 (t.tagOf (f.a.toNat + j)))) 0) :=
  runLane_next (i := taggetL f) rfl rfl hl ho fun _ _ _ _ => rfl

theorem tagset_next {f : L2I} {s : State} (hl : (Instr.tagset f).WellFormed)
    (ho : s.operandsPass f.toL1 [⟨.src (gsz f.w), f.a.toNat⟩, ⟨.dst (gsz f.w), f.d.toNat⟩]) :
    exec (.tagset f) s = .next (s.laneNext f.toL1 2 fun e t =>
      t.writeReg f.d.toNat (gsz f.w) (t.readReg e f.a.toNat (gsz f.w)) f.lit.toNat) :=
  runLane_next (i := tagsetI f) rfl rfl hl ho fun _ _ _ _ => rfl

theorem tagchk_next {f : L2I} {s : State} (hl : (Instr.tagchk f).WellFormed)
    (ho : s.operandsPass f.toL1 [⟨.src (gsz f.w), f.a.toNat⟩]) :
    exec (.tagchk f) s = .next (s.laneNext f.toL1 2 fun _ t => t.setPred f.d.toNat
      ((List.range (gsz f.w)).all fun j => t.tagOf (f.a.toNat + j) = f.lit.toNat)) :=
  runLane_next (i := tagchkI f) rfl rfl hl ho fun _ _ _ _ => by simp [tagchkI, nums1, rangeFrom, Function.comp_def]

/-- Settles O23: the eleven functions are one lane definition over the function of an element, and TAGGET, TAGSET and TAGCHK trap in no
thread whose operands pass. -/
theorem elementFunctionsAndTags : Obligations.ElementFunctionsAndTags :=
  ⟨roundToIntegral, elementForm_of_unary, elementForm_of_unary, elementForm_of_unary, elementForm_of_unary, elementForm_of_unary,
    elementForm_of_unary, elementForm_of_unary, elementForm_of_unary, elementForm_of_unary, elementForm_of_unary, elementForm_of_unary,
    fun _ _ => tagget_next, fun _ _ => tagset_next, fun _ _ => tagchk_next⟩

end Sys2Proof.Machine

namespace Sys2Proof.Machine

open Claims

/-! # Conversions (R167 to R170) -/

theorem convertForm_of_cvtR {c : L2R → Instr} {conv : Nat → Nat → RMode → Bool → Nat → Res} (srcs dsts : List Nat) (modOk : Nat → Bool)
    (hc : ∀ f s, exec (c f) s = runLane (cvtR srcs dsts modOk conv f) s := by exact fun _ _ => rfl)
    (hl : ∀ f, (c f).WellFormed → (cvtR srcs dsts modOk conv f).legal = true := by exact fun _ h => h) : ConvertForm c conv := by
  intro f s hw ho hs
  rw [hc]
  refine runLane_next (i := cvtR srcs dsts modOk conv f) rfl rfl (hl f hw) ho fun x hx hi hg => ?_
  have tags : tagFail x.2 [(f.a.toNat, (cvtGroups f).1, [cvtSrc f])] = none := tagFail_eq_none (by simpa [Thread.tagged] using hs x hx hi hg)
  simp [cvtR, numsR, tags]

theorem isNaN_iff {v : FV} : isNaN v = true ↔ ∃ signalling, v = .nan signalling := by
  cases v <;> simp [isNaN]

@[simp] theorem isSNaN_nan (signalling : Bool) : isSNaN (.nan signalling) = signalling := by
  cases signalling <;> rfl

/-- The tags of signed formats, which have a NaN. -/
theorem fmt_of_signedTag {d : Nat} {fd : FFmt} (hd : d ∈ [1, 2, 3, 4, 5]) (h : fmtOfTag d = some fd) : fd.sign = true ∧ fd.nan ≠ 0 := by
  simp only [List.mem_cons, List.not_mem_nil, or_false] at hd
  obtain rfl | rfl | rfl | rfl | rfl := hd <;> cases h <;> decide

theorem cvtElem_of_ne {s d : Nat} {fs fd : FFmt} (hs : fmtOfTag s = some fs) (hd : fmtOfTag d = some fd) (hne : s ≠ d) (mode : RMode)
    (sat : Bool) (x : Nat) : cvtElem s d mode sat x = convF fd mode sat (decodeF fs x) := by
  simp [cvtElem, hs, hd, hne]

theorem cvtElem_of_nan {s d : Nat} {fs fd : FFmt} (hs : fmtOfTag s = some fs) (hd : fmtOfTag d = some fd) {x : Nat}
    (hn : isNaN (decodeF fs x) = true) (mode : RMode) (sat : Bool) : cvtElem s d mode sat x = convF fd mode sat (decodeF fs x) := by
  simp [cvtElem, hs, hd, hn]

theorem roundsUp_exact (mode : RMode) (neg : Bool) (n : Nat) : roundsUp mode neg n 0 1 = false := by
  cases mode <;> simp [roundsUp]

/-- An integral value is clamped to the range of the target. -/
theorem roundInt_of_integral {d : Nat} {mode : RMode} {n : Bool} {m : Nat} {e : Int} (he : 0 ≤ e) :
    roundInt d mode (.fin n m e) =
      let v := FV.sm n (m * 2 ^ e.toNat)
      if v < (intRange d).1 then ⟨wrap (intRange d).1 (elemBits d), fNV + fSAT⟩
      else if (intRange d).2 < v then ⟨wrap (intRange d).2 (elemBits d), fNV + fSAT⟩
      else ⟨wrap v (elemBits d), 0⟩ := by
  have unit : 2 ^ (-e).toNat = 1 := by rw [Int.toNat_of_nonpos (by omega), Nat.pow_zero]
  simp [roundInt, unit, Nat.mod_one, roundsUp_exact]

theorem intRange_le (d : Nat) : (intRange d).1 ≤ (intRange d).2 := by
  have : (1 : Int) ≤ (2 ^ (elemBits d - 1) : Nat) := mod_cast Nat.one_le_two_pow
  have : (1 : Int) ≤ (2 ^ elemBits d : Nat) := mod_cast Nat.one_le_two_pow
  unfold intRange
  split <;> dsimp only <;> omega

theorem packElem_clamps {d : Nat} {mode : RMode} {x : Nat} : packElem 12 d mode true x =
    (let v := intElem 12 x 0
     let u := max (intRange d).1 (min (intRange d).2 v)
     ⟨wrap u (elemBits d), if u = v then 0 else fSAT⟩) := by
  have range := intRange_le d
  simp only [packElem, Bool.true_and, decide_eq_true_eq]
  generalize intElem 12 x 0 = v, (intRange d).1 = lo, (intRange d).2 = hi at *
  split
  next below =>
    have clamped : max lo (min hi v) = lo := by omega
    simp [clamped, Int.ne_of_gt below]
  next =>
    split
    next above =>
      have clamped : max lo (min hi v) = hi := by omega
      simp [clamped, Int.ne_of_lt above]
    next =>
      have inside : max lo (min hi v) = v := by omega
      simp [inside]

theorem conversionValues : ConversionValues := by
  refine ⟨fun s _ d hd fs fd hfs hfd mode sat x => ⟨fun hne n m e hx hm => ?finite, fun hne n hx hs => ?infinite, fun hn => ?nan,
    fun heq hn => ?same⟩, fun d mode sat x _ => ⟨fun hn => ?integerNan, fun n m e hx he => ?integer⟩, fun d mode x _ => packElem_clamps⟩
  case finite =>
    obtain ⟨sign, -⟩ := fmt_of_signedTag hd hfd
    simp [cvtElem_of_ne hfs hfd hne, hx, convF, sign, roundF, hm]
  case infinite =>
    obtain ⟨sign, -⟩ := fmt_of_signedTag hd hfd
    simp [cvtElem_of_ne hfs hfd hne, hx, convF, sign, roundF, hs, maxFin]
  case nan =>
    obtain ⟨-, nan⟩ := fmt_of_signedTag hd hfd
    obtain ⟨signalling, hx⟩ := isNaN_iff.mp hn
    rw [cvtElem_of_nan hfs hfd hn, hx]
    simp [convF, nan]
  case same =>
    subst heq
    simp [cvtElem, hfs, hn]
  case integerNan =>
    obtain ⟨signalling, hx⟩ := isNaN_iff.mp hn
    simp [cvtiElem, fmtOfTag, hx, roundInt]
  case integer =>
    have rounds : cvtiElem 1 d mode sat x = roundInt d mode (.fin n m e) := by simp [cvtiElem, fmtOfTag, hx]
    rw [rounds, roundInt_of_integral he]
    refine ⟨fun below => if_pos below, fun above => ?_, fun low high => ?_⟩
    · have := intRange_le d
      exact (if_neg (by omega)).trans (if_pos above)
    · exact (if_neg (Int.not_lt.mpr low)).trans (if_neg (Int.not_lt.mpr high))

theorem conversions : Conversions :=
  ⟨conversionValues, convertForm_of_cvtR fpTags fpTags (fun m => rcOk (fld m 0 3) && m < 16),
    convertForm_of_cvtR fpTags intTags (fun m => rcOk (fld m 0 3) && m < 8),
    convertForm_of_cvtR intTags fpTags (fun m => rcOk (fld m 0 3) && m < 16),
    convertForm_of_cvtR [12] [7, 8, 9, 10] (fun m => m = 0 || m = 8), convertForm_of_cvtR [7, 8, 9, 10] [12] (fun m => m = 0)⟩

end Sys2Proof.Machine

namespace Sys2Proof.Machine

open Claims

/-! # The values of dot products and of SCL (R143, R171 to R173) -/

/-- Two finite values, each as its sign, its natural number and its exponent, and their exact product. -/
def productTerm (t : (Bool × Nat × Int) × Bool × Nat × Int) : FV := .fin (t.1.1 != t.2.1) (t.1.2.1 * t.2.2.1) (t.1.2.2 + t.2.2.2)

theorem sumAt_products (lo : Int) (ts : List ((Bool × Nat × Int) × Bool × Nat × Int)) (nc : Bool) (mc : Nat) (ec : Int) :
    sumAt lo (ts.map productTerm ++ [.fin nc mc ec]) =
      (ts.map fun t => FV.sm (t.1.1 != t.2.1) (t.1.2.1 * t.2.2.1 * 2 ^ (t.1.2.2 + t.2.2.2 - lo).toNat)).sum +
        FV.sm nc (mc * 2 ^ (ec - lo).toNat) := by
  induction ts with
  | nil => simp [sumAt]
  | cons t ts ih => simp [productTerm, sumAt, ih, Int.add_assoc]

theorem isFin_products {ts : List ((Bool × Nat × Int) × Bool × Nat × Int)} {nc : Bool} {mc : Nat} {ec : Int} :
    ∀ v ∈ ts.map productTerm ++ [.fin nc mc ec], isFin v = true := by
  intro v hv
  rw [List.mem_append, List.mem_map, List.mem_singleton] at hv
  obtain ⟨t, -, rfl⟩ | rfl := hv <;> rfl

/-- Finite elements and a finite addend: the exact products and the addend, summed and rounded. -/
theorem dotF_of_finite {mode : RMode} {sat prop : Bool} {ts : List ((Bool × Nat × Int) × Bool × Nat × Int)} {c mc : Nat} {nc : Bool}
    {ec : Int} (hc : decodeF f32 c = .fin nc mc ec) :
    dotF mode sat prop (ts.map fun t => (FV.fin t.1.1 t.1.2.1 t.1.2.2, FV.fin t.2.1 t.2.2.1 t.2.2.2)) c =
      roundSum f32 mode sat ((ts.map productTerm ++ [FV.fin nc mc ec]).map some) := by
  simp [dotF, hc, isNaN, mulV, productTerm, Function.comp_def]

theorem dotF_of_nan {mode : RMode} {sat prop : Bool} {abs : List (FV × FV)} {c : Nat}
    (h : ∃ p ∈ abs, isNaN p.1 = true ∨ isNaN p.2 = true) : dotF mode sat prop abs c =
      ⟨f32.nan, if (∃ p ∈ abs, isSNaN p.1 = true ∨ isSNaN p.2 = true) ∨ isSNaN (decodeF f32 c) = true then fNV else 0⟩ := by
  have has_nan : (abs.any fun p => isNaN p.1 || isNaN p.2) = true := by simpa using h
  simp only [dotF, has_nan, if_true]
  exact congrArg _ (ite_congr (propext (by simp)) (fun _ => rfl) fun _ => rfl)

/-- SCL on finite values: the product with both scales and the addend, summed and rounded. -/
theorem sclVal_of_finite {mode : RMode} {sat prop : Bool} {a c ma mc mi mj : Nat} {na nc ni nj : Bool} {ea ec ei ej : Int}
    (ha : decodeF f32 a = .fin na ma ea) (hc : decodeF f32 c = .fin nc mc ec) : sclVal mode sat prop a c (.fin ni mi ei) (.fin nj mj ej) =
      roundSum f32 mode sat [some (.fin ((na != ni) != nj) (ma * mi * mj) (ea + ei + ej)), some (.fin nc mc ec)] := by
  simp [sclVal, ha, hc, isNaN, mulV]

theorem dotValues : DotValues := by
  refine ⟨fun mode sat prop ts c mc nc ec hc => ?dot, fun _ _ _ _ _ => dotF_of_nan,
    fun mode sat prop a c ma mc mi mj na nc ni nj ea ec ei ej ha hc => ?scl, fun mode sat prop a c si sj hn => ?nanScale⟩
  case dot =>
    refine ⟨minExp (ts.map productTerm ++ [.fin nc mc ec]), minExp_le isFin_products List.mem_concat_self, fun t ht => ?_, fun hx => ?_⟩
    · exact minExp_le isFin_products (List.mem_append_left _ (List.mem_map_of_mem ht))
    · exact (dotF_of_finite hc).trans (roundSum_of_finite isFin_products rfl (sumAt_products ..) hx)
  case scl =>
    refine ⟨min (ea + ei + ej) ec, Int.min_le_right .., Int.min_le_left .., fun hx => ?_⟩
    exact (sclVal_of_finite ha hc).trans (roundSum_pair hx rfl)
  case nanScale => simp [sclVal, hn]

/-! # The forms of dot products and SCL -/

/-- A dot product whose lane definition accepts the tags `tags`, and of B that of A alone when `strict`. -/
theorem dotFloat_of_dotFR {c : L2R → Instr} {tags : List Nat} {same : Bool} (strict : Bool)
    (hc : ∀ f s, exec (c f) s = runLane (dotFR tags strict f) s := by exact fun _ _ => rfl)
    (hl : ∀ f, (c f).WellFormed → (dotFR tags strict f).legal = true := by exact fun _ h => h)
    (hf : ∀ tag ∈ tags, (fmtOfTag tag).isSome = true := by decide)
    (hs : strict = true → same = true ∨ ∃ tag, tags = [tag]) : DotFloat c tags same := by
  intro f s hw ho hon
  rw [hc]
  refine runLane_next (i := dotFR tags strict f) rfl rfl (hl f hw) ho fun x hx hi hg => ?_
  obtain ⟨ha, hb, hab, htc, sound⟩ := hon x hx hi hg
  have fmt : ∀ n, x.2.tagOf n ∈ tags → fmtOfTag (x.2.tagOf n) = some (x.2.fmt n) := fun _ hn => fmtOfTag_of_isSome (hf _ hn)
  have tag_b : x.2.tagOf f.b.toNat ∈ if strict then [x.2.tagOf f.a.toNat] else tags := by
    split
    next h =>
      obtain h | ⟨tag, rfl⟩ := hs h
      · simp [hab h]
      · simp_all
    next => exact hb
  have pass : tagFail x.2 [(f.a.toNat, 1, tags), (f.b.toNat, 1, if strict then [x.2.tagOf f.a.toNat] else tags), (f.c.toNat, 1, [1])] =
      none := tagFail_eq_none (by simpa [ha, htc] using tag_b)
  simp [dotFR, numsR, pass, fmt _ ha, fmt _ hb, shadowTrap_of_sound sound, pairs]

theorem sclForm (f : L2R) (s : State) (hw : (Instr.scl f).WellFormed) (ho : s.operandsPass f.toL1 (tripleOpds f))
    (hs : s.forOn f.toL1 fun id t => t.tagOf f.a.toNat = 1 ∧ t.tagOf f.b.toNat = 11 ∧ t.tagOf f.c.toNat = 1 ∧ (s.env id).sound) :
    exec (.scl f) s = .next (s.laneNext f.toL1 2 fun e t =>
      let scale := fun k => decodeF ue5m3 (elem 11 (t.reg e f.b.toNat 0) k)
      let sj := if f.imm.getLsbD 4 then .fin false 1 0 else scale (f.imm.toNat / 4 % 4)
      let r := sclVal (t.mode (f.mod.toNat % 8)) (f.mod.getLsbD 3) (f.mod.getLsbD 4) (t.reg e f.a.toNat 0)
        (t.reg e f.c.toNat 0) (scale (f.imm.toNat % 4)) sj
      (t.writeReg f.d.toNat 1 r.val 1).addFlags r.flags) := by
  refine runLane_next (i := sclR f) rfl rfl hw ho fun x hx hi hg => ?_
  obtain ⟨ha, hb, htc, sound⟩ := hs x hx hi hg
  have pass : tagFail x.2 [(f.a.toNat, 1, [1]), (f.b.toNat, 1, [11]), (f.c.toNat, 1, [1])] = none :=
    tagFail_eq_none (by simp [ha, hb, htc])
  have index_j : fld f.imm.toNat 2 2 = f.imm.toNat / 4 % 4 := rfl
  simp [sclR, numsR, pass, index_j, shadowTrap_of_sound sound]

/-! ## Integer dot products -/

theorem foldl_add_eq_sum {α : Type} (g : α → Int) (l : List α) (c : Int) : l.foldl (fun acc i => acc + g i) c = (l.map g).sum + c := by
  induction l generalizing c with
  | nil => simp
  | cons a l ih =>
    rw [List.foldl_cons, ih, List.map_cons, List.sum_cons]
    omega

/-- An INT32 register read as a group of one. -/
theorem sgn_reg (e : Env) (t : Thread) (n : Nat) : sgn (t.reg e n 0) 32 = (t.grp e n 1).toInt := by
  have value : t.reg e n 0 = (t.grp e n 1).toNat := by simp [Thread.readReg, Thread.reg]
  rw [value]
  exact sgn_toNat_32 _

/-- The value and the flags of an integer dot product with the exact sum x: clamped to INT32 under `sat`, else modulo 2^32. -/
theorem clamp_or_wrap_eq (sat : Prop) [Decidable sat] (x : Int) :
    let clamp : Bool := sat && (x < -(2 ^ 31 : Nat) || ((2 ^ 31 : Nat) : Int) ≤ x)
    let v := if sat then max (-2 ^ 31) (min (2 ^ 31 - 1) x) else x
    (if clamp then (if x < 0 then 2 ^ 31 else 2 ^ 31 - 1) else wrap x 32) = (BitVec.ofInt 32 v).toNat ∧
      (if clamp then fSAT else 0) = if v = x then 0 else fSAT := by
  intro clamp v
  by_cases hs : sat
  case neg => simp [clamp, v, hs, wrap]
  have clamp_iff : clamp = true ↔ x < -2147483648 ∨ 2147483648 ≤ x := by simp [clamp, hs]
  have v_eq : v = max (-2147483648) (min 2147483647 x) := by simp [v, hs]
  obtain below | inside | above : x < -2147483648 ∨ (-2147483648 ≤ x ∧ x < 2147483648) ∨ 2147483648 ≤ x := by omega
  · have low : v = -2147483648 := by omega
    have ne : -2147483648 ≠ x := by omega
    have neg : x < 0 := by omega
    simp [clamp_iff, low, below, ne, neg]
  · have same : v = x := by omega
    have not_clamped : clamp = false := by rw [← Bool.not_eq_true, clamp_iff]; omega
    simp [not_clamped, same, wrap]
  · have high : v = 2147483647 := by omega
    have ne : 2147483647 ≠ x := by omega
    have nonneg : ¬ x < 0 := by omega
    simp [clamp_iff, high, above, ne, nonneg]

theorem dotInt_of_dotIR {c : L2R → Instr} {tags : List Nat} (hc : ∀ f s, exec (c f) s = runLane (dotIR tags f) s := by exact fun _ _ => rfl)
    (hl : ∀ f, (c f).WellFormed → (dotIR tags f).legal = true := by exact fun _ h => h) : DotInt c tags := by
  intro f s hw ho hon
  rw [hc]
  refine runLane_next (i := dotIR tags f) rfl rfl (hl f hw) ho fun x hx hi hg => ?_
  obtain ⟨ha, hb, htc⟩ := hon x hx hi hg
  have pass : tagFail x.2 [(f.a.toNat, 1, tags), (f.b.toNat, 1, tags), (f.c.toNat, 1, [12])] = none :=
    tagFail_eq_none (by simp [ha, hb, htc])
  obtain ⟨value, flag⟩ := clamp_or_wrap_eq (f.mod = 8)
    (((List.range (elems (x.2.tagOf f.a.toNat))).map fun i => intElem (x.2.tagOf f.a.toNat) (x.2.reg (s.env x.1) f.a.toNat 0) i *
      intElem (x.2.tagOf f.b.toNat) (x.2.reg (s.env x.1) f.b.toNat 0) i).sum + (x.2.grp (s.env x.1) f.c.toNat 1).toInt)
  simp only [dotIR, numsR, pass, foldl_add_eq_sum, sgn_reg, value, flag]

/-- DOT8F's lane definition wants the tags of A and B equal, which its one tag makes no condition. -/
theorem dotProductsAndScale : DotProductsAndScale :=
  ⟨dotValues, dotFloat_of_dotFR true (hs := fun _ => .inl rfl), dotInt_of_dotIR, dotInt_of_dotIR,
    dotFloat_of_dotFR false (hs := fun h => nomatch h), dotFloat_of_dotFR true (hs := fun _ => .inr ⟨6, rfl⟩), sclForm⟩

/-- Settles O24: each word is one lane definition over the function of its elements, whose value is one rounding of an exact one. -/
theorem conversionsAndDotProducts : Obligations.ConversionsAndDotProducts := ⟨conversions, dotProductsAndScale⟩

end Sys2Proof.Machine

namespace Sys2Proof.Machine

/-! # Threads, teams and accesses after a change of them -/

theorem eraseDups_eq_singleton {α : Type} [BEq α] [LawfulBEq α] {a : α} {l : List α} (h : l.eraseDups = [a]) :
    l ≠ [] ∧ ∀ x ∈ l, x = a := by
  refine ⟨fun hl => by simp [hl] at h, fun x hx => ?_⟩
  have listed : x ∈ l.eraseDups := List.mem_eraseDups.mpr hx
  simpa [h] using listed

theorem tget_tupd {κ α : Type} [DecidableEq κ] (t : Tbl κ α) (q : κ) (f : α → α) (k : κ) :
    tget (tupd t q f) k = (tget t k).map fun v => if k = q then f v else v := by
  have as_map : tupd t q f = tmap t fun k v => if k = q then f v else v :=
    List.map_congr_left fun x _ => by by_cases hx : x.1 = q <;> simp [hx]
  rw [as_map, tget_tmap]

theorem thread_updThread (s : State) (i : ThreadId) (f : Thread → Thread) (k : ThreadId) :
    (s.updThread i f).thread k = (s.thread k).map fun t => if k = i then f t else t := tget_tupd _ _ _ _

theorem team_updTeam (s : State) (t : TeamId) (f : Team → Team) (k : TeamId) :
    (s.updTeam t f).team k = (s.team k).map fun tm => if k = t then f tm else tm := tget_tupd _ _ _ _

@[simp] theorem updThreads_self (s : State) (ids : List ThreadId) : s.updThreads ids (fun t => t) = s := by
  simp [State.updThreads, State.mapThreads, tmap]

theorem updThreads_updThreads (s : State) (ids : List ThreadId) (f g : Thread → Thread) :
    (s.updThreads ids f).updThreads ids g = s.updThreads ids fun t => g (f t) := by
  rw [State.updThreads, State.updThreads, mapThreads_mapThreads, State.updThreads]
  refine mapThreads_congr s _ _ fun x _ => ?_
  by_cases hx : x.1 ∈ ids <;> simp [hx]

theorem access_seq {s : State} {a : Nat} {x : Access} (h : s.access a = some x) : x.seq = a := by
  simpa using List.find?_some h

end Sys2Proof.Machine

namespace Sys2Proof.Machine

/-! # What the caches' work leaves alone (R198 to R200, R212) -/

/-- A state without its memory, the errors that stand in it, and the caches: the part that no work of the caches touches. -/
def State.uncached (s : State) : State :=
  { s with mem := [], poison := [], upsets := [], cores := [], l2 := [], tlb := [], s2tlb := [] }

theorem uncached_foldl {α : Type} {f : State → α → State} (h : ∀ s x, (f s x).uncached = s.uncached) (l : List α) (s : State) :
    (l.foldl f s).uncached = s.uncached := by
  induction l generalizing s with
  | nil => rfl
  | cons x xs ih => rw [List.foldl_cons, ih, h]

section
variable (s : State)

@[simp] theorem uncached_updCore (c : CoreId) (f : Core → Core) : (s.updCore c f).uncached = s.uncached := rfl

@[simp] theorem uncached_memStore (key n v : Nat) : (s.memStore key n v).uncached = s.uncached := rfl

@[simp] theorem uncached_noteTlb (v : View) (va : Nat) : (s.noteTlb v va).uncached = s.uncached := by
  unfold State.noteTlb
  split
  case h_1 => rfl
  case h_2 =>
    extract_lets part gpa r noted
    have same : noted.uncached = s.uncached := by
      unfold noted
      split <;> rfl
    split
    case h_1 => exact same
    case h_2 => split <;> exact same

@[simp] theorem uncached_l2Drop (l : L2Line) : (s.l2Drop l).uncached = s.uncached := by
  unfold State.l2Drop
  split <;> rfl

@[simp] theorem uncached_l2Fill (cp : Nat) (l : L2Line) : (s.l2Fill cp l).uncached = s.uncached := by
  unfold State.l2Fill
  extract_lets mine room
  have same : room.uncached = s.uncached := by
    unfold room
    split
    · exact uncached_l2Drop s _
    · rfl
  split <;> exact same

@[simp] theorem uncached_l2Use (part gpa key cp : Nat) (w : Bool) : (s.l2Use part gpa key cp w).uncached = s.uncached := by
  unfold State.l2Use
  split
  · rfl
  · split
    · rfl
    · split
      · exact uncached_l2Fill s _ _
      · rfl

@[simp] theorem uncached_writeBack (l : L1Line) : (s.writeBack l).uncached = s.uncached := by
  unfold State.writeBack
  refine (uncached_foldl (fun s d => uncached_memStore s _ _ _) _ _).trans ?_
  split <;> simp

@[simp] theorem uncached_cleanLine (c : CoreId) (l : L1Line) : (s.cleanLine c l).uncached = s.uncached := by
  simp [State.cleanLine]

@[simp] theorem uncached_dropLines (c : CoreId) (p : L1Line → Bool) : (s.dropLines c p).uncached = s.uncached := by
  unfold State.dropLines
  split
  · rw [uncached_updCore, uncached_foldl uncached_writeBack]
  · rfl

@[simp] theorem uncached_fillLine (c : CoreId) (cp : Nat) (l : L1Line) : (s.fillLine c cp l).uncached = s.uncached := by
  unfold State.fillLine State.dropAllLines
  split
  · rfl
  · dsimp only
    split <;> simp [uncached_foldl]

@[simp] theorem uncached_cleanSynonyms (c : CoreId) (l : L1Line) : (s.cleanSynonyms c l).uncached = s.uncached := by
  refine uncached_foldl (fun s x => ?_) _ _
  dsimp only
  split
  · exact uncached_foldl (fun _ _ => uncached_cleanLine _ _ _) _ _
  · rfl

@[simp] theorem uncached_useLine (core : CoreId) (c : CtxId) (va cp : Nat) (p : Place) :
    (s.useLine core c va cp p).uncached = s.uncached := by
  unfold State.useLine
  split
  · rfl
  · dsimp only
    split <;> simp

@[simp] theorem uncached_fillCopy (c : CtxId) (core : CoreId) (va cp : Nat) (p : Place) :
    (s.fillCopy c core va cp p).uncached = s.uncached := by
  unfold State.fillCopy
  dsimp only
  split <;> simp

end

/-- States with the same such part agree on the threads and on the partitions of contexts. -/
theorem threads_of_uncached {u s : State} (h : u.uncached = s.uncached) : u.threads = s.threads := congrArg (·.threads) h

theorem partOfCtx_of_uncached {u s : State} (h : u.uncached = s.uncached) (c : CtxId) : u.partOfCtx c = s.partOfCtx c :=
  congrArg (·.partOfCtx c) h

end Sys2Proof.Machine

namespace Sys2Proof.Machine

open Claims

/-! # Issuing while the other threads of the group issue too (R44, R49)

A thread issues in a state that differs from the group's in threads, numbers and outstanding accesses only. -/

section
variable {u s : State} (h : u.like s)
include h

/-- A scope narrows in both states or in neither, and marks the same contexts. -/
theorem clamp_of_like (c : CtxId) (core : CoreId) (scope : Nat) :
    u.clamp c core scope = ({ u with ctxs := (s.clamp c core scope).1.ctxs }, (s.clamp c core scope).2) := by
  have same_ctxs : u.ctxs = s.ctxs := by rw [h]
  have same_ctx : u.ctx c = s.ctx c := by rw [h]; rfl
  have same_share : u.share (u.partOfCtx c) core.pkg = s.share (s.partOfCtx c) core.pkg := by rw [h]; rfl
  unfold State.clamp
  rw [same_ctx, same_share]
  cases s.ctx c with
  | none => simp only [← same_ctxs]
  | some cx =>
    dsimp only
    split
    · simp only [← same_ctxs]
    · split
      · simp only [State.updCtx, same_ctxs]
      · simp only [← same_ctxs]

theorem accScope_of_like {i : ThreadId} {f : LM} (hs : s.unclamped i f) : u.accScope i f = (u, f.scope.toNat) := by
  have same_ctx : u.ctxOf i.team = s.ctxOf i.team := by rw [h]; rfl
  unfold State.unclamped State.accScope at *
  rw [same_ctx]
  cases hc : s.ctxOf i.team with
  | none => rfl
  | some c =>
    simp only [hc] at hs ⊢
    rw [clamp_of_like h, hs, h]

theorem readReg_of_like (i : ThreadId) (t : Thread) (n w : Nat) : t.readReg (u.env i) n w = t.readReg (s.env i) n w :=
  readReg_env (by rw [h]; rfl) (by rw [h]; rfl) t n w

theorem memAddr_of_like (f : LM) (idx : Bool) (x : ThreadId × Thread) :
    memAddr f idx (u.env x.1) x.2 (u.frameOf x.1) = s.addrOf f idx x := by
  have same_frame : u.frameOf x.1 = s.frameOf x.1 := by rw [h]; rfl
  simp only [memAddr, State.addrOf, readReg_of_like h, same_frame]

theorem place_of_like (i : ThreadId) (sp : Nat) (a : Int) (n : Nat) (al : Bool) : u.place i sp a n al = s.place i sp a n al := by
  rw [h]; rfl

theorem memAccess_of_like (i : ThreadId) (f : LM) (sc : Nat) (k : AccKind) (a : Int) (n : Nat) (loc : Option Loc) :
    memAccess u i f sc k a n loc = memAccess s i f sc k a n loc := by
  rw [h]; rfl

theorem team_of_like (t : TeamId) : u.team t = s.team t := by
  rw [h]; rfl

end

/-! # Lane loads and stores at issue (R183 to R187, R191) -/

/-- A thread whose address passes, with room in LDN, leaves its load outstanding. -/
theorem issueLoad_ok {f : LM} {idx : Bool} {size g tag : Nat} {sext : Bool} {s u : State} {x : ThreadId × Thread} {loc : Option Loc}
    (hp : s.placed f idx size true x loc) (hr : x.2.ldn < 63) (hc : s.unclamped x.1 f) (h : u.like s) :
    issueLoad f idx size g tag sext x.1 x.2 u =
      .ok ((u.addAll [{ memAccess s x.1 f f.scope.toNat .load (s.addrOf f idx x) size loc with
        dst := f.d.toNat, g := g, tag := BitVec.ofNat 4 tag, sext := sext }]).updThreads [x.1]
          fun t => { (t.setPend f.d.toNat g) with ldn := t.ldn + 1 }) := by
  unfold State.placed at hp
  have room : ¬ 63 ≤ x.2.ldn := Nat.not_le.mpr hr
  simp only [issueLoad, memAddr_of_like h, place_of_like h, hp, room, if_false, accScope_of_like h hc, memAccess_of_like h]
  rfl

/-- A write that its task does not hold, with room in STN, becomes outstanding. -/
theorem putStore_ok {s : State} {i : ThreadId} {t : Thread} {ids : List ThreadId} {a : Access}
    (hh : (a.global && (s.team i.team).any Team.guarded) = false) (hr : t.stn < 63) :
    s.putStore i t ids a = .ok ((s.addAccess a).startStore ids) := by
  have room : ¬ 63 ≤ t.stn := Nat.not_le.mpr hr
  simp only [State.putStore, hh, Bool.false_eq_true, if_false, room]

/-- A write to a scratchpad, or of a task that is not guarded, is not held. -/
theorem not_held_of_space {f : LM} {a : Access} {g : Bool} (ha : a.space = f.space.toNat) (h : f.space = 1 ∨ f.space = 2 ∨ g = false) :
    (a.global && g) = false := by
  obtain h | h | h := h <;> simp [Access.global, ha, h]

/-- A thread whose address passes, with room in STN, leaves its store of the data that it reads now outstanding. -/
theorem issueStore_ok {f : LM} {kind : AccKind} {size : Nat} {s u : State} {x : ThreadId × Thread} {loc : Option Loc}
    (hp : s.placed f true size true x loc) (hr : x.2.stn < 63) (hc : s.unclamped x.1 f)
    (hs : f.space = 1 ∨ f.space = 2 ∨ (s.team x.1.team).any Team.guarded = false) (h : u.like s) :
    issueStore f kind size x.1 x.2 u =
      .ok ((u.addAll [{ memAccess s x.1 f f.scope.toNat kind (s.addrOf f true x) size loc with
        data := x.2.readReg (s.env x.1) f.d.toNat (gsz f.w) % 2 ^ (8 * size) }]).updThreads [x.1]
          fun t => { t with stn := t.stn + 1 }) := by
  unfold State.placed at hp
  simp only [issueStore, memAddr_of_like h, place_of_like h, hp, accScope_of_like h hc, memAccess_of_like h, readReg_of_like h]
  rw [putStore_ok (by rw [team_of_like h]; exact not_held_of_space rfl hs) hr]
  rfl

/-- A thread whose address passes, with room in STN, leaves the mark of its line outstanding. -/
theorem issueSte_ok {f : LM} {s u : State} {x : ThreadId × Thread} {loc : Option Loc}
    (hp : s.placed f true 1 false x loc) (hr : x.2.stn < 63) (hc : s.unclamped x.1 f) (h : u.like s) :
    issueSte f x.1 x.2 u =
      .ok ((u.addAll [memAccess s x.1 f f.scope.toNat .ste (s.addrOf f true x) 128 (loc.map lineLoc)]).updThreads [x.1]
        fun t => { t with stn := t.stn + 1 }) := by
  unfold State.placed at hp
  have room : ¬ 63 ≤ x.2.stn := Nat.not_le.mpr hr
  simp only [issueSte, memAddr_of_like h, place_of_like h, hp, room, if_false, accScope_of_like h hc, memAccess_of_like h]
  rfl

/-- A legal lane memory instruction each of whose guard-true threads leaves one access outstanding. -/
theorem runMem_one_each {m : MemDef} {s : State} {f : L1} {act : ThreadId → Thread → State → IssueRes}
    {acc : ThreadId × Thread → Access} {e : Thread → Thread} (hg : m.g = f.g) (hn : m.gn = f.gn) (hl : m.legal = true)
    (nd : s.gathered.ids.Nodup) (hc : ∀ x ∈ s.onGroup f, regCheck x.2 m.opds = none) (ho : ∀ x, (acc x).owners = [x.1])
    (ha : ∀ x ∈ s.onGroup f, ∀ u : State, u.like s → act x.1 x.2 u = .ok ((u.addAll [acc x]).updThreads [x.1] e)) :
    runMem m act s = .next (s.issued f ((s.onGroup f).map acc) e) := by
  rw [runMem_issued (acc := fun x => [acc x]) hg hn hl nd hc (fun x _ a hm => ?_) ha, ← List.map_eq_flatMap]
  obtain rfl := List.mem_singleton.mp hm
  exact oneTeam_single (ho x)

theorem loadForm_of_runLoad {c : LM → Instr} {idx : Bool} {size regs tag : LM → Nat} {sext : Bool} (m : LM → MemDef)
    (hc : ∀ f s, exec (c f) s = runLoad (m f) f idx (size f) (regs f) (tag f) sext s := by exact fun _ _ => rfl)
    (hl : ∀ f, (c f).WellFormed → (m f).legal = true := by exact fun _ h => h)
    (hm : ∀ f, (m f).g = f.g ∧ (m f).gn = f.gn ∧ (m f).opds = accessOpds f idx ⟨.dst (regs f), f.d.toNat⟩ := by
      exact fun _ => ⟨rfl, rfl, rfl⟩) : LoadForm c idx size regs tag sext := by
  intro f s loc hw nd hon
  obtain ⟨hg, hgn, ho⟩ := hm f
  rw [hc]
  refine runMem_one_each hg hgn (hl f hw) nd (fun x hx => by rw [ho]; exact (hon x hx).1) (fun _ => rfl) fun x hx u hu => ?_
  obtain ⟨-, placed, room, scope⟩ := hon x hx
  exact issueLoad_ok placed room scope hu

theorem storeForm_of_issueStore {c : LM → Instr} {kind : AccKind} {size : LM → Nat} (m : LM → MemDef)
    (hc : ∀ f s, exec (c f) s = runMem (m f) (issueStore f kind (size f)) s := by exact fun _ _ => rfl)
    (hl : ∀ f, (c f).WellFormed → (m f).legal = true := by exact fun _ h => h)
    (hm : ∀ f, (m f).g = f.g ∧ (m f).gn = f.gn ∧ (m f).opds = accessOpds f true ⟨.src (gsz f.w), f.d.toNat⟩ := by
      exact fun _ => ⟨rfl, rfl, rfl⟩) : StoreForm c kind size := by
  intro f s loc hw nd hon
  obtain ⟨hg, hgn, ho⟩ := hm f
  rw [hc]
  refine runMem_one_each hg hgn (hl f hw) nd (fun x hx => by rw [ho]; exact (hon x hx).1) (fun _ => rfl) fun x hx u hu => ?_
  obtain ⟨-, placed, room, scope, space⟩ := hon x hx
  exact issueStore_ok placed room scope space hu

theorem loadsLeaveReadsOutstanding : LoadsLeaveReadsOutstanding :=
  ⟨loadForm_of_runLoad fun f => loadMem f [0] true true 1, loadForm_of_runLoad fun f => loadMem f [0] true true 1,
    loadForm_of_runLoad fun f => loadMem f [0] true true 1, loadForm_of_runLoad fun f => loadMem f [0] true true 1,
    loadForm_of_runLoad fun f => loadMem f [0, 1, 2, 3] true true (gsz f.w), loadForm_of_runLoad ldtMem⟩

theorem storesLeaveWritesOutstanding : StoresLeaveWritesOutstanding := by
  refine ⟨storeForm_of_issueStore fun f => storeMem f [0] true, storeForm_of_issueStore fun f => storeMem f [0] true,
    storeForm_of_issueStore fun f => storeMem f [0, 1, 2, 3] true,
    storeForm_of_issueStore fun f => storeMem f [0, 1, 2, 3] (localSpace f), ?ste⟩
  case ste =>
    intro f s loc hw nd hon
    refine runMem_one_each rfl rfl hw nd (fun x hx => (hon x hx).1) (fun _ => rfl) fun x hx u hu => ?_
    obtain ⟨-, placed, room, scope⟩ := hon x hx
    exact issueSte_ok placed room scope hu

/-- Settles O26: the loads run one frame and the stores another, and in each a guard-true thread leaves one access of its own outstanding. -/
theorem loadsAndStoresStayOutstanding : Obligations.LoadsAndStoresStayOutstanding :=
  ⟨loadsLeaveReadsOutstanding, storesLeaveWritesOutstanding⟩

end Sys2Proof.Machine

namespace Sys2Proof.Machine

open Claims

/-! # A group of one thread (R44) -/

section
variable {s u : State} {l : ThreadId} {t : Thread} (hs : s.gathered.ids = [l]) (ht : s.thread l = some t)
include hs ht

theorem group_single : s.group = [(l, t)] := by
  simp [State.group, hs, ht]

section
variable {m : MemDef} {act : ThreadId → Thread → State → IssueRes}
variable (hl : m.legal = true) (hg : t.guard m.g m.gn = true) (hc : regCheck t m.opds = none)
include hl hg hc

theorem runMem_single_ok (ha : act l t s = .ok u) : runMem m act s = .next (u.updThread l fun t => t.step 2) := by
  simp [runMem, issueEach, hl, hs, ht, hg, hc, ha]

theorem runMem_single_wait (ha : act l t s = .wait u) : runMem m act s = .next u := by
  simp [runMem, issueEach, hl, hs, ht, hg, hc, ha]

end

/-- One thread that leaves accesses outstanding and steps past its instruction is a group that does. -/
theorem issued_single {f : L1} {e : Thread → Thread} {as : List Access} (hg : t.guard f.g f.gn = true) (ho : ∀ a ∈ as, a.oneTeam) :
    ((s.addAll as).updThreads [l] e).updThread l (fun t => t.step 2) = s.issued f as e := by
  have on : s.onIds f = [l] := by simp [State.onIds, State.onGroup, group_single hs ht, hg]
  have off : s.offIds f = [] := by simp [State.offIds, group_single hs ht, hg]
  rw [State.issued, State.uniNext, on, off, stepAll_nil, addAll_eq s as ho, updThread_eq, State.updThreads, mapThreads_mapThreads,
    State.updThreads]
  simp only [State.mapThreads]
  congr 1
  refine tmap_congr _ _ _ fun x _ => ?_
  by_cases hx : x.1 = l <;> simp [hx]

end

/-! # Prefetches (R193) -/

/-- Threads each of which goes on without a change of any thread's record step past their instruction, whose traps are none. -/
theorem issueEach_steps {words : Nat} {g : BitVec 5} {gn : Bool} {opds : List Opd} {act : ThreadId → Thread → State → IssueRes}
    (hact : ∀ i t s, ∃ u, act i t s = .ok u ∧ u.threads = s.threads) (ids : List ThreadId) (nd : ids.Nodup) (s : State)
    (hc : ∀ i ∈ ids, ∀ t, s.thread i = some t → t.guard g gn = true → regCheck t opds = none) :
    ∃ u, issueEach words g gn opds act ids (s, []) = (u, []) ∧
      ∀ i, u.thread i = (s.thread i).map fun t => if i ∈ ids then t.step words else t := by
  induction ids generalizing s with
  | nil => exact ⟨s, rfl, by simp⟩
  | cons i ids ih =>
    obtain ⟨hi, nd⟩ := List.nodup_cons.mp nd
    cases ht : s.thread i with
    | none =>
      obtain ⟨u, runs, threads⟩ := ih nd s fun j hj => hc j (List.mem_cons_of_mem i hj)
      refine ⟨u, by simpa only [issueEach, ht] using runs, fun j => ?_⟩
      rw [threads]
      by_cases hj : j = i
      · simp [hj, ht]
      · simp [hj]
    | some t =>
      have first : ∃ v : State, v.threads = s.threads ∧ issueEach words g gn opds act (i :: ids) (s, []) =
          issueEach words g gn opds act ids (v.updThread i fun t => t.step words, []) := by
        by_cases hg : t.guard g gn = true
        · obtain ⟨v, goes, same⟩ := hact i t s
          exact ⟨v, same, by simp [issueEach, ht, hg, hc i List.mem_cons_self t ht hg, goes]⟩
        · exact ⟨s, rfl, by simp [issueEach, ht, hg]⟩
      obtain ⟨v, same, runs⟩ := first
      have stepped : ∀ j, (v.updThread i fun t => t.step words).thread j = (s.thread j).map fun t => if j = i then t.step words else t := by
        intro j
        rw [thread_updThread, State.thread, same, State.thread]
      have passes : ∀ j ∈ ids, ∀ t, (v.updThread i fun t => t.step words).thread j = some t → t.guard g gn = true →
          regCheck t opds = none := by
        intro j hj t hjt
        have hji : j ≠ i := fun h => hi (h ▸ hj)
        exact hc j (List.mem_cons_of_mem i hj) t (by simpa [stepped, hji] using hjt)
      obtain ⟨u, rest, threads⟩ := ih nd _ passes
      refine ⟨u, runs.trans rest, fun j => ?_⟩
      rw [threads, stepped, Option.map_map]
      refine congrFun (congrArg Option.map (funext fun t => ?_)) _
      by_cases hj : j = i
      · simp [hj, hi]
      · simp [hj]

/-- A prefetch goes on, and touches the caches only. -/
theorem issuePref_ok (f : LM) (i : ThreadId) (t : Thread) (s : State) : ∃ u, issuePref f i t s = .ok u ∧ u.uncached = s.uncached := by
  unfold issuePref
  extract_lets a c core v
  split
  · exact ⟨_, rfl, rfl⟩
  · split
    · exact ⟨_, rfl, rfl⟩
    · refine ⟨_, rfl, Eq.trans ?_ (uncached_noteTlb s v (addr64 a))⟩
      split
      · exact uncached_fillCopy ..
      · split
        · exact uncached_l2Use ..
        · exact (uncached_l2Use ..).trans (uncached_useLine ..)

theorem runMem_steps {m : MemDef} {act : ThreadId → Thread → State → IssueRes} {s : State} (hl : m.legal = true)
    (hact : ∀ i t s, ∃ u, act i t s = .ok u ∧ u.threads = s.threads) (nd : s.gathered.ids.Nodup)
    (hc : ∀ x ∈ s.group, x.2.guard m.g m.gn = true → regCheck x.2 m.opds = none) :
    ∃ u, runMem m act s = .next u ∧ ∀ i, u.thread i = (s.thread i).map fun t => if i ∈ s.gathered.ids then t.step 2 else t := by
  have passes : ∀ i ∈ s.gathered.ids, ∀ t, s.thread i = some t → t.guard m.g m.gn = true → regCheck t m.opds = none :=
    fun i hi t ht => hc (i, t) (List.mem_filterMap.mpr ⟨i, hi, by simp [ht]⟩)
  obtain ⟨u, runs, threads⟩ := issueEach_steps (words := 2) hact s.gathered.ids nd s passes
  exact ⟨u, by simp [runMem, hl, runs], threads⟩

section
variable {f : LM} {s : State} {l : ThreadId} {t : Thread} {c : CtxId} (hs : s.ctxOf l.team = some c)
include hs

/-- An address that is not canonical or does not translate drops the prefetch. -/
theorem issuePref_dropped (h : canonical (s.addrOf f true (l, t)) 1 = false ∨
    ∃ m, s.translate (viewAt c l.team.core) (addr64 (s.addrOf f true (l, t))) false = .error m) : issuePref f l t s = .ok s := by
  have addr : memAddr f true (s.env l) t (s.frameOf l) = s.addrOf f true (l, t) := rfl
  obtain h | ⟨m, h⟩ := h <;> simp [issuePref, addr, hs, h]

/-- Another brings its line in, by its policy, or a read-only copy of it. -/
theorem issuePref_placed {p : Place} (hc : canonical (s.addrOf f true (l, t)) 1 = true)
    (hp : s.translate (viewAt c l.team.core) (addr64 (s.addrOf f true (l, t))) false = .ok p) :
    let a := addr64 (s.addrOf f true (l, t))
    let u := s.noteTlb (viewAt c l.team.core) a
    (p.home ≠ l.team.core.pkg → issuePref f l t s = .ok (u.fillCopy c l.team.core a f.cp.toNat p)) ∧
    (p.home = l.team.core.pkg → issuePref f l t s = .ok (if f.cp = 3 then u.l2Use (s.partOfCtx c) p.gpa p.key 0 false
      else (u.useLine l.team.core c a f.cp.toNat p).l2Use (s.partOfCtx c) p.gpa p.key (if f.cp = 1 then 1 else 0) false)) := by
  intro a u
  have addr : memAddr f true (s.env l) t (s.frameOf l) = s.addrOf f true (l, t) := rfl
  have part : u.partOfCtx c = s.partOfCtx c := partOfCtx_of_uncached (uncached_noteTlb s _ _) c
  have policy : f.cp.toNat = 1 ↔ f.cp = 1 := BitVec.toNat_inj (y := 1)
  have goes : issuePref f l t s = .ok (if p.home ≠ l.team.core.pkg then u.fillCopy c l.team.core a f.cp.toNat p
      else if f.cp = 3 then u.l2Use (u.partOfCtx c) p.gpa p.key 0 false else u.prefLine l.team.core c a f.cp.toNat p) := by
    simp only [issuePref, addr, hc, hs, Option.getD_some, hp]
    rfl
  refine ⟨fun h => by rw [goes, if_pos h], fun h => ?_⟩
  rw [goes, if_neg (not_not_intro h), State.prefLine, part]
  simp only [policy]

end

theorem pref_single {f : LM} {s : State} {l : ThreadId} {t : Thread} (hw : (Instr.pref f).WellFormed) (hs : s.gathered.ids = [l])
    (ht : s.thread l = some t) (hg : t.guard f.g f.gn = true) (hc : regCheck t [memBase f, ⟨.src 1, f.ix.toNat⟩] = none) {u : State}
    (hu : issuePref f l t s = .ok u) : exec (.pref f) s = .next (u.updThread l fun t => t.step 2) :=
  runMem_single_ok (m := lineMem f (globalSpace f)) hs ht hw hg hc hu

/-! # CFLUSH (R194) -/

theorem issueCflush_ok {f : LM} {s u : State} {x : ThreadId × Thread} (hp : s.placed f true 1 false x none) (hc : s.unclamped x.1 f)
    (hh : s.heldBefore x.1 (memAccess s x.1 f f.scope.toNat .cflush (s.addrOf f true x / 128 * 128) 128 none) = false) (h : u.like s) :
    issueCflush f x.1 x.2 u =
      .ok ((u.addAll [memAccess s x.1 f f.scope.toNat .cflush (s.addrOf f true x / 128 * 128) 128 none]).updThreads [x.1] fun t => t) := by
  unfold State.placed at hp
  have free : ∀ a, u.heldBefore x.1 a = s.heldBefore x.1 a := fun a => by rw [h]; rfl
  simp only [issueCflush, memAddr_of_like h, place_of_like h, hp, accScope_of_like h hc, memAccess_of_like h, free, hh, updThreads_self]
  rfl

theorem issueCflush_commits {f : LM} {s : State} {l : ThreadId} {t : Thread} (hp : s.placed f true 1 false (l, t) none)
    (hc : s.unclamped l f)
    (hh : s.heldBefore l (memAccess s l f f.scope.toNat .cflush (s.addrOf f true (l, t) / 128 * 128) 128 none) = true) :
    issueCflush f l t s = .wait (s.commitFirst l.team) := by
  unfold State.placed at hp
  unfold State.unclamped at hc
  simp only [State.addrOf] at hp hh
  simp [issueCflush, hp, hc, hh]

/-! # PUTSIG (R225, R226) -/

theorem sgn_toNat_11 (x : BitVec 11) : sgn x.toNat 11 = x.toInt := by
  simp only [sgn, BitVec.toInt_eq_toNat_cond, Nat.mod_eq_of_lt x.isLt]
  split <;> split <;> omega

/-- The address of a thread's payload, and that of its signal. -/
def payloadAddr (s : State) (f : LM) (x : ThreadId × Thread) : Int := (x.2.readReg (s.env x.1) f.a.toNat 2 : Int) + f.off.toInt
def signalAddr (s : State) (f : LM) (x : ThreadId × Thread) : Int := (x.2.readReg (s.env x.1) f.ix.toNat 2 : Int)

/-- The two accesses of a thread's PUTSIG. -/
def putsigAccesses (s : State) (f : LM) (x : ThreadId × Thread) : List Access :=
  [{ memAccess s x.1 f f.scope.toNat .payload (payloadAddr s f x) (4 * gsz f.w) none with
      data := x.2.readReg (s.env x.1) f.d.toNat (gsz f.w) },
   { memAccess s x.1 f f.scope.toNat .signal (signalAddr s f x) 4 none with data := 1 }]

theorem putsigAccesses_owners {s : State} {f : LM} {x : ThreadId × Thread} {a : Access} (ha : a ∈ putsigAccesses s f x) :
    a.owners = [x.1] := by
  obtain rfl | rfl : a = _ ∨ a = _ := by simpa [putsigAccesses] using ha
  · rfl
  · rfl

theorem issuePutsig_ok {f : LM} {s u : State} {x : ThreadId × Thread} (hp : s.place x.1 0 (payloadAddr s f x) (4 * gsz f.w) true = .ok none)
    (hq : s.place x.1 0 (signalAddr s f x) 4 true = .ok none) (hr : x.2.stn < 63) (hc : s.unclamped x.1 f)
    (hh : (s.team x.1.team).any Team.guarded = false) (h : u.like s) :
    issuePutsig f x.1 x.2 u = .ok ((u.addAll (putsigAccesses s f x)).updThreads [x.1] fun t => { t with stn := t.stn + 1 }) := by
  have room : ¬ 63 ≤ x.2.stn := Nat.not_le.mpr hr
  simp only [payloadAddr, signalAddr] at hp hq
  simp only [issuePutsig, readReg_of_like h, sgn_toNat_11, place_of_like h, hp, hq, accScope_of_like h hc, team_of_like h, hh,
    Bool.false_eq_true, if_false, room, memAccess_of_like h]
  rfl

/-! # LDFE (R190) -/

/-- The read of a thread's LDFE at a scratchpad place. -/
def ldfeAccess (s : State) (f : LM) (l : ThreadId) (t : Thread) (c : CoreId) (off : Nat) : Access :=
  { memAccess s l f f.scope.toNat .load (s.addrOf f true (l, t)) (4 * gsz f.w) (some (.pad c off)) with
    seq := s.seq, dst := f.d.toNat, g := gsz f.w }

section
variable {f : LM} {s : State} {l : ThreadId} {t : Thread} {c : CoreId} {off : Nat}
variable (hp : s.placed f true (4 * gsz f.w) true (l, t) (some (.pad c off))) (hr : t.ldn < 63) (hc : s.unclamped l f)
include hp hr hc

theorem issueLdfe_waits (hm : s.mayPerform (ldfeAccess s f l t c off) = false) :
    issueLdfe f l t s = .wait (s.updThread l fun x => { x with park := .ordered (.access (ldfeAccess s f l t c off)) }) := by
  have room : ¬ 63 ≤ t.ldn := Nat.not_le.mpr hr
  simp only [State.placed, State.addrOf, State.unclamped] at hp hc
  simp only [issueLdfe, hp, room, if_false, hc]
  exact if_pos (congrArg (!·) hm)

theorem issueLdfe_parks (hm : s.mayPerform (ldfeAccess s f l t c off) = true) (he : (s.core c).empty.contains (off / 128) = true) :
    issueLdfe f l t s = .wait (s.updThread l fun x => { x with park := .ldfe (ldfeAccess s f l t c off) }) := by
  have room : ¬ 63 ≤ t.ldn := Nat.not_le.mpr hr
  have ordered : ¬ (!s.mayPerform (ldfeAccess s f l t c off)) = true := by simp [hm]
  simp only [State.placed, State.addrOf, State.unclamped] at hp hc
  simp only [issueLdfe, hp, room, if_false, hc]
  exact (if_neg ordered).trans (if_pos he)

theorem issueLdfe_reads (hm : s.mayPerform (ldfeAccess s f l t c off) = true) (he : (s.core c).empty.contains (off / 128) = false) :
    issueLdfe f l t s = .ok ((s.addAll [{ ldfeAccess s f l t c off with
      got := some (memRead (s.core c).scratch off (4 * gsz f.w)), word := if s.badPad c off (4 * gsz f.w) = true then 3 else 0 }]).updThreads
        [l] fun t => { (t.setPend f.d.toNat (gsz f.w)) with ldn := t.ldn + 1 }) := by
  have room : ¬ 63 ≤ t.ldn := Nat.not_le.mpr hr
  have ordered : ¬ (!s.mayPerform (ldfeAccess s f l t c off)) = true := by simp [hm]
  simp only [State.placed, State.addrOf, State.unclamped] at hp hc
  simp only [issueLdfe, hp, room, if_false, hc]
  exact (if_neg ordered).trans (if_neg (by simp only [he, Bool.false_eq_true, not_false_iff]))

end

/-- Settles O27: all run one frame; a prefetch touches the caches only, a CFLUSH and a PUTSIG leave accesses outstanding, an LDFE reads or parks. -/
theorem otherLaneAccesses : Obligations.OtherLaneAccesses := by
  refine ⟨?pref, ?pref_single, ?cflush, ?cflush_commits, ?putsig, ?ldfe⟩
  case pref =>
    intro f s hw nd hc
    exact runMem_steps (m := lineMem f (globalSpace f)) hw
      (fun i t s => (issuePref_ok f i t s).imp fun _ h => ⟨h.1, threads_of_uncached h.2⟩) nd
      fun x hx hg => hc x (List.mem_filter.mpr ⟨hx, hg⟩)
  case pref_single =>
    intro f s l t c hw hs ht hg hc hx a v
    refine ⟨fun h => pref_single hw hs ht hg hc (issuePref_dropped hx h), fun p hcan hp => ?_⟩
    obtain ⟨remote, here⟩ := issuePref_placed hx hcan hp
    exact ⟨fun h => pref_single hw hs ht hg hc (here h), fun h => pref_single hw hs ht hg hc (remote h)⟩
  case cflush =>
    intro f s hw nd hon
    refine runMem_one_each (m := lineMem f (globalSpace f)) rfl rfl hw nd (fun x hx => (hon x hx).1) (fun _ => rfl) fun x hx u hu => ?_
    obtain ⟨-, placed, scope, free⟩ := hon x hx
    exact issueCflush_ok placed scope free hu
  case cflush_commits =>
    intro f s l t hw hs ht hg hc hp hx hh
    exact runMem_single_wait (m := lineMem f (globalSpace f)) hs ht hw hg hc (issueCflush_commits hp hx hh)
  case putsig =>
    intro f s hw nd pa sa hon
    refine runMem_issued (m := putsigMem f) (acc := putsigAccesses s f) rfl rfl hw nd (fun x hx => (hon x hx).1) ?_ fun x hx u hu => ?_
    · exact fun x _ a ha => oneTeam_single (putsigAccesses_owners ha)
    · obtain ⟨-, payload, signal, room, scope, unguarded⟩ := hon x hx
      exact issuePutsig_ok payload signal room scope unguarded hu
  case ldfe =>
    intro f s l t c off hw hs ht hg hc hp hr hx acc
    have runs : exec (.ldfe f) s = runMem (loadMem f [0, 1, 2, 3] (localSpace f) true (gsz f.w)) (issueLdfe f) s := rfl
    refine ⟨fun may full => ?_, fun may empty => ?_, fun may => ?_⟩
    · rw [runs, runMem_single_ok hs ht hw hg hc (issueLdfe_reads hp hr hx may full)]
      exact congrArg _ (issued_single hs ht hg fun a ha => oneTeam_single (i := l) (by rw [List.mem_singleton.mp ha]; rfl))
    · exact runMem_single_wait hs ht hw hg hc (issueLdfe_parks hp hr hx may empty)
    · exact runMem_single_wait hs ht hw hg hc (issueLdfe_waits hp hr hx may)

end Sys2Proof.Machine

namespace Sys2Proof.Machine

open Claims

/-! # Uniform loads and stores (R188) -/

theorem stepAll_like (s : State) (ids : List ThreadId) (k : Nat) : (s.stepAll ids k).like s := rfl

theorem memAddr_stepAll (s : State) (ids : List ThreadId) (k : Nat) (f : LM) (idx : Bool) (l : ThreadId) (lt : Thread) :
    memAddr f idx ((s.stepAll ids k).env l) lt ((s.stepAll ids k).frameOf l) = s.addrOf f idx (l, lt) :=
  memAddr_of_like (stepAll_like s ids k) f idx (l, lt)

/-- The guard-true threads stand as they did when the guard-false ones have stepped past. -/
theorem thread_stepAll_offIds {s : State} {f : L1} {k : Nat} {x : ThreadId × Thread} (hx : x ∈ s.onGroup f) :
    (s.stepAll (s.offIds f) k).thread x.1 = some x.2 := by
  have stays : x.1 ∉ s.offIds f := on_off (List.mem_map_of_mem hx)
  obtain ⟨-, -, row⟩ := group_mem (List.mem_filter.mp hx).1
  simp [State.stepAll, State.updThreads, row, stays]

/-- Room in a counter of every guard-true thread is room for the group. -/
theorem roomAll_of_room {s : State} {f : L1} {ctr : Thread → Nat} (h : ∀ x ∈ s.onGroup f, ctr x.2 < 63) :
    (s.stepAll (s.offIds f) 2).roomAll (s.onIds f) ctr = true := by
  refine List.all_eq_true.mpr fun i hi => ?_
  obtain ⟨x, hx, rfl⟩ := List.mem_map.mp hi
  simp [thread_stepAll_offIds hx, h x hx]

/-- The access of a group that has entered the outstanding ones, whose threads took their effect and stepped past. -/
theorem addAccess_uniNext (s : State) (f : L1) (a : Access) (e : Thread → Thread) :
    (((s.stepAll (s.offIds f) 2).addAccess a).updThreads (s.onIds f) e).stepAll (s.onIds f) 2 =
      { s.uniNext f 2 e with seq := s.seq + max 1 ((a.owners.map (·.team)).eraseDups).length, accs := s.accs ++ [{ a with seq := s.seq }] } := by
  rw [State.stepAll, updThreads_updThreads]
  rfl

section
variable {f : LM} {s : State} {l : ThreadId} {lt : Thread} {loc : Option Loc}

theorem runUload_issued {u : UniDef} {idx : Bool} {tag : Nat} (hg : u.g = f.g) (hn : u.gn = f.gn) (hw : u.words = 2) (hl : u.legal = true)
    (h : s.leads f.toL1 u.srcs u.dsts l lt) (hp : s.placed f idx (4 * gsz f.w) true (l, lt) loc)
    (hr : ∀ x ∈ s.onGroup f.toL1, x.2.ldn < 63) (hc : s.unclamped l f) : runUload u f idx tag s = .next
      { s.uniNext f.toL1 2 fun t => { (t.setPend f.d.toNat (gsz f.w)) with ldn := t.ldn + 1 } with
        seq := s.seq + max 1 ((s.onIds f.toL1).map (·.team)).eraseDups.length
        accs := s.accs ++ [{ memAccess s l f f.scope.toNat .load (s.addrOf f idx (l, lt)) (4 * gsz f.w) loc with
          seq := s.seq, owners := s.onIds f.toL1, dst := f.d.toNat, g := gsz f.w, tag := BitVec.ofNat 4 tag }] } := by
  have like := stepAll_like s (s.offIds f.toL1) 2
  have placed : s.place l f.space.toNat (s.addrOf f idx (l, lt)) (4 * gsz f.w) true = .ok loc := hp
  rw [runUload, runUniform_leads hg hn hl h, hw]
  simp only [memAddr_stepAll, place_of_like like, placed, roomAll_of_room hr, accScope_of_like like hc, memAccess_of_like like, Bool.not_true,
    Bool.false_eq_true, if_false]
  exact congrArg Host.Outcome.next (addAccess_uniNext s f.toL1 _ _)

/-- The write of a group. -/
def ustwAccess (s : State) (f : LM) (l : ThreadId) (lt : Thread) (loc : Option Loc) : Access :=
  { memAccess s l f f.scope.toNat .store (s.addrOf f true (l, lt)) (4 * gsz f.w) loc with
    owners := s.onIds f.toL1, data := lt.readReg (s.env l) f.d.toNat (gsz f.w) }

/-- A USTW whose address passes, with room in STN, puts its write where its holder's task says. -/
theorem exec_ustw_puts (hw : (Instr.ustw f).WellFormed)
    (h : s.leads f.toL1 [memBase f, ⟨.src 1, f.ix.toNat⟩, ⟨.src (gsz f.w), f.d.toNat⟩] [] l lt)
    (hp : s.placed f true (4 * gsz f.w) true (l, lt) loc) (hr : ∀ x ∈ s.onGroup f.toL1, x.2.stn < 63) (hc : s.unclamped l f)
    {i : ThreadId} (hi : ((s.onIds f.toL1).find? fun i => (s.team i.team).any Team.guarded).getD l = i) {v : State}
    (hv : (s.stepAll (s.offIds f.toL1) 2).putStore i { lt with stn := 0 } (s.onIds f.toL1) (ustwAccess s f l lt loc) = .ok v) :
    exec (.ustw f) s = .next (v.stepAll (s.onIds f.toL1) 2) := by
  have like := stepAll_like s (s.offIds f.toL1) 2
  have placed : s.place l f.space.toNat (s.addrOf f true (l, lt)) (4 * gsz f.w) true = .ok loc := hp
  show execUstw f s = _
  have held_by : ∀ e, (s.stepAll (s.offIds f.toL1) 2).holder ⟨l, lt, e, s.onIds f.toL1, s.onIds f.toL1, []⟩ = i := fun _ => hi
  have words : (ustwUni f).words = 2 := rfl
  simp only [ustwAccess] at hv
  rw [execUstw, runUniform_leads (u := ustwUni f) (f := f.toL1) rfl rfl hw h, words]
  simp only [memAddr_stepAll, place_of_like like, placed, roomAll_of_room hr, accScope_of_like like hc, memAccess_of_like like, readReg_of_like like,
    held_by, Bool.not_true, Bool.false_eq_true, if_false, hv]

end

theorem holder_mem {f : L1} {s : State} {l : ThreadId} {lt : Thread} {srcs dsts : List Opd} (h : s.leads f srcs dsts l lt) {p : ThreadId → Bool} :
    ((s.onIds f).find? p).getD l ∈ s.onIds f := by
  have leader : l ∈ s.onIds f := List.mem_map.mpr ⟨(l, lt), List.mem_of_head? h.1, rfl⟩
  cases hp : (s.onIds f).find? p with
  | none => exact leader
  | some i => exact List.mem_of_find?_eq_some hp

/-- A write of a guarded task to memory, with room in STN and in the store buffer, is held. -/
theorem putStore_held {s : State} {i : ThreadId} {t : Thread} {ids : List ThreadId} {a : Access} (ha : a.global = true)
    (hg : (s.team i.team).any Team.guarded = true) (hr : t.stn < 63) (hs : s.storeRoom i.team.core ≠ 0) :
    s.putStore i t ids a = .ok ((s.holdAccess i.team a).startStore ids) := by
  have room : ¬ 63 ≤ t.stn := Nat.not_le.mpr hr
  simp only [State.putStore, ha, hg, Bool.and_true, if_true, room, if_false, hs]

/-- Settles O28: the three run one frame, in which the guard-false threads have stepped past when the group's access is made. -/
theorem uniformAccesses : Obligations.UniformAccesses := by
  refine ⟨?uldw, ?uldt, ?ustw, ?ustw_held⟩
  case uldw =>
    intro f s l lt loc hw h hp hr hc
    exact runUload_issued (u := uloadUni f true true) rfl rfl rfl hw h hp hr hc
  case uldt =>
    intro f s l lt loc hw h hp hr hc
    exact runUload_issued (u := uldtUni f) rfl rfl rfl hw h hp hr hc
  case ustw =>
    intro f s l lt loc hw h hp hr hc hs
    have like := stepAll_like s (s.offIds f.toL1) 2
    have unheld : ∀ i ∈ s.onIds f.toL1, f.space = 1 ∨ f.space = 2 ∨ (s.team i.team).any Team.guarded = false := fun i hi =>
      hs.imp_right fun hs => hs.imp_right fun hs => hs i hi
    have puts : ∀ i ∈ s.onIds f.toL1, (s.stepAll (s.offIds f.toL1) 2).putStore i { lt with stn := 0 } (s.onIds f.toL1)
        (ustwAccess s f l lt loc) = .ok (((s.stepAll (s.offIds f.toL1) 2).addAccess (ustwAccess s f l lt loc)).startStore (s.onIds f.toL1)) :=
      fun i hi => putStore_ok (by rw [team_of_like like]; exact not_held_of_space rfl (unheld i hi)) (Nat.succ_pos 62)
    rw [exec_ustw_puts hw h hp hr hc rfl (puts _ (holder_mem h))]
    exact congrArg Host.Outcome.next (addAccess_uniNext s f.toL1 _ _)
  case ustw_held =>
    intro f s l i lt hw h hp hr hc hs hi hroom
    have like := stepAll_like s (s.offIds f.toL1) 2
    have guarded : (s.team i.team).any Team.guarded = true := List.find?_some (p := fun i : ThreadId => (s.team i.team).any Team.guarded) hi
    have puts : (s.stepAll (s.offIds f.toL1) 2).putStore i { lt with stn := 0 } (s.onIds f.toL1) (ustwAccess s f l lt none) =
        .ok (((s.stepAll (s.offIds f.toL1) 2).holdAccess i.team (ustwAccess s f l lt none)).startStore (s.onIds f.toL1)) :=
      putStore_held (by obtain hs | hs := hs <;> simp [Access.global, ustwAccess, memAccess, newAccess, hs])
        (by rw [team_of_like like]; exact guarded) (Nat.succ_pos 62) hroom
    rw [exec_ustw_puts hw h hp hr hc (by rw [hi]; rfl) puts]
    rw [State.startStore, State.stepAll, updThreads_updThreads]
    rfl

end Sys2Proof.Machine

namespace Sys2Proof.Machine

/-! # Where an access is performed (R181, R212, R239) -/

section
variable {s : State} {x : Access}

theorem travels_of_pad (h : x.space = 1 ∨ x.space = 2) : s.travels x = false := by
  obtain h | h := h <;> simp [State.travels, Access.global, h]

/-- What is no atomic and no counter access, and has its home at its core's package, stays there. -/
theorem travels_of_home (hk : x.kind ∈ [.load, .store, .payload, .engine]) (h : s.homeOfAcc x = some x.core.pkg) : s.travels x = false := by
  simp only [List.mem_cons, List.not_mem_nil, or_false] at hk
  obtain hk | hk | hk | hk := hk <;> simp [State.travels, hk, h]

theorem lostPeer_of_global (h : x.space = 0 ∨ x.space = 3) : s.lostPeer x = false := by
  obtain h | h := h <;> simp [State.lostPeer, h]

/-- A load without held writes to see reads what memory or its line holds. -/
theorem globalBytes_of_no_forwards {bs : List Byte} (h : s.forwards x = []) (hl : bs.length = x.size) :
    s.globalBytes x bs = bytesToNat bs := by
  have all : (List.range bs.length).map (fun i => bs.getD i 0) = bs :=
    List.ext_getElem (by simp) fun i _ hi => by simp [hi]
  unfold State.globalBytes
  rw [h, ← hl]
  refine congrArg bytesToNat ((List.map_congr_left fun i _ => ?_).trans all)
  split <;> rfl

theorem replied_eq (v : Nat) :
    s.replied x v = if (x.space = 0 ∨ x.space = 3) ∧ x.state = .sent then s.globalBytes x (natToBytes x.size v) else v := by
  simp [State.replied, Access.global]

end

/-! # LOAD_DATA_RETURN (R185, R198, R382) -/

section
variable {s : State} {a : Nat} {x : Access} (ha : s.access a = some x) (hk : x.kind = .load)
include ha hk

/-- A load that has its value. -/
theorem execLoadDataReturn_of_got {v : Nat} (hs : x.state = .waiting ∨ x.state = .sent) (hg : x.got = some v) :
    execLoadDataReturn a s =
      .next ((if x.word = 0 then s.finishLoad x (s.replied x v) else s.poisoned x (x.word.toNat - 1)).dropAccess a) := by
  obtain hs | hs := hs <;> simp [execLoadDataReturn, ha, hk, hs, hg]

section
variable (hw : x.state = .waiting) (hg : x.got = none) (hm : s.mayPerform x = true) (ht : s.travels x = false)
  (hl : s.lostPeer x = false)
include hw hg hm ht hl

/-- A load that is performed here, and reads no error. -/
theorem execLoadDataReturn_reads {u : State} {v : Nat} (h : s.loadValue x = .ok (u, .ok v)) :
    execLoadDataReturn a s = .next ((u.finishLoad x v).dropAccess a) := by
  simp [execLoadDataReturn, State.readsHere, ha, hk, hw, hg, hm, ht, hl, h]

/-- One that reads an error. -/
theorem execLoadDataReturn_poisons {u : State} {src : Nat} (h : s.loadValue x = .ok (u, .error src)) :
    execLoadDataReturn a s = .next ((u.poisoned x src).dropAccess a) := by
  simp [execLoadDataReturn, State.readsHere, ha, hk, hw, hg, hm, ht, hl, h]

end

end

section
variable {s : State} {x : Access}

theorem loadValue_pad {c : CoreId} {off : Nat} (h : x.loc = some (.pad c off)) : s.loadValue x =
    .ok (s, if s.badPad c off x.size then .error 2 else .ok (memRead (s.core c).scratch off x.size)) := by
  simp [State.loadValue, h]

/-- The state in which a load or store has brought in the line of its address. -/
def State.brought (s : State) (x : Access) (p : Place) : State := (s.noteTlb x.view x.addr).useLine x.core x.ctx x.addr x.cp p

theorem uncached_brought (s : State) (x : Access) (p : Place) : (s.brought x p).uncached = s.uncached :=
  (uncached_useLine ..).trans (uncached_noteTlb ..)

section
variable {p : Place} (hx : x.loc = none) (hh : s.hitLine x = none) (hp : s.translate x.view x.addr false = .ok p)
include hx hh hp

/-- A load that misses its core's L1 reads memory behind what the line's arrival wrote back. -/
theorem loadValue_miss : s.loadValue x = .ok (s.brought x p,
    match (s.brought x p).badMem (s.partOfCtx x.ctx) p.gpa p.key x.size with
    | some src => .error src
    | none => .ok (s.globalBytes x (memBytes (s.brought x p).mem p.key x.size))) := by
  have part : (s.brought x p).partOfCtx x.ctx = s.partOfCtx x.ctx := partOfCtx_of_uncached (uncached_brought s x p) x.ctx
  rw [← part]
  simp only [State.loadValue, State.readLocal, hx, hh, hp]
  rw [State.brought]
  cases ((s.noteTlb x.view x.addr).useLine x.core x.ctx x.addr x.cp p).badMem
    (((s.noteTlb x.view x.addr).useLine x.core x.ctx x.addr x.cp p).partOfCtx x.ctx) p.gpa p.key x.size <;> rfl

end

/-- A load that hits its core's L1 reads the line there. -/
theorem loadValue_hit {l : L1Line} (hx : x.loc = none) (hc : x.cp ≠ 3) (hh : s.hitLine x = some l)
    (hb : (s.lineRead l (x.addr % 128) x.size).2 = none) : s.loadValue x = .ok (s.updCore x.core fun k => k.touch l,
      .ok (s.globalBytes x (s.lineRead l (x.addr % 128) x.size).1)) := by
  simp only [State.loadValue, State.readLocal, hx, hh, hc, if_false, hb]

end

/-! # STORE_PERFORMED (R187, R191, R194, R212) -/

section
variable {s : State} {x : Access}

theorem storeDone_eq (hk : x.kind ∈ [.store, .payload, .engine]) :
    s.storeDone x = (if x.kind = .store then s.lowerStn x.owners else s).dropAccess x.seq := by
  simp only [List.mem_cons, List.not_mem_nil, or_false] at hk
  obtain hk | hk | hk := hk <;> simp [State.storeDone, hk]

/-- A local-home store at quad scope or wider, a payload, and a store that its core holds no line for, write memory. -/
theorem writeLocal_memory {p : Place}
    (h : 3 ≤ x.scope ∨ x.kind = .payload ∨ (s.brought x p).l1Line x.core x.ctx x.addr = none) : s.writeLocal x p =
    (((s.brought x p).l2Use (s.partOfCtx x.ctx) p.gpa p.key x.cp true).memStore p.key x.size x.data).passL1 x.core p.key x.size := by
  have part : (s.brought x p).partOfCtx x.ctx = s.partOfCtx x.ctx := partOfCtx_of_uncached (uncached_brought s x p) x.ctx
  have no_line : (if x.scope < 3 && x.kind ≠ .payload then (s.brought x p).l1Line x.core x.ctx x.addr else none) = none := by
    obtain h | h | h := h
    · exact if_neg (by simp [Nat.not_lt.mpr h])
    · exact if_neg (by simp [h])
    · rw [h, ite_self]
  rw [← part]
  unfold State.brought at no_line ⊢
  simp only [State.writeLocal, no_line]

/-- Another writes its core's line. -/
theorem writeLocal_line {p : Place} {l : L1Line} (hs : x.scope < 3) (hk : x.kind ≠ .payload)
    (hl : (s.brought x p).l1Line x.core x.ctx x.addr = some l) : s.writeLocal x p = (s.brought x p).updCore x.core fun k =>
      k.updLine l fun y => y.write (x.addr % 128) x.size x.data ⟨x.seq, x.owners, x.strm⟩ := by
  unfold State.brought at hl ⊢
  simp only [State.writeLocal, hs, hk, ne_eq, not_false_iff, decide_true, Bool.and_self, if_true, hl]

end

section
variable {s : State} {a : Nat} {x : Access} (ha : s.access a = some x) (hd : x.held = false) (hw : x.state = .waiting)
  (hm : s.mayPerform x = true) (ht : s.travels x = false) (hl : s.lostPeer x = false)
include ha hd hw hm ht hl

/-- A store that is performed here and that no request has carried. -/
theorem execStorePerformed_stores {u : State} (hk : x.kind ∈ [.store, .payload, .engine]) (hg : x.got = none) (hu : s.storeValue x = .ok u) :
    execStorePerformed a s = .next ((if x.kind = .store then u.lowerStn x.owners else u).dropAccess a) := by
  rw [← access_seq ha, ← storeDone_eq hk]
  simp only [List.mem_cons, List.not_mem_nil, or_false] at hk
  obtain hk | hk | hk := hk <;> simp [execStorePerformed, access_seq ha, ha, hk, hg, hd, hw, hm, ht, hl, hu]

theorem execStorePerformed_stfe {c : CoreId} {off : Nat} (hk : x.kind = .stfe) (hx : x.loc = some (.pad c off)) : execStorePerformed a s =
    .next (((((s.padWrite c off x.size x.data).noteLine x.owners c off).lineFull c (off / 128)).lowerStn x.owners).dropAccess a) := by
  simp [execStorePerformed, State.storeDone, access_seq ha, ha, hk, hx, hd, hw, hm, ht, hl]

theorem execStorePerformed_ste {c : CoreId} {off : Nat} (hk : x.kind = .ste) (hx : x.loc = some (.pad c off))
    (he : (s.core c).empty.contains (off / 128) = false) : execStorePerformed a s =
    .next (((s.updCore c fun k => { k with empty := k.empty ++ [off / 128] }).lowerStn x.owners).dropAccess a) := by
  have marked : (s.updCore c fun k => if k.empty.contains (off / 128) then k else { k with empty := k.empty ++ [off / 128] }) =
      s.updCore c fun k => { k with empty := k.empty ++ [off / 128] } := by
    simp only [State.updCore, he, Bool.false_eq_true, if_false]
  simp only [execStorePerformed, State.storeDone, access_seq ha, ha, hk, hx, hd, hw, hm, ht, hl, marked]
  rfl

end

/-- The state in which a flush has dropped its core's line. -/
def State.flushedL1 (s : State) (x : Access) : State :=
  match s.l1Line x.core x.ctx x.addr with
  | some l => s.dropLines x.core fun y => y.same l
  | none => s

theorem flushLine_narrow {s : State} {x : Access} (h : x.scope < 5) : s.flushLine x = s.flushedL1 x := if_pos h

theorem flushLine_wide {s : State} {x : Access} {p : Place} {l : L2Line} (h : 5 ≤ x.scope)
    (hp : (s.flushedL1 x).translate x.view x.addr false = .ok p)
    (hl : (s.flushedL1 x).l2Home ((s.flushedL1 x).partOfCtx x.ctx) p.gpa p.key = some l) :
    s.flushLine x = (s.flushedL1 x).l2DropAll fun y => y.same l := by
  have wide : s.flushLine x = match (s.flushedL1 x).translate x.view x.addr false with
      | .error _ => s.flushedL1 x
      | .ok p => match (s.flushedL1 x).l2Home ((s.flushedL1 x).partOfCtx x.ctx) p.gpa p.key with
        | some l => (s.flushedL1 x).l2DropAll fun y => y.same l
        | none => s.flushedL1 x := if_neg (Nat.not_lt.mpr h)
  simp only [wide, hp, hl]

/-- A flush that may be performed writes back and drops its line. -/
theorem execStorePerformed_cflush {s : State} {a : Nat} {x : Access} (ha : s.access a = some x) (hk : x.kind = .cflush)
    (hd : x.held = false) (hw : x.state = .waiting) (hs : x.space = 0 ∨ x.space = 3) (hm : s.mayPerform x = true) :
    execStorePerformed a s = .next ((s.flushLine x).dropAccess a) := by
  have stays : s.travels x = false := by simp [State.travels, hk]
  simp [execStorePerformed, ha, hk, hd, hw, hm, stays, lostPeer_of_global hs]

/-! # ATOMIC_VALUE_RETURN and PUTSIG_SIGNAL (R226, R254) -/

theorem execAtomicValueReturn_atomic {s : State} {a v : Nat} {x : Access} {op : NetOp} (ha : s.access a = some x)
    (hk : x.kind = .atomic op) (ho : op ≠ .arrive) (hg : x.got = some v) : execAtomicValueReturn a s =
    .next ((if x.dst = 124 then s.lowerStn x.owners
      else if x.word = 0 then s.finishLoad x v else s.poisoned x (x.word.toNat - 1)).dropAccess a) := by
  have returns : execAtomicValueReturn a s = .next (s.returnAtomic x v) := by
    cases op <;> simp_all [execAtomicValueReturn]
  rw [returns, State.returnAtomic, access_seq ha]

/-- A request to memory of an access that is no release leaves its core, and what the core holds dirty of the line with it. -/
theorem leaveCore_of_glob {s : State} {r : Req} {x : Access} {p : Place} {q g : Nat} (hr : r.loc = .glob q g)
    (hx : (s.leafAccs r).head? = some x) (hp : s.translate x.view x.addr x.writes = .ok p) (hj : x.kind ≠ .jadd)
    (hb : x.kind ≠ .atomic .arrive) :
    let part := s.partOfCtx x.ctx
    s.leaveCore r = ((r.leaves.foldl (fun s l => s.updAccess l.1 fun a => { a with state := .sent })
      ((s.noteTlb x.view x.addr).exposeKey x.core p.key)).dropFlight r.rid).send
        ⟨{ r with loc := .glob (s.reach part p.gpa).part (s.reach part p.gpa).gpa, gpa := p.gpa, home := p.home, part := part },
          .toRace, colOf r.src, 0, false⟩ := by
  intro part
  simp only [State.leaveCore, hr, hx, hp, hj, hb, decide_false, Bool.or_self, Bool.false_eq_true, if_false]
  rfl

/-- The request that an access on its own becomes. -/
def State.ownRequest (s : State) (x : Access) : Req := { s with seq := s.seq + 1 }.requestOf s.seq x.seq x []

theorem launchAccess_eq (s : State) (x : Access) : s.launchAccess x = { s with seq := s.seq + 1 }.leaveCore (s.ownRequest x) := rfl

theorem leafAccs_ownRequest {s : State} {x : Access} (ha : s.access x.seq = some x) :
    ({ s with seq := s.seq + 1 }.leafAccs (s.ownRequest x)).head? = some x := by
  have found : { s with seq := s.seq + 1 }.access x.seq = some x := ha
  simp [State.leafAccs, State.ownRequest, State.requestOf, found]

/-- A signal that may be performed leaves on its own as a request to its home. -/
theorem execPutsigSignal_sends {s : State} {a : Nat} {p : Place} {x : Access} (ha : s.access a = some x) (hk : x.kind = .signal)
    (hw : x.state = .waiting) (hg : x.got = none) (hx : x.loc = none) (hm : s.mayPerform x = true)
    (hp : s.translate x.view x.addr true = .ok p) :
    let part := s.partOfCtx x.ctx
    execPutsigSignal a s = .next
      ((((({ s with seq := s.seq + 1 }.noteTlb x.view x.addr).exposeKey x.core p.key).updAccess a fun y => { y with state := .sent }).dropFlight
        s.seq).send
        ⟨{ rid := s.seq, grp := a, gpa := p.gpa, op := .add, loc := .glob (s.reach part p.gpa).part (s.reach part p.gpa).gpa, size := x.size,
           x := x.data, y := x.data2, src := x.core.pkg, home := p.home, leaves := [(a, x.data, x.data2)], part := part, ctx := x.ctx,
           waits := [] }, .toRace, colOf x.core.pkg, 0, false⟩) := by
  intro part
  have writes : x.writes = true := by simp [Access.writes, hk]
  have translates : s.accessMiss x = none := by simp [State.accessMiss, hk, writes, hp]
  have launches : execPutsigSignal a s = .next (s.launchAccess x) := by
    simp [execPutsigSignal, ha, hk, hw, hg, hm, translates]
  obtain rfl := access_seq ha
  have to_memory : (s.ownRequest x).loc = .glob 0 0 := by simp [State.ownRequest, State.requestOf, hx]
  have adds : x.netOp = .add := by simp [Access.netOp, hk]
  rw [launches, launchAccess_eq, leaveCore_of_glob (p := p) to_memory (leafAccs_ownRequest ha) (writes ▸ hp) (by simp [hk]) (by simp [hk])]
  simp only [State.ownRequest, State.requestOf, adds]
  rfl

/-- Settles O31: each access goes by the place where it is performed: a scratchpad, its core's line, memory, or the path to its home. -/
theorem accessesArePerformed : Obligations.AccessesArePerformed := by
  refine ⟨?got, ?load_pad, ?load_miss, ?load_hit, ?store, ?store_pad, ?stfe, ?ste, ?cflush, ?atomic, ?signal, ?putsig⟩
  case got =>
    intro s a v x ha hk hs hg w
    have replied : s.replied x v = w := replied_eq v
    rw [← replied]
    refine ⟨fun hw => ?_, fun hw => ?_⟩
    · exact (execLoadDataReturn_of_got ha hk hs hg).trans (by rw [if_pos hw])
    · exact (execLoadDataReturn_of_got ha hk hs hg).trans (by rw [if_neg hw])
  case load_pad =>
    rintro s a off c x ha hk hg ⟨hw, hm, hx, hs, hl⟩
    have value := loadValue_pad (s := s) hx
    refine ⟨fun hb => ?_, fun hb => ?_⟩
    · exact execLoadDataReturn_reads ha hk hw hg hm (travels_of_pad hs) hl (value.trans (by rw [hb]; rfl))
    · exact execLoadDataReturn_poisons ha hk hw hg hm (travels_of_pad hs) hl (value.trans (by rw [hb]; rfl))
  case load_miss =>
    rintro s a p x ha hk ⟨hw, hg, hm, hx, hs, hh⟩ hhit hp u
    have stays := travels_of_home (by simp [hk]) hh
    have value := loadValue_miss hx hhit hp
    refine ⟨fun hf hb => ?_, fun src hb => ?_⟩
    · refine execLoadDataReturn_reads ha hk hw hg hm stays (lostPeer_of_global hs) (value.trans ?_)
      have no_error : (s.brought x p).badMem (s.partOfCtx x.ctx) p.gpa p.key x.size = none := hb
      rw [no_error, globalBytes_of_no_forwards hf (by simp [memBytes])]
      rfl
    · refine execLoadDataReturn_poisons ha hk hw hg hm stays (lostPeer_of_global hs) (value.trans ?_)
      have error : (s.brought x p).badMem (s.partOfCtx x.ctx) p.gpa p.key x.size = some src := hb
      rw [error]
      rfl
  case load_hit =>
    rintro s a l x ha hk ⟨hw, hg, hm, hx, hs, hh⟩ hc hhit hf hb
    have stays := travels_of_home (by simp [hk]) hh
    refine execLoadDataReturn_reads ha hk hw hg hm stays (lostPeer_of_global hs) ((loadValue_hit hx hc hhit hb).trans ?_)
    rw [globalBytes_of_no_forwards hf (by simp [State.lineRead, rangeFrom])]
    simp only [State.lineRead, rangeFrom, List.map_map]
    rfl
  case store =>
    rintro s a p x ha hk ⟨hw, hg, hm, hx, hs, hh⟩ hd hp done u
    have stays := travels_of_home (List.mem_cons_of_mem _ hk) hh
    have value : s.storeValue x = .ok (s.writeLocal x p) := by simp [State.storeValue, hx, hp]
    have stores := execStorePerformed_stores ha hd hw hm stays (lostPeer_of_global hs) hk hg value
    refine ⟨fun h => ?_, fun l hsc hpl hline => ?_⟩
    · rw [writeLocal_memory h] at stores
      exact stores
    · rw [writeLocal_line hsc hpl hline, access_seq ha] at stores
      exact stores
  case store_pad =>
    rintro s a off c x ha hk hg hd ⟨hw, hm, hx, hs, hl⟩
    have value : s.storeValue x = .ok ((s.padWrite c off x.size x.data).noteLine x.owners c off) := by simp [State.storeValue, hx]
    exact (execStorePerformed_stores ha hd hw hm (travels_of_pad hs) hl (by simp [hk]) hg value).trans (by rw [if_pos hk])
  case stfe =>
    rintro s a off c x ha hk hd ⟨hw, hm, hx, hs, hl⟩
    exact execStorePerformed_stfe ha hd hw hm (travels_of_pad hs) hl hk hx
  case ste =>
    rintro s a off c x ha hk hd ⟨hw, hm, hx, hs, hl⟩ he
    exact execStorePerformed_ste ha hd hw hm (travels_of_pad hs) hl hk hx he
  case cflush =>
    intro s a x ha hk hd hw hs hm u
    have flushes := execStorePerformed_cflush ha hk hd hw hs hm
    refine ⟨fun hsc => ?_, fun p l hsc hp hl => ?_⟩
    · rw [flushLine_narrow hsc] at flushes
      exact flushes
    · rw [flushLine_wide hsc hp hl] at flushes
      exact flushes
  case atomic =>
    intro s a v x op ha hk ho hg
    exact execAtomicValueReturn_atomic ha hk ho hg
  case signal =>
    intro s a v x ha hk hg
    show execAtomicValueReturn a s = _
    simp [execAtomicValueReturn, ha, hk, hg]
  case putsig =>
    intro s a p x ha hk hw hg _ hx hm hp
    exact execPutsigSignal_sends ha hk hw hg hx hm hp

end Sys2Proof.Machine

namespace Sys2Proof.Machine

/-! # Page faults of one team's access (R201) -/

theorem parts_state {a p : Access} {t : TeamId} (hp : p ∈ a.parts t) : p.state = a.state := by
  unfold Access.parts at hp
  split at hp
  · rw [List.mem_singleton.mp hp]
  · obtain ⟨⟨u, i⟩, -, rfl⟩ := List.mem_map.mp hp
    dsimp only
    split
    · rfl
    · split <;> rfl

/-- Of what it holds back, nothing is faulted, and the teams stay as they are. -/
theorem markWithheld_keeps (t : TeamId) (l : List Access) (s : State) :
    (markWithheld s t l).teams = s.teams ∧ ∀ b ∈ (markWithheld s t l).accs, b.state = .faulted → b ∈ s.accs := by
  induction l generalizing s with
  | nil => exact ⟨rfl, fun b hb _ => hb⟩
  | cons a as ih =>
    unfold markWithheld
    extract_lets behind hold marked
    obtain ⟨same_teams, faulted⟩ := ih marked
    have kept : marked.teams = s.teams ∧ ∀ b ∈ marked.accs, b.state = .faulted → b ∈ s.accs := by
      unfold marked
      split
      case isTrue h =>
        refine ⟨rfl, fun b hb hf => ?_⟩
        obtain ⟨y, hy, hb⟩ := List.mem_flatMap.mp hb
        unfold hold at hb
        split at hb
        · have waiting : a.state = .waiting := by simp_all
          obtain ⟨p, hp, rfl⟩ := List.mem_map.mp hb
          have same := parts_state hp
          split at hf <;> simp_all
        · rwa [List.mem_singleton.mp hb]
      case isFalse => exact ⟨rfl, fun b hb _ => hb⟩
    exact ⟨same_teams.trans kept.1, fun b hb hf => kept.2 b (faulted b hb hf) hf⟩

/-- A fault stops a running team. -/
theorem stopFaulting_stops {s u : State} {t : TeamId} (hu : u.teams = s.teams)
    (hs : (s.team t).any (fun tm => tm.stop = .running || tm.stop = .replaying) = true) :
    ∃ tm, (u.stopFaulting t).team t = some tm ∧ tm.stop = .faulting := by
  have same_team : u.team t = s.team t := congrArg (tget · t) hu
  rw [State.stopFaulting, team_updTeam, same_team]
  cases htm : s.team t with
  | none => simp [htm] at hs
  | some tm =>
    have runs : tm.stop = .running ∨ tm.stop = .replaying := by simpa [htm] using hs
    obtain h | h := runs <;> simp [h]

/-- An access of a team that is stopping for a fault waits in its fault frame. -/
theorem mayStop_of_faulting {s : State} {b : Access} {i : ThreadId} {tm : Team} (hi : i ∈ b.owners) (ht : s.team i.team = some tm)
    (hs : tm.stop = .faulting) : s.mayStop b = true :=
  List.any_eq_true.mpr ⟨i, hi, by simp [ht, hs]⟩

section
variable {s : State} {x : Access} {t : TeamId} (ht : (x.owners.map (·.team)).eraseDups = [t])
include ht

theorem parts_of_one_team (st : AccState) : { x with state := st }.parts t = [{ x with state := st }] := by
  simp [Access.parts, ht]

theorem head_owner_team : ((x.owners.head?.map (·.team)).getD ⟨x.core, 0⟩) = t := by
  obtain ⟨nonempty, all⟩ := eraseDups_eq_singleton ht
  cases ho : x.owners with
  | nil => simp [ho] at nonempty
  | cons i is => exact all i.team (by simp [ho])

/-- An access of one team is marked faulted as it is, and that team alone stops. -/
theorem faultAccess_of_one_team :
    let u := { s with accs := s.accs.map fun y => if y.seq = x.seq then { x with state := .faulted } else y }
    s.faultAccess x = ((markWithheld u t u.accs).stopFaulting t).trimFlights := by
  have marked : s.accs.flatMap (fun b => if b.seq = x.seq then { x with state := .faulted }.parts t else [b]) =
      s.accs.map fun y => if y.seq = x.seq then { x with state := .faulted } else y := by
    rw [List.map_eq_flatMap, parts_of_one_team ht]
    exact congrArg (List.flatMap · s.accs) (funext fun b => by split <;> rfl)
  simp only [State.faultAccess, head_owner_team ht, marked, ht, List.foldl_cons, List.foldl_nil]

/-- What then stands faulted under its number is the access. -/
theorem owners_of_faultAccess {b : Access} (hb : b ∈ (s.faultAccess x).accs) (hf : b.state = .faulted) (hn : b.seq = x.seq) :
    b.owners = x.owners := by
  rw [faultAccess_of_one_team ht] at hb
  obtain ⟨-, kept⟩ := markWithheld_keeps t _ { s with accs := s.accs.map fun y => if y.seq = x.seq then { x with state := .faulted } else y }
  obtain ⟨y, -, rfl⟩ := List.mem_map.mp (kept b hb hf)
  split <;> simp_all

theorem faultAccess_stops (hs : (s.team t).any (fun tm => tm.stop = .running || tm.stop = .replaying) = true) :
    ∃ tm, (s.faultAccess x).team t = some tm ∧ tm.stop = .faulting := by
  rw [faultAccess_of_one_team ht]
  exact stopFaulting_stops (s := s) (markWithheld_keeps t _ _).1 hs

/-- A fault of a running team's access leaves none that waits outside the fault frame. -/
theorem faultAll_of_one_team (hs : (s.team t).any (fun tm => tm.stop = .running || tm.stop = .replaying) = true) :
    s.faultAll [x] = s.faultAccess x := by
  obtain ⟨nonempty, all⟩ := eraseDups_eq_singleton ht
  obtain ⟨tm, found, stop⟩ := faultAccess_stops ht hs
  have none_waits : ((s.faultAccess x).accs.filter fun b => b.state = .faulted && b.reqs.isEmpty && [x].any (·.seq = b.seq) &&
      !(s.faultAccess x).mayStop b) = [] := by
    refine List.filter_eq_nil_iff.mpr fun b hb hw => ?_
    simp only [List.any_cons, List.any_nil, Bool.or_false, Bool.and_eq_true, decide_eq_true_eq, Bool.not_eq_true'] at hw
    obtain ⟨⟨⟨hf, -⟩, hn⟩, waits⟩ := hw
    have owners : b.owners = x.owners := owners_of_faultAccess ht hb hf hn.symm
    obtain ⟨i, hi⟩ := List.exists_mem_of_ne_nil b.owners (by simpa [owners] using nonempty)
    have team : i.team = t := all i.team (List.mem_map_of_mem (owners ▸ hi))
    have stops : (s.faultAccess x).mayStop b = true := mayStop_of_faulting hi (team ▸ found) stop
    exact Bool.false_ne_true (waits.symm.trans stops)
  simp only [State.faultAll, List.foldl_cons, List.foldl_nil, none_waits, requestAll]

/-- PAGE_FAULT of a running team's access that no request carries. -/
theorem execPageFault_of_one_team {a : Nat} {m : Miss} (ha : s.access a = some x) (hw : x.state = .waiting) (hg : x.got = none)
    (hk : x.kind ≠ .cflush) (hp : s.mayPerform x = true) (hm : s.accessMiss x = some m) (hf : s.flightOf a = none)
    (hs : (s.team t).any (fun tm => tm.stop = .running || tm.stop = .replaying) = true) :
    execPageFault a s = .next (s.faultAccess x) := by
  rw [← faultAll_of_one_team ht hs]
  simp [execPageFault, ha, hw, hg, hk, hp, hm, hf]

end

/-! # The fault frame (R201, R202) -/

theorem execFaultFrameSave_saves {s u : State} {t : TeamId} {tm : Team} {c : CtxId} {waits : List Nat} (ht : s.team t = some tm)
    (hc : s.ctxOf t = some c) (hs : tm.stop = .faulting) (hd : s.drained t = true) (hm : s.matsHeld t = true)
    (hq : requestAll ((s.holdTeamMats t).dropOvld t) (s.teamAccs t) = (u, waits)) :
    let v := u.saveTeam t tm (u.teamAccs t)
    let w := u.writeFrame c v (u.teamMats t)
    let bound := (w.block tm.block).any fun b => b.windows.any (· ≠ 0)
    let p : Susp := ⟨w.seq, v, !bound, waits ++ (u.teamMats t).flatMap (·.waits), false⟩
    let z := ({ w with seq := w.seq + 1, accs := w.accs.filter fun a => !a.ofTeam t }.updCtx c fun x =>
      { x with susp := x.susp ++ [p] }).renameTeam t (heldTeam t.core w.seq)
    execFaultFrameSave t s = .next ((if bound then z.startSlot t else z.updTeam t fun tm => { tm with stop := .kept }).suspReady c p) := by
  intro v w bound p z
  simp only [execFaultFrameSave, ht, hc, hs, hd, hm, ne_eq, not_true_eq_false, decide_false, Bool.not_true, Bool.or_false,
    Bool.false_eq_true, if_false, hq]
  rfl

/-! # Deferred traps (R203, R383) -/

section
variable {s : State} {i : ThreadId} {t : Thread} {r : Raise} (ht : s.thread i = some t) (hr : nextDeferred t.deferred = some r)
include ht hr

/-- A live thread at a boundary, whose team runs and has no commit due before the trap, takes it. -/
theorem execDeferredTrap_delivers (hv : t.live = true)
    (hs : (s.team i.team).any (fun tm => tm.stop = .running && !(recoveryCause r.cause && tm.irrevocable)) = true)
    (hp : atBoundary t.park = true ∨ wordRefused r t.park = true) :
    execDeferredTrap i s = .next (((s.dissolve i.team t.park).updThread i fun t =>
      { t with deferred := t.deferred.erase r, park := .ready }).deliver i { r with defer := true }) := by
  have parks : (atBoundary t.park || wordRefused r t.park) = true := by simpa using hp
  simp only [execDeferredTrap, ht, hr, hv, hs, parks, Bool.and_true, if_true]

/-- A recovery cause waits for the commit that an irrevocable operation has made due. -/
theorem execDeferredTrap_waits (hc : recoveryCause r.cause = true) (hs : (s.team i.team).all (·.irrevocable) = true) :
    execDeferredTrap i s = .next s := by
  have waits : (s.team i.team).any (fun tm => tm.stop = .running && !(recoveryCause r.cause && tm.irrevocable)) = false := by
    cases htm : s.team i.team with
    | none => rfl
    | some tm => simp_all
  simp only [execDeferredTrap, ht, hr, waits, Bool.and_false, Bool.false_and, Bool.false_eq_true, if_false]

end

/-- Settles O52: a fault of one team's access marks it and stops its team, which leaves none that waits outside the frame; the frame's save and
the deferred trap are their steps under the conditions that they check. -/
theorem pageFaultsSuspendTeams : Obligations.PageFaultsSuspendTeams := by
  refine ⟨?fault, ?save, ?deferred, fun s i t r ht hr hc hs => execDeferredTrap_waits ht hr hc hs⟩
  case fault =>
    intro s a x m t ha hw hg hk hp hm hf ht hs u
    obtain rfl := access_seq ha
    exact (execPageFault_of_one_team ht ha hw hg hk hp hm hf hs).trans (congrArg _ (faultAccess_of_one_team ht))
  case save =>
    intro s t tm c waits u ht hc hs hd hm hq
    exact execFaultFrameSave_saves ht hc hs hd hm hq
  case deferred =>
    intro s i t r ht hr hv hs hp
    exact execDeferredTrap_delivers ht hr hv hs hp

end Sys2Proof.Machine

namespace Sys2Proof.Machine

/-! # Fences and WAITC (R219 to R223) -/

/-- What a fence makes before its thread steps past it: the window's copies go (R232), and then it orders nothing, or is satisfied at once
and exposes the stores that it covers, or comes into force (R220, R221). -/
def State.afterFence (s : State) (l : ThreadId) (scope : Nat) (x y : BitVec 16) : State :=
  let n : Fence := ⟨x, y, scope, s.seq⟩
  let u := { s with seq := s.seq + 1 }.windowDrop l scope
  if x = 0 ∨ y = 0 then u
  else if u.fenceDone l n = true then u.exposeFence l n
  else u.updThread l fun t => { t with fences := t.fences ++ [n] }

theorem fence_of_no_commit {s : State} {l : ThreadId} {scope : Nat} {x y : BitVec 16}
    (hc : ∀ k, s.ctxOf l.team = some k → s.clamp k l.team.core scope = (s, scope))
    (hn : s.fenceNeedsCommit l x scope = false) : s.fence l scope x y = .ok (s.afterFence l scope x y) := by
  unfold State.fence
  split
  next u sc clamped =>
  have unclamped : (u, sc) = (s, scope) := by
    rw [← clamped]
    split
    · exact hc _ ‹_›
    · rfl
  obtain ⟨rfl, rfl⟩ := Prod.mk.inj unclamped
  simp only [hn, Bool.false_eq_true, if_false, Bool.or_eq_true, decide_eq_true_eq]
  rfl

/-! The stream sets of XFENCE are the halves of its literal (R219). -/

theorem ofNat_lit_low (lit : W32) : BitVec.ofNat 16 lit.toNat = lit.extractLsb' 0 16 := by
  simp [BitVec.extractLsb']

theorem ofNat_lit_high (lit : W32) : BitVec.ofNat 16 (lit.toNat / 2 ^ 16) = lit.extractLsb' 16 16 := by
  simp [BitVec.extractLsb', Nat.shiftRight_eq_div_pow]

theorem toNat_extractLsb'_eq_fld {w : Nat} (x : BitVec w) (lo n : Nat) : (x.extractLsb' lo n).toNat = fld x.toNat lo n := by
  rw [BitVec.extractLsb'_toNat, Nat.shiftRight_eq_div_pow, fld]

theorem waitcMet_iff {lit : W32} {t : Thread} : waitcMet lit t = true ↔
    t.ldn ≤ (lit.extractLsb' 0 6).toNat ∧ t.stn ≤ (lit.extractLsb' 6 6).toNat ∧
      t.cpn ≤ (lit.extractLsb' 12 6).toNat ∧ t.mxn ≤ (lit.extractLsb' 18 6).toNat := by
  simp only [waitcMet, toNat_extractLsb'_eq_fld, Bool.and_eq_true, decide_eq_true_eq, and_assoc]

/-- A WAITC whose condition does not hold has held writes committed when it waits for STN and there are some, else it parks. -/
theorem waitcEach_of_not_met {lit : W32} {s : State} {l : ThreadId} {t : Thread} (hm : ¬waitcMet lit t = true) : waitcEach lit l t s =
    .wait (if (lit.extractLsb' 6 6).toNat < t.stn ∧ s.heldOf l.team ≠ [] then s.commitFirst l.team
      else s.updThread l fun t => { t with park := .waitc lit }) := by
  rw [waitcEach, if_neg hm, apply_ite IssueRes.wait]
  simp only [toNat_extractLsb'_eq_fld, Bool.and_eq_true, decide_eq_true_eq, Bool.not_eq_true', List.isEmpty_eq_false_iff]

/-- Settles O34: FENCE and XFENCE are one operation in their thread, and WAITC goes on, commits or parks by its counters. -/
theorem fencesAndWaitc : Obligations.FencesAndWaitc := by
  refine ⟨?fence, ?xfence, ?waitc⟩
  case fence =>
    intro f s l t hw hs ht hg hc hn
    exact runMem_single_ok (m := fenceMem f) hs ht hw hg rfl (fence_of_no_commit hc hn)
  case xfence =>
    intro f s l t hw hs ht hg hc hn
    refine runMem_single_ok (m := xfenceMem f) hs ht hw hg rfl ?_
    rw [ofNat_lit_low, ofNat_lit_high]
    exact fence_of_no_commit hc hn
  case waitc =>
    intro f s l t hw hs ht hg met
    have runs_ok {u : State} := runMem_single_ok (u := u) (m := waitcMem f) (act := waitcEach f.lit) hs ht hw hg rfl
    have runs_wait {u : State} := runMem_single_wait (u := u) (m := waitcMem f) (act := waitcEach f.lit) hs ht hw hg rfl
    refine ⟨fun hm => runs_ok (if_pos (waitcMet_iff.mpr hm)), fun hm free => runs_wait ?_, fun hm more held => runs_wait ?_⟩
    · rw [waitcEach_of_not_met (mt waitcMet_iff.mp hm), if_neg]
      exact fun h => free.elim (Nat.not_le.mpr h.1) h.2
    · rw [waitcEach_of_not_met (mt waitcMet_iff.mp hm), if_pos ⟨more, held⟩]
      rfl

end Sys2Proof.Machine

namespace Sys2Proof.Machine

/-! # Two copies under one tag

COPY_PAGE_FAULT (R273) gives the copies under its tag the number of the request raised for the context of the first of them. The statement
has each take the number raised for its own context: the copy that its last function binds hides the one that the engine visits. No run of
the machine accepts a copy under a tag that is taken (R268), but a state may hold two, and of two contexts the one with an outstanding
request for the page has its number. -/

/-- A copy of one word from address 0, under tag 0, for a context of VF 0. -/
def wordCopy (cidx : Nat) : Copy :=
  { seq := 0, issuers := [], memmove := false, todo := [0], vals := [], idx := [], waits := [], lines := [], error := none
    cmd := { block := ⟨⟨0, 0⟩, 0⟩, minor := 0, tag := 0, strm := 0, cp := 0, scope := 0, dsp := 0, ssp := 0, isp := 0, dst := 0, src := 0,
             list := 0, par := [4], ext := 0, ctx := ⟨⟨0, 0⟩, cidx⟩ } }

/-- The request with number 1, outstanding for context 0 and the page at address 0. -/
def firstRequest : PageReq :=
  { vf := ⟨0, 0⟩, tag := 1, ctx := ⟨⟨0, 0⟩, 0⟩, stage := 0, perm := false, write := false, who := 1, window := none, page := 0, part := 0,
    core := ⟨0, 0⟩, inRing := true }

/-- The machine at reset, whose next number is 0, with a partition that owns an engine, that request, and a copy of each context under one tag. -/
def twinCopies : State :=
  { State.reset with
    parts := [(0, { Part.new ⟨[], []⟩ with shares := [⟨0, 0, 0, 0, 1, 0, 0, 0, 0⟩] })]
    cores := [(⟨0, 0⟩, { Core.reset with copies := [wordCopy 0, wordCopy 1] })]
    pages := [firstRequest] }

/-- The word of the first copy misses at stage 1, for no context is recorded. -/
theorem copyVisit_twinCopies : twinCopies.copyVisit ⟨0, 0⟩ (wordCopy 0) 0 = .miss ⟨0, false, false, 0, 0, none⟩ 0 := rfl

/-- Both copies wait for the request of context 0. -/
theorem exec_copyPageFault_twinCopies : exec (.copyPageFault ⟨0, 0⟩ 0) twinCopies =
    .next (twinCopies.updCopy ⟨0, 0⟩ 0 fun x => { x with waits := [(1, 0)] }) := rfl

/-- Refutes O39, in its last part: the second of two copies under one tag waits for the request of the first one's context, not for one of its
own. -/
theorem not_copyEngineActs : ¬ Obligations.CopyEngineActs := by
  rintro ⟨-, -, -, -, -, -, faults⟩
  have own_requests := faults twinCopies ⟨0, 0⟩ 0 0 0 _ (wordCopy 0) ⟨rfl, ⟨_, rfl, by decide⟩, rfl⟩ rfl (by decide) copyVisit_twinCopies rfl
  have same_state := Host.Outcome.next.inj (exec_copyPageFault_twinCopies.symm.trans own_requests)
  have same_waits : [[(1, 0)], [(1, 0)]] = [[(1, 0)], [(0, 0)]] := congrArg (fun s => (s.core ⟨0, 0⟩).copies.map (·.waits)) same_state
  exact absurd same_waits (by decide)

end Sys2Proof.Machine

namespace Sys2Proof.Machine

/-- What a rollback makes before it looks for the snapshot: the team has dropped what it had begun, and is counted and told (R390). -/
def State.rolledBack (s : State) (t : TeamId) (c : CtxId) (i : ThreadId) (r : Raise) : State :=
  (((s.rollDrop t).rollSusps t).countVf c.vf 8).trapEvent i r.cause r.addr

/-! # Fresh starts (R333, R381, R391) -/

section
variable {s : State} {t : TeamId} {tm : Team} {i : ThreadId} {r : Raise} (ht : s.team t = some tm)
include ht

section
variable (hf : tm.stop = .fresh i r)
include hf

theorem execFreshStart_waits (hq : s.quiet t = false) : execFreshStart t s = .next (s.unfault t) := by
  simp only [execFreshStart, ht, hf, hq, Bool.not_false, if_true]

variable (hq : s.quiet t = true)
include hq

theorem execFreshStart_takes_back (hk : s.keeps t = true) : execFreshStart t s = .next (s.unkeep t) := by
  simp only [execFreshStart, ht, hf, hq, hk, Bool.not_true, Bool.false_eq_true, if_false, if_true]

theorem execFreshStart_restarts (hk : s.keeps t = false) : execFreshStart t s = .next
    (((((((s.orphanGates t).dropHeld t).reportKill i r).endTask t true).freshStart t).killSusps t).gangHandled t) := by
  simp only [execFreshStart, ht, hf, hq, hk, Bool.not_true, Bool.false_eq_true, if_false]

end

/-! # Rollback (R390, R391) -/

section
variable {c : CtxId} (hc : s.ctxOf t = some c) (hr : tm.stop = .rolling i r)
include hc hr

theorem execRollback_waits (h : tm.irrevocable = true) : execRollback t s = .next (s.unfault t) := by
  simp only [execRollback, ht, hc, hr, h, Bool.true_or, if_true]

variable (hi : tm.irrevocable = false) (hd : s.rollReady t = true)
include hi hd

theorem execRollback_takes_back (hk : s.keeps t = true) : execRollback t s = .next (s.unkeep t) := by
  simp only [execRollback, ht, hc, hr, hi, hd, hk, Bool.not_true, Bool.or_self, Bool.false_eq_true, if_false, if_true]

variable {x : Ctx} (hx : ((s.rollDrop t).rollSusps t).ctx c = some x) (hk : s.keeps t = false)
include hx hk

theorem execRollback_starts_afresh (hn : x.snaps.find? (fun n => some n.key = tm.snap) = none) : execRollback t s =
    .next (((((s.rolledBack t c i r).requeueTask t c).orphanGates t).rollFresh t).gangHandled t) := by
  simp only [execRollback, ht, hc, hr, hi, hd, hk, Bool.not_true, Bool.or_self, Bool.false_eq_true, if_false, hx, Option.map_some,
    Option.getD_some, hn]
  rfl

/-- A team with a snapshot takes it back where it stands, or hands it to another slot; one that cannot be read resets the partition. -/
theorem execRollback_of_snapshot {n : Snap} (hn : x.snaps.find? (fun n => some n.key = tm.snap) = some n) : execRollback t s =
    (let v := s.rolledBack t c i r
     let z := v.putSnap t.core n
     if v.badImage (v.partOfCtx c) (v.snapAddr c n.saved.id n.slot) n.size (pagesOf n.size) = true then .next (v.resetPart (v.partOfCtx c))
     else if z.rollsInPlace t = true then .next (((z.gatesTo t n (heldTeam t.core n.key)).resumeSnap t c n).gangHandled t)
     else .next (((z.updCtx c fun x =>
       { x with resumes := x.resumes ++ [⟨n.key, z.shardDies (z.partOfCtx c) t.core.pkg, true⟩] }).gatesTo t n
         (heldTeam n.saved.id.core n.key)).rollFresh t)) := by
  simp only [execRollback, ht, hc, hr, hi, hd, hk, Bool.not_true, Bool.or_self, Bool.false_eq_true, if_false, hx, Option.map_some,
    Option.getD_some, hn]
  rfl

end

end

/-! # The watchdog (R392) -/

theorem execWatchdogFire_resets {s : State} {p : Nat} {x : Part} (hx : s.part p = some x) (hb : s.busyPart p = true)
    (hw : x.watchdog ≠ 0) (hp : x.progress + x.watchdog ≤ s.clkw) : execWatchdogFire p s = .next (s.resetPart p) := by
  simp only [execWatchdogFire, hx, hb, hw, hp, ne_eq, not_false_eq_true, decide_true, Bool.and_self, if_true]

/-- Settles O53: each step is its unit's act under the conditions that it checks, in the order in which it checks them. -/
theorem recoveryActs : Obligations.RecoveryActs := by
  refine ⟨?fresh, ?rolls, ?waits, ?watchdog, ?window⟩
  case fresh =>
    intro s t tm i r ht hf
    exact ⟨execFreshStart_waits ht hf, execFreshStart_takes_back ht hf, execFreshStart_restarts ht hf⟩
  case rolls =>
    intro s t tm c x i r ht hc hr hi hd u v hx
    refine ⟨execRollback_takes_back ht hc hr hi hd, execRollback_starts_afresh ht hc hr hi hd hx, ?_⟩
    intro n hk hn bad z
    have runs := execRollback_of_snapshot ht hc hr hi hd hx hk hn
    refine ⟨fun hb => runs.trans (if_pos hb), fun hb hp => ?_, fun hb hp => ?_⟩
    · exact runs.trans ((if_neg (Bool.eq_false_iff.mp hb)).trans (if_pos hp))
    · exact runs.trans ((if_neg (Bool.eq_false_iff.mp hb)).trans (if_neg (Bool.eq_false_iff.mp hp)))
  case waits =>
    intro s t tm c i r ht hc hr hi
    exact execRollback_waits ht hc hr hi
  case watchdog =>
    intro s p x hx hb hw hp
    exact execWatchdogFire_resets hx hb hw hp
  case window =>
    intro s c hc
    exact congrArg _ (if_pos hc)

end Sys2Proof.Machine

namespace Sys2Proof.Machine

/-! # Combined contributions (R246, R247)

A stage forwards the fold of its contributions' operands. That the word and each contribution come out as in their performance one by one
is the associativity of the operation (`netNew_assoc`). -/

/-- The operations of Table 1 on integers. -/
def integerOps : List NetOp := [.add, .and, .or, .xor, .max, .min, .maxu, .minu, .swp, .ld]

/-- Contributions performed in turn on a word (R246). -/
def serialNew (op : NetOp) (size v : Nat) (xs : List Nat) : Nat := xs.foldl (fun v x => netNew op size v x 0) v

/-- Choosing the first of the greatest is associative in an order in which being less, and not being less, carry over. -/
theorem pickBy_assoc {less : Nat → Nat → Prop} [DecidableRel less] {a b c : Nat} (ht : less a b → less b c → less a c)
    (hn : ¬less a b → ¬less b c → ¬less a c) :
    pickBy (decide (less (pickBy (decide (less a b)) b a) c)) c (pickBy (decide (less a b)) b a) =
      pickBy (decide (less a (pickBy (decide (less b c)) c b))) (pickBy (decide (less b c)) c b) a := by
  simp only [pickBy, decide_eq_true_eq]
  by_cases hab : less a b <;> by_cases hbc : less b c
  · simp only [hab, hbc, ht hab hbc, if_true]
  · simp only [hab, hbc, if_true, if_false]
  · simp only [hab, hbc, if_true, if_false]
  · simp only [hab, hbc, hn hab hbc, if_false]

/-- Two contributions do together what they do one after the other (Table 1). -/
theorem netNew_assoc {op : NetOp} (h : op ∈ integerOps) (hl : op ≠ .ld) (size a b c : Nat) :
    netNew op size (netNew op size a b 0) c 0 = netNew op size a (netNew op size b c 0) 0 := by
  cases op with
  | add => simp [netNew, Nat.add_assoc]
  | and => exact Nat.and_assoc a b c
  | or => exact Nat.or_assoc a b c
  | xor => exact Nat.xor_assoc a b c
  | max => exact pickBy_assoc (less := fun x y => sgn x (8 * size) < sgn y (8 * size)) (by omega) (by omega)
  | min => exact pickBy_assoc (less := fun x y => sgn y (8 * size) < sgn x (8 * size)) (by omega) (by omega)
  | maxu => exact pickBy_assoc (less := fun x y => x < y) (by omega) (by omega)
  | minu => exact pickBy_assoc (less := fun x y => y < x) (by omega) (by omega)
  | swp => rfl
  | ld => exact absurd rfl hl
  | _ => simp [integerOps] at h

/-- The forwarded operand is the contributions' fold by the operation itself; for SWP that is the last one. -/
theorem netFold_cons {op : NetOp} (hl : op ≠ .ld) (size x : Nat) (xs : List Nat) :
    netFold op size (x :: xs) = serialNew op size x xs := by
  cases op with
  | swp =>
    induction xs generalizing x with
    | nil => rfl
    | cons y xs ih => exact ih y
  | ld => exact absurd rfl hl
  | _ => rfl

theorem serialNew_ld (size v : Nat) (xs : List Nat) : serialNew .ld size v xs = v := by
  induction xs with
  | nil => rfl
  | cons x xs ih => exact ih

/-- One request with the forwarded operand leaves the word that its contributions leave one by one. -/
theorem netNew_netFold {op : NetOp} (h : op ∈ integerOps) (size v x : Nat) (xs : List Nat) :
    netNew op size v (netFold op size (x :: xs)) 0 = serialNew op size v (x :: xs) := by
  by_cases hl : op = .ld
  · rw [hl, serialNew_ld]
    rfl
  · have assoc : Std.Associative fun a b => netNew op size a b 0 := ⟨netNew_assoc h hl size⟩
    rw [netFold_cons hl]
    exact (List.foldl_assoc (op := fun a b => netNew op size a b 0)).symm

/-- A contribution is given the value that those before it leave one by one. -/
theorem netGive_eq_serialNew {op : NetOp} (h : op ∈ integerOps) (size v : Nat) (before : List Nat) :
    netGive op size v before = serialNew op size v before := by
  cases before with
  | nil => rfl
  | cons x xs =>
    rw [← netNew_netFold h]
    cases op with
    | cas => simp [integerOps] at h
    | _ => rfl

/-- Settles O11: the integer operations are associative, so the fold of the operands does what they do in turn. -/
theorem combiningEqualsSerial : Obligations.CombiningEqualsSerial := by
  intro op h size v xs _ _ _
  refine ⟨fun hne => ?_, fun k _ => netGive_eq_serialNew h size v (xs.take k)⟩
  obtain ⟨x, xs, rfl⟩ := List.exists_cons_of_ne_nil hne
  exact netNew_netFold h size v x xs

end Sys2Proof.Machine

namespace Sys2Proof.Machine

open Claims

/-! # Atomics at issue (R253 to R257) -/

theorem l1Line_mem {s : State} {core : CoreId} {c : CtxId} {va : Nat} {l : L1Line} (h : s.l1Line core c va = some l) :
    l ∈ (s.core core).l1 := by
  unfold State.l1Line at h
  split at h
  · cases h
  · exact List.mem_of_find?_eq_some h

/-- A core that holds no read-only copy drops none (R231). -/
theorem dropCopies_of_no_copies {s : State} {core : CoreId} (h : ∀ l ∈ (s.core core).l1, l.copy = none) (c : CtxId) (va : Nat) :
    s.dropCopies c core va = s := by
  unfold State.dropCopies
  split
  next l hl =>
    simp [h l (l1Line_mem hl)]
  next => rfl

/-- An access to a scratchpad drops no copies, nor does one of a core that holds none. -/
theorem dropCopies_of_global {f : LM} {s u : State} {a : Access} (hu : u.like s) (ha : a.space = f.space.toNat)
    (hn : f.space = 1 ∨ f.space = 2 ∨ ∀ l ∈ (s.core a.core).l1, l.copy = none) :
    (if a.global then u.dropCopies a.ctx a.core a.addr else u) = u := by
  obtain h | h | h := hn
  · simp [Access.global, ha, h]
  · simp [Access.global, ha, h]
  · have same_core : u.core a.core = s.core a.core := by rw [hu]; rfl
    rw [dropCopies_of_no_copies (by rwa [same_core]), ite_self]

/-- What the issue of an atomic does to its thread. -/
def atomicEffect (f : LM) (t : Thread) : Thread :=
  if f.d = 124 then { t with stn := t.stn + 1 } else { (t.setPend f.d.toNat (gsz f.w)) with ldn := t.ldn + 1 }

/-- A thread of no guarded task, whose address passes, with room in its counter, leaves its atomic outstanding. -/
theorem issueAtomic_ok {op : NetOp} {f : LM} {s u : State} {x : ThreadId × Thread} {loc : Option Loc}
    (ht : op = .fadd → x.2.tagOf f.ix.toNat = 1) (hp : s.placed f false (4 * gsz f.w) true x loc)
    (hr : if f.d = 124 then x.2.stn < 63 else x.2.ldn < 63) (hc : s.unclamped x.1 f) (hh : (s.team x.1.team).any Team.guarded = false)
    (hn : f.space = 1 ∨ f.space = 2 ∨ ∀ l ∈ (s.core x.1.team.core).l1, l.copy = none) (h : u.like s) :
    issueAtomic op f x.1 x.2 u = .ok ((u.addAll [atomicAccess op f s loc x]).updThreads [x.1] (atomicEffect f)) := by
  unfold State.placed at hp
  have tagged : ¬ (op = .fadd && x.2.tagOf f.ix.toNat ≠ 1) = true := by simpa using ht
  have kept := dropCopies_of_global (a := atomicAccess op f s loc x) h rfl hn
  unfold atomicAccess at kept ⊢
  simp only [issueAtomic, tagged, if_false, memAddr_of_like h, place_of_like h, hp, accScope_of_like h hc, memAccess_of_like h,
    readReg_of_like h, team_of_like h, hh, Bool.false_and, Bool.and_false, Bool.false_eq_true, kept]
  by_cases hd : f.d = 124
  · have effect : atomicEffect f = fun t => { t with stn := t.stn + 1 } := funext fun _ => if_pos hd
    have room : ¬ 63 ≤ x.2.stn := by rwa [if_pos hd, ← Nat.not_le] at hr
    simp only [effect, hd, ne_eq, not_true, decide_false, if_false, room]
    rfl
  · have effect : atomicEffect f = fun t => { (t.setPend f.d.toNat (gsz f.w)) with ldn := t.ldn + 1 } := funext fun _ => if_neg hd
    have room : ¬ 63 ≤ x.2.ldn := by rwa [if_neg hd, ← Nat.not_le] at hr
    simp only [effect, hd, ne_eq, not_false_iff, decide_true, if_true, room, if_false]
    rfl

theorem atomicForm_of_runAtomic {c : LM → Instr} {op : NetOp} (hc : ∀ f s, exec (c f) s = runAtomic op f s := by exact fun _ _ => rfl)
    (hl : ∀ f, (c f).WellFormed → (atMem op f).legal = true := by exact fun _ h => h) : AtomicForm c op := by
  intro f s loc hw nd hon t
  have issues : runMem (atMem op f) (issueAtomic op f) s = .next t := by
    refine runMem_one_each rfl rfl (hl f hw) nd (fun x hx => (hon x hx).1) (fun _ => rfl) fun x hx u hu => ?_
    obtain ⟨-, tag, placed, room, scope, unguarded, no_copies⟩ := hon x hx
    exact issueAtomic_ok tag placed room scope unguarded no_copies hu
  simp only [hc, runAtomic, issues] <;> rfl

/-- Settles O29: the twelve are one lane frame, in which each guard-true thread leaves its atomic outstanding before equal addresses combine. -/
theorem atomicsIssueRequests : Obligations.AtomicsIssueRequests :=
  ⟨atomicForm_of_runAtomic, atomicForm_of_runAtomic, atomicForm_of_runAtomic, atomicForm_of_runAtomic, atomicForm_of_runAtomic,
    atomicForm_of_runAtomic, atomicForm_of_runAtomic, atomicForm_of_runAtomic, atomicForm_of_runAtomic, atomicForm_of_runAtomic,
    atomicForm_of_runAtomic, atomicForm_of_runAtomic⟩

end Sys2Proof.Machine

namespace Sys2Proof.Machine

/-! # Requests leave their core (R239, R241) -/

/-- A request whose contributions may all be performed leaves. -/
theorem execRequestLeaveCore_of_mayLeave {s : State} {r : Nat} {f : Flight} (hf : s.flight r = some f) (hc : f.at_ = .core)
    (hm : s.mayLeave f.req = true) : execRequestLeaveCore r s = .next (s.leaveCore f.req) := by
  simp [execRequestLeaveCore, hf, hc, hm]

/-- The state in which a request of an access has left for memory: its core has given up what it held dirty of the line, and what a release
covers. -/
def State.exposed (s : State) (x : Access) (p : Place) : State :=
  let u := (s.noteTlb x.view x.addr).exposeKey x.core p.key
  if x.kind = .jadd ∨ x.kind = .atomic .arrive then u.exposeBefore x else u

/-- A request to memory goes to its race stage, under the place that its address names behind any window. -/
theorem leaveCore_to_race {s : State} {r : Req} {x : Access} {p : Place} {q g : Nat} (hr : r.loc = .glob q g)
    (hx : (s.leafAccs r).head? = some x) (hp : s.translate x.view x.addr x.writes = .ok p) :
    let part := s.partOfCtx x.ctx
    s.leaveCore r = ((r.leaves.foldl (fun s l => s.updAccess l.1 fun a => { a with state := .sent }) (s.exposed x p)).dropFlight r.rid).send
      ⟨{ r with loc := .glob (s.reach part p.gpa).part (s.reach part p.gpa).gpa, gpa := p.gpa, home := p.home, part := part },
        .toRace, colOf r.src, 0, false⟩ := by
  simp [State.leaveCore, State.exposed, hr, hx, hp]

/-- The kinds of access that go to a remote home on their own (R239). -/
def loneKinds : List AccKind := [.load, .store, .payload, .engine, .jadd, .jrd]

section
variable {s : State} {x : Access} {p : Place} (hk : x.kind ∈ loneKinds)
include hk

/-- Such an access travels to a home elsewhere, a counter access to any. -/
theorem travels_of_lone (hs : x.space = 0 ∨ x.space = 3) (hh : s.homeOfAcc x = some p.home)
    (hr : p.home ≠ x.core.pkg ∨ x.kind ∈ [.jadd, .jrd]) : s.travels x = true := by
  have global : x.global = true := by simpa [Access.global] using hs
  simp only [loneKinds, List.mem_cons, List.not_mem_nil, or_false] at hk
  obtain hk | hk | hk | hk | hk | hk := hk <;> simp_all [State.travels]

theorem goesAlone_of_lone (hw : x.state = .waiting) (hg : x.got = none) (hm : s.mayPerform x = true) (ht : s.travels x = true)
    (hp : s.translate x.view x.addr x.writes = .ok p) : s.goesAlone x = true := by
  simp only [loneKinds, List.mem_cons, List.not_mem_nil, or_false] at hk
  obtain hk | hk | hk | hk | hk | hk := hk <;> simp [State.goesAlone, hw, hg, hm, ht, hp, hk]

/-- What it asks of its home is its own operand. -/
theorem ownRequest_of_lone : s.ownRequest x =
    { rid := s.seq, grp := x.seq, gpa := 0
      op := if x.kind = .load then .read else if x.kind = .jadd then .jadd else if x.kind = .jrd then .jrd else .write
      loc := x.loc.getD (.glob 0 0), size := x.size, x := x.data, y := x.data2, src := x.core.pkg, home := 0
      leaves := [(x.seq, x.data, x.data2)], part := s.partOfCtx x.ctx, ctx := x.ctx, waits := [] } := by
  simp only [loneKinds, List.mem_cons, List.not_mem_nil, or_false] at hk
  obtain hk | hk | hk | hk | hk | hk := hk <;> simp [State.ownRequest, State.requestOf, Access.netOp, netFold, hk] <;> rfl

theorem exposed_of_lone : s.exposed x p =
    if x.kind = .jadd then ((s.noteTlb x.view x.addr).exposeKey x.core p.key).exposeBefore x
    else (s.noteTlb x.view x.addr).exposeKey x.core p.key := by
  have no_arrival : x.kind ≠ .atomic .arrive := by
    intro h
    simp [loneKinds, h] at hk
  simp [State.exposed, no_arrival]

end

/-- A request that is performed at a scratchpad reads no error and serves no lost peer. -/
theorem performPad_of_sound {s : State} {r : Req} {c : CoreId} {off : Nat} (ho : r.op ≠ .ld) (hb : s.badPad c off r.size = false)
    (hl : ∀ l ∈ r.leaves, ∀ a, s.access l.1 = some a → s.lostPeer a = false) :
    let old := memRead (s.core c).scratch off r.size
    s.performPad r c off = ((s.padWrite c off r.size (netNew r.op r.size old r.x r.y)).noteLine
      ((s.leafAccs r).flatMap (·.owners)) c off).deliverLeaves r old := by
  have none_lost : (s.leafAccs r).any s.lostPeer = false := by
    simp only [State.leafAccs, List.any_eq_false, List.mem_filterMap]
    rintro a ⟨l, hm, ha⟩
    simp [hl l hm a ha]
  simp [State.performPad, none_lost, hb, ho]

/-! # Stages (R240, R242, R244) -/

section
variable {s : State} {r : Nat} {f : Flight} (hf : s.flight r = some f)
include hf

theorem execStageArrival_at_race (ha : f.at_ = .toRace) (hl : s.linked f.req.src (racePkg f.req.src f.req.home) = true)
    (hp : s.firstOnPort f (racePkg f.req.src f.req.home) = true) :
    let p := racePkg f.req.src f.req.home
    execStageArrival r s = .next
      { s.dropFlight r with races := setStage s.races p ((stageOf s.races p).arrive f.req f.port f.req.home) } := by
  simp only [execStageArrival, hf, ha, hl, hp, Bool.and_self, if_true]
  rfl

theorem execStageArrival_at_weir (ha : f.at_ = .toWeir) (hl : s.linked (racePkg f.req.src f.req.home) f.req.home = true)
    (hp : s.firstOnPort f f.req.home = true) : execStageArrival r s = .next
      { s.dropFlight r with
        weirs := setStage s.weirs f.req.home ((stageOf s.weirs f.req.home).arrive f.req f.port (s.weirOut f.req)) } := by
  simp only [execStageArrival, hf, ha, hl, hp, Bool.and_self, if_true]
  rfl

end

section
variable {s : State} {r p : Nat} {st : Stage} {q : QEntry} {rest : Tbl Nat Stage} (hq : departs r [] st.queue = some q)
include hq

theorem execStageDepart_from_race (hr : s.races = (p, st) :: rest) : execStageDepart r s =
    .next ({ s with races := setStage s.races p (st.depart q) }.send ⟨q.forward, .toWeir, rowOf p, 0, false⟩) := by
  simp [execStageDepart, hr, hq]

theorem execStageDepart_from_weir (hn : ∀ x ∈ s.races, departs r [] x.2.queue = none) (hw : s.weirs = (p, st) :: rest) :
    execStageDepart r s =
      .next ({ s with weirs := setStage s.weirs p (st.depart q) }.send ⟨q.forward, .toHome, 0, 0, false⟩) := by
  have no_race : (s.races.find? fun x => (departs r [] x.2.queue).isSome) = none := by
    rw [List.find?_eq_none]
    intro x hx
    simp [hn x hx]
  simp [execStageDepart, no_race, hw, hq]

end

/-! # The home (R246, R250, R252) -/

/-- The L2 slices name lines; their bytes stand with memory. -/
@[simp] theorem l2Drop_mem (s : State) (l : L2Line) : (s.l2Drop l).mem = s.mem := by
  unfold State.l2Drop
  split <;> rfl

@[simp] theorem l2Fill_mem (s : State) (cp : Nat) (l : L2Line) : (s.l2Fill cp l).mem = s.mem := by
  unfold State.l2Fill
  extract_lets mine room
  have same : room.mem = s.mem := by
    unfold room
    split
    · exact l2Drop_mem s _
    · rfl
  split <;> exact same

@[simp] theorem l2Use_mem (s : State) (part gpa key cp : Nat) (w : Bool) : (s.l2Use part gpa key cp w).mem = s.mem := by
  unfold State.l2Use
  split
  · rfl
  · split
    · rfl
    · split
      · exact l2Fill_mem s _ _
      · rfl

/-- The state in which a request has reached its line's L2 slice. -/
def State.atSlice (s : State) (r : Req) (key : Nat) : State := s.l2Use r.part r.gpa key 0 (r.op ≠ .ld && r.op ≠ .read)

section
variable {s : State} {r : Req} {key : Nat}

/-- A request that would read an error is performed for none of its contributions. -/
theorem performHome_of_error {src : Nat} (hb : s.badMem r.part r.gpa key r.size = some src) (ho : r.op ≠ .write) :
    s.performHome r key = (s.spoilLeaves r src, 0) := by
  simp [State.performHome, hb, ho]

section
variable (hb : s.badMem r.part r.gpa key r.size = none)
include hb

/-- The operations of Table 1 and a write put their new value in place of the old one. -/
theorem performHome_changes (ho : r.op ∈ [.add, .and, .or, .xor, .max, .min, .maxu, .minu, .swp, .fadd, .cas, .write]) :
    let old := memRead s.mem key r.size
    s.performHome r key =
      (((s.atSlice r key).memStore key r.size (netNew r.op r.size old r.x r.y)).dropCopiesAt r key, old) := by
  simp only [List.mem_cons, List.not_mem_nil, or_false] at ho
  obtain ho | ho | ho | ho | ho | ho | ho | ho | ho | ho | ho | ho := ho <;> simp [State.performHome, State.atSlice, hb, ho]

theorem performHome_ld (ho : r.op = .ld) : s.performHome r key =
    ((s.atSlice r key).dropCopiesAt r key, memRead s.mem key r.size) := by
  simp [State.performHome, State.atSlice, hb, ho]

theorem performHome_read (ho : r.op = .read) : s.performHome r key =
    ((s.atSlice r key).copyAt r key, memRead s.mem key r.size) := by
  simp [State.performHome, State.atSlice, hb, ho]

theorem performHome_jadd (ho : r.op = .jadd) : s.performHome r key =
    ((s.counterAdd r.ctx r.gpa key (sgn r.x 64)).1, (s.counterAdd r.ctx r.gpa key (sgn r.x 64)).2) := by
  simp [State.performHome, hb, ho]

theorem performHome_jrd (ho : r.op = .jrd) : s.performHome r key = (s, memRead s.mem key 8) := by
  simp [State.performHome, hb, ho]

theorem performHome_arrive (ho : r.op = .arrive) : s.performHome r key =
    (s.memStore key 8 (barArrives r.x (memRead s.mem key 12) % 2 ^ 64), memRead s.mem key 12) := by
  simp [State.performHome, hb, ho]

end

end

section
variable {s : State} {r : Nat} {f : Flight} {fs : List Flight}
variable (hs : s.flights = f :: fs) (hr : f.req.rid = r) (ha : f.at_ = .toHome)
include hs hr ha

/-- The first request in flight is the first of those at their home. -/
theorem first_at_home : (s.flights.find? fun f => f.at_ = .toHome && (s.flight r).any fun g => g.req.home = f.req.home) = some f := by
  have found : s.flight r = some f := by simp [State.flight, hs, hr]
  simp [found, hs, ha]

theorem execHomePerform_performs {key v : Nat} {t : State} (ho : s.overtakes f.req = false)
    (hk : s.stage2 f.req.part f.req.gpa (!netReads f.req.op) = .ok key) (hv : (s.dropFlight r).performHome f.req key = (t, v)) :
    execHomePerform r s = .next (t.send { f with at_ := .backWeir, value := v }) := by
  simp [execHomePerform, first_at_home hs hr ha, hr, ho, hk, hv]

theorem execHomePerform_faults (h : s.overtakes f.req = true ∨ ∃ m, s.stage2 f.req.part f.req.gpa (!netReads f.req.op) = .error m) :
    execHomePerform r s = .next ((s.dropFlight r).send { f with at_ := .backWeir, faulted := true }) := by
  by_cases ho : s.overtakes f.req = true
  · simp [execHomePerform, first_at_home hs hr ha, hr, ho]
  · obtain ⟨m, hm⟩ := h.resolve_left ho
    simp [execHomePerform, first_at_home hs hr ha, hr, ho, hm]

end

/-! # The reply (R247, R252) -/

section
variable {s : State} {r : Nat} {f : Flight} (hf : s.flight r = some f)
include hf

theorem execReplySplit_passes (ha : f.at_ = .backWeir) (hn : (stageOf s.weirs f.req.home).pond.find? (·.rid = f.req.rid) = none) :
    execReplySplit r s = .next
      ({ s.dropFlight r with weirs := setStage s.weirs f.req.home (stageOf s.weirs f.req.home) }.send { f with at_ := .backRace }) := by
  have passes : replies (stageOf s.weirs f.req.home) f = (stageOf s.weirs f.req.home, [f]) := by simp [replies, hn]
  simp only [execReplySplit, hf, ha, passes]
  rfl

theorem execReplySplit_splits {sp : Split} (ha : f.at_ = .backRace) (hn : f.faulted = false)
    (hp : (stageOf s.races (racePkg f.req.src f.req.home)).pond.find? (·.rid = f.req.rid) = some sp) :
    let p := racePkg f.req.src f.req.home
    let st := stageOf s.races p
    execReplySplit r s = .next
      ((sp.kidReqs.zip (givenAll sp.op sp.size f.value [] (sp.kids.map (·.2)))).foldl (fun s k => s.deliverLeaves k.1 k.2)
        { s.dropFlight r with races := setStage s.races p { st with pond := st.pond.filter (·.rid ≠ f.req.rid) } }) := by
  intro p st
  have splits : replies (stageOf s.races (racePkg f.req.src f.req.home)) f =
      ({ st with pond := st.pond.filter (·.rid ≠ f.req.rid) }, splitReplies f sp) := by
    simp [replies, st, p, hp]
  simp only [execReplySplit, hf, ha, splits, splitReplies, hn, List.foldl_map, Bool.false_eq_true, if_false]
  rfl

end

/-- Settles O32: each event is due under its conditions, and does one step of the path: leave, arrive, depart, perform, split. -/
theorem requestsTravelAndPerform : Obligations.RequestsTravelAndPerform := by
  refine ⟨?leave, ?leave_alone, ?pad, ?race, ?weir, ?depart_race, ?depart_weir, ?home, ?home_fault, ?pass, ?split⟩
  case leave =>
    intro s r f l ls a p pt gpa hf hc hm hloc hls ha hp real u
    have first : (s.leafAccs f.req).head? = some a := by simp [State.leafAccs, hls, ha]
    exact (execRequestLeaveCore_of_mayLeave hf hc hm).trans (congrArg _ (leaveCore_to_race hloc first hp))
  case leave_alone =>
    intro s a x p hf ha hw hg hm hk hs hl hh hr hp part op u
    obtain rfl := access_seq ha
    have leaves : execRequestLeaveCore x.seq s = .next (s.launchAccess x) := by
      simp [execRequestLeaveCore, hf, ha, goesAlone_of_lone hk hw hg hm (travels_of_lone hk hs hh hr) hp]
    have to_memory : (s.ownRequest x).loc = .glob 0 0 := by simp [State.ownRequest, State.requestOf, hl]
    refine leaves.trans (congrArg _ ?_)
    rw [launchAccess_eq, leaveCore_to_race to_memory (leafAccs_ownRequest ha) hp, ownRequest_of_lone hk, exposed_of_lone hk]
    rfl
  case pad =>
    intro s r off c f hf hc hm hloc ho hb hl old
    refine (execRequestLeaveCore_of_mayLeave hf hc hm).trans (congrArg _ ?_)
    simp only [State.leaveCore, hloc, performPad_of_sound ho hb hl]
    rfl
  case race => exact fun s r f hf ha hl hp => execStageArrival_at_race hf ha hl hp
  case weir => exact fun s r f hf ha hl hp => execStageArrival_at_weir hf ha hl hp
  case depart_race => exact fun s r p st q rest hr hq => execStageDepart_from_race hq hr
  case depart_weir => exact fun s r p st q rest hn hw hq => execStageDepart_from_weir hq hn hw
  case home =>
    intro s r key f fs hs hr ha ho hk u w old back
    have performs : ∀ {t : State} {v : Nat}, u.performHome f.req key = (t, v) →
        exec (.homePerform r) s = .next (t.send { f with at_ := .backWeir, value := v }) := execHomePerform_performs hs hr ha ho hk
    refine ⟨fun hb => ⟨fun hop => ?changes, fun hop => ?ld, fun hop => ?read, fun hop => ?jadd, fun hop => ?jrd, fun hop => ?arrive⟩,
      fun src hb hop => ?error⟩
    case changes => exact performs (performHome_changes (s := u) hb hop)
    case ld => exact performs (performHome_ld (s := u) hb hop)
    case read => exact performs (performHome_read (s := u) hb hop)
    case jadd => exact performs (performHome_jadd (s := u) hb hop)
    case jrd => exact performs (performHome_jrd (s := u) hb hop)
    case arrive => exact performs (performHome_arrive (s := u) hb hop)
    case error => exact performs (performHome_of_error (s := u) hb hop)
  case home_fault => exact fun s r f fs hs hr ha h => execHomePerform_faults hs hr ha h
  case pass => exact fun s r f hf ha hn => execReplySplit_passes hf ha hn
  case split => exact fun s r f sp hf ha hn hp => execReplySplit_splits hf ha hn hp

end Sys2Proof.Machine

namespace Sys2Proof.Machine

open Claims

/-! # Copy instructions at issue (R265 to R268) -/

section
variable {d : UniDef} {s u v : State} {f : L1} {l : ThreadId} {lt : Thread} (hg : d.g = f.g) (hn : d.gn = f.gn)
variable (hl : d.legal = true) (h : s.leads f d.srcs d.dsts l lt) (hu : s.stepAll (s.offIds f) d.words = u) {act : UniGroup → State → UniRes}
include hg hn hl h hu

/-- A legal uniform instruction whose operands pass leaves its group as its effect does when that stays before issue. -/
theorem runUniform_stay (ha : act (fullGroup s u f l lt) u = .stay v) : runUniform d s act = .next v := by
  rw [runUniform_leads hg hn hl h, hu]
  simp only [fullGroup] at ha
  rw [ha]

/-- A legal uniform instruction whose operands pass traps in its leader when its effect does. -/
theorem runUniform_trap {r : Raise} (ha : act (fullGroup s u f l lt) u = .trap v r) : runUniform d s act = .next (v.raises [(l, r)]) := by
  rw [runUniform_leads hg hn hl h, hu]
  simp only [fullGroup] at ha
  rw [ha]
  rfl

end

/-- A thread of the group without room in a counter leaves the group without it. -/
theorem roomAll_of_full {s : State} {f : L1} {ctr : Thread → Nat} (h : ∃ x ∈ s.onGroup f, 63 ≤ ctr x.2) :
    (s.stepAll (s.offIds f) 2).roomAll (s.onIds f) ctr = false := by
  obtain ⟨x, hx, full⟩ := h
  refine List.all_eq_false.mpr ⟨x.1, List.mem_map_of_mem hx, ?_⟩
  simp [thread_stepAll_offIds hx, full]

/-- The leader reads one command, whether or not other threads have stepped past. -/
theorem copyCmd_stepAll (minor : Nat) (f : L2R) (s : State) (ids : List ThreadId) (l : ThreadId) (lt : Thread) (scope : Nat) :
    (s.stepAll ids 2).copyCmd minor f ⟨l, lt, (s.stepAll ids 2).env l, s.onIds f.toL1, s.onIds f.toL1, []⟩ scope =
      copyOf minor f s l lt scope := by
  simp only [State.copyCmd, copyOf, readReg_of_like (stepAll_like s ids 2)]
  rfl

theorem copyBad_stepAll (s : State) (ids : List ThreadId) (n : Nat) (l : ThreadId) (k : CopyCmd) :
    (s.stepAll ids n).copyBad l k = s.copyBad l k := rfl

theorem heldFor_stepAll (s : State) (ids : List ThreadId) (n : Nat) (t : TeamId) (is : List ThreadId) (strm : Nat) :
    (s.stepAll ids n).heldFor t is strm = s.heldFor t is strm := rfl

theorem copyRoom_stepAll (s : State) (ids : List ThreadId) (n : Nat) (core : CoreId) (tag : Nat) :
    (s.stepAll ids n).copyRoom core tag = s.copyRoom core tag := rfl

section
variable {minor : Nat} {f : L2R} {s u t : State} {l : ThreadId} {lt : Thread} {scope : Nat} {k : CopyCmd}
variable (hl : (copyUni minor f).legal = true) (h : s.leads f.toL1 (copySrcs minor f) [] l lt)
variable (hu : s.stepAll (s.offIds f.toL1) 2 = u) (hz : u.clamp (u.ctxId l) l.team.core f.d.toNat = (t, scope))
variable (hk : copyOf minor f s l lt scope = k)
include hl h hu hz hk

/-- An operand that fails a check of R267 traps in the leader. -/
theorem runCopy_of_bad {r : Raise} (hb : s.copyBad l k = some r) : runCopy minor f s = .next (u.raises [(l, r)]) := by
  refine runUniform_trap rfl rfl hl h hu ?_
  subst hu hk
  simp only [fullGroup, hz, copyCmd_stepAll, copyBad_stepAll, hb]

/-- Held stores of the stream are committed first. -/
theorem runCopy_of_held (hb : s.copyBad l k = none) (hh : s.heldFor l.team (s.onIds f.toL1) k.strm = true) :
    runCopy minor f s = .next (u.commitFirst l.team) := by
  refine runUniform_stay rfl rfl hl h hu ?_
  subst hu hk
  simp only [fullGroup, hz, copyCmd_stepAll, copyBad_stepAll, hb, heldFor_stepAll, hh, if_true]

/-- A taken tag or a full queue parks the group. -/
theorem runCopy_of_no_room (hb : s.copyBad l k = none) (hh : s.heldFor l.team (s.onIds f.toL1) k.strm = false)
    (hr : s.copyRoom k.block.core k.tag = false) :
    runCopy minor f s = .next (u.updThreads (s.onIds f.toL1) fun t => { t with park := .copy k.tag }) := by
  refine runUniform_next rfl rfl hl h hu (.inr ?_)
  subst hu hk
  simp only [fullGroup, hz, copyCmd_stepAll, copyBad_stepAll, hb, heldFor_stepAll, hh, copyRoom_stepAll, hr, Bool.false_eq_true, if_false,
    Bool.not_false, if_true]
  rfl

/-- A full CPN stalls the group. -/
theorem runCopy_of_full (hb : s.copyBad l k = none) (hh : s.heldFor l.team (s.onIds f.toL1) k.strm = false)
    (hr : s.copyRoom k.block.core k.tag = true) (hn : u.roomAll (s.onIds f.toL1) (·.cpn) = false) :
    runCopy minor f s = .next (u.updThreads (s.onIds f.toL1) fun t => { t with park := .whole false false true false }) := by
  refine runUniform_stay rfl rfl hl h hu ?_
  subst hu hk
  simp only [fullGroup, hz, copyCmd_stepAll, copyBad_stepAll, hb, heldFor_stepAll, hh, copyRoom_stepAll, hr, hn, Bool.false_eq_true, if_false,
    Bool.not_false, Bool.not_true, if_true]
  rfl

/-- A command that finds room everywhere is accepted, in the state in which its scope is clamped. -/
theorem runCopy_of_accepted (hb : s.copyBad l k = none) (hh : s.heldFor l.team (s.onIds f.toL1) k.strm = false)
    (hr : s.copyRoom k.block.core k.tag = true) (hn : u.roomAll (s.onIds f.toL1) (·.cpn) = true) :
    runCopy minor f s = .next ((t.copyAccept k (s.onIds f.toL1)).stepAll (s.onIds f.toL1) 2) := by
  refine runUniform_next rfl rfl hl h hu (.inl ?_)
  subst hu hk
  simp only [fullGroup, hz, copyCmd_stepAll, copyBad_stepAll, hb, heldFor_stepAll, hh, copyRoom_stepAll, hr, hn, Bool.false_eq_true, if_false,
    Bool.not_true]

end

/-- An instruction that runs a copy command has that command's form. -/
theorem copyForm_of_runCopy {c : L2R → Instr} {minor : Nat} (hw : ∀ f, (c f).WellFormed → (copyUni minor f).legal = true)
    (hx : ∀ f s, exec (c f) s = runCopy minor f s) : CopyForm c minor := by
  intro f s l lt hf h u z k t x v free room waits
  have hl := hw f hf
  refine ⟨fun hb hh hr hn => (hx f s).trans ?accepted, fun hb hh hr hn => (hx f s).trans ?full, fun hb hh hr => (hx f s).trans ?no_room,
    fun hb hh => (hx f s).trans ?held, fun r hb => (hx f s).trans ?bad⟩
  case accepted => exact runCopy_of_accepted hl h rfl rfl rfl hb hh hr (roomAll_of_room hn)
  case full => exact runCopy_of_full hl h rfl rfl rfl hb hh hr (roomAll_of_full hn)
  case no_room => exact runCopy_of_no_room hl h rfl rfl rfl hb hh hr
  case held => exact runCopy_of_held hl h rfl rfl rfl hb (eq_true_of_ne_false hh)
  case bad => exact runCopy_of_bad hl h rfl rfl rfl hb

/-- Settles O37: the six run one command, which is accepted, stalls, parks, has held stores committed, or traps. What room in the queue is and
which lines of a scatter are marked are the model's choices (log entries 105 and 44). -/
theorem copiesAreAccepted : Obligations.CopiesAreAccepted := by
  refine ⟨?_, ?_, ?_, ?_, ?_, ?_⟩ <;> exact copyForm_of_runCopy (fun _ h => h) fun _ _ => rfl

end Sys2Proof.Machine

namespace Sys2Proof.Machine

/-! # Tag instructions (R275) -/

/-- The set bits of a number below n are those of its low n bits. -/
theorem bitList_toNat_ofNat (x n : Nat) : bitList (BitVec.ofNat n x).toNat n = bitList x n := by
  refine List.filter_congr fun i hi => ?_
  simp [BitVec.toNat_ofNat, Nat.testBit_mod_two_pow, List.mem_range.mp hi]

/-- The mask of a wait names the tags that the leader read. -/
theorem tagsMet_ofNat_iff {k : Core} {m : Nat} {any : Bool} : k.tagsMet (BitVec.ofNat 64 m) any = true ↔
    (∀ t ∈ bitList m 64, k.busy t = false) ∨ (any = true ∧ ∃ t ∈ bitList m 64, k.ctag.getLsbD t = true) := by
  rw [Core.tagsMet, bitList_toNat_ofNat]
  simp

/-- The leader of a group reads what it read before the guard-false threads stepped past. -/
theorem readReg_fullGroup (s : State) (f : L1) (l : ThreadId) (lt : Thread) (n w : Nat) :
    (fullGroup s (s.stepAll (s.offIds f) 2) f l lt).lt.readReg (fullGroup s (s.stepAll (s.offIds f) 2) f l lt).env n w =
      lt.readReg (s.env l) n w := readReg_of_like (stepAll_like s _ 2) l lt n w

/-- The leader's core has the tags that it had before the guard-false threads stepped past. -/
theorem core_fullGroup (s : State) (f : L1) (l : ThreadId) (lt : Thread) :
    (s.stepAll (s.offIds f) 2).core (fullGroup s (s.stepAll (s.offIds f) 2) f l lt).leader.team.core = s.core l.team.core := rfl

/-- The answer for the first tag with CTAG set, or for none. -/
theorem firstDone_eq {k : Core} {m : Nat} {n : Option Nat} (hn : ((bitList m 64).find? fun t => k.ctag.getLsbD t) = n) :
    k.firstDone m = (n.elim 64 fun t => t + if k.errs.any (·.tag = t) then 128 else 0, n) := by
  subst hn
  rw [Core.firstDone]
  cases (bitList m 64).find? fun t => k.ctag.getLsbD t <;> rfl

section
variable {f : L2R} {s : State} {l : ThreadId} {lt : Thread} {m : Nat} {k : Core}
variable (hm : lt.readReg (s.env l) f.a.toNat 2 = m) (hk : s.core l.team.core = k)

/-! ## Waits and TCLR -/

section
variable (hl : (tagUni f false).legal = true) (h : s.leads f.toL1 [⟨.src 2, f.a.toNat⟩] [] l lt)
include hm hk hl h

theorem execTwait_of_idle (hb : ∀ t ∈ bitList m 64, k.busy t = false) (he : ∀ t ∈ bitList m 64, ∀ e ∈ k.errs, e.tag ≠ t) :
    execTwait f s = .next (s.uniNext f.toL1 2 fun t => t) := by
  have met := tagsMet_ofNat_iff (any := false).mpr (.inl hb)
  have clean : ((bitList m 64).findSome? fun t => k.errs.find? (·.tag = t)) = none := by simpa using he
  refine runUniform_next (u := s.stepAll (s.offIds f.toL1) 2) rfl rfl hl h rfl (.inl ?_)
  simp only [readReg_fullGroup, core_fullGroup, hm, hk, met, clean, Bool.not_true, Bool.false_eq_true, if_false]
  rfl

theorem execTwait_of_error {t : Nat} {ts : List Nat} {e : TagErr} (ht : bitList m 64 = t :: ts) (hb : ∀ t ∈ bitList m 64, k.busy t = false)
    (he : k.errs.find? (·.tag = t) = some e) :
    execTwait f s = .next ((s.stepAll (s.offIds f.toL1) 2).raises [(l, trapR e.cause e.info e.addr)]) := by
  have met := tagsMet_ofNat_iff (any := false).mpr (.inl hb)
  refine runUniform_trap (u := s.stepAll (s.offIds f.toL1) 2) rfl rfl hl h rfl ?_
  simp only [readReg_fullGroup, core_fullGroup, hm, hk, met, ht, List.findSome?_cons, he, Bool.not_true, Bool.false_eq_true, if_false]

theorem execTwait_of_busy (hb : ∃ t ∈ bitList m 64, k.busy t = true) :
    execTwait f s = .next ((s.stepAll (s.offIds f.toL1) 2).updThreads (s.onIds f.toL1) fun t =>
      { t with park := .tags (BitVec.ofNat 64 m) false }) := by
  have unmet : k.tagsMet (BitVec.ofNat 64 m) false = false := by
    rw [Bool.eq_false_iff, ne_eq, tagsMet_ofNat_iff]
    simpa using hb
  refine runUniform_next (u := s.stepAll (s.offIds f.toL1) 2) rfl rfl hl h rfl (.inr ?_)
  simp only [readReg_fullGroup, core_fullGroup, hm, hk, unmet, Bool.not_false, if_true]
  rfl

theorem execTclr_eq : execTclr f s = .next
    ((s.updCore l.team.core fun c => c.clearTags ((bitList m 64).filter fun t => !k.busy t)).uniNext f.toL1 2 fun t => t) := by
  refine runUniform_next (u := s.stepAll (s.offIds f.toL1) 2) rfl rfl hl h rfl (.inl ?_)
  simp only [readReg_fullGroup, core_fullGroup, hm, hk]
  rfl

end

/-! ## Tags taken -/

/-- The state in which a group has the answer for the first of its tags with CTAG set, or for none; MOD 1 has cleared that tag. -/
def State.tagTaken (s : State) (f : L2R) (l : ThreadId) (k : Core) (n : Option Nat) : State :=
  (if f.mod = 1 ∧ n.isSome then s.updCore l.team.core fun c => c.clearTags n.toList else s).uniNext f.toL1 2 fun t =>
    t.writeReg f.d.toNat 1 (n.elim 64 fun t => t + if k.errs.any (·.tag = t) then 128 else 0) 0

variable {n : Option Nat} (hn : ((bitList m 64).find? fun t => k.ctag.getLsbD t) = n)

include hk hn in
theorem tagTake_eq : tagTake f (fullGroup s (s.stepAll (s.offIds f.toL1) 2) f.toL1 l lt) m (s.stepAll (s.offIds f.toL1) 2) =
    .done (s.tagTaken f l k n) := by
  simp only [tagTake, core_fullGroup, hk, firstDone_eq hn, State.tagTaken]
  cases n with
  | none =>
    rw [if_neg (by simp)]
    rfl
  | some t =>
    simp only [Option.isSome_some, and_true]
    by_cases clears : f.mod = 1
    · simp only [if_pos clears]
      rfl
    · simp only [if_neg clears]
      rfl

variable (hl : (tagUni f true).legal = true) (h : s.leads f.toL1 [⟨.src 2, f.a.toNat⟩] [⟨.dst 1, f.d.toNat⟩] l lt)
include hm hk hn hl h

theorem execTfirst_takes : execTfirst f s = .next (s.tagTaken f l k n) := by
  refine runUniform_next (u := s.stepAll (s.offIds f.toL1) 2) rfl rfl hl h rfl (.inl ?_)
  simp only [readReg_fullGroup, hm]
  exact tagTake_eq hk hn

/-- TWANY with a tag that has CTAG set does not park, and takes it as TFIRST does. -/
theorem execTwany_takes (done : n.isSome = true) : execTwany f s = .next (s.tagTaken f l k n) := by
  have met : k.tagsMet (BitVec.ofNat 64 m) true = true := by
    rw [tagsMet_ofNat_iff]
    exact .inr ⟨rfl, List.find?_isSome.mp (hn ▸ done)⟩
  refine runUniform_next (u := s.stepAll (s.offIds f.toL1) 2) rfl rfl hl h rfl (.inl ?_)
  simp only [readReg_fullGroup, core_fullGroup, hm, hk, met, tagTake_eq hk hn, Bool.not_true, Bool.false_eq_true, if_false]

end

/-- Settles O38: the mask names the tags that the leader read, and each instruction acts on them as they stand. -/
theorem tagInstructions : Obligations.TagInstructions := by
  refine ⟨?idle, ?error, ?busy, ?any, ?first, ?clear⟩
  case idle => exact fun f s l lt hw h hb => execTwait_of_idle rfl rfl hw h (fun t ht => (hb t ht).1) fun t ht => (hb t ht).2
  case error => exact fun f s l lt t ts e hw h ht hb he => execTwait_of_error rfl rfl hw h ht hb he
  case busy => exact fun f s l lt hw h hb => execTwait_of_busy rfl rfl hw h hb
  case any => exact fun f s l lt hw h hs => execTwany_takes rfl rfl rfl hw h hs
  case first => exact fun f s l lt hw h => execTfirst_takes rfl rfl rfl hw h
  case clear => exact fun f s l lt hw h => execTclr_eq rfl rfl hw h

end Sys2Proof.Machine

namespace Sys2Proof.Machine

open Claims

/-! # Matrix commands at issue (R277 to R298) -/

section
variable {minor : Nat} {f : L2R} {s : State}

theorem runMatrix_arrives (hl : matLegal minor f = true) (hr : s.gathered.rdv = false) :
    runMatrix minor f s = .next (s.arrive (s.gathered.ids.map fun i => (i, .matrix))) := by
  simp [runMatrix, asTeam, hl, hr]

theorem execMstat_arrives (hl : matLegal 7 f = true) (hr : s.gathered.rdv = false) :
    execMstat f s = .next (s.arrive (s.gathered.ids.map fun i => (i, .matrix))) := by
  simp [execMstat, asTeam, hl, hr]

theorem runMatrix_released (hl : matLegal minor f = true) (hr : s.gathered.rdv = true) :
    runMatrix minor f s = .next (matAct minor f s.readied) := by
  simp [runMatrix, asTeam, hl, hr, State.readied]

theorem execMstat_released (hl : matLegal 7 f = true) (hr : s.gathered.rdv = true) :
    execMstat f s = .next (mstatAct f s.readied) := by
  simp [execMstat, asTeam, hl, hr, State.readied]

end

/-! ## Acceptance -/

/-- The tags and the notes of R283 leave the gathered group. -/
theorem gathered_matTags (s : State) (m : MatCmd) : (s.matTags m).gathered = s.gathered := by
  unfold State.matTags State.noteTiles State.settleTeam
  split
  · dsimp only
    split <;> rfl
  · rfl

theorem matAccept_eq (s : State) (m : MatCmd) : s.matAccept m = matrixAccepted s m := by
  have same : ({ s with seq := s.seq + 1 }.matTags m).gathered.ids = s.gathered.ids := congrArg (·.ids) (gathered_matTags _ m)
  unfold matrixAccepted
  rw [← same]
  rfl

/-- A command's stream is the low half of its control byte. -/
theorem stream_eq_fld (n : Nat) : fld n 0 4 = n % 16 := fld_zero n 4

/-- What the uniform pipe reads at issue goes to the rest of the command. -/
theorem matRead_of_cardRead {z w : State} {m : MatCmd} {r : Run} {v : Nat} (h : cardRead z m r w v) (go : State → Nat → State) :
    z.matRead m r go = go w v := by
  obtain ⟨may, u, x, a, b, first, rfl, later, rfl⟩ := h
  rw [← stream_eq_fld] at may
  simp only [State.matRead, may, first, later, Bool.not_true, Bool.false_eq_true, if_false]

/-! ## The members of a set -/

/-- The threads that issue are the leader and those after it. -/
theorem onGroup_of_head {u : State} {f : L1} {x : ThreadId × Thread} (h : (u.onGroup f).head? = some x) :
    ∃ rest, u.onGroup f = x :: rest ∧ u.onIds f = x.1 :: rest.map (·.1) := by
  obtain ⟨rest, hr⟩ := List.head?_eq_some_iff.mp h
  exact ⟨rest, hr, by rw [State.onIds, hr, List.map_cons]⟩

/-- Room in a counter of every guard-true thread is room for the set. -/
theorem roomAll_onIds {u : State} {f : L1} {ctr : Thread → Nat} (h : ∀ x ∈ u.onGroup f, ctr x.2 < 63) :
    u.roomAll (u.onIds f) ctr = true := by
  refine List.all_eq_true.mpr fun i hi => ?_
  obtain ⟨x, hx, rfl⟩ := List.mem_map.mp hi
  obtain ⟨-, -, row⟩ := group_mem (List.mem_filter.mp hx).1
  simp [row, h x hx]

/-- The scope field has three bits. -/
theorem scope_eq_fld (imm : BitVec 12) : fld imm.toNat 9 3 = imm.toNat / 512 := by
  have := imm.isLt
  simp only [fld]
  omega

/-! ## The command of a set that passes -/

section
variable {minor : Nat} {f : L2R} {s : State} {l : ThreadId} {lt : Thread} {z : State × Nat} {m : MatCmd}

/-- What a command meets before its own checks: its leader reads it, no held write comes before it, and there is room for it. -/
theorem leadsMatrix_issues (h : leadsMatrix minor f s l lt z m) : ∃ rest : List (ThreadId × Thread),
    (s.readied.group.filter fun (_, t) => t.guard f.g f.gn) = (l, lt) :: rest ∧ regCheck lt (matSrcs minor f) = none ∧
    (if minor = 3 then (s.readied, 0) else s.readied.clamp (s.readied.ctxId l) l.team.core (fld f.imm.toNat 9 3)) = z ∧
    s.readied.matCmd minor f l lt (l :: rest.map (·.1)) z.2 = m ∧
    (decide (minor ≠ 3) && s.readied.heldFor l.team (l :: rest.map (·.1)) (fld m.ctl 0 4)) = false ∧
    (decide (64 ≤ (s.readied.teamMats l.team).length) || !s.readied.roomAll (l :: rest.map (·.1)) (·.mxn)) = false := by
  obtain ⟨-, head, sources, hz, hm, held, queue, counters⟩ := h
  obtain ⟨rest, group, ids⟩ := onGroup_of_head head
  have room := roomAll_onIds counters
  simp only [ids] at hm held room
  refine ⟨rest, group, sources, ?_, hm.symm, ?_, ?_⟩
  · rw [scope_eq_fld, hz]
  · rw [stream_eq_fld]
    rcases held with rfl | held
    · rfl
    · rw [held, Bool.and_false]
  · simp [room, queue]

/-- A step command that needs no metadata. -/
theorem matAct_step (h : leadsMatrix minor f s l lt z m) (hn : minor < 2) (hb : s.readied.stepBad l m = none) :
    matAct minor f s.readied = z.1.matAccept m := by
  obtain ⟨rest, group, sources, hz, hm, free, room⟩ := leadsMatrix_issues h
  unfold matAct
  simp only [group, sources, hz, hm, free, room, hb, Bool.false_eq_true, if_false]
  rcases (by omega : minor = 0 ∨ minor = 1) with rfl | rfl <;> rfl

theorem matAct_mmas {w : State} {v : Nat} (h : leadsMatrix 2 f s l lt z m) (hb : s.readied.stepBad l m = none)
    (hr : cardRead z.1 m m.metaRun w v) (hv : metaBad ({ m with card := v }.step 0) = none) :
    matAct 2 f s.readied = w.matAccept { m with card := v } := by
  obtain ⟨rest, group, sources, hz, hm, free, room⟩ := leadsMatrix_issues h
  unfold matAct
  simp only [group, sources, hz, hm, free, room, hb, matRead_of_cardRead hr, hv, Bool.false_eq_true, if_false, ne_eq, not_true_eq_false]

theorem matAct_accz (h : leadsMatrix minor f s l lt z m) (hn : minor = 3) : matAct minor f s.readied = z.1.matAccept m := by
  obtain ⟨rest, group, sources, hz, hm, free, room⟩ := leadsMatrix_issues h
  unfold matAct
  simp only [group, sources, hz, hm, free, room, Bool.false_eq_true, if_false]
  subst hn
  rfl

theorem matAct_move (h : leadsMatrix minor f s l lt z m) (hn : minor = 4 ∨ minor = 5) (hb : s.readied.moveBad l m = none) :
    matAct minor f s.readied = z.1.matAccept m := by
  obtain ⟨rest, group, sources, hz, hm, free, room⟩ := leadsMatrix_issues h
  unfold matAct
  simp only [group, sources, hz, hm, free, room, hb, Bool.false_eq_true, if_false]
  rcases hn with rfl | rfl <;> rfl

theorem matAct_mwalk {w : State} {v : Nat} (h : leadsMatrix 6 f s l lt z m) (hb : s.readied.cardBad l m = none)
    (hr : cardRead z.1 m m.cardRun w v) (hv : w.walkBad l { m with card := v } = none) :
    matAct 6 f s.readied = w.matAccept { m with card := v } := by
  obtain ⟨rest, group, sources, hz, hm, free, room⟩ := leadsMatrix_issues h
  unfold matAct
  simp only [group, sources, hz, hm, free, room, hb, matRead_of_cardRead hr, hv, Bool.false_eq_true, if_false]

/-- A released set whose command its frame accepts, in some state, has accepted it. -/
theorem runMatrix_accepts (hl : matLegal minor f = true) (h : leadsMatrix minor f s l lt z m) {u : State} {m' : MatCmd}
    (ha : matAct minor f s.readied = u.matAccept m') : runMatrix minor f s = .next (matrixAccepted u m') := by
  rw [runMatrix_released hl h.1, ha, matAccept_eq]

end

/-! ## MSTAT (R298) -/

/-- The answer holds the progress of the team's oldest walk. -/
theorem fld_rprog (u : State) (t : TeamId) : fld (u.rprog t) 0 24 =
    (((u.teamMats t).find? (·.minor = 6)).map fun m => m.next % 2 ^ 24).getD 0 := by
  unfold State.rprog State.walkOf
  cases (u.teamMats t).find? (·.minor = 6) with
  | none => rfl
  | some m => simp [fld]

section
variable {f : L2R} {u : State} {l : ThreadId} {lt : Thread}
variable (head : (u.onGroup f.toL1).head? = some (l, lt))
variable (pass : ∀ x ∈ u.onGroup f.toL1, regCheck x.2 [⟨.dst 1, f.d.toNat⟩] = none)
include head pass

/-- When no destination fails, the whole set goes on or waits. -/
theorem mstatAct_eq : mstatAct f u =
    if f.mod = 1 && (u.teamMats l.team).length ≠ 0 then u.waitTeam u.gathered.ids .retired
    else (u.updThreads (u.onIds f.toL1) fun t =>
      t.writeReg f.d.toNat 1 ((u.teamMats l.team).length + 2 ^ 8 * fld (u.rprog l.team) 0 24) 0).stepAll u.gathered.ids 2 := by
  obtain ⟨rest, group, ids⟩ := onGroup_of_head head
  have members : (u.group.filter fun (_, t) => t.guard f.g f.gn) = (l, lt) :: rest := group
  have none_bad : (((l, lt) :: rest).filterMap fun (i, t) => (regCheck t [⟨.dst 1, f.d.toNat⟩]).map fun r => (i, r)) = [] := by
    refine List.filterMap_eq_nil_iff.mpr fun x hx => ?_
    simp [pass x (group ▸ hx)]
  unfold mstatAct
  simp only [members, none_bad, List.any_nil, Bool.not_false, List.filter_true, raises_nil, ids, List.isEmpty_cons, Bool.and_true]

end

/-- Settles O40: the seven commands run one frame, in which the released set's command is read, checked and accepted; MSTAT answers or parks. -/
theorem matrixCommandsAreAccepted : Obligations.MatrixCommandsAreAccepted := by
  refine ⟨?arrive, ?step, ?mmas, ?accz, ?move, ?mwalk, ?mstat⟩
  case arrive =>
    intro c hc f s hw hr
    simp only [List.mem_cons, List.not_mem_nil, or_false] at hc
    rcases hc with rfl | rfl | rfl | rfl | rfl | rfl | rfl | rfl
    iterate 7 exact runMatrix_arrives hw hr
    exact execMstat_arrives hw hr
  case step =>
    intro c hc f s l lt z m hw h hb
    simp only [List.mem_cons, List.not_mem_nil, or_false] at hc
    rcases hc with rfl | rfl
    · exact runMatrix_accepts hw h (matAct_step h (by decide) hb)
    · exact runMatrix_accepts hw h (matAct_step h (by decide) hb)
  case mmas => exact fun f s w l lt z m v hw h hb hr hv => runMatrix_accepts hw h (matAct_mmas h hb hr hv)
  case accz => exact fun f s l lt z m hw h => runMatrix_accepts hw h (matAct_accz h rfl)
  case move =>
    intro c hc f s l lt z m hw h hb
    simp only [List.mem_cons, List.not_mem_nil, or_false] at hc
    rcases hc with rfl | rfl
    · exact runMatrix_accepts hw h (matAct_move h (.inl rfl) hb)
    · exact runMatrix_accepts hw h (matAct_move h (.inr rfl) hb)
  case mwalk => exact fun f s w l lt z m v hw h hb hr hv => runMatrix_accepts hw h (matAct_mwalk h hb hr hv)
  case mstat =>
    intro f s l lt hw hr head pass mats progress
    have answer := (execMstat_released hw hr).trans (congrArg _ (mstatAct_eq head pass))
    refine ⟨fun idle => answer.trans (congrArg _ ?_), fun waits busy => answer.trans (congrArg _ ?_)⟩
    · rw [if_neg, fld_rprog]
      · rfl
      · simpa using idle
    · rw [if_pos]
      · rfl
      · simpa [waits] using busy

end Sys2Proof.Machine

namespace Sys2Proof.Machine

/-! # What the write-backs of an engine's opening leave (R212, R227) -/

theorem tget_tset {κ α : Type} [DecidableEq κ] (t : Tbl κ α) (q : κ) (v : α) (k : κ) :
    tget (tset t q v) k = if k = q then some v else tget t k := by
  induction t with
  | nil => simp [tset, tget, eq_comm]
  | cons x t ih =>
    obtain ⟨k', u⟩ := x
    by_cases h : k' = q
    · subst h
      by_cases hk : k = k'
      · simp [tset, tget, hk]
      · simp [tset, tget, hk, Ne.symm hk]
    · by_cases hk : k' = k
      · subst hk
        simp [tset, tget, h]
      · simp [tset, tget, h, hk, ih]

theorem core_updCore (s : State) (c : CoreId) (f : Core → Core) (d : CoreId) :
    (s.updCore c f).core d = if d = c then f (s.core c) else s.core d := by
  simp only [State.core, State.updCore, tget_tset]
  split <;> rfl

@[simp] theorem core_updCore_self (s : State) (c : CoreId) (f : Core → Core) : (s.updCore c f).core c = f (s.core c) := by
  rw [core_updCore, if_pos rfl]

section
variable (s : State)

@[simp] theorem cores_l2Drop (l : L2Line) : (s.l2Drop l).cores = s.cores := by
  unfold State.l2Drop
  dsimp only [State.heal]
  split <;> rfl

@[simp] theorem cores_l2Fill (cp : Nat) (l : L2Line) : (s.l2Fill cp l).cores = s.cores := by
  unfold State.l2Fill
  extract_lets mine room
  have same : room.cores = s.cores := by
    unfold room
    split
    · exact cores_l2Drop s _
    · rfl
  split <;> exact same

@[simp] theorem cores_l2Use (part gpa key cp : Nat) (w : Bool) : (s.l2Use part gpa key cp w).cores = s.cores := by
  unfold State.l2Use
  split
  · rfl
  · split
    · rfl
    · split
      · exact cores_l2Fill s _ _
      · rfl

/-- What every step of a fold keeps, the fold keeps. -/
theorem foldl_keeps {α β : Type} {f : State → α → State} {g : State → β} (h : ∀ s x, g (f s x) = g s) (l : List α) (s : State) :
    g (l.foldl f s) = g s := by
  induction l generalizing s with
  | nil => rfl
  | cons x xs ih => rw [List.foldl_cons, ih, h]

@[simp] theorem cores_writeBack (l : L1Line) : (s.writeBack l).cores = s.cores := by
  unfold State.writeBack
  refine (foldl_keeps (f := fun s (d : Dirty) => s.memStore (l.key + d.off) 1 d.byte.toNat) (g := State.cores) (fun _ _ => rfl) _ _).trans ?_
  split <;> simp

/-- Cleaning a line leaves every core's matrix queue. -/
theorem mq_cleanLine (c : CoreId) (l : L1Line) (d : CoreId) : ((s.cleanLine c l).core d).mq = (s.core d).mq := by
  have same (e : CoreId) : (s.writeBack l).core e = s.core e := by rw [State.core, cores_writeBack, State.core]
  rw [State.cleanLine, core_updCore, same, same]
  split
  next h => rw [h]; rfl
  next => rfl

theorem mq_engineOpens (e : Engine) (n : Nat) (d : CoreId) : ((s.engineOpens e n).core d).mq = (s.core d).mq := by
  unfold State.engineOpens State.expose
  split
  · rfl
  · exact foldl_keeps (g := fun s => (s.core d).mq) (fun s l => mq_cleanLine s e.core l d) _ s

theorem matOn_engineOpens (e : Engine) (n : Nat) (c : CoreId) (k : Nat) : (s.engineOpens e n).matOn c k = s.matOn c k := by
  rw [State.matOn, mq_engineOpens, State.matOn]

end

/-! # Tiles -/

theorem tile_id (k : Core) (n : Nat) : (k.tile n).id = n := by
  unfold Core.tile
  cases h : k.tiles.find? (·.id = n) with
  | none => rfl
  | some t => simpa using List.find?_some h

theorem tile_setTile (k : Core) (t : Tile) (n : Nat) : (k.setTile t).tile n = if n = t.id then t else k.tile n := by
  by_cases h : n = t.id
  · simp [Core.tile, Core.setTile, h]
  · have others : (k.tiles.filter (·.id ≠ t.id)).find? (·.id = n) = k.tiles.find? (·.id = n) := by
      rw [List.find?_filter]
      congr 1
      funext x
      by_cases hx : x.id = n <;> simp [hx, h]
    simp only [Core.tile, Core.setTile, List.find?_cons, others, if_neg h, decide_eq_false (Ne.symm h)]

theorem tget_filterMap {α : Type} {g : Nat → Option α} (l : List Nat) (q : Nat) :
    tget (l.filterMap fun n => (g n).map fun v => (n, v)) q = if q ∈ l then g q else none := by
  induction l with
  | nil => rfl
  | cons n l ih =>
    by_cases h : n = q
    · subst h
      cases hg : g n <;> simp [hg, tget, ih]
    · cases hg : g n <;> simp [hg, tget, ih, h, Ne.symm h]

/-- A cell holds 32 bits of what the tile is made from. -/
theorem cell_tileOf (id tag : Nat) (f : Nat → Nat → Nat) {i j : Nat} (hi : i < 16) (hj : j < 16) :
    (tileOf id tag f).cell i j = f i j % 2 ^ 32 := by
  have row : (16 * i + j) / 16 = i := by omega
  have col : (16 * i + j) % 16 = j := by omega
  have listed : 16 * i + j ∈ List.range 256 := List.mem_range.mpr (by omega)
  have cells : (tileOf id tag f).cells = (List.range 256).filterMap fun n =>
      (if f (n / 16) (n % 16) = 0 then none else some (w32 (f (n / 16) (n % 16)))).map fun v => (n, v) := by
    refine List.filterMap_congr fun n _ => ?_
    split <;> rfl
  rw [Tile.cell, cells, tget_filterMap, if_pos listed, row, col]
  split
  next zero => simp [zero]
  next => simp [w32]

theorem cell_lt (t : Tile) (i j : Nat) : t.cell i j < 2 ^ 32 := BitVec.isLt _

/-! # A tile step (R284, R288) -/

/-- The computed cells of a step, by row and column. -/
theorem find?_results (p : Step) (v : StepVals) (t : Tile) (i j : Nat) : ((p.results v t).find? fun r => r.1 = i && r.2.1 = j) =
    if i ∈ p.rows ∧ j ∈ p.cols then some (i, j, p.cell v i j (t.cell i j)) else none := by
  have mem (r : Nat × Nat × CellRes) : r ∈ p.results v t ↔
      ∃ a ∈ p.rows, ∃ b ∈ p.cols, (a, b, p.cell v a b (t.cell a b)) = r := by
    simp only [Step.results, List.mem_flatMap, List.mem_map]
  split
  next computed =>
    obtain ⟨hi, hj⟩ := computed
    cases found : (p.results v t).find? fun r => r.1 = i && r.2.1 = j with
    | none =>
      have absent := List.find?_eq_none.mp found _ ((mem _).mpr ⟨i, hi, j, hj, rfl⟩)
      simp at absent
    | some r =>
      obtain ⟨a, -, b, -, rfl⟩ := (mem r).mp (List.mem_of_find?_eq_some found)
      obtain ⟨rfl, rfl⟩ : a = i ∧ b = j := by simpa using List.find?_some found
      rfl
  next other =>
    refine List.find?_eq_none.mpr fun r hr => ?_
    obtain ⟨a, ha, b, hb, rfl⟩ := (mem r).mp hr
    intro same
    obtain ⟨rfl, rfl⟩ : a = i ∧ b = j := by simpa using same
    exact other ⟨ha, hb⟩

/-- A cell after a step: R288's value where the step computes one, else what it held. -/
def Step.newCell (p : Step) (v : StepVals) (t : Tile) (i j : Nat) : Nat :=
  if i ∈ p.rows ∧ j ∈ p.cols then (p.cell v i j (t.cell i j)).val else t.cell i j

theorem newCell_eq (p : Step) (v : StepVals) (t : Tile) : p.newCell v t =
    fun i j => match (p.results v t).find? fun r => r.1 = i && r.2.1 = j with
    | some r => r.2.2.val
    | none => t.cell i j := by
  funext i j
  rw [find?_results, Step.newCell]
  split <;> rfl

section
variable (s : State)

@[simp] theorem cores_settleTeam (c : CtxId) (t : TeamId) (f : Team → Team) : (s.settleTeam c t f).cores = s.cores := by
  unfold State.settleTeam
  split <;> rfl

@[simp] theorem mem_settleTeam (c : CtxId) (t : TeamId) (f : Team → Team) : (s.settleTeam c t f).mem = s.mem := by
  unfold State.settleTeam
  split <;> rfl

@[simp] theorem cores_noteTiles (c : CtxId) (t : TeamId) (ts : List Nat) : (s.noteTiles c t ts).cores = s.cores :=
  cores_settleTeam s c t _

@[simp] theorem mem_noteTiles (c : CtxId) (t : TeamId) (ts : List Nat) : (s.noteTiles c t ts).mem = s.mem :=
  mem_settleTeam s c t _

@[simp] theorem cores_lowerMxn (ids : List ThreadId) : (s.lowerMxn ids).cores = s.cores := by
  unfold State.lowerMxn State.settleThreads
  dsimp only
  split <;> rfl

@[simp] theorem mem_lowerMxn (ids : List ThreadId) : (s.lowerMxn ids).mem = s.mem := by
  unfold State.lowerMxn State.settleThreads
  dsimp only
  split <;> rfl

theorem core_of_cores {s u : State} (h : u.cores = s.cores) (c : CoreId) : u.core c = s.core c := by
  rw [State.core, h, State.core]

theorem core_matRetire (c : CoreId) (m : MatCmd) :
    (s.matRetire c m).core c = { s.core c with mq := (s.core c).mq.filter (·.key ≠ m.key) } := by
  rw [State.matRetire, core_of_cores (cores_lowerMxn _ _), core_updCore_self]

theorem core_updMat (c : CoreId) (k : Nat) (f : MatCmd → MatCmd) :
    (s.updMat c k f).core c = { s.core c with mq := (s.core c).mq.map fun m => if m.key = k then f m else m } := by
  rw [State.updMat, core_updCore_self]

end

/-- The state in which a step without an error or a check has written its tile: the tile is noted, and MSTATUS has what the cells raise. -/
def State.stepWritten (s : State) (c : CoreId) (m : MatCmd) : State :=
  let p := m.step m.next
  let v := p.vals (m.values m.next)
  let old := (s.core c).tile p.tile
  let rs := p.results v old
  let s := s.updCore c fun k => k.setTile (tileOf old.id old.tag (p.newCell v old))
  let s := if rs.isEmpty then s else s.noteTiles m.ctx m.team [p.tile]
  s.settleTeam m.ctx m.team fun tm => tm.matStatus (rs.map (·.2.2)) false

theorem core_stepWritten (s : State) (c : CoreId) (m : MatCmd) : (s.stepWritten c m).core c =
    let p := m.step m.next
    let old := (s.core c).tile p.tile
    (s.core c).setTile (tileOf old.id old.tag (p.newCell (p.vals (m.values m.next)) old)) := by
  rw [State.stepWritten, core_of_cores (cores_settleTeam _ _ _ _), apply_ite (State.core · c), core_of_cores (cores_noteTiles _ _ _ _),
    ite_self, core_updCore_self]

theorem mem_stepWritten (s : State) (c : CoreId) (m : MatCmd) : (s.stepWritten c m).mem = s.mem := by
  rw [State.stepWritten, mem_settleTeam, apply_ite State.mem, mem_noteTiles, ite_self, State.updCore_mem]

/-- The queue of a core after a step of a command: the command has gone with its last step, else it stands at its next one. -/
def MatCmd.stepped (m : MatCmd) (q : List MatCmd) : List MatCmd :=
  if m.next + 1 = m.steps then q.filter (·.key ≠ m.key)
  else q.map fun x => if x.key = m.key then { x with next := x.next + 1, got := x.got.filter (·.1 ≠ x.next) } else x

section
variable {s : State} {c : CoreId} {m : MatCmd}
variable (sound : s.badTile c (m.step m.next).tile (m.step m.next).computes = false)
variable (unchecked : (s.ctx m.ctx).any (fun x => x.shdctl.getLsbD 1) = false)
include sound unchecked

theorem matStep_eq : s.matStep c m =
    if m.next + 1 = m.steps then (s.stepWritten c m).matRetire c m
    else (s.stepWritten c m).updMat c m.key fun x => { x with next := x.next + 1, got := x.got.filter (·.1 ≠ x.next) } := by
  simp only [State.matStep, State.stepWritten, sound, unchecked, newCell_eq, Bool.false_and, Bool.false_eq_true, if_false] <;> rfl

/-- A step writes its tile and takes its command on; nothing else of the core changes. -/
theorem core_matStep : (s.matStep c m).core c = { (s.stepWritten c m).core c with mq := m.stepped (s.core c).mq } := by
  have queue : ((s.stepWritten c m).core c).mq = (s.core c).mq := by rw [core_stepWritten]; rfl
  rw [matStep_eq sound unchecked, MatCmd.stepped]
  split
  · rw [core_matRetire, queue]
  · rw [core_updMat, queue]

theorem tile_matStep (n : Nat) : ((s.matStep c m).core c).tile n =
    let p := m.step m.next
    let old := (s.core c).tile p.tile
    if n = p.tile then tileOf p.tile old.tag (p.newCell (p.vals (m.values m.next)) old) else (s.core c).tile n := by
  have same_tiles : ((s.matStep c m).core c).tile n = ((s.stepWritten c m).core c).tile n := by
    rw [core_matStep sound unchecked]
    rfl
  rw [same_tiles, core_stepWritten, tile_setTile, tile_id]
  rfl

theorem mem_matStep : (s.matStep c m).mem = s.mem := by
  rw [matStep_eq sound unchecked, ← mem_stepWritten s c m]
  split
  · exact mem_lowerMxn _ _
  · rfl

end

/-- The tile action of MMA, MMAM, MMAS and MWALK is a step. -/
theorem matTile_of_step {s : State} {c : CoreId} {m : MatCmd} (h : m.minor ∈ [0, 1, 2, 6]) : s.matTile c m = s.matStep c m := by
  simp only [List.mem_cons, List.not_mem_nil, or_false] at h
  rcases h with h | h | h | h <;> simp [State.matTile, h]

/-! # What MATRIX_STEP_RETIRE does for a command that may act (R284, R301) -/

theorem pickParts_singleton {α : Type} (tick : Nat) (x : α) : pickParts tick [x] = [x] := by
  by_cases h : Config.pick tick 0 <;> simp [pickParts, h]

section
variable {s o : State} {c : CoreId} {k : Nat} {m : MatCmd}

theorem key_of_matOn (on : s.matOn c k = some m) : m.key = k := by simpa using List.find?_some on

theorem waiting_of_matMay (may : s.matMay c m = true) : m.state = .waiting := by
  simp only [State.matMay, Bool.and_eq_true, decide_eq_true_eq] at may
  obtain ⟨⟨⟨waiting, -⟩, -⟩, -⟩ := may
  exact waiting

/-- The command stands in the queue as before its issuers' stores are widened. -/
theorem matOn_opened (on : s.matOn c k = some m) (ho : o = if m.minor = 3 then s else s.engineOpens (m.engine c) m.seq) :
    o.matOn c k = some m := by
  subst ho
  split
  · exact on
  · rw [matOn_engineOpens, on]

section
variable (on : s.matOn c k = some m) (may : s.matMay c m = true)
variable (ho : o = if m.minor = 3 then s else s.engineOpens (m.engine c) m.seq)
include on may ho

theorem execMatrixStepRetire_of_acted (acted : m.acted = true) :
    execMatrixStepRetire c k s = .next ((matStores c k (pickParts o.tick m.todo) o).matStored c k) := by
  subst ho
  simp [execMatrixStepRetire, on, may, acted, State.lateRefused, waiting_of_matMay may]

theorem execMatrixStepRetire_of_missing (idle : m.acted = false) (more : m.missing m.next ≠ []) :
    execMatrixStepRetire c k s = .next (matReads c k (pickParts o.tick (o.openPieces m)) o) := by
  subst ho
  simp [execMatrixStepRetire, on, may, idle, more, State.lateRefused, waiting_of_matMay may]

theorem execMatrixStepRetire_of_ready (idle : m.acted = false) (done : m.missing m.next = []) (read : o.openPieces m = [])
    (turn : o.matTurn c m = true) (goes : o.walkStops m = false ∨ m.begun m.next = true) :
    execMatrixStepRetire c k s = .next (o.matTile c m) := by
  subst ho
  have starts : (State.walkStops (if m.minor = 3 then s else s.engineOpens (m.engine c) m.seq) m && !m.begun m.next) = false := by
    rcases goes with stops | begun
    · rw [stops, Bool.false_and]
    · rw [begun, Bool.not_true, Bool.and_false]
  simp [execMatrixStepRetire, on, may, idle, done, read, turn, starts, State.lateRefused, waiting_of_matMay may]

/-- ACCZ and ACCST read nothing, and go on to their tile action at their turn. -/
theorem execMatrixStepRetire_of_reads_nothing (idle : m.acted = false) (turn : o.matTurn c m = true) (h : m.minor = 3 ∨ m.minor = 5) :
    execMatrixStepRetire c k s = .next (o.matTile c m) := by
  have done (n : Nat) : m.missing n = [] := by
    rcases h with h | h <;> simp [MatCmd.missing, MatCmd.pieces, MatCmd.runs, h]
  have read : o.openPieces m = [] := by simp [State.openPieces, done]
  have no_walk : o.walkStops m = false := by
    have : m.minor ≠ 6 := by omega
    simp [State.walkStops, this]
  exact execMatrixStepRetire_of_ready on may ho idle (done _) read turn (.inl no_walk)

end

/-- One piece that translates is read. -/
theorem matReads_one {i n v : Nat} {r : Run} {w : State} (on : o.matOn c k = some m) (hw : m.state = .waiting)
    (piece : (m.pieces i)[n]? = some r) (read : o.pieceRead m.ctx c r = .got w v) :
    matReads c k [(i, n)] o = w.updMat c k fun m => { m with got := m.got ++ [(i, n, v)] } := by
  simp [matReads, on, hw, piece, read]

/-! ## Cells of an ACCST -/

theorem matOn_updMat {w : State} {f : MatCmd → MatCmd} (hf : ∀ m, (f m).key = m.key) (on : w.matOn c k = some m) :
    (w.updMat c k f).matOn c k = some (f m) := by
  have keeps : ((fun x : MatCmd => decide (x.key = k)) ∘ fun m => if m.key = k then f m else m) = fun x => decide (x.key = k) := by
    funext x
    by_cases h : x.key = k <;> simp [h, hf]
  have found : (w.core c).mq.find? (·.key = k) = some m := on
  rw [State.matOn, core_updMat]
  simp only [List.find?_map, keeps, found, Option.map_some, key_of_matOn on, if_true]

/-- A cell written is done. -/
def State.cellDone (s : State) (c : CoreId) (k n : Nat) : State := s.updMat c k fun x => { x with todo := x.todo.filter (·.1 ≠ n) }

/-- An ACCST whose last cell is written retires. -/
theorem matStored_of_last {w : State} {n v : Nat} (on : w.matOn c k = some m) (acted : m.acted = true) (last : m.todo = [(n, v)]) :
    (w.cellDone c k n).matStored c k = (w.cellDone c k n).matRetire c { m with todo := [] } := by
  have now : (w.cellDone c k n).matOn c k = some { m with todo := [] } := by
    rw [State.cellDone, matOn_updMat (f := fun x => { x with todo := x.todo.filter (·.1 ≠ n) }) (fun _ => rfl) on, last]
    simp
  simp [State.matStored, now, acted]

theorem matOn_padStored {a v : Nat} (is : List ThreadId) (x : CtxId) (on : o.matOn c k = some m) :
    ((o.padWrite c a 4 v).noteEngineLine x is c a).matOn c k = some m := by
  have same : ((o.padWrite c a 4 v).noteEngineLine x is c a).cores = (o.padWrite c a 4 v).cores := by
    unfold State.noteEngineLine
    split
    · rfl
    · exact cores_settleTeam _ _ _ _
  rw [State.matOn, core_of_cores same, State.padWrite, core_updCore_self]
  exact on

section
variable {i j sp size n v : Nat} {a : Int}
variable (on : o.matOn c k = some m) (cell : m.cells.find? (fun x => 16 * x.1 + x.2.1 = n) = some (i, j, sp, a, size))
include on cell

theorem matStores_pad (pad : sp = 1) :
    matStores c k [(n, v)] o = ((o.padWrite c a.toNat 4 v).noteEngineLine m.ctx m.issuers c a.toNat).cellDone c k n := by
  simp [matStores, on, cell, pad, State.cellDone]

theorem matStores_memory {w : State} (far : sp ≠ 1) (stored : o.engineStore (m.engine c) a v = .ok w) :
    matStores c k [(n, v)] o = w.cellDone c k n := by
  simp [matStores, on, cell, far, stored, State.cellDone]

end
end

/-- Settles O41: a command that may act reads a piece, takes its tile action, or writes a cell, as its state says; what is read at once and in what
order are the model's choices (log entries 21 and 14). -/
theorem matrixStepsRetire : Obligations.MatrixStepsRetire := by
  refine ⟨?read, ?step, ?zero, ?load, ?take, ?store, ?refused⟩
  case read =>
    rintro s o w c k i n v r m ⟨on, may, idle, ho⟩ more one piece read
    refine (execMatrixStepRetire_of_missing on may ho idle more).trans (congrArg _ ?_)
    rw [one, pickParts_singleton, matReads_one (matOn_opened on ho) (waiting_of_matMay may) piece read]
  case step =>
    rintro s o c k m ⟨on, may, idle, ho⟩ ⟨done, none_open, turn, goes⟩ minor unchecked p old sound
    have runs := execMatrixStepRetire_of_ready on may ho idle done none_open turn goes
    rw [matTile_of_step minor] at runs
    refine ⟨_, runs, fun i hi j hj => ?cell, ?tag, fun n hn => ?others, ?queue, mem_matStep sound unchecked⟩
    case cell =>
      rw [tile_matStep sound unchecked, if_pos rfl, cell_tileOf _ _ _ hi hj, Step.newCell]
      split
      · rfl
      · exact Nat.mod_eq_of_lt (cell_lt old i j)
    case tag =>
      rw [tile_matStep sound unchecked, if_pos rfl]
      rfl
    case others => rw [tile_matStep sound unchecked, if_neg hn]
    case queue => rw [core_matStep sound unchecked, MatCmd.stepped, key_of_matOn on]
  case zero =>
    rintro s o c k m ⟨on, may, idle, ho⟩ minor turn
    have same : o = s := ho.trans (if_pos minor)
    subst same
    refine (execMatrixStepRetire_of_reads_nothing on may ho idle turn (.inl minor)).trans (congrArg _ ?_)
    rw [State.matTile, minor]
    rfl
  case load =>
    rintro s o c k m ⟨on, may, idle, ho⟩ ⟨done, none_open, turn, goes⟩ minor
    refine (execMatrixStepRetire_of_ready on may ho idle done none_open turn goes).trans (congrArg _ ?_)
    rw [State.matTile, minor]
    rfl
  case take =>
    rintro s o c k m ⟨on, may, idle, ho⟩ minor turn some_cell sound
    refine (execMatrixStepRetire_of_reads_nothing on may ho idle turn (.inr minor)).trans (congrArg _ ?_)
    rw [State.matTile, minor]
    simp [State.matTake, sound, some_cell, key_of_matOn on]
  case store =>
    intro s c k n v i j sp size a m on may acted minor last cell o done
    have ho : o = if m.minor = 3 then s else s.engineOpens (m.engine c) m.seq := (if_neg (by omega)).symm
    have on' := matOn_opened on ho
    have runs := execMatrixStepRetire_of_acted on may ho acted
    rw [last, pickParts_singleton] at runs
    refine ⟨fun pad => runs.trans (congrArg _ ?_), fun w far stored there => runs.trans (congrArg _ ?_)⟩
    · rw [matStores_pad on' cell pad, matStored_of_last (matOn_padStored _ _ on') acted last]
      rfl
    · rw [matStores_memory on' cell far stored, matStored_of_last there acted last]
      rfl
  case refused =>
    intro s c k m on state struck
    have late : s.lateRefused m = true := by simp [State.lateRefused, state, struck]
    show execMatrixStepRetire c k s = _
    simp [execMatrixStepRetire, on, late]

end Sys2Proof.Machine

namespace Sys2Proof.Machine

open Claims

/-! # What reset leaves (R422) -/

/-- Settles O1: reset lists nothing but package (0, 0), and what a table does not list is at its reset value. -/
theorem resetState : Obligations.ResetState := by
  refine ⟨rfl, rfl, rfl, rfl, rfl, rfl, rfl, rfl, rfl, rfl, rfl, rfl, rfl, rfl, rfl, ?tags, fun _ => rfl, fun _ => ⟨rfl, rfl⟩⟩
  case tags =>
    intro c n
    show (BitVec.allOnes 64).getLsbD n = _
    exact BitVec.getLsbD_allOnes

/-! # Writes to BAR 0 (R429) -/

theorem ringSizeOk_iff (v : Nat) : ringSizeOk v = true ↔ v = 0 ∨ (6 ≤ v ∧ v ≤ 16) := by
  simp [ringSizeOk]

theorem fn_updFn (s : State) (i : FnId) (f : Fn → Fn) (j : FnId) :
    (s.updFn i f).fn j = if j = i then f (s.fn i) else s.fn j := by
  simp only [State.fn, State.updFn, tget_tset]
  split <;> rfl

@[simp] theorem fn_updFn_self (s : State) (i : FnId) (f : Fn → Fn) : (s.updFn i f).fn i = f (s.fn i) := by
  rw [fn_updFn, if_pos rfl]

theorem execCrdoor_eq (fn : FnId) (v : Nat) (s : State) (tail : Nat) (ht : advanceTo (s.fn fn).crTail (s.fn fn).crSize v = tail) :
    execCrdoor fn v s = .next (if (s.fn fn).crSize = 0 ∨ tail = (s.fn fn).crTail ∨ 2 ^ (s.fn fn).crSize < tail - (s.fn fn).crHead then s
      else { s with seq := s.seq + 1 }.updFn fn fun f => { f with crTail := tail, bells := f.bells ++ [(s.seq, tail)] }) := by
  subst ht
  unfold execCrdoor
  by_cases off : (s.fn fn).crSize = 0
  · simp [off]
  · simp only [off, if_false, false_or, Bool.or_eq_true, decide_eq_true_eq, State.fresh, gt_iff_lt]
    split <;> rfl

theorem execCrsize_eq (fn : FnId) (v : Nat) (s : State) :
    execCrsize fn v s = .next (if v = 0 ∧ s.commandOpen fn = true then s.updFn fn fun f => { f with crOff := true }
      else if v = 0 ∨ (6 ≤ v ∧ v ≤ 16) then s.updFn fn fun f =>
        if v = 0 ∨ f.crSize = 0 ∨ f.crOff = true then { f with crSize := v, crHead := 0, crTail := 0, bells := [], crOff := false }
        else { f with crSize := v }
      else s) := by
  have size := ringSizeOk_iff v
  unfold execCrsize
  cases ok : ringSizeOk v with
  | false =>
    have bad : ¬(v = 0 ∨ (6 ≤ v ∧ v ≤ 16)) := by simp [← size, ok]
    have nonzero : v ≠ 0 := fun h => bad (.inl h)
    simp only [Bool.not_false, if_true, if_neg bad, if_neg (fun h : v = 0 ∧ _ => nonzero h.1)]
  | true =>
    have good := size.mp ok
    by_cases waits : v = 0 ∧ s.commandOpen fn = true
    · simp [waits]
    · simp [waits, good, Fn.ringOff, or_assoc]

theorem execErsize_eq (fn : FnId) (v : Nat) (s : State) :
    execErsize fn v s = .next (if v = 0 ∨ (6 ≤ v ∧ v ≤ 16) then (s.updFn fn fun f =>
      if v = 0 ∨ f.erSize = 0 then { f with erSize := v, erHead := 0, erTail := 0 } else { f with erSize := v }).flushEvents fn
        (Config.heldRecords + 1)
    else s) := by
  simp only [execErsize, ← ringSizeOk_iff]
  cases ringSizeOk v
  · rfl
  · simp [flushFuel]

theorem execErhead_eq (fn : FnId) (v : Nat) (s : State) (head : Nat) (hh : advanceTo (s.fn fn).erHead (s.fn fn).erSize v = head) :
    execErhead fn v s = .next (if (s.fn fn).erSize = 0 ∨ (s.fn fn).erTail < head then s
      else (s.updFn fn fun f => { f with erHead := head }).flushEvents fn (Config.heldRecords + 1)) := by
  subst hh
  simp only [execErhead, Bool.or_eq_true, decide_eq_true_eq]
  split <;> rfl

theorem execPrhead_eq (fn : FnId) (v : Nat) (s : State) (head : Nat) (hh : advanceTo (s.fn fn).prHead pageRingLog v = head) :
    execPrhead fn v s = .next (if fn.vf.isNone ∨ (s.fn fn).prTail < head then s
      else (s.updFn fn fun f => { f with prHead := head }).flushPages fn (s.fn fn).prWait.length) := by
  subst hh
  simp only [execPrhead, Bool.or_eq_true, decide_eq_true_eq]
  split <;> rfl

/-- The three writable bases stand at three offsets, and no other offset is written. -/
theorem execBar0RegisterWrite_eq (fn : FnId) (off v : Nat) (s : State) :
    execBar0RegisterWrite fn off v s = .next (s.updFn fn fun f =>
      if off = 0x000 ∧ (f.crSize = 0 ∨ f.crOff = true) then { f with crBase := v / 4096 * 4096 % 2 ^ 64 }
      else if off = 0x018 ∧ f.erSize = 0 then { f with erBase := v / 4096 * 4096 % 2 ^ 64 }
      else if off = 0x030 ∧ fn.vf.isSome = true then { f with prBase := v / 4096 * 4096 % 2 ^ 64 }
      else f) := by
  dsimp only [execBar0RegisterWrite]
  congr 2
  funext f
  split
  · simp
  · simp
  · simp
  next command event page =>
    simp only [if_neg (fun h : off = 0 ∧ _ => command h.1), if_neg (fun h : off = 24 ∧ _ => event h.1), if_neg (fun h : off = 48 ∧ _ => page h.1)]

theorem execEventCoalesceTimeout_eq (fn : FnId) (s : State) :
    execEventCoalesceTimeout fn s =
      .next (if (s.fn fn).time ≠ 0 ∧ (s.fn fn).oldest.any (fun t => t + 1000 * (s.fn fn).time ≤ s.clkw) = true then
        s.updFn fn fun f => { f with irqs := f.irqs + 1, fresh := 0, oldest := none }
      else s) := by
  dsimp only [execEventCoalesceTimeout]
  cases (s.fn fn).oldest with
  | none => simp
  | some t =>
    simp only [Option.any_some, Bool.and_eq_true, decide_eq_true_eq]
    exact apply_ite _ _ _ _ |>.symm

theorem fn_hostPut (s : State) (pkg addr : Nat) (bs : List Byte) (i : FnId) : (s.hostPut pkg addr bs).fn i = s.fn i := rfl

/-- An event record that is written, held or dropped changes what a function holds of its event ring only. -/
theorem fn_postEvent {α : Type} {g : Fn → α} (h : ∀ (f : Fn) tail irqs fresh oldest waiting dropped,
    g { f with erTail := tail, irqs := irqs, fresh := fresh, oldest := oldest, waiting := waiting, dropped := dropped } = g f)
    (s : State) (fn : FnId) (e : Event) : g ((s.postEvent fn e).fn fn) = g (s.fn fn) := by
  dsimp only [State.postEvent]
  split
  · dsimp only [State.putEvent]
    rw [fn_updFn_self, fn_hostPut]
    split
    · exact h _ _ _ _ _ _ _
    · exact h _ _ _ _ _ _ _
  · split
    · rw [fn_updFn_self]
      exact h _ _ _ _ _ _ _
    · rw [fn_updFn_self]
      exact h _ _ _ _ _ _ _

theorem crOff_postEvent (s : State) (fn : FnId) (e : Event) : ((s.postEvent fn e).fn fn).crOff = (s.fn fn).crOff :=
  fn_postEvent (g := Fn.crOff) (fun _ _ _ _ _ _ _ => rfl) s fn e

/-- The completion of the command that a ring waits for disables the ring. -/
theorem fn_complete_of_crOff {s : State} {fn : FnId} (h : (s.fn fn).crOff = true) (tag : W32) (status result : Nat) :
    ∃ f : Fn, (s.complete fn tag status result).fn fn = f.ringOff := by
  unfold State.complete
  rw [fn_updFn_self, crOff_postEvent, if_pos h]
  exact ⟨_, rfl⟩

/-- Settles O55: each write to BAR 0 has one outcome for every value, and a completed command disables a ring that waits for it. -/
theorem bar0Writes : Obligations.Bar0Writes := by
  refine ⟨fun s fn v => execCrdoor_eq fn v s _ rfl, fun s fn v => execCrsize_eq fn v s, fun s fn v => execErsize_eq fn v s,
    fun s fn v => execErhead_eq fn v s _ rfl, fun s fn v => execPrhead_eq fn v s _ rfl,
    fun s fn off v => execBar0RegisterWrite_eq fn off v s, fun s fn => execEventCoalesceTimeout_eq fn s, ?disabled⟩
  case disabled =>
    intro s fn tag status result h
    obtain ⟨f, hf⟩ := fn_complete_of_crOff h tag status result
    rw [hf]
    exact ⟨rfl, rfl, rfl, rfl, rfl⟩

/-! # Commands that a function may not issue
Claim O56 fails on the two commands that runner takes up again: FW_RECOVER and SELFTEST forget what their function waits on before their
right is checked, so that a refused one ends a command of the function that waits. -/

theorem pending_postEvent (s : State) (fn : FnId) (e : Event) : ((s.postEvent fn e).fn fn).pending = (s.fn fn).pending :=
  fn_postEvent (g := Fn.pending) (fun _ _ _ _ _ _ _ => rfl) s fn e

/-- A completion record leaves the command that its function waits with. -/
theorem pending_complete (s : State) (fn : FnId) (tag : W32) (status result : Nat) :
    ((s.complete fn tag status result).fn fn).pending = (s.fn fn).pending := by
  rw [State.complete, fn_updFn_self, ← pending_postEvent]
  exact (apply_ite Fn.pending _ _ _).trans (ite_self _)

/-- FW_RECOVER from virtual function 0 of package 0. -/
def vfRecover : Cmd := ⟨⟨0, some 0⟩, 0, 0, 0⟩

/-- A state in which that function waits for an invalidation to complete. -/
def waitingVf : State :=
  { State.reset with fns := [(vfRecover.fn, { Fn.reset with pending := some ⟨vfRecover, [], [0], false, .inval⟩ })] }

/-- Refutes O56: a FW_RECOVER that completes with DENIED ends the command that its function waits with. -/
theorem not_commandsAreCheckedFirst : ¬ Obligations.CommandsAreCheckedFirst := by
  intro h
  have denied := (h (.fwRecover, true, false, 1, [(0x08, 1)]) (by simp [commandForms]) vfRecover waitingVf).1 rfl
  have runs : exec (.fwRecover vfRecover) waitingVf = .next ((waitingVf.unpend vfRecover.fn).complete vfRecover.fn 0 2 0) := rfl
  have same : (waitingVf.unpend vfRecover.fn).complete vfRecover.fn 0 2 0 = waitingVf.complete vfRecover.fn 0 2 0 :=
    Host.Outcome.next.inj (runs.symm.trans denied)
  have forgotten := congrArg (fun s : State => (s.fn vfRecover.fn).pending) same
  simp only [pending_complete, State.unpend, fn_updFn_self] at forgotten
  exact absurd forgotten (by decide)
end Sys2Proof.Machine

namespace Sys2Proof.Machine

/-! # Every instruction and every step answers a state (R380, R381) -/

theorem Out.goesOn_iff {o : Out} : o.goesOn ↔ ∃ t, o = .next t := by
  cases o with
  | next t => exact ⟨fun _ => ⟨t, rfl⟩, fun _ => trivial⟩
  | fault f => exact ⟨False.elim, nofun⟩
  | refused r => exact ⟨False.elim, nofun⟩

theorem Out.goesOn.ite {c : Prop} {_ : Decidable c} {a b : Out} (ha : a.goesOn) (hb : b.goesOn) : Out.goesOn (if c then a else b) := by
  split <;> assumption

section
variable (s : State)

theorem runLane_goesOn (i : LaneDef) : Out.goesOn (runLane i s) := .ite trivial trivial
theorem runJump_goesOn (i : LaneDef) : Out.goesOn (runJump i s) := .ite trivial trivial
theorem asTeam_goesOn (k : Arrival) (act : State → State) : Out.goesOn (asTeam s k act) := .ite trivial trivial
theorem runMatrix_goesOn (minor : Nat) (f : L2R) : Out.goesOn (runMatrix minor f s) := .ite (asTeam_goesOn s _ _) trivial

/-- A uniform instruction traps, waits or is performed. -/
theorem runUniform_goesOn (u : UniDef) (act : UniGroup → State → UniRes) : Out.goesOn (runUniform u s act) := by
  dsimp only [runUniform]
  repeat' split
  all_goals trivial

theorem runCross_goesOn (i : CrossDef) : Out.goesOn (runCross i s) := by
  dsimp only [runCross]
  repeat' split
  all_goals trivial

theorem runMem_goesOn (m : MemDef) (act : ThreadId → Thread → State → IssueRes) : Out.goesOn (runMem m act s) := .ite trivial trivial

theorem runAtomic_goesOn (op : NetOp) (f : LM) : Out.goesOn (runAtomic op f s) := by
  obtain ⟨t, ht⟩ := Out.goesOn_iff.mp (runMem_goesOn s (atMem op f) (issueAtomic op f))
  dsimp only [runAtomic]
  rw [ht]
  trivial

theorem runCopyWords_goesOn (core : CoreId) (tag : Nat) (ks : State → Copy → List Nat) : Out.goesOn (runCopyWords core tag ks s) := by
  unfold runCopyWords
  split
  · trivial
  · exact .ite trivial trivial

/-- A command completes, or completes later. -/
theorem runCmd_goesOn (c : Cmd) (who : Issuer) (sub : Nat) (used : List (Nat × Nat)) (act : State → CmdRes) :
    Out.goesOn (runCmd c who sub used act s) := by
  refine .ite trivial (.ite trivial ?_)
  split <;> trivial

/-! What the runners of single families come to. -/

theorem gateCmd_goesOn (c : Cmd) (sub : Nat) (image : Bool) (act : Nat → Gate → Nat → State → State) :
    Out.goesOn (gateCmd c sub image act s) := runCmd_goesOn s _ _ _ _ _
theorem uniR_goesOn (op : Nat → Nat → Nat → Nat) (f : L2R) : Out.goesOn (uniR op f s) := by
  dsimp only [uniR]
  exact runUniform_goesOn s _ _
theorem uniShR_goesOn (op : Nat → Nat → Nat → Nat) (f : L2R) : Out.goesOn (uniShR op f s) := by
  dsimp only [uniShR]
  exact runUniform_goesOn s _ _
theorem uniI_goesOn (op : Nat → Nat → Nat → Nat) (f : L2I) : Out.goesOn (uniI op f s) := by
  dsimp only [uniI]
  exact runUniform_goesOn s _ _
theorem uniShI_goesOn (op : Nat → Nat → Nat → Nat) (f : L2I) : Out.goesOn (uniShI op f s) := by
  dsimp only [uniShI]
  exact runUniform_goesOn s _ _
theorem uniCmp_goesOn (k : Nat) (f : L2R) : Out.goesOn (uniCmp k f s) := by
  dsimp only [uniCmp]
  exact runUniform_goesOn s _ _
theorem uniGroup_goesOn (k : Nat) (f : L1) : Out.goesOn (uniGroup k f s) := runUniform_goesOn s _ _
theorem runUload_goesOn (u : UniDef) (f : LM) (idx : Bool) (tag : Nat) : Out.goesOn (runUload u f idx tag s) := by
  dsimp only [runUload]
  exact runUniform_goesOn s _ _
theorem runCopy_goesOn (minor : Nat) (f : L2R) : Out.goesOn (runCopy minor f s) := runUniform_goesOn s _ _
theorem runPush_goesOn (minor : Nat) (f : L2R) : Out.goesOn (runPush minor f s) := runUniform_goesOn s _ _
theorem runQpop_goesOn (steal : Bool) (f : L2R) : Out.goesOn (runQpop steal f s) := runUniform_goesOn s _ _
theorem runGate_goesOn (minor : Nat) (f : L2R) : Out.goesOn (runGate minor f s) := by
  dsimp only [runGate]
  exact runUniform_goesOn s _ _
theorem runOvCount_goesOn (minor : Nat) (f : L2R) : Out.goesOn (runOvCount minor f s) := runUniform_goesOn s _ _
theorem runClock_goesOn (f : L2R) (clock : CtxId → State → Nat) : Out.goesOn (runClock f clock s) := runUniform_goesOn s _ _
theorem execCtxStart_goesOn (c : Cmd) : Out.goesOn (execCtxStart c s) := by
  dsimp only [execCtxStart]
  exact runCmd_goesOn _ _ _ _ _ _
theorem execSelftest_goesOn (c : Cmd) : Out.goesOn (execSelftest c s) := by
  dsimp only [execSelftest]
  exact runCmd_goesOn _ _ _ _ _ _
theorem execUstw_goesOn (f : LM) : Out.goesOn (execUstw f s) := by
  dsimp only [execUstw]
  exact runUniform_goesOn s _ _
theorem execSrd_goesOn (f : L2R) : Out.goesOn (execSrd f s) := by
  dsimp only [execSrd]
  exact runUniform_goesOn s _ _
theorem execSwr_goesOn (f : L2R) : Out.goesOn (execSwr f s) := by
  dsimp only [execSwr]
  exact runUniform_goesOn s _ _

end

/-- What goes wrong in a thread is a trap, what a command may not do is a status, and an event that is not due changes nothing. -/
theorem exec_goesOn (i : Instr) (s : State) : Out.goesOn (exec i s) := by
  unfold exec
  cases i with
  | rendezvousComplete | yieldReady | bucketRefill | bar0RegisterWrite | powerLimit | thermalShutdown | linkFlitReplay
    | ethernetFrameReceived | windowEnd => trivial
  | threadRetire | heldAccessRelease | barrierRelease =>
    dsimp only [execThreadRetire, execHeldAccessRelease, execBarrierRelease]
    repeat' split
    all_goals trivial
  | loadDataReturn | storePerformed | putsigSignal | atomicValueReturn =>
    dsimp only [execLoadDataReturn, execStorePerformed, execPutsigSignal, execAtomicValueReturn]
    repeat' split
    all_goals trivial
  | requestLeaveCore | stageArrival | stageDepart | homePerform | replySplit =>
    dsimp only [execRequestLeaveCore, execStageArrival, execStageDepart, execHomePerform, execReplySplit]
    repeat' split
    all_goals trivial
  | pageFault | faultFrameSave | deferredTrap | freshStart | rollback | watchdogFire =>
    dsimp only [execPageFault, execFaultFrameSave, execDeferredTrap, execFreshStart, execRollback, execWatchdogFire]
    repeat' split
    all_goals trivial
  | copyLineFull => exact runCopyWords_goesOn _ _ _ _
  | copyComplete =>
    dsimp only [execCopyComplete]
    split
    · trivial
    · exact .ite trivial (runCopyWords_goesOn _ _ _ _)
  | copyAccept | copyPageFault | matrixStepRetire =>
    dsimp only [execCopyAccept, execCopyPageFault, execMatrixStepRetire]
    repeat' split
    all_goals trivial
  | pendingLaunchTake | stealMessage | joinDecrement | fenceComplete =>
    dsimp only [execPendingLaunchTake, execStealMessage, execJoinDecrement, execFenceComplete]
    repeat' split
    all_goals trivial
  | gateHomeRequest | gateReply | overlayHeaderRead | overlayFillComplete =>
    dsimp only [execGateHomeRequest, execGateReply, execOverlayHeaderRead, execOverlayFillComplete]
    repeat' split
    all_goals trivial
  | sliceBoundary | preemptForcedStop | contextSave =>
    dsimp only [execSliceBoundary, execPreemptForcedStop, execContextSave]
    repeat' split
    all_goals trivial
  | eventCoalesceTimeout | crdoor | crsize | ersize | erhead | prhead | firmwareBoot =>
    dsimp only [execEventCoalesceTimeout, execCrdoor, execCrsize, execErsize, execErhead, execPrhead, execFirmwareBoot]
    repeat' split
    all_goals trivial
  | partSet | partPause | partResume | partReset | rehome | vfBind | vfUnbind | grant | revoke | s2Root | s2Inval | gateCreate
    | migrateQuiesce | migrateStart | errread | ctxCreate | ctxEnd | s1Inval
    | qsetCreate | qsetDelete | qsubmit | pageReply | ringSet | fwUpdate | fwRecover | attest => exact runCmd_goesOn _ _ _ _ _ _
  | gateConfigure | gateRecycle | gateDelete => exact gateCmd_goesOn _ _ _ _ _
  | ctxStart => exact execCtxStart_goesOn s _
  | selftest => exact execSelftest_goesOn s _
  | add | sub | and | or | xor | shl | shr | sar | addReg | subReg | andReg | orReg | xorReg | shlReg | shrReg
    | sarReg | addLit | subLit | andLit | orLit | xorLit | shlLit | shrLit | sarLit | mul | mulhs | mulhu
    | mad | madw | min | max | minu | maxu | sel | leax | div | divu | rem | remu | bfx | bfxu | bfi | bsel
    | rotl | andn | not | neg | abs | popc | clz | ctz | brev | movl | lea | sext | zext | cmpEq | cmpNe
    | cmpLt | cmpGe | cmpLtu | cmpGeu | cmpTst | cmpTstz | cmpiEq | cmpiNe | cmpiLt | cmpiGe | cmpiLtu
    | cmpiGeu | cmpiTst | cmpiTstz | pand | por | pxor | pandn | pmov | prd | pwr | pset | yield | nop | bkpt
    | fadd | fsub | fmul | fmin | fmax | ffma | fcmpEq | fcmpNe | fcmpLt | fcmpLe | fcmpUno | fcmpOrd | fclass
    | frint | fsat | rcp | rsq | sqrt | ex2 | lg2 | sin | cos | tanh | tagget | cvt | cvti | cvtf | pack
    | unpk | dot2 | dot4 | dot8 | dot4f | dot8f | scl | tagset | tagchk => exact runLane_goesOn _ _
  | bra | call | brx | callx => exact runJump_goesOn _ _
  | mov => exact .ite (.ite trivial trivial) (runLane_goesOn _ _)
  | rep | ret | exit | conv =>
    dsimp only [execRep, execRet, execExit, execConv]
    repeat' split
    all_goals trivial
  | peek | flip | allof | anyof | pmask | peers | leadp | tsum | tmax | tmin | tscan => exact runCross_goesOn _ _
  | ldb | ldbu | ldh | ldhu | ldw | ldt | ldfe | stb | sth | stw | stfe | ste | putsig | pref | cflush | fence | xfence | waitc =>
    exact runMem_goesOn _ _ _
  | atadd | atand | ator | atxor | atmax | atmin | atmaxu | atminu | atswp | atld | atfadd | atcas => exact runAtomic_goesOn _ _ _
  | uadd | usub | uand | uor | uxor | umul => exact uniR_goesOn s _ _
  | ushl | ushr => exact uniShR_goesOn s _ _
  | uaddLit | usubLit | uandLit | uorLit | uxorLit | umulLit => exact uniI_goesOn s _ _
  | ushlLit | ushrLit => exact uniShI_goesOn s _ _
  | ulane | ucnt | ulead => exact uniGroup_goesOn s _ _
  | ucmpEq | ucmpNe | ucmpLt | ucmpGe | ucmpLtu | ucmpGeu => exact uniCmp_goesOn s _ _
  | uldw | uldt => exact runUload_goesOn s _ _ _ _
  | cpy | cpy2 | cpyg | cpys | cpyx | cpyf => exact runCopy_goesOn s _ _
  | tspawn | grid | qpush => exact runPush_goesOn s _ _
  | qpop | qsteal => exact runQpop_goesOn s _ _
  | gopen | gclose | gsig | gwait | gadd | gpoll => exact runGate_goesOn s _ _
  | ovpin | ovunpin | ovrel => exact runOvCount_goesOn s _ _
  | clkw | clkr => exact runClock_goesOn s _ _
  | ustw => exact execUstw_goesOn s _
  | srd => exact execSrd_goesOn s _
  | swr => exact execSwr_goesOn s _
  | twait | twany | tfirst | tclr | qcap | qbind | jadd | jrd | qfence | ovld | ovwait | callo | errd => exact runUniform_goesOn s _ _
  | umov =>
    dsimp only [execUmov]
    split
    · exact runUniform_goesOn s _ _
    · exact runUniform_goesOn s _ _
  | mma | mmam | mmas | accz | accld | accst | mwalk => exact runMatrix_goesOn _ _ _
  | mstat | jwait | rgive | rclaim | snap | bar | bara | barw => exact .ite (asTeam_goesOn _ _ _) trivial
  | trap => exact runUniform_goesOn s _ _

theorem execParts_goesOn (p : Parts) (s : State) : Out.goesOn (execParts p s) := by
  unfold execParts
  split
  · exact exec_goesOn _ _
  · trivial

theorem issue_goesOn (s : State) (g : Group) : Out.goesOn (s.issue g) := by
  dsimp only [State.issue]
  split
  · trivial
  split
  · trivial
  refine .ite trivial ?_
  split
  · trivial
  · trivial
  · exact execParts_goesOn _ _

theorem takeInput_goesOn (s : State) : Out.goesOn s.takeInput := by
  dsimp only [State.takeInput]
  split
  · trivial
  split
  · trivial
  · trivial
  · trivial
  · exact .ite (exec_goesOn _ _) trivial

theorem takeCommand_goesOn (s : State) (f : FnId) : Out.goesOn (s.takeCommand f) := by
  dsimp only [State.takeCommand]
  split
  · exact exec_goesOn _ _
  · trivial

theorem takeUp_goesOn (s : State) (c : Cmd) : Out.goesOn (s.takeUp c) := by
  unfold State.takeUp
  split
  · trivial
  all_goals exact exec_goesOn _ _

theorem act_goesOn (s : State) (a : Action) : Out.goesOn (s.act a) := by
  cases a with
  | issue g => exact issue_goesOn s g
  | event i => exact exec_goesOn i s
  | input => exact takeInput_goesOn s
  | command f => exact takeCommand_goesOn s f
  | retry c => exact takeUp_goesOn s c

theorem step_goesOn (s : State) : Out.goesOn (step s) := by
  unfold step
  split
  · trivial
  next a _ =>
    obtain ⟨t, ht⟩ := Out.goesOn_iff.mp (act_goesOn s a)
    rw [ht]
    trivial

/-- Settles O5: no meaning has a fault or a refusal on any path, so every instruction and every step answers a state. -/
theorem theMachineGoesOn : Obligations.TheMachineGoesOn := ⟨fun i s => Out.goesOn_iff.mp (exec_goesOn i s), step_goesOn⟩

end Sys2Proof.Machine

namespace Sys2Proof.Machine

/-! # Barriers (R340 to R343) -/

/-! ## One arrival (R341) -/

theorem liveIds_isEmpty (s : State) (t : TeamId) : (!(s.liveIds t).isEmpty) = (s.members t).any fun y => y.2.live := by
  rw [State.liveIds, List.isEmpty_map, Bool.eq_iff_iff]
  simp

theorem liveTeams_eq (s : State) (k : BlockId) :
    s.liveTeams k = (s.teams.filter fun x => x.2.block = k && (s.members x.1).any fun y => y.2.live).length := by
  simp only [State.liveTeams, liveIds_isEmpty]

/-- A barrier that an arrival has just reached ends its phase when the expected number is there. -/
theorem Bar.complete_succ (n need expect : Nat) (p : W32) :
    Bar.complete ⟨n + 1, p, expect⟩ need = if need ≤ n + 1 then ⟨n + 1 - need, p + 1, expect⟩ else ⟨n + 1, p, expect⟩ := by
  simp [Bar.complete]

theorem bar_barArrive (s : State) (i j : BarId) (n : Nat) :
    (s.barArrive i n).bar j =
      if j = i then
        Bar.complete ⟨(s.bar i).count + 1, (s.bar i).phase, if (s.bar i).count = 0 then n else (s.bar i).expect⟩
          (s.barExpect i ⟨(s.bar i).count + 1, (s.bar i).phase, if (s.bar i).count = 0 then n else (s.bar i).expect⟩)
      else s.bar j := by
  simp only [State.bar, State.barArrive, tget_tset]
  split <;> rfl

/-- Settles O36: the barrier named is the one set, and it is completed with the number of R341. -/
theorem barrierCountsArrivals : Obligations.BarrierCountsArrivals := by
  intro s i n
  refine ⟨?_, fun j hj => by rw [bar_barArrive, if_neg hj]⟩
  rw [bar_barArrive, if_pos rfl, Bar.complete_succ]
  simp only [State.barExpect, liveTeams_eq]

end Sys2Proof.Machine

namespace Sys2Proof.Machine

open Claims

/-! ## What exposing a team's stores leaves alone (R217) -/

@[simp] theorem uncached_expose (s : State) (c : CoreId) (p : Writer → Bool) : (s.expose c p).uncached = s.uncached :=
  uncached_foldl (fun _ _ => uncached_cleanLine _ _ _) _ _

theorem uncached_barExpose (s : State) (m : Nat) (t : TeamId) (n : Nat) : (s.barExpose m t n).uncached = s.uncached := by
  unfold State.barExpose
  split
  · rfl
  · exact uncached_expose s _ _

section
variable {u s : State} (h : u.uncached = s.uncached)
include h

theorem barId_of_uncached (l : ThreadId) (n k : Nat) : u.barId l n k = s.barId l n k :=
  congrArg (·.barId l n k) h

theorem bar_of_uncached (i : BarId) : u.bar i = s.bar i := congrArg (·.bar i) h

theorem seq_of_uncached : u.seq = s.seq := congrArg (·.seq) h

theorem accs_of_uncached : u.accs = s.accs := congrArg (·.accs) h

theorem barAddr_of_uncached (f : L2I) (l : ThreadId) (t : Thread) : u.barAddr f l t = s.barAddr f l t :=
  congrArg (·.barAddr f l t) h

theorem newAccess_of_uncached (l : ThreadId) (k : AccKind) (sp : Nat) (a : Int) (n : Nat) (loc : Option Loc) :
    newAccess u l k sp a n loc = newAccess s l k sp a n loc :=
  congrArg (a₁ := u.uncached) (a₂ := s.uncached) (newAccess · l k sp a n loc) h

end

/-! ## The action of a released set -/

/-- The newest access is the one found under its number, when no other has it. -/
theorem access_addAccess {s : State} (a : Access) (fresh : ∀ x ∈ s.accs, x.seq ≠ s.seq) :
    (s.addAccess a).access s.seq = some { a with seq := s.seq } := by
  have older : s.accs.find? (fun x => x.seq = s.seq) = none := List.find?_eq_none.mpr fun x hx => by simpa using fresh x hx
  simp [State.access, State.addAccess, List.find?_append, older]

section
variable {s : State}

theorem bar_arrives {m : Nat} {f : L2I} (hl : barOk m f = true) (hr : s.gathered.rdv = false) :
    (if barOk m f then asTeam s .barrier (barAct m f) else .next s.illegal) =
      .next (s.arrive (s.gathered.ids.map fun i => (i, .barrier))) := by
  simp [asTeam, hl, hr]

theorem bar_released {m : Nat} {f : L2I} (hl : barOk m f = true) (hr : s.gathered.rdv = true) :
    (if barOk m f then asTeam s .barrier (barAct m f) else .next s.illegal) = .next (barAct m f s.readied) := by
  simp [asTeam, hl, hr, State.readied]

theorem onIds_mem_gathered {f : L1} {i : ThreadId} (h : i ∈ s.onIds f) : i ∈ s.gathered.ids := by
  obtain ⟨x, hx, rfl⟩ := List.mem_map.mp h
  exact (group_mem (List.mem_filter.mp hx).1).2.1

/-- The group that a barrier acts for when no destination fails. -/
def State.barGroup (s : State) (f : L2I) : BarGroup := ⟨s.gathered.ids, s.onIds f.toL1⟩

/-- What the checks of a barrier leave to do: the release waits for the accesses it covers, or the barrier is reached. -/
theorem barAct_checked {m : Nat} {f : L2I} {l : ThreadId} {lt : Thread} (hl : barLeader f s.group = some (l, lt))
    (hd : ∀ x ∈ s.onGroup f.toL1, regCheck x.2 (barDsts m f) = none) (hs : regCheck lt (barSrcs m f) = none)
    (hc : s.clamp (s.ctxId l) l.team.core (barScope f) = (s, barScope f)) (hb : s.barBad f l lt (barScope f) = none)
    (hm : m = 2 ∨ s.mustCommit l.team = false) :
    barAct m f s =
      if m ≠ 2 ∧ s.barWaits l.team (barScope f) = true then s.waitTeam s.gathered.ids (.release (barScope f))
      else if barScope f < 6 then (s.barExpose m l.team (barScope f)).barHard m f l lt (s.barGroup f) (barScope f)
      else (s.barExpose m l.team (barScope f)).barSoft m f l lt (s.barGroup f) := by
  have sound : (s.group.filter fun (_, t) => t.guard f.g f.gn).filterMap
      (fun (i, t) => (regCheck t (barDsts m f)).map fun r => (i, r)) = [] := by
    rw [List.filterMap_eq_nil_iff]
    intro x hx
    simp only [hd x hx, Option.map_none]
  have every : s.gathered.ids.filter (fun i => !(([] : List (ThreadId × Raise)).any (·.1 = i))) = s.gathered.ids := by simp
  have all_on : ((s.group.filter fun (_, t) => t.guard f.g f.gn).map (·.1)).filter s.gathered.ids.contains = s.onIds f.toL1 := by
    rw [List.filter_eq_self.mpr]
    · rfl
    · exact fun i hi => List.contains_iff_mem.mpr (onIds_mem_gathered (f := f.toL1) hi)
  have some_on : (!(s.group.filter fun (_, t) => t.guard f.g f.gn).isEmpty && (s.onIds f.toL1).isEmpty) = false := by
    simp only [State.onIds, State.onGroup, List.isEmpty_map, Bool.not_and_self]
  have commits : (m ≠ 2 && s.mustCommit l.team) = false := by
    rcases hm with rfl | hm <;> simp [*]
  unfold barAct
  rw [hl]
  dsimp only
  simp only [sound, every, all_on, some_on, hs, hc, hb, commits, State.raises, State.barGroup]
  simp

theorem barLeader_of_lead {f : L2I} {l : ThreadId} {lt : Thread} {rest : List (ThreadId × Thread)}
    (h : s.onGroup f.toL1 = (l, lt) :: rest ∨ (s.onGroup f.toL1 = [] ∧ s.group = (l, lt) :: rest)) :
    barLeader f s.group = some (l, lt) := by
  have same : (s.group.filter fun (_, t) => t.guard f.g f.gn) = s.onGroup f.toL1 := rfl
  unfold barLeader
  rw [same]
  rcases h with h | ⟨none_on, all⟩
  · rw [h]
  · rw [none_on, all]
    rfl

end

/-! ## The three instructions -/

section
variable {m : Nat} {f : L2I} {s : State} {l : ThreadId} {lt : Thread} {rest : List (ThreadId × Thread)}

theorem readied_like (s : State) : s.readied.like s := rfl

theorem barScope_eq (f : L2I) : (f.lit.extractLsb' 0 3).toNat = barScope f := toNat_extractLsb'_eq_fld f.lit 0 3

theorem barNo_eq (f : L2I) : (f.lit.extractLsb' 3 5).toNat = barNo f := toNat_extractLsb'_eq_fld f.lit 3 5

theorem barCount_eq (f : L2I) : (f.lit.extractLsb' 8 24).toNat = barCount f := toNat_extractLsb'_eq_fld f.lit 8 24

theorem clamp_readied (h : s.clamp (s.ctxId l) l.team.core (barScope f) = (s, barScope f)) :
    s.readied.clamp (s.readied.ctxId l) l.team.core (barScope f) = (s.readied, barScope f) := by
  rw [show s.readied.ctxId l = s.ctxId l from rfl, clamp_of_like (readied_like s), h]
  rfl

theorem barSrcs_hard {m : Nat} (h : barScope f < 6) (hm : m ≠ 2) (t : Thread) : regCheck t (barSrcs m f) = none := by
  rw [barSrcs, if_neg (by omega), if_neg hm]
  rfl

theorem barSrcs_word {m : Nat} (h : 6 ≤ barScope f) (hm : m ≠ 2) : barSrcs m f = [⟨.src 2, f.a.toNat⟩] := by
  rw [barSrcs, if_pos h, if_neg hm, List.append_nil]

theorem barSrcs_wordWait (h : 6 ≤ barScope f) : barSrcs 2 f = [⟨.src 2, f.a.toNat⟩, ⟨.src 1, f.d.toNat⟩] := by
  rw [barSrcs, if_pos h, if_pos rfl]
  rfl

theorem barExpose_of_ne {m : Nat} (h : m ≠ 2) (s : State) (t : TeamId) (n : Nat) :
    s.barExpose m t n = if n < 3 then s else s.expose t.core fun d => d.owners.any (·.team = t) := by
  simp [State.barExpose, h]

theorem uncached_expose_from (s : State) (n : Nat) (t : TeamId) (p : Writer → Bool) :
    (if n < 3 then s else s.expose t.core p).uncached = s.uncached := by
  split
  · rfl
  · exact uncached_expose s _ _

/-- The arrival sent from any state whose numbers are fresh. -/
theorem barSend_eq {v : State} (m : Nat) (f : L2I) (l : ThreadId) (g : BarGroup) (addr : Nat) (fresh : ∀ a ∈ v.accs, a.seq ≠ v.seq) :
    let acc := { newAccess v l (.atomic .arrive) 0 addr 16 none with
      seq := v.seq, owners := g.ids, rcv := g.rcv, data := 1, dst := f.d.toNat, g := m, scope := 6 }
    v.barSend m f l g addr =
      (({ v with seq := v.seq + max 1 (g.ids.map fun i : ThreadId => i.team).eraseDups.length, accs := v.accs ++ [acc] }.addFlight v.seq
        [acc]).barWait g (.reply v.seq)).commitAfter l.team := by
  simp only [State.barSend, access_addAccess _ fresh]
  rfl

/-- The request of an arrival at a barrier word, and its team waiting for the reply (R342). -/
theorem barSend_word {m : Nat} (hm : m ≠ 2) (fresh : ∀ a ∈ s.accs, a.seq ≠ s.seq) :
    let shown := if barScope f < 3 then s.readied else s.readied.expose l.team.core fun d => d.owners.any (·.team = l.team)
    let addr := lt.readReg (s.readied.env l) f.a.toNat 2
    let acc := { newAccess s l (.atomic .arrive) 0 addr 16 none with
      seq := s.seq, owners := s.gathered.ids, rcv := s.readied.onIds f.toL1, data := 1, dst := f.d.toNat, g := m, scope := 6 }
    (s.readied.barExpose m l.team (barScope f)).barSoft m f l lt (s.readied.barGroup f) =
      (({ shown with
        seq := s.seq + max 1 (s.gathered.ids.map fun i : ThreadId => i.team).eraseDups.length, accs := s.accs ++ [acc] }.addFlight s.seq
          [acc]).updThreads s.gathered.ids fun t => { t with park := .reply s.seq }).commitAfter l.team := by
  intro shown addr acc
  have same : shown.uncached = s.readied.uncached := uncached_expose_from _ _ _ _
  have same_seq : shown.seq = s.seq := seq_of_uncached (s := s.readied) same
  have same_accs : shown.accs = s.accs := accs_of_uncached (s := s.readied) same
  have same_new : newAccess shown l (.atomic .arrive) 0 addr 16 none = newAccess s l (.atomic .arrive) 0 addr 16 none :=
    newAccess_of_uncached (s := s.readied) same ..
  have same_addr : shown.barAddr f l lt = addr := barAddr_of_uncached (s := s.readied) same f l lt
  calc (s.readied.barExpose m l.team (barScope f)).barSoft m f l lt (s.readied.barGroup f)
      = shown.barSend m f l (s.readied.barGroup f) addr := by
        rw [barExpose_of_ne hm, State.barSoft, if_neg hm, same_addr]
    _ = _ := by
        rw [barSend_eq m f l _ addr (same_seq ▸ same_accs ▸ fresh), same_seq, same_accs, same_new]
        rfl

/-- BARA alone checks a destination. -/
theorem barDsts_of_ne {m : Nat} (h : m ≠ 1) (f : L2I) (t : Thread) : regCheck t (barDsts m f) = none := by
  rw [barDsts, if_neg h]
  rfl

variable (hl : barOk m f = true) (hr : s.gathered.rdv = true)
  (hg : s.readied.onGroup f.toL1 = (l, lt) :: rest ∨ (s.readied.onGroup f.toL1 = [] ∧ s.readied.group = (l, lt) :: rest))
  (hc : s.clamp (s.ctxId l) l.team.core (barScope f) = (s, barScope f))
  (hd : ∀ x ∈ s.readied.onGroup f.toL1, regCheck x.2 (barDsts m f) = none) (hs : regCheck lt (barSrcs m f) = none)
include hl hr hg hc hd hs

/-- A released set at a hardware barrier. -/
theorem bar_hard (hw : barScope f < 6) (hm : m = 2 ∨ s.mustCommit l.team = false) :
    (if barOk m f then asTeam s .barrier (barAct m f) else .next s.illegal) = .next
      (if m ≠ 2 ∧ s.barWaits l.team (barScope f) = true then s.readied.waitTeam s.gathered.ids (.release (barScope f))
       else (s.readied.barExpose m l.team (barScope f)).barHard m f l lt (s.readied.barGroup f) (barScope f)) := by
  have no_word : s.readied.barBad f l lt (barScope f) = none := by rw [State.barBad, if_pos hw]
  rw [bar_released hl hr, barAct_checked (barLeader_of_lead hg) hd hs (clamp_readied hc) no_word hm, if_pos hw]
  rfl

/-- A released set at a barrier word. -/
theorem bar_word (hw : 6 ≤ barScope f) (hm : m = 2 ∨ s.mustCommit l.team = false) (hn : m = 2 ∨ s.barWaits l.team (barScope f) = false)
    (hp : s.place l 0 (lt.readReg (s.readied.env l) f.a.toNat 2) 16 true = .ok none) :
    (if barOk m f then asTeam s .barrier (barAct m f) else .next s.illegal) = .next
      ((s.readied.barExpose m l.team (barScope f)).barSoft m f l lt (s.readied.barGroup f)) := by
  have sound : s.readied.barBad f l lt (barScope f) = none := by
    rw [State.barBad, if_neg (by omega), place_of_like (readied_like s), State.barAddr, hp]
  have done : ¬(m ≠ 2 ∧ s.readied.barWaits l.team (barScope f) = true) := by
    rintro ⟨arrives, waits⟩
    rw [show s.readied.barWaits l.team (barScope f) = s.barWaits l.team (barScope f) from rfl] at waits
    simp_all
  rw [bar_released hl hr, barAct_checked (barLeader_of_lead hg) hd hs (clamp_readied hc) sound hm, if_neg done,
    if_neg (by omega)]

end

/-- Settles O35. -/
theorem barriersArriveAndWait : Obligations.BarriersArriveAndWait := by
  unfold Obligations.BarriersArriveAndWait
  simp only [barScope_eq, barNo_eq, barCount_eq]
  refine ⟨?arrive, ?bar, ?bara, ?waits, ?barw, ?word, ?wordWait⟩
  case arrive =>
    intro c hc f s hl hr
    simp only [List.mem_cons, List.not_mem_nil, or_false] at hc
    obtain rfl | rfl | rfl := hc
    · exact bar_arrives (m := 0) hl hr
    · exact bar_arrives (m := 1) hl hr
    · exact bar_arrives (m := 2) hl hr
  case bar =>
    rintro f s l lt rest hl ⟨hr, hg, hc⟩ hw ⟨quiet, clean⟩
    refine (bar_hard (m := 0) hl hr hg hc (fun x _ => barDsts_of_ne (by decide) f x.2) (barSrcs_hard hw (by decide) lt) hw
      (.inr clean)).trans ?_
    rw [if_neg (by simp [quiet]), barExpose_of_ne (by decide)]
    simp only [State.barHard, barId_of_uncached (uncached_expose_from s.readied _ _ _), bar_of_uncached (uncached_expose_from s.readied _ _ _)]
    rfl
  case bara =>
    rintro f s l lt rest hl ⟨hr, hg, hc⟩ hw ⟨quiet, clean⟩ hd
    refine (bar_hard (m := 1) hl hr hg hc hd (barSrcs_hard hw (by decide) lt) hw (.inr clean)).trans ?_
    rw [if_neg (by simp [quiet]), barExpose_of_ne (by decide)]
    simp only [State.barHard, barId_of_uncached (uncached_expose_from s.readied _ _ _), bar_of_uncached (uncached_expose_from s.readied _ _ _)]
    rfl
  case waits =>
    rintro c hc f s l lt rest hl ⟨hr, hg, hcl⟩ hw clean waits hd
    simp only [List.mem_cons, List.not_mem_nil, or_false] at hc
    obtain rfl | rfl := hc
    · refine (bar_hard (m := 0) hl hr hg hcl (fun x _ => barDsts_of_ne (by decide) f x.2) (barSrcs_hard hw (by decide) lt) hw
        (.inr clean)).trans ?_
      rw [if_pos ⟨by decide, waits⟩]
      rfl
    · refine (bar_hard (m := 1) hl hr hg hcl (hd rfl) (barSrcs_hard hw (by decide) lt) hw (.inr clean)).trans ?_
      rw [if_pos ⟨by decide, waits⟩]
      rfl
  case barw =>
    rintro f s l lt rest hl ⟨hr, hg, hc⟩ hw hs
    refine (bar_hard (m := 2) hl hr hg hc (fun x _ => barDsts_of_ne (by decide) f x.2) ?_ hw (.inl rfl)).trans ?_
    · rwa [barSrcs, if_neg (by omega), if_pos rfl, List.nil_append]
    · rfl
  case word =>
    rintro c hc f s l lt rest hl ⟨hr, hg, hcl⟩ hw ⟨quiet, clean⟩ hs fresh hd hp
    simp only [List.mem_cons, List.not_mem_nil, or_false] at hc
    obtain rfl | rfl := hc
    · refine (bar_word (m := 0) hl hr hg hcl (fun x _ => barDsts_of_ne (by decide) f x.2) ((barSrcs_word (m := 0) hw (by decide)).symm ▸ hs)
        hw (.inr clean) (.inr quiet) hp).trans ?_
      exact congrArg Host.Outcome.next (barSend_word (m := 0) (by decide) fresh)
    · refine (bar_word (m := 1) hl hr hg hcl (hd rfl) ((barSrcs_word (m := 1) hw (by decide)).symm ▸ hs) hw (.inr clean) (.inr quiet) hp).trans ?_
      exact congrArg Host.Outcome.next (barSend_word (m := 1) (by decide) fresh)
  case wordWait =>
    rintro f s l lt rest hl ⟨hr, hg, hc⟩ hw hs hp hit
    refine (bar_word (m := 2) hl hr hg hc (fun x _ => barDsts_of_ne (by decide) f x.2) ((barSrcs_wordWait hw).symm ▸ hs) hw
      (.inl rfl) (.inl rfl) hp).trans ?_
    have hit' : s.readied.missVa (viewAt (s.readied.ctxId l) l.team.core) (s.readied.barAddr f l lt) 16 false = none := hit
    rw [show s.readied.barExpose 2 l.team (barScope f) = s.readied from rfl, State.barSoft, if_pos rfl, hit']
    rfl

end Sys2Proof.Machine

namespace Sys2Proof.Machine

open Claims

/-! # Commands in the form that R430 gives them -/

/-- What the step of a command answers when its checks have passed. -/
def CmdRes.out (c : Cmd) : CmdRes → State → Out
  | .ok s r, _ => .next (s.complete c.fn c.tag stOk r)
  | .refuse st, s => .next (s.complete c.fn c.tag st 0)
  | .later s, _ => .next s
  | .status s st r, _ => .next (s.complete c.fn c.tag st r)

theorem allows_pf (f : FnId) : Issuer.pf.allows f = if f.vf.isNone then true else false := by
  cases h : f.vf <;> simp [Issuer.allows, h]

theorem allows_vf (f : FnId) : Issuer.vf.allows f = if f.vf.isNone then false else true := by
  cases h : f.vf <;> simp [Issuer.allows, h]

theorem allows_both (f : FnId) : Issuer.both.allows f = if f.vf.isNone then true else true := by
  simp [Issuer.allows]

section
variable {c : Cmd} {pf vf : Bool} {who : Issuer} {sub : Nat} {used : List (Nat × Nat)} {act : State → CmdRes} {s : State}

theorem runCmd_formed (h : formed c pf vf sub used) (hw : who.allows c.fn = if c.fn.vf.isNone then pf else vf) :
    runCmd c who sub used act s = (act s).out c s := by
  obtain ⟨right, same_sub, clean⟩ := h
  unfold runCmd
  rw [if_neg (by rw [hw, right]; decide), if_neg (by simp [same_sub, clean])]
  cases act s <;> rfl

end

/-! # Firmware, self-test and the events of a package (R422 to R431) -/

section
variable {c : Cmd} {s : State}

theorem execFwUpdate_formed (h : formed c true false 0 [(0x08, 1), (0x10, 64), (0x18, 64)]) :
    let bs := s.hostBytes c.fn.pkg (cmdArg c 0x10 8) (cmdArg c 0x18 8)
    execFwUpdate c s = .next (if Config.lmsVerifies bs then (s.updPkg c.fn.pkg fun p =>
      { p with flash := some bs, raise := cmdArg c 0x08 1 = 1 }).complete c.fn c.tag 0 0
      else s.complete c.fn c.tag 8 0) := by
  intro bs
  rw [execFwUpdate, runCmd_formed h (allows_pf _)]
  by_cases ok : Config.lmsVerifies bs = true
  · simp only [bs] at ok
    simp only [ok, bs]
    rfl
  · simp only [bs] at ok
    simp only [ok, bs]
    rfl

theorem execFwRecover_formed (h : formed c true false 1 [(0x08, 1)]) :
    execFwRecover c s = if (s.unpend c.fn).othersOpen c.fn
      then .next ((s.unpend c.fn).updFn c.fn fun f => { f with pending := some ⟨c, [], [], false, .restart⟩ })
      else .next (((s.unpend c.fn).updPkg c.fn.pkg fun p => p.restart (cmdArg c 0x08 1 = 1)).complete c.fn c.tag 0 0) := by
  rw [execFwRecover, runCmd_formed h (allows_pf _)]
  split <;> rfl

theorem execAttest_formed (h : formed c true true 0 [(0x08, 256), (0x28, 64), (0x30, 64)]) :
    let k := (s.pkg c.fn.pkg).keysUsed
    let v := s.attestValues c
    let n := Config.attestLength k v
    execAttest c s = .next (if Config.attestKeys ≤ k then s.complete c.fn c.tag 7 0
      else if cmdArg c 0x30 8 < n then s.complete c.fn c.tag 1 0
      else ((s.hostPut c.fn.pkg (cmdArg c 0x28 8) ((List.range n).map (Config.attestByte k v))).updPkg
        c.fn.pkg fun p => { p with keysUsed := p.keysUsed + 1 }).complete c.fn c.tag 0 n) := by
  intro k v n
  rw [execAttest, runCmd_formed h (allows_both _)]
  dsimp only
  split
  · rfl
  · split <;> rfl

/-- A self-test of this function begins when no unit named is a partition's. -/
theorem execSelftest_begins (h : formed c true false 0 [(0x08, 8), (0x0A, 16), (0x10, 64)]) (idle : s.testing c = none)
    (depth : cmdArg c 0x08 1 ≤ 1) (some_unit : 1 ≤ cmdArg c 0x0A 2) (few : cmdArg c 0x0A 2 ≤ 4096)
    (named : ∀ p ∈ (s.unpend c.fn).testPaths c, (unitOf p).isSome = true) :
    execSelftest c s =
      if ((s.unpend c.fn).testPaths c).any fun p => (unitOf p).any ((s.unpend c.fn).unitOwned c.fn.pkg)
      then .next ((s.unpend c.fn).complete c.fn c.tag 3 0)
      else .next ((s.unpend c.fn).updFn c.fn fun f => { f with pending := some ⟨c, [], [], false, .test ((s.unpend c.fn).testPaths c)⟩ }) := by
  have all_units : (((s.unpend c.fn).testPaths c).any fun u => (unitOf u).isNone) = false := by
    simpa [Option.isSome_iff_ne_none] using named
  rw [execSelftest, idle, runCmd_formed h (allows_pf _)]
  dsimp only
  have sound : ¬((decide (1 < cmdArg c 0x08 1) || decide (cmdArg c 0x0A 2 = 0) || decide (4096 < cmdArg c 0x0A 2) ||
      ((s.unpend c.fn).testPaths c).any fun u => (unitOf u).isNone) = true) := by
    rw [all_units]
    simp only [Bool.or_eq_true, decide_eq_true_eq, Bool.false_eq_true, or_false]
    omega
  rw [if_neg sound]
  split <;> rfl

/-- A self-test that has begun ends with a finding for each failing unit. -/
theorem execSelftest_ends (h : formed c true false 0 [(0x08, 8), (0x0A, 16), (0x10, 64)]) {paths : List Nat}
    (begun : s.testing c = some paths) :
    let bad := (paths.filter fun p => s.defects.contains (c.fn.pkg, p)).length
    execSelftest c s = .next ((paths.foldl (fun v p => v.testUnit c (cmdArg c 0x08 1) p) (s.unpend c.fn)).complete c.fn c.tag
      (if bad = 0 then 0 else 9) bad) := by
  intro bad
  rw [execSelftest, begun, runCmd_formed h (allows_pf _)]
  rfl

end

theorem testUnit_eq (v : State) (c : Cmd) (depth p : Nat) :
    v.testUnit c depth p =
      (let w := if depth = 1 then v.destroyUnit c.fn.pkg p else v
       let fails := w.defects.contains (c.fn.pkg, p)
       let z := w.updPkg c.fn.pkg fun q => { q with failed := q.failed.filter (· ≠ p) ++ if fails then [p] else [] }
       if fails then z.postEvent ⟨c.fn.pkg, none⟩ ⟨c.tag, 9, 3, z.clkw, 0, 0, BitVec.ofNat 64 p⟩ else z) := by
  have appended : ∀ (l : List Nat) (b : Bool), (if b then l ++ [p] else l) = l ++ if b then [p] else [] := by
    intro l b
    cases b <;> simp
  simp only [State.testUnit, appended]
  rfl

theorem execFirmwareBoot_eq (s : State) (pkg : Nat) :
    let t := s.updPkg pkg fun p =>
      { p.raiseFloor with ready := true, rom := !p.flashStarts, image := if p.flashStarts then p.flash.getD [] else Config.romImage
                          booted := true, down := false, downNoted := p.downNoted || p.down }
    execFirmwareBoot pkg s = .next (if (s.pkg pkg).booted = true ∨ s.hasPkg pkg = false then s
      else if (s.pkg pkg).down then t.postEvent ⟨pkg, none⟩ ⟨0, 9, 3, s.clkw, 0, 0, 0⟩ else t) := by
  intro t
  by_cases idle : (s.pkg pkg).booted = true ∨ s.hasPkg pkg = false
  · rw [if_pos idle, execFirmwareBoot, if_pos (by simpa using idle)]
  · rw [if_neg idle, execFirmwareBoot, if_neg (by simpa using idle)]
    rfl

/-- Settles O60. -/
theorem firmwareAndPackageEvents : Obligations.FirmwareAndPackageEvents := by
  refine ⟨fun c s h => execFwUpdate_formed h, fun p => ?_, fun c s h => ⟨fun alone => ?_, fun others => ?_⟩,
    fun c s h => execAttest_formed h, fun c s h => ⟨fun idle depth some_unit few named => ⟨fun free => ?_, fun owned => ?_⟩, ?_⟩,
    fun s pkg => execFirmwareBoot_eq s pkg, fun _ _ _ => rfl, fun _ _ => rfl, fun s pkg l => ?_, fun s pkg => ⟨rfl, rfl⟩⟩
  · rfl
  · refine ((execFwRecover_formed h).trans (if_neg (ne_true_of_eq_false alone))).trans ?_
    simp only [Pkg.restart, decide_eq_true_eq]
    rfl
  · exact (execFwRecover_formed h).trans (if_pos others)
  · refine (execSelftest_begins h idle depth some_unit few named).trans (if_neg fun owned => ?_)
    obtain ⟨p, hp, hu⟩ := List.any_eq_true.mp owned
    exact absurd hu (ne_true_of_eq_false (free p hp))
  · exact (execSelftest_begins h idle depth some_unit few named).trans (if_pos (List.any_eq_true.mpr owned))
  · intro paths begun
    refine (execSelftest_ends h begun).trans ?_
    simp only [testUnit_eq]
    rfl
  · cases l <;> exact ⟨rfl, rfl⟩

end Sys2Proof.Machine

namespace Sys2Proof.Machine

open Claims

/-! # Commands on partitions, VFs, windows and stage 2 (R394, R397, R398, R406, R411) -/

section
variable {c : Cmd} {s : State} {n : Nat} {p : Part}

/-! ## PART_SET -/

theorem execPartSet_formed {b : ShareBlock} (h : formed c true false 0 [(0x08, 5), (0x10, 64)])
    (hb : s.shareBlock c.fn.pkg (cmdArg c 0x10 8) = some b) (hn : s.partFor c.fn.pkg (cmdArg c 0x08 1) b = n)
    (alone : ∀ x ∈ s.parts, x.1 ≠ n → ∀ o ∈ x.2.shares, o.pkg = c.fn.pkg → o.clash b.share = false)
    (untested : s.underTest c.fn.pkg b.share = false)
    (sound : ∀ u ∈ (s.pkg c.fn.pkg).failed, (unitOf u).any b.share.names = false)
    (homes : homesMatch b.homing.set c.fn.pkg b.share.channels.toNat = true)
    (rests : ∀ p, s.part n = some p → p.paused = true ∨ p.needsPause b = false) :
    let p := match s.part n with
      | some p => p.withShare b
      | none => ((Part.new b.homing).withShare b).started s.clkw
    p.legal = true → execPartSet c s =
      .next ((State.partLeaves { s with parts := tset s.parts n p } n s).complete c.fn c.tag 0 0) := by
  intro p legal
  have no_clash : ((s.parts.filter fun x => x.1 ≠ n).any fun x => x.2.shares.any fun o => o.pkg = c.fn.pkg && o.clash b.share) = false := by
    simp only [List.any_eq_false, List.mem_filter, Bool.not_eq_true, decide_eq_true_eq]
    rintro x ⟨hx, other⟩ o ho
    by_cases same : o.pkg = c.fn.pkg
    · simp [alone x hx other o ho same]
    · simp [same]
  have no_fault : ((s.pkg c.fn.pkg).failed.any fun u => (unitOf u).any b.share.names) = false := by
    simpa [List.any_eq_false] using sound
  rw [execPartSet, runCmd_formed h (allows_pf _)]
  dsimp only
  rw [hb]
  dsimp only
  rw [hn, if_neg (ne_true_of_eq_false no_clash), if_neg (ne_true_of_eq_false untested), if_neg (ne_true_of_eq_false no_fault),
    if_neg (by simp [homes])]
  cases hp : s.part n with
  | none =>
    simp only [p, hp] at legal ⊢
    simp only [Option.isSome_none, Option.getD_none, Bool.false_and, Bool.false_eq_true, if_false, legal, Bool.not_true]
    rfl
  | some q =>
    simp only [p, hp] at legal ⊢
    have still : (!q.paused && q.needsPause b) = false := by
      rcases rests q hp with paused | same <;> simp [*]
    simp only [Option.isSome_some, Option.getD_some, Bool.true_and, still, if_true, Bool.false_eq_true, if_false, legal, Bool.not_true]
    rfl

/-! ## Pause, resume, reset, rehoming -/

theorem onPart_of {act : Nat → Part → CmdRes} (hn : s.partOn c.fn.pkg (cmdArg c 0x08 1) = some n) (hp : s.part n = some p) :
    onPart c s act = act n p := by
  rw [onPart, hn]
  dsimp only
  rw [hp]

theorem execPartPause_formed (h : formed c true false 0 [(0x08, 5)]) (hn : s.partOn c.fn.pkg (cmdArg c 0x08 1) = some n)
    (hp : s.part n = some p) :
    execPartPause c s =
      if p.paused then .next (s.complete c.fn c.tag 0 0)
      else
        let t := s.updPart n fun p => { p with pausing := true, pauseTag := some (c.fn, c.tag) }
        .next (if p.running.isNone then t.pauseNow n else t) := by
  rw [execPartPause, runCmd_formed (used := partOnly) h (allows_pf _), onPart_of hn hp]
  split <;> rfl

theorem execPartResume_formed (h : formed c true false 1 [(0x08, 5)]) (hn : s.partOn c.fn.pkg (cmdArg c 0x08 1) = some n)
    (hp : s.part n = some p) (homed : p.oldHoming = none) (stays : p.quiesced = false) :
    execPartResume c s =
      if p.whole then .next ((s.updPart n fun p =>
        if p.paused then { p with paused := false, boundary := p.nextBoundary s.clkw } else p).complete c.fn c.tag 0 0)
      else .next (s.complete c.fn c.tag 4 0) := by
  rw [execPartResume, runCmd_formed (used := partOnly) h (allows_pf _), onPart_of hn hp, if_neg (by simp [homed, stays])]
  cases p.whole <;> rfl

theorem execPartReset_formed (h : formed c true false 0 [(0x08, 5)]) (hn : s.partOn c.fn.pkg (cmdArg c 0x08 1) = some n)
    (hp : s.part n = some p) : execPartReset c s = .next ((s.resetPart n).complete c.fn c.tag 0 0) := by
  rw [execPartReset, runCmd_formed (used := partOnly) h (allows_pf _), onPart_of hn hp]
  rfl

theorem execRehome_of_homed (h : formed c true false 0 [(0x08, 5)]) (hn : s.partOn c.fn.pkg (cmdArg c 0x08 1) = some n)
    (hp : s.part n = some p) (paused : p.paused = true) (homed : p.oldHoming = none) :
    execRehome c s = .next (s.complete c.fn c.tag 0 0) := by
  rw [execRehome, runCmd_formed (used := partOnly) h (allows_pf _), onPart_of hn hp, if_neg (by simp [paused]), homed]
  rfl

theorem execRehome_of_moves {old : Homing} {moves : List (Nat × Nat)} (h : formed c true false 0 [(0x08, 5)])
    (hn : s.partOn c.fn.pkg (cmdArg c 0x08 1) = some n) (hp : s.part n = some p) (paused : p.paused = true)
    (homed : p.oldHoming = some old)
    (hm : s.rehomeMoves p p.homing ((s.homedLines p old).filter fun x => old.homeOf x.1 ≠ p.homing.homeOf x.1) = some moves) :
    let t := (s.moveLines moves).updPart n fun p => { p with oldHoming := none }
    execRehome c s = .next ({ t with s2tlb := t.s2tlb.filter (·.part ≠ n) }.complete c.fn c.tag 0 moves.length) := by
  rw [execRehome, runCmd_formed (used := partOnly) h (allows_pf _), onPart_of hn hp, if_neg (by simp [paused]), homed]
  dsimp only
  rw [hm]
  rfl

/-! ## VFs -/

theorem execVfBind_formed
    (h : formed c true false 0 [(0x08, 10), (0x0A, 5), (0x0C, 32), (0x10, 64), (0x18, 64), (0x20, 64), (0x28, 64)])
    (hn : s.partOn c.fn.pkg (cmdArg c 0x0A 1) = some n) (free : (s.vf ⟨c.fn.pkg, cmdArg c 0x08 2⟩).isNone = true) :
    let f : Vf :=
      ⟨n, cmdArg c 0x0C 4, 0, cmdArg c 0x10 8, cmdArg c 0x18 8, cmdArg c 0x20 8, cmdArg c 0x28 2, cmdArg c 0x2A 2,
        cmdArg c 0x2C 4, List.replicate 12 0⟩
    execVfBind c s = .next ({ s with vfs := tset s.vfs ⟨c.fn.pkg, cmdArg c 0x08 2⟩ f }.complete c.fn c.tag 0 0) := by
  rw [execVfBind, runCmd_formed h (allows_pf _)]
  dsimp only
  rw [hn]
  dsimp only
  rw [if_neg (by simpa using free)]
  rfl

theorem execVfUnbind_formed (h : formed c true false 1 [(0x08, 10)]) :
    let v : VfId := ⟨c.fn.pkg, cmdArg c 0x08 2⟩
    (s.vf v).isSome = true → (∀ x ∈ s.ctxs, x.1.vf = v → x.2.started = false) →
    execVfUnbind c s =
      .next ({ s with vfs := tdel s.vfs v, ctxs := s.ctxs.filter fun x => x.1.vf ≠ v }.complete c.fn c.tag 0 0) := by
  intro v bound idle
  have none_started : (s.ctxs.any fun x => x.1.vf = v && x.2.started) = false := by
    simpa [List.any_eq_false] using idle
  rw [execVfUnbind, runCmd_formed h (allows_pf _)]
  dsimp only
  rw [if_neg (by simpa [v, Option.isSome_iff_ne_none] using bound), if_neg (ne_true_of_eq_false none_started)]
  rfl

/-! ## Windows and stage 2 -/

theorem execGrant_formed {giver taker : Nat} (h : formed c true false 0 [(0x08, 5), (0x09, 5), (0x0A, 1), (0x10, 64), (0x18, 64)])
    (hg : s.partOn c.fn.pkg (cmdArg c 0x08 1) = some giver) (ht : s.partOn c.fn.pkg (cmdArg c 0x09 1) = some taker) :
    let g : Grant := ⟨giver, taker, cmdArg c 0x0A 1 = 1, cmdArg c 0x10 8, cmdArg c 0x18 8⟩
    g.from_ % 2 ^ 30 = 0 → g.into % 2 ^ 30 = 0 →
    (∀ o ∈ s.grants, o.taker = g.taker → o.into = g.into → o.giver = g.giver ∧ o.from_ = g.from_) →
    execGrant c s = .next ({ s with grants := g :: s.grants.filter fun o =>
      !(o.taker = g.taker && o.into = g.into) }.complete c.fn c.tag 0 0) := by
  intro g from_aligned into_aligned agree
  have no_other : (s.grants.any fun o => o.taker = g.taker && o.into = g.into && (o.giver ≠ g.giver || o.from_ ≠ g.from_)) = false := by
    simp only [List.any_eq_false, Bool.and_eq_true, Bool.or_eq_true, decide_eq_true_eq, not_and, not_or, ne_eq, not_not, and_imp]
    exact agree
  have aligned : (decide (g.from_ % 2 ^ 30 ≠ 0) || decide (g.into % 2 ^ 30 ≠ 0)) = false := by
    rw [from_aligned, into_aligned]
    rfl
  rw [execGrant, runCmd_formed h (allows_pf _)]
  dsimp only
  rw [hg, ht]
  dsimp only
  rw [if_neg (ne_true_of_eq_false aligned), if_neg (ne_true_of_eq_false no_other)]
  rfl

/-- An invalidation completes at once when no access is on its way. -/
theorem invalDone_out (u w : State) (parts way : List Nat) :
    (invalDone c parts w way).out c u = .next (if way = [] then w.complete c.fn c.tag 0 0
      else w.updFn c.fn fun f => { f with pending := some ⟨c, parts, way, false, .inval⟩ }) := by
  cases way <;> rfl

theorem execRevoke_formed {giver taker : Nat} (h : formed c true false 1 [(0x08, 5), (0x09, 5), (0x10, 64), (0x18, 64)])
    (hg : s.partOn c.fn.pkg (cmdArg c 0x08 1) = some giver) (ht : s.partOn c.fn.pkg (cmdArg c 0x09 1) = some taker) :
    let same := fun o : Grant => giver = o.giver && taker = o.taker && o.from_ = cmdArg c 0x10 8 && o.into = cmdArg c 0x18 8
    s.grants.any same = true →
    let w := s.dropAllLines fun _ l => l.part = taker && inRange (cmdArg c 0x18 8) (2 ^ 30) l.gpa
    execRevoke c s = (invalDone c [giver, taker] { w with grants := w.grants.filter fun o => !same o }
      (s.onTheWay fun x => s.partOfCtx x = taker)).out c s := by
  intro same found w
  obtain ⟨g, hfind⟩ := Option.isSome_iff_exists.mp (List.find?_isSome.mpr (List.any_eq_true.mp found))
  have hit : same g = true := List.find?_some hfind
  obtain ⟨⟨⟨hgiver, htaker⟩, -⟩, -⟩ : ((giver = g.giver ∧ taker = g.taker) ∧ g.from_ = cmdArg c 0x10 8) ∧ g.into = cmdArg c 0x18 8 := by
    simpa [same] using hit
  rw [execRevoke, runCmd_formed h (allows_pf _)]
  simp only [hg, ht, Option.some.injEq]
  rw [show s.grants.find? (fun o => giver = o.giver && taker = o.taker && o.from_ = cmdArg c 0x10 8 && o.into = cmdArg c 0x18 8) =
    some g from hfind]
  dsimp only
  rw [← hgiver, ← htaker]

theorem execS2Root_formed {sh : Share} (h : formed c true false 0 [(0x08, 5), (0x10, 64)])
    (hn : s.partOn c.fn.pkg (cmdArg c 0x08 1) = some n) (hp : s.part n = some p) (hs : s.share n c.fn.pkg = some sh)
    (aligned : cmdArg c 0x10 8 % 4096 = 0) (own : sh.channels.toNat.testBit (cmdArg c 0x10 8 / Config.channelSpan) = true) :
    execS2Root c s = .next ((s.updPart n fun p => { p with shares := p.shares.map fun x =>
      if x.pkg = c.fn.pkg then { x with s2root := cmdArg c 0x10 8 } else x }).complete c.fn c.tag 0 0) := by
  rw [execS2Root, runCmd_formed h (allows_pf _), onPart_of hn hp]
  dsimp only
  rw [hs]
  dsimp only
  rw [if_neg (by simp [aligned]), if_neg (by simp [own])]
  rfl

theorem execS2Inval_formed (h : formed c true false 1 [(0x08, 5), (0x10, 64), (0x18, 64)])
    (hn : s.partOn c.fn.pkg (cmdArg c 0x08 1) = some n) (hp : s.part n = some p) (start : cmdArg c 0x10 8 % 4096 = 0)
    (len : cmdArg c 0x18 8 % 4096 = 0) :
    execS2Inval c s = (invalDone c [n] (s.s2Forget n (cmdArg c 0x10 8) (cmdArg c 0x18 8)) (s.onTheWay (s.usesStage2 n))).out c s := by
  rw [execS2Inval, runCmd_formed h (allows_pf _), onPart_of hn hp, if_neg (by simp [start, len])]

end

/-- Settles O57. -/
theorem partitionCommandsAct : Obligations.PartitionCommandsAct := by
  refine ⟨fun c s b h hb alone untested sound homes rests => execPartSet_formed h hb rfl alone untested sound homes rests,
    fun c s n p h hn => ⟨fun paused => ?_, fun runs busy => ?_, fun runs idle => ?_⟩,
    fun c s n p h hn homed stays => ⟨fun whole => ?_, fun lacks => ?_⟩, fun c s n p h hn => execPartReset_formed h hn.1 hn.2,
    fun c s n p h hn paused => ⟨fun homed => execRehome_of_homed h hn.1 hn.2 paused homed,
      fun old moves homed hm => execRehome_of_moves h hn.1 hn.2 paused homed hm⟩,
    fun c s n h hn free => execVfBind_formed h hn free, fun c s h bound idle => execVfUnbind_formed h bound idle,
    fun c s giver taker h hg ht => execGrant_formed h hg ht, fun c s giver taker h hg ht found => ?_,
    fun c s n p sh h hn hs => execS2Root_formed h hn.1 hn.2 hs, fun c s n p h hn start len => ?_⟩
  · exact (execPartPause_formed h hn.1 hn.2).trans (if_pos paused)
  · refine (execPartPause_formed h hn.1 hn.2).trans ?_
    obtain ⟨r, hr⟩ := Option.isSome_iff_exists.mp busy
    rw [if_neg (ne_true_of_eq_false runs), hr]
    rfl
  · refine (execPartPause_formed h hn.1 hn.2).trans ?_
    rw [if_neg (ne_true_of_eq_false runs), idle]
    rfl
  · exact (execPartResume_formed h hn.1 hn.2 homed stays).trans (if_pos whole)
  · exact (execPartResume_formed h hn.1 hn.2 homed stays).trans (if_neg (ne_true_of_eq_false lacks))
  · exact (execRevoke_formed h hg ht found).trans (invalDone_out ..)
  · exact (execS2Inval_formed h hn.1 hn.2 start len).trans (invalDone_out ..)

end Sys2Proof.Machine

namespace Sys2Proof.Machine

open Claims

/-! # Commands on gates, migration, ERRREAD (R345, R346, R353, R355, R431) -/

section
variable {c : Cmd} {s : State}

/-- The operands of a gate command, with or without an image. -/
def gateUsed (image : Bool) : List (Nat × Nat) := [(0x08, 16)] ++ if image then [(0x10, 64)] else []

/-- A gate command on a gate that is valid, whose image is sound. -/
theorem gateCmd_formed {sub : Nat} {image : Bool} {act : Nat → Gate → Nat → State → State} {g : Gate}
    (h : formed c true false sub (gateUsed image)) (hg : s.gate (cmdArg c 0x08 2) = some g) (valid : g.valid = true)
    (sound : image = true → gateImageOk (bytesToNat (s.hostBytes c.fn.pkg (cmdArg c 0x10 8) 256)) = true) :
    gateCmd c sub image act s = .next ((act (cmdArg c 0x08 2) g
      (if image then bytesToNat (s.hostBytes c.fn.pkg (cmdArg c 0x10 8) 256) else 0) s).complete c.fn c.tag 0 0) := by
  have found : (s.gate (cmdArg c 0x08 2)).filter (·.valid) = some g := by
    rw [hg]
    simp [Option.filter, valid]
  rw [gateCmd]
  refine (runCmd_formed (used := gateUsed image) h (allows_pf _)).trans ?_
  dsimp only
  rw [found]
  cases image with
  | false => rfl
  | true =>
    dsimp only
    rw [if_neg (by simp [sound rfl])]
    rfl

theorem execGateCreate_formed (h : formed c true false 0 [(0x08, 16), (0x0C, 8), (0x10, 64)])
    (free : (s.gate (cmdArg c 0x08 2)).any (·.valid) = false)
    (sound : gateImageOk (bytesToNat (s.hostBytes c.fn.pkg (cmdArg c 0x10 8) 256)) = true)
    (home : s.hasPkg (cmdArg c 0x0C 1) = true) :
    let v := bytesToNat (s.hostBytes c.fn.pkg (cmdArg c 0x10 8) 256)
    let g : Gate :=
      ⟨0, ((s.gate (cmdArg c 0x08 2)).map (·.gen)).getD 0, identity (byteFld v 0x0C 4), true, false, [], aclOf v s.clkw, cmdArg c 0x0C 1⟩
    execGateCreate c s = .next ({ s with gates := tset s.gates (cmdArg c 0x08 2) g }.complete c.fn c.tag 0 0) := by
  rw [execGateCreate, runCmd_formed h (allows_pf _)]
  dsimp only
  rw [if_neg (ne_true_of_eq_false free), if_neg (by simp [sound, home])]
  rfl

theorem execGateConfigure_formed {g : Gate} (h : formed c true false 1 [(0x08, 16), (0x10, 64)])
    (hg : s.gate (cmdArg c 0x08 2) = some g) (valid : g.valid = true)
    (sound : gateImageOk (bytesToNat (s.hostBytes c.fn.pkg (cmdArg c 0x10 8) 256)) = true) :
    let v := bytesToNat (s.hostBytes c.fn.pkg (cmdArg c 0x10 8) 256)
    let pairs := (g.refilled s.clkw).acl.zip (aclOf v s.clkw)
    let lost := (pairs.filter fun x => aclChanged x.1 x.2).map fun x => x.1.vf
    execGateConfigure c s = .next (((s.updGate (cmdArg c 0x08 2) fun g =>
      { g with owner := identity (byteFld v 0x0C 4), acl := pairs.map fun x => aclMerge x.1 x.2 }).releaseWaiters (cmdArg c 0x08 2)
        (fun w => lost.contains w.vf) 2).complete c.fn c.tag 0 0) := by
  rw [execGateConfigure, gateCmd_formed (image := true) h hg valid fun _ => sound]
  rfl

theorem execGateRecycle_formed {g : Gate} (h : formed c true false 2 [(0x08, 16), (0x10, 64)])
    (hg : s.gate (cmdArg c 0x08 2) = some g) (valid : g.valid = true)
    (sound : gateImageOk (bytesToNat (s.hostBytes c.fn.pkg (cmdArg c 0x10 8) 256)) = true) :
    let v := bytesToNat (s.hostBytes c.fn.pkg (cmdArg c 0x10 8) 256)
    execGateRecycle c s = .next (((s.releaseWaiters (cmdArg c 0x08 2) (fun _ => true) 2).updGate (cmdArg c 0x08 2) fun g =>
      { g with gen := g.gen + 1, closed := false, counter := 0, owner := identity (byteFld v 0x0C 4)
               acl := aclOf v s.clkw }).complete c.fn c.tag 0 0) := by
  rw [execGateRecycle, gateCmd_formed (image := true) h hg valid fun _ => sound]
  rfl

theorem execGateDelete_formed {g : Gate} (h : formed c true false 3 [(0x08, 16)]) (hg : s.gate (cmdArg c 0x08 2) = some g)
    (valid : g.valid = true) :
    execGateDelete c s = .next (((s.releaseWaiters (cmdArg c 0x08 2) (fun _ => true) 2).updGate (cmdArg c 0x08 2) fun g =>
      { g with valid := false }).complete c.fn c.tag 0 0) := by
  rw [execGateDelete, gateCmd_formed (image := false) h hg valid fun image => absurd image Bool.false_ne_true]
  rfl

theorem execMigrateQuiesce_formed {n : Nat} {p : Part} (h : formed c true false 0 [(0x08, 5)])
    (hn : s.partOn c.fn.pkg (cmdArg c 0x08 1) = some n) (hp : s.part n = some p) :
    execMigrateQuiesce c s =
      if p.paused then .next ((s.updPart n fun p => { p with quiesced := true }).complete c.fn c.tag 0 p.clkr)
      else
        let t := s.updPart n fun p => { p with quiesced := true, pausing := true, pauseTag := some (c.fn, c.tag) }
        .next (if p.running.isNone then t.pauseNow n else t) := by
  rw [execMigrateQuiesce, runCmd_formed (used := partOnly) h (allows_pf _), onPart_of hn hp]
  split <;> rfl

theorem execMigrateStart_formed {n : Nat} {p : Part} (h : formed c true false 1 [(0x08, 5), (0x10, 64), (0x18, 64)])
    (hn : s.partOn c.fn.pkg (cmdArg c 0x08 1) = some n) (hp : s.part n = some p) (quiesced : p.quiesced = true)
    (paused : p.paused = true) (some_entry : cmdArg c 0x18 8 ≠ 0) (few : cmdArg c 0x18 8 ≤ 1024)
    (clean : ∀ i < cmdArg c 0x18 8, fld (s.hostRead c.fn.pkg (cmdArg c 0x10 8 + 8 * i) 8) 18 14 = 0 ∧
      fld (s.hostRead c.fn.pkg (cmdArg c 0x10 8 + 8 * i) 8) 50 14 = 0) :
    let m := s.identityMap c.fn.pkg (cmdArg c 0x10 8) (cmdArg c 0x18 8)
    (∀ e ∈ m, e.1 = e.2 ∨ (s.vf e.2).isSome = false ∨ ∃ x ∈ m, x.1 = e.2) →
    execMigrateStart c s = .next (((s.migrate m).updPart n fun p =>
      { p with quiesced := false, paused := false, boundary := p.nextBoundary s.clkw }).complete c.fn c.tag 0 0) := by
  intro m apart
  have entries_clean : ((List.range (cmdArg c 0x18 8)).all fun i =>
      fld (s.hostRead c.fn.pkg (cmdArg c 0x10 8 + 8 * i) 8) 18 14 = 0 && fld (s.hostRead c.fn.pkg (cmdArg c 0x10 8 + 8 * i) 8) 50 14 = 0) =
      true := by
    simpa using clean
  have no_other : (m.any fun e => e.1 ≠ e.2 && (s.vf e.2).isSome && m.all (·.1 ≠ e.2)) = false := by
    rw [List.any_eq_false]
    intro e he
    rcases apart e he with same | unbound | ⟨x, hx, leaves⟩
    · simp [same]
    · simp [unbound]
    · rw [List.all_eq_false.mpr ⟨x, hx, by simp [leaves]⟩]
      simp
  rw [execMigrateStart, runCmd_formed h (allows_pf _), onPart_of hn hp]
  dsimp only
  rw [entries_clean, if_neg (by simp [some_entry, few]), if_neg (by simp [quiesced, paused]), if_neg (ne_true_of_eq_false no_other)]
  rfl

theorem execErrread_formed (h : formed c true false 0 [(0x10, 64)]) :
    execErrread c s = .next ((s.hostPut c.fn.pkg (cmdArg c 0x10 8) ((List.range 32).flatMap fun i =>
      natToBytes 8 ((s.pkg c.fn.pkg).errs.getD i 0))).complete c.fn c.tag 0 0) := by
  rw [execErrread, runCmd_formed h (allows_pf _)]
  rfl

end

/-- Settles O58. -/
theorem gateCommandsAct : Obligations.GateCommandsAct := by
  refine ⟨fun c s h free sound home => execGateCreate_formed h free sound home,
    fun c s g h hg valid sound => ?_, fun c s g h hg valid sound => ?_, fun c s g h hg valid => ?_,
    fun c s n p h hn hp => ⟨fun paused => ?_, fun runs busy => ?_⟩,
    fun c s n p h hn hp quiesced paused some_entry few clean =>
      execMigrateStart_formed h hn hp quiesced paused some_entry few clean, fun c s h => execErrread_formed h⟩
  · exact execGateConfigure_formed h hg valid sound
  · exact execGateRecycle_formed h hg valid sound
  · exact execGateDelete_formed h hg valid
  · exact (execMigrateQuiesce_formed h hn hp).trans (if_pos paused)
  · refine (execMigrateQuiesce_formed h hn hp).trans ?_
    obtain ⟨r, hr⟩ := Option.isSome_iff_exists.mp busy
    rw [if_neg (ne_true_of_eq_false runs), hr]
    rfl

end Sys2Proof.Machine

namespace Sys2Proof.Machine

open Claims

/-! # Commands on contexts, queue sets, page replies and rings (R318, R319, R398, R406, R409, R420, R456) -/

/-- No record enters an event ring for which none is held. -/
theorem flushEvents_of_none {s : State} {i : FnId} (kept : (s.fn i).dropped = 0) (none_held : (s.fn i).waiting = []) (n : Nat) :
    s.flushEvents i n = s := by
  cases n with
  | zero => rfl
  | succ n =>
    rw [State.flushEvents]
    split
    · rfl
    · rw [if_neg (by simp [kept]), none_held]

theorem uncached_dropAllLines (s : State) (p : CoreId → L1Line → Bool) : (s.dropAllLines p).uncached = s.uncached :=
  uncached_foldl (fun _ _ => uncached_dropLines _ _ _) _ _

section
variable {c : Cmd} {s : State}

/-! ## Contexts -/

theorem execCtxCreate_formed (h : formed c true true 0 [(0x08, 8), (0x0C, 20), (0x10, 64), (0x18, 2)])
    (bound : (s.vf (cmdCtx c).vf).isSome = true) (free : (s.ctx (cmdCtx c)).isNone = true) (aligned : cmdArg c 0x10 8 % 4096 = 0)
    (alone : ∀ x ∈ s.ctxs, x.1.vf = (cmdCtx c).vf → x.2.pasid ≠ cmdArg c 0x0C 4) :
    let modes := BitVec.ofNat 2 (cmdArg c 0x18 1)
    let k : Ctx :=
      ⟨cmdArg c 0x0C 4, cmdArg c 0x10 8, modes, modes, c.fn.vf.isNone, 0, 0, 0, false, false, [], 0, none, [], [], []⟩
    execCtxCreate c s = .next ({ s with ctxs := tset s.ctxs (cmdCtx c) k }.complete c.fn c.tag 0 0) := by
  have no_other : (s.ctxs.any fun x => x.1.vf = (cmdCtx c).vf && x.2.pasid = cmdArg c 0x0C 4) = false := by
    simpa [List.any_eq_false] using alone
  rw [execCtxCreate, runCmd_formed h (allows_both _)]
  dsimp only
  rw [if_neg (by simpa [Option.isSome_iff_ne_none] using bound), if_neg (by simpa using free), if_neg (by simp [aligned]),
    if_neg (ne_true_of_eq_false no_other)]
  rfl

theorem execCtxStart_formed {k : Ctx} {v : Vf} {es : List (StartEnt × Nat)} {ps : List Placed}
    (h : formed c true true 0 [(0x08, 8), (0x09, 2), (0x10, 64), (0x18, 64)]) (idle : (s.fn c.fn).pending = none) :
    let u := s.unpend c.fn
    let l := u.startList c.fn.pkg (cmdArg c 0x10 8) (cmdArg c 0x18 8)
    u.ctx (cmdCtx c) = some k → u.vf (cmdCtx c).vf = some v → k.started = false → (u.part v.part).any Part.whole = true →
    cmdArg c 0x18 8 ≠ 0 → cmdArg c 0x18 8 ≤ 1024 → u.startListOk v.part l = true → u.lookAll (cmdCtx c) l = .got es →
    u.placeAll v.part es es [] = some ps → v.fits ps = true →
    execCtxStart c s = .next ((u.startCtx (cmdCtx c) c.fn.vf.isNone (cmdArg c 0x09 1) ps).complete c.fn c.tag 0 0) := by
  intro u l hk hv fresh whole some_entry few sound looked placed fits
  have unrefused : s.wasRefused c = false := by
    rw [State.wasRefused, idle]
    rfl
  rw [execCtxStart, runCmd_formed h (allows_both _)]
  dsimp only
  rw [hk, hv]
  dsimp only
  rw [if_neg (by simp [fresh]), if_neg (by rw [whole]; decide), if_neg (by rw [sound]; simp [some_entry, few]),
    if_neg (ne_true_of_eq_false unrefused), looked]
  dsimp only
  rw [placed]
  dsimp only
  rw [if_pos fits]
  rfl

theorem execCtxEnd_formed (h : formed c true true 0 [(0x08, 8)]) (known : (s.ctx (cmdCtx c)).isSome = true) :
    let t := s.updCtx (cmdCtx c) fun k => { k with ending := true, endTags := k.endTags ++ [(c.fn, c.tag)] }
    execCtxEnd c s = .next (if s.ctxRuns (cmdCtx c) then t else t.endCtx (s.partOfCtx (cmdCtx c)) (cmdCtx c)) := by
  rw [execCtxEnd, runCmd_formed h (allows_both _)]
  dsimp only
  rw [if_neg (by simpa [Option.isSome_iff_ne_none] using known)]
  rfl

theorem execS1Inval_formed {x : Ctx} (h : formed c true true 0 [(0x08, 8), (0x10, 64), (0x18, 64)]) (hx : s.ctx (cmdCtx c) = some x)
    (start : cmdArg c 0x10 8 % 4096 = 0) (len : cmdArg c 0x18 8 % 4096 = 0) :
    let hit := inRange (cmdArg c 0x10 8) (cmdArg c 0x18 8)
    let w := s.dropAllLines fun _ l => l.vf = (cmdCtx c).vf && l.pasid = x.pasid && hit (l.line * 128)
    let t := { w with tlb := w.tlb.filter fun e => !(e.space = some ((cmdCtx c).vf, x.pasid) && hit (e.page * 4096)) }
    execS1Inval c s = (invalDone c [] t (s.onTheWay (· = cmdCtx c))).out c s := by
  intro hit w t
  have same_space : s.space (cmdCtx c) = ((cmdCtx c).vf, x.pasid) := by
    rw [State.space, hx]
    rfl
  have same_way : w.onTheWay (· = cmdCtx c) = s.onTheWay (· = cmdCtx c) := by
    rw [State.onTheWay, accs_of_uncached (uncached_dropAllLines s _)]
    rfl
  rw [execS1Inval, runCmd_formed h (allows_both _)]
  dsimp only
  rw [if_neg (by simp [hx]), if_neg (by simp [start, len]), same_space]
  dsimp only
  exact congrArg (fun way => (invalDone c [] t way).out c s) same_way

/-! ## Queue sets -/

theorem execQsetCreate_formed {i : Nat} (h : formed c false true 0 [(0x08, 8), (0x10, 64), (0x18, 64)])
    (bound : (s.vf (fnVf c.fn)).isSome = true) (least : 6 ≤ cmdArg c 0x08 1) (most : cmdArg c 0x08 1 ≤ 16)
    (ring : cmdArg c 0x10 8 % 4096 = 0) (log : cmdArg c 0x18 8 % 8 = 0)
    (free : (List.range 1024).find? (fun i => (s.qset ⟨s.partOfVf (fnVf c.fn), i⟩).isNone) = some i) :
    let q : QSet :=
      ⟨s.seq % 65536, fnVf c.fn, cmdArg c 0x08 1, cmdArg c 0x10 8, cmdArg c 0x18 8, 0, 0, 0, [], 0, [], [], [], [], []⟩
    execQsetCreate c s = .next ({ s with seq := s.seq + 1, qsets := tset s.qsets ⟨s.partOfVf (fnVf c.fn), i⟩ q }.complete c.fn c.tag 0
      (makeHandle (s.partOfVf (fnVf c.fn)) (fnVf c.fn) i 7 (s.seq % 65536))) := by
  rw [execQsetCreate, runCmd_formed h (allows_vf _)]
  dsimp only
  rw [if_neg (by simpa [Option.isSome_iff_ne_none] using bound), if_neg (by simp [ring, log]; omega), free]
  rfl

theorem execQsetDelete_formed {x : QSet} (h : formed c false true 1 [(0x08, 10)]) (bound : (s.vf (fnVf c.fn)).isSome = true)
    (hq : s.qset ⟨s.partOfVf (fnVf c.fn), cmdArg c 0x08 2⟩ = some x) (own : x.vf = fnVf c.fn) :
    execQsetDelete c s = .next (({ s with qsets := tdel s.qsets ⟨s.partOfVf (fnVf c.fn), cmdArg c 0x08 2⟩ }.updVf (fnVf c.fn) fun f =>
      { f with out := f.out - x.outstanding }).complete c.fn c.tag 0 0) := by
  obtain ⟨v, hv⟩ := Option.isSome_iff_exists.mp bound
  rw [execQsetDelete, runCmd_formed h (allows_vf _)]
  dsimp only
  rw [hv]
  dsimp only [Option.bind]
  rw [hq]
  dsimp only
  rw [if_neg (by simp [own]), own]
  rfl

/-- A host push of one record. -/
theorem hostPush_of_kind_zero {q : QSetId} {d : DieId} {r : Rec} (kind : r.kind = 0) :
    s.hostPush q d r = (if s.pushStatus q d 1 true = 0 then s.queueRec q d r none else s, s.pushStatus q d 1 true) := by
  simp only [State.hostPush, kind]
  rfl

theorem execQsubmit_formed (h : formed c false true 0 [(0x08, 64), (0x10, 256), (0x30, 2)]) :
    let v := fnVf c.fn
    let q := s.handleSet v (cmdArg c 0x08 8)
    let r := recOf (cmdArg c 0x10 32)
    let d : DieId := ⟨c.fn.pkg, cmdArg c 0x30 1⟩
    (s.vf v).isSome = true → (s.qset q).isSome = true → s.handleBad v (cmdArg c 0x08 8) 1 = none →
    (s.shardDies q.part d.pkg).contains d = true → r.kind = 0 →
    execQsubmit c s = .next (if s.pushStatus q d 1 true = 0 then (s.queueRec q d r none).complete c.fn c.tag 0 0
      else s.complete c.fn c.tag 0 (s.pushStatus q d 1 true)) := by
  intro v q r d bound known right on_die kind
  rw [execQsubmit, runCmd_formed h (allows_vf _)]
  dsimp only
  have exist : ((s.vf v).isNone || (s.qset q).isNone) = false := by
    simp [bound, known]
  have sound : ((decide (2 ≤ r.kind) && decide (r.kind ≤ 4)) || !(s.shardDies q.part d.pkg).contains d) = false := by
    rw [on_die]
    simp [kind]
  rw [if_neg (ne_true_of_eq_false exist), if_neg (by simp [show s.handleBad (fnVf c.fn) (cmdArg c 0x08 8) rightEnq = none from right]),
    if_neg (ne_true_of_eq_false sound), hostPush_of_kind_zero kind]
  dsimp only
  split
  case isTrue pushed => rw [pushed]; rfl
  case isFalse => rfl

/-! ## Page replies and rings -/

/-- What a page reply that passes its checks does with the request found. -/
theorem execPageReply_formed {found : Option PageReq} (h : formed c true true 0 [(0x08, 32), (0x0C, 16), (0x0E, 10)]) :
    let v : VfId := ⟨c.fn.pkg, if c.fn.vf.isSome then c.fn.vf.getD 0 else cmdArg c 0x0E 2⟩
    cmdArg c 0x0C 2 ≤ 1 → (c.fn.vf.isSome = true → cmdArg c 0x0E 2 = 0) → (s.vf v).isSome = true →
    (s.pages.find? fun r : PageReq => r.vf = v && r.tag % 2 ^ 32 = cmdArg c 0x08 4) = found →
    (∀ r, found = some r → r.stage = if c.fn.vf.isSome then 0 else 1) →
    execPageReply c s = .next ((found.elim (s.countPkg c.fn.pkg 14) fun r => s.pageAnswer r.tag (cmdArg c 0x0C 2 = 1)).complete
      c.fn c.tag 0 0) := by
  intro v status clean bound hf stage
  have named : (if c.fn.vf.isSome then fnVf c.fn else ⟨c.fn.pkg, cmdArg c 0x0E 2⟩) = v := by
    simp only [v]
    split <;> rfl
  have sound : ¬((decide (1 < cmdArg c 0x0C 2) || (c.fn.vf.isSome && decide (cmdArg c 0x0E 2 ≠ 0))) = true) := by
    simp only [Bool.or_eq_true, Bool.and_eq_true, decide_eq_true_eq, not_or, not_and, not_lt]
    exact ⟨status, fun isVf nonzero => nonzero (clean isVf)⟩
  rw [execPageReply, runCmd_formed h (allows_both _)]
  dsimp only
  rw [named, if_neg sound, if_neg (by simpa [Option.isSome_iff_ne_none] using bound), hf]
  cases found with
  | none => rfl
  | some r =>
    dsimp only
    rw [if_neg (by simp [stage r rfl])]
    rfl

theorem execRingSet_formed (h : formed c true true 0 [(0x08, 64), (0x10, 16), (0x12, 16), (0x14, 32), (0x18, 32)])
    (aligned : cmdArg c 0x08 8 % 4096 = 0) (least : 6 ≤ cmdArg c 0x10 2) (most : cmdArg c 0x10 2 ≤ 16) (some_count : 1 ≤ cmdArg c 0x12 2)
    (few : cmdArg c 0x12 2 ≤ 256) (soon : cmdArg c 0x14 4 ≤ 65535) (none_held : (s.fn c.fn).waiting = [])
    (kept : (s.fn c.fn).dropped = 0) :
    execRingSet c s = .next ((s.updFn c.fn fun f => { f with
      erBase := cmdArg c 0x08 8, erSize := cmdArg c 0x10 2, erHead := 0, erTail := 0, count := cmdArg c 0x12 2
      time := cmdArg c 0x14 4, vector := cmdArg c 0x18 4 }).complete c.fn c.tag 0 0) := by
  rw [execRingSet, runCmd_formed h (allows_both _)]
  dsimp only
  rw [if_neg (by simp [aligned]; omega), flushEvents_of_none (by simpa using kept) (by simpa using none_held)]
  rfl

end

/-- Settles O59. -/
theorem contextCommandsAct : Obligations.ContextCommandsAct := by
  refine ⟨fun c s h bound free aligned alone => execCtxCreate_formed h bound free aligned alone,
    fun c s k v es ps h idle => execCtxStart_formed h idle, fun c s h known => execCtxEnd_formed h known,
    fun c s x h hx start len => ?_, fun c s i h bound least most ring log free => execQsetCreate_formed h bound least most ring log free,
    fun c s x h bound hq own => execQsetDelete_formed h bound hq own,
    fun c s h bound known right on_die => ⟨fun kind room => ?_, fun kind full => ?_⟩,
    fun c s h status clean bound => ⟨fun hf => ?_, fun r hf stage => ?_⟩,
    fun c s h aligned least most some_count few soon none_held kept =>
      execRingSet_formed h aligned least most some_count few soon none_held kept⟩
  · have answer := (execS1Inval_formed h hx start len).trans (invalDone_out ..)
    exact ⟨fun none_sent => answer.trans (congrArg _ (if_pos none_sent)), fun sent => answer.trans (congrArg _ (if_neg sent))⟩
  · exact (execQsubmit_formed h bound known right on_die kind).trans (congrArg _ (if_pos room))
  · exact (execQsubmit_formed h bound known right on_die kind).trans (congrArg _ (if_neg full))
  · exact execPageReply_formed (found := none) h status clean bound hf fun r none_found => nomatch none_found
  · refine execPageReply_formed (found := some r) h status clean bound hf fun r' same => ?_
    obtain rfl : r = r' := by simpa using same
    exact stage

end Sys2Proof.Machine

namespace Sys2Proof.Machine

open Claims

/-! # System registers, clocks, error counters and TRAP (R373 to R379) -/

section
variable {f : L2R} {s : State} {l : ThreadId} {lt : Thread}

/-! ## SRD -/

theorem sysClear_eq (v : State) (g : UniGroup) (n : Nat) :
    v.sysClear g n =
      if n = 0x071 then v.updCtx (v.ctxId g.leader) fun x => { x with vdiv := 0, mfail := 0 }
      else if n = 0x031 then (g.rcv.map (·.team)).eraseDups.foldl (fun z i => z.updTeam i fun t => { t with unchk := 0 }) v
      else v := by
  unfold State.sysClear
  split <;> simp_all

theorem execSrd_eq (hl : (srdUni f).legal = true) (h : s.leads f.toL1 [] [⟨.dst 1, f.d.toNat⟩] l lt) :
    let u := s.stepAll (s.offIds f.toL1) 2
    let v := u.mapThreads fun i t =>
      if i ∈ s.onIds f.toL1 then (t.writeReg f.d.toNat 1 (u.sysRead i t f.imm.toNat) 0).step 2 else t
    execSrd f s = .next (v.sysClear (fullGroup s u f.toL1 l lt) f.imm.toNat) := by
  rw [execSrd]
  exact runUniform_next rfl rfl hl h rfl (.inl rfl)

/-! ## SWR -/

/-- A field's low bits, of the number that a register gives or of the register's word. -/
theorem ofNat_eq_extractLsb'_w32 {n : Nat} (x : Nat) (h : n ≤ 32) : BitVec.ofNat n x = (w32 x).extractLsb' 0 n := by
  apply BitVec.eq_of_toNat_eq
  simp only [w32, BitVec.toNat_ofNat, BitVec.extractLsb'_toNat, Nat.shiftRight_zero]
  exact (Nat.mod_mod_of_dvd x (Nat.pow_dvd_pow 2 h)).symm

/-- The word that two halves make. -/
theorem toNat_append_word (a b : BitVec 32) : (a ++ b).toNat = a.toNat * 2 ^ 32 + b.toNat := by
  rw [BitVec.toNat_append, ← Nat.shiftLeft_add_eq_or_of_lt b.isLt, Nat.shiftLeft_eq]

theorem setFld_low (a : BitVec 64) (x : Nat) : BitVec.ofNat 64 (setFld a.toNat 0 32 x) = a.extractLsb' 32 32 ++ w32 x := by
  have := a.isLt
  apply BitVec.eq_of_toNat_eq
  rw [toNat_append_word]
  simp only [setFld, fld, w32, BitVec.toNat_ofNat, BitVec.extractLsb'_toNat, Nat.shiftRight_eq_div_pow]
  omega

theorem setFld_high (a : BitVec 64) (x : Nat) : BitVec.ofNat 64 (setFld a.toNat 32 32 x) = w32 x ++ a.extractLsb' 0 32 := by
  have := a.isLt
  apply BitVec.eq_of_toNat_eq
  rw [toNat_append_word]
  simp only [setFld, fld, w32, BitVec.toNat_ofNat, BitVec.extractLsb'_toNat, Nat.shiftRight_eq_div_pow]
  omega

theorem sysWrite_eq (t : Thread) (n v : Nat) :
    let x := w32 v
    t.sysWrite n v =
      if n = 0x020 then { t with cause := x.extractLsb' 0 8 }
      else if n = 0x021 then { t with tinfo := x }
      else if n = 0x022 then { t with taddr := t.taddr.extractLsb' 32 32 ++ x }
      else if n = 0x023 then { t with taddr := x ++ t.taddr.extractLsb' 0 32 }
      else if n = 0x024 then { t with tlinkLo := x.extractLsb' 0 16 }
      else if n = 0x025 then { t with tlinkHi := x.extractLsb' 0 14 }
      else if n = 0x040 then { t with fflags := t.fflags &&& ~~~(x.extractLsb' 0 6) }
      else if n = 0x041 then { t with fmode := x.extractLsb' 0 2 }
      else t := by
  intro x
  unfold Thread.sysWrite
  split
  case h_1 => simp [x, ofNat_eq_extractLsb'_w32]
  case h_2 => simp [x]
  case h_3 => simp [x, setFld_low]
  case h_4 => simp [x, setFld_high]
  case h_5 => simp [x, ofNat_eq_extractLsb'_w32]
  case h_6 => simp [x, ofNat_eq_extractLsb'_w32]
  case h_7 => simp [x, ofNat_eq_extractLsb'_w32]
  case h_8 => simp [x, ofNat_eq_extractLsb'_w32]
  case h_9 => simp_all

theorem foldl_updTeam (ids : List TeamId) (e : Team → Team) (s : State) :
    ids.foldl (fun z i => z.updTeam i e) s = { s with teams := ids.foldl (fun ts i => tupd ts i e) s.teams } := by
  induction ids generalizing s with
  | nil => rfl
  | cons i ids ih =>
    rw [List.foldl_cons, ih]
    rfl

/-- What a write of a shared register changes beside the threads. -/
def sharedWrite (n v : Nat) (ids : List ThreadId) (l : ThreadId) (s : State) : State :=
  let x := w32 v
  if n = 0x031 then (ids.map (·.team)).eraseDups.foldl (fun z i => z.updTeam i fun t =>
    { t with mnv := t.mnv && !x.getLsbD 16, mof := t.mof && !x.getLsbD 17, msat := t.msat && !x.getLsbD 18 }) s
  else if n = 0x050 then s.updCtx (s.ctxId l) fun c => { c with clamp := c.clamp &&& ~~~(x.extractLsb' 0 8) }
  else if n = 0x070 then s.updCtx (s.ctxId l) fun c => if c.sup then { c with shdctl := x.extractLsb' 0 2 } else c
  else s

theorem getLsbD_w32 (v : Nat) {i : Nat} (h : i < 32) : (w32 v).getLsbD i = v.testBit i := by
  rw [w32, BitVec.getLsbD_ofNat, decide_eq_true h, Bool.true_and]

theorem sysShared_eq (u : State) (g : UniGroup) (n v : Nat) : u.sysShared g n v = sharedWrite n v g.all g.leader u := by
  unfold State.sysShared sharedWrite
  dsimp only
  rw [getLsbD_w32 v (by decide), getLsbD_w32 v (by decide), getLsbD_w32 v (by decide), ← ofNat_eq_extractLsb'_w32 v (by decide),
    ← ofNat_eq_extractLsb'_w32 v (by decide)]
  split
  case h_1 => rfl
  case h_2 => rfl
  case h_3 => rfl
  case h_4 no_status no_clamp no_shd => rw [if_neg no_status, if_neg no_clamp, if_neg no_shd]

/-- The shared registers are written beside the threads' steps, before or after them. -/
theorem sharedWrite_uniNext (n v : Nat) (f : L1) (l : ThreadId) (e : Thread → Thread) (s : State) :
    (sharedWrite n v (s.onIds f) l (s.stepAll (s.offIds f) 2)).updThreads (s.onIds f) (fun t => (e t).step 2) =
      (sharedWrite n v (s.onIds f) l s).uniNext f 2 e := by
  unfold sharedWrite
  dsimp only
  split
  · rw [foldl_updTeam, foldl_updTeam]
    rfl
  · split
    · rfl
    · split <;> rfl

theorem execSwr_eq (hl : (swrUni f).legal = true) (h : s.leads f.toL1 [⟨.src 1, f.a.toNat⟩] [] l lt) :
    let v := lt.readReg (s.env l) f.a.toNat 1
    execSwr f s = .next ((sharedWrite f.imm.toNat v (s.onIds f.toL1) l s).uniNext f.toL1 2 fun t => t.sysWrite f.imm.toNat v) := by
  intro v
  rw [execSwr]
  refine runUniform_next (u := s.stepAll (s.offIds f.toL1) 2) rfl rfl hl h rfl (.inl ?_)
  dsimp only
  rw [readReg_fullGroup, sysShared_eq]
  exact congrArg UniRes.done (sharedWrite_uniNext ..)

/-! ## TRAP -/

theorem execTrap_eq (hl : (trapUni f).legal = true) (h : s.leads f.toL1 [] [] l lt) :
    execTrap f s = .next ((s.stepAll (s.offIds f.toL1) 2).raises ((s.onGroup f.toL1).map fun x =>
      (x.1, { trapR 0x31 f.imm.toNat 0 with link := some { x.2.pc with off := x.2.pc.off + 2 } }))) := by
  rw [execTrap]
  refine runUniform_next rfl rfl hl h rfl (.inl ?_)
  refine congrArg (fun rs => UniRes.done (State.raises _ rs)) ?_
  show (s.onIds f.toL1).filterMap _ = _
  rw [State.onIds, List.filterMap_map, ← List.filterMap_eq_map]
  refine List.filterMap_congr fun x hx => ?_
  simp only [Function.comp, thread_stepAll_offIds hx]
  rfl

theorem execClkw_eq (hl : (clockUni f).legal = true) (h : s.leads f.toL1 [] [⟨.dst 2, f.d.toNat⟩] l lt) :
    execClkw f s = .next (s.uniNext f.toL1 2 fun t => t.writeReg f.d.toNat 2 s.clkw 0) := by
  rw [execClkw, runClock]
  exact runUniform_next rfl rfl hl h rfl (.inl rfl)

theorem execClkr_eq (hl : (clockUni f).legal = true) (h : s.leads f.toL1 [] [⟨.dst 2, f.d.toNat⟩] l lt) :
    execClkr f s = .next (s.uniNext f.toL1 2 fun t =>
      t.writeReg f.d.toNat 2 (((s.part (s.partOfCtx (s.ctxId l))).map (·.clkr)).getD 0) 0) := by
  rw [execClkr, runClock]
  exact runUniform_next rfl rfl hl h rfl (.inl rfl)

theorem execErrd_eq {v : Vf} (hl : (errdUni f).legal = true) (h : s.leads f.toL1 [] [⟨.dst 2, f.d.toNat⟩] l lt)
    (hv : s.vf (s.ctxId l).vf = some v) :
    execErrd f s = .next (s.uniNext f.toL1 2 fun t => t.writeReg f.d.toNat 2 (v.errs.getD f.imm.toNat 0) 0) := by
  rw [execErrd]
  refine runUniform_next (u := s.stepAll (s.offIds f.toL1) 2) rfl rfl hl h rfl (.inl ?_)
  have same_vf : (s.stepAll (s.offIds f.toL1) 2).vf ((s.stepAll (s.offIds f.toL1) 2).ctxId l).vf = some v := hv
  dsimp only [fullGroup]
  rw [same_vf]
  rfl

end

/-- Settles O51. -/
theorem systemInstructions : Obligations.SystemInstructions := by
  refine ⟨fun f s l lt hl h => ?_, fun f s l lt hl h => ?_, fun f s l lt hl h => execClkw_eq hl h,
    fun f s l lt hl h => execClkr_eq hl h, fun f s l lt v hl h hv => execErrd_eq hl h hv, fun f s l lt hl h => execTrap_eq hl h⟩
  · refine (execSrd_eq hl h).trans ?_
    rw [sysClear_eq]
    rfl
  · refine (execSwr_eq hl h).trans ?_
    simp only [sysWrite_eq]
    rfl

end Sys2Proof.Machine

namespace Sys2Proof.Machine

/-! # Slice boundaries (R399, R400) -/

/-- A partition that pauses, whose context has run until a boundary. -/
def pausingPart (boundary : Nat) : Part :=
  { Part.new ⟨[], []⟩ with pausing := true, running := some ⟨⟨0, 0⟩, 0⟩, boundary := boundary }

/-- A state that lists partition 0 twice, with two boundaries. -/
def twiceListed : State := { State.reset with parts := [(0, pausingPart 0), (0, pausingPart 1)] }

/-- The slices of the partitions that an outcome lists. -/
def Out.slices : Out → List Slicing
  | .next s => s.parts.map (·.2.slicing)
  | _ => []

/-- Refutes O54: a stop begins in each row of its partition from that row's own boundary, so that a second row of the partition, which no
lookup finds, is not written as the statement says. -/
theorem not_slicesRotateContexts : ¬ Obligations.SlicesRotateContexts := by
  rintro ⟨-, running, -⟩
  have stops := (running twiceListed 0 (pausingPart 0) ⟨⟨0, 0⟩, 0⟩ rfl rfl rfl (Nat.le_refl 0)).2 (.inl rfl)
  have slices := congrArg Out.slices stops
  have begun : Out.slices (exec (.sliceBoundary 0) twiceListed) = [.stopping 0, .stopping 1] := by decide
  rw [begun] at slices
  exact absurd slices (by decide)

end Sys2Proof.Machine

namespace Sys2Proof.Machine

/-! # Gates at their home (R346, R349) -/

/-! ## A request performed -/

section
variable {s : State} {r k : Nat} {q : GateReq} {g : Gate} {e : AclEnt}

theorem gate_updGate_self (f : Gate → Gate) (n : Nat) (h : s.gate n = some g) : (s.updGate n f).gate n = some (f g) := by
  have row : tget s.gates n = some g := h
  rw [State.gate, State.updGate, tget_tupd, row, Option.map_some, if_pos rfl]

/-- The gate of a request with its buckets up to date. -/
def State.bucketsNow (s : State) (n : Nat) : State := s.updGate n fun g => g.refilled s.clkw

/-- An unanswered request is performed. -/
theorem execGateHomeRequest_of_asks (hq : s.gateReqs.find? (·.key = r) = some q) (sent : q.sent = true) (fresh : q.waiting = false)
    (open_ : q.ans = none) : execGateHomeRequest r s = .next (s.gatePerform q) := by
  simp [execGateHomeRequest, hq, sent, fresh, open_]

/-- A caller whose entry has the right passes the checks of Table 3. -/
theorem gateBad_of_allows (few : q.num < 65536) (valid : g.valid = true) (gen : q.minor = 0 ∨ q.gen = g.gen.toNat) (user : q.minor ≠ 1)
    (hk : g.entryOf q.caller = some k) (he : g.acl[k]? = some e) (right : e.allows q.minor = true) : gateBad (some g) q = none := by
  have same_gen : ¬(q.minor ≠ 0 ∧ q.gen ≠ g.gen.toNat) := by tauto
  simp only [gateBad]
  rw [if_neg (by simp [valid]; omega), if_neg (by simpa using same_gen), if_neg user, hk]
  simp [he, right]

theorem gateBad_of_owner (few : q.num < 65536) (valid : g.valid = true) (gen : q.minor = 0 ∨ q.gen = g.gen.toNat) (close : q.minor = 1)
    (own : q.caller = g.owner) : gateBad (some g) q = none := by
  have same_gen : ¬(q.minor ≠ 0 ∧ q.gen ≠ g.gen.toNat) := by tauto
  simp only [gateBad]
  rw [if_neg (by simp [valid]; omega), if_neg (by simpa using same_gen), if_pos close, if_neg (by simpa using own)]

/-- A request that passes the checks, on a gate that is not closed and which it neither opens nor closes, uses its entry. -/
theorem gatePerform_of_uses (hg : s.gate q.num = some g) (sound : gateBad (some (g.refilled s.clkw)) q = none) (opens : q.minor ≠ 0)
    (user : q.minor ≠ 1) (hk : (g.refilled s.clkw).entryOf q.caller = some k) (he : (g.refilled s.clkw).acl[k]? = some e)
    (open_ : g.closed = false) :
    s.gatePerform q =
      (let t := (s.bucketsNow q.num).updGate q.num fun x => { x with acl := x.acl.set k e.use.1 }
       if e.use.2 then t.gateEffect (g.refilled s.clkw) q else t.gateAnswer q.key (.status gateRate 0)) := by
  have row := gate_updGate_self (fun g => g.refilled s.clkw) q.num hg
  unfold State.gatePerform
  dsimp only
  rw [row, sound]
  dsimp only
  rw [if_neg opens, if_neg (show ¬(g.refilled s.clkw).closed = true from ne_true_of_eq_false open_), if_neg user, hk]
  dsimp only
  rw [he]
  rfl

theorem gatePerform_of_closed (hg : s.gate q.num = some g) (sound : gateBad (some (g.refilled s.clkw)) q = none) (opens : q.minor ≠ 0)
    (closed : g.closed = true) :
    s.gatePerform q = (s.bucketsNow q.num).gateAnswer q.key (.status 2 g.counter.toNat) := by
  have row := gate_updGate_self (fun g => g.refilled s.clkw) q.num hg
  unfold State.gatePerform
  dsimp only
  rw [row, sound]
  dsimp only
  rw [if_neg opens, if_pos (show (g.refilled s.clkw).closed = true from closed)]
  rfl

theorem gatePerform_of_closes (hg : s.gate q.num = some g) (sound : gateBad (some (g.refilled s.clkw)) q = none) (close : q.minor = 1)
    (open_ : g.closed = false) :
    s.gatePerform q = (((s.bucketsNow q.num).updGate q.num fun x =>
      { x with closed := true }).releaseWaiters q.num (fun _ => true) 2).gateAnswer q.key (.status 0 0) := by
  have row := gate_updGate_self (fun g => g.refilled s.clkw) q.num hg
  unfold State.gatePerform
  dsimp only
  rw [row, sound]
  dsimp only
  rw [if_neg (by omega), if_neg (show ¬(g.refilled s.clkw).closed = true from ne_true_of_eq_false open_), if_pos close]
  rfl

theorem gatePerform_of_opens (hg : s.gate q.num = some g) (sound : gateBad (some (g.refilled s.clkw)) q = none) (opens : q.minor = 0) :
    s.gatePerform q = (s.bucketsNow q.num).gateAnswer q.key (.status 0 (q.num + 2 ^ 32 * g.gen.toNat)) := by
  have row := gate_updGate_self (fun g => g.refilled s.clkw) q.num hg
  unfold State.gatePerform
  dsimp only
  rw [row, sound]
  dsimp only
  rw [if_pos opens]
  rfl

/-- An entry whose bucket is off or holds a token serves its caller. -/
theorem use_of_token (h : e.period = 0 ∨ e.tokens ≠ 0) :
    e.use = (if e.period = 0 then e else { e with tokens := e.tokens - 1 }, true) := by
  unfold AclEnt.use
  rcases h with off | token
  · simp [off]
  · rw [if_neg token]
    split <;> rfl

theorem use_of_empty (rated : e.period ≠ 0) (empty : e.tokens = 0) : e.use = ({ e with refused := min (e.refused + 1) 0xFFFF }, false) := by
  simp [AclEnt.use, rated, empty]

end

/-! ## Buckets -/

/-- The entry named is brought up to date when it is valid. -/
theorem refill_ite (now k : Nat) (x : AclEnt × Nat) :
    (if x.2 = k && x.1.valid then x.1.refill now else x.1) =
      if x.2 = k ∧ x.1.valid then
        (if x.1.period = 0 then x.1
         else { x.1 with tokens := min x.1.cap (x.1.tokens + (now / x.1.period - x.1.filled))
                         filled := max x.1.filled (now / x.1.period) })
      else x.1 := by
  simp only [AclEnt.refill, Bool.and_eq_true, decide_eq_true_eq]

/-! ## Replies -/

section
variable {s : State} {r : Nat} {q : GateReq} {a : GateAns} {l : ThreadId} {ls : List ThreadId}

theorem execGateReply_of_answer (hq : s.gateReqs.find? (·.key = r) = some q) (ha : q.ans = some a) (ho : q.owners = l :: ls) :
    execGateReply r s = .next (if s.gateHere q = [] then s else s.gateDeliver q (s.gateHere q) a) := by
  simp only [execGateReply, hq, ha, ho, List.isEmpty_cons, Bool.false_or]
  cases s.gateHere q <;> rfl

theorem gateResult_eq (q : GateReq) (code v : Nat) (t : Thread) :
    gateResult q code v t =
      if q.minor = 0 then t.writeReg q.dst 2 v 0
      else if q.minor = 4 ∨ q.minor = 5 then t.writeReg q.dst 4 (code + 2 ^ 64 * v) 0
      else t.writeReg q.dst 1 code 0 := by
  unfold gateResult
  split <;> simp_all

theorem gateAcquires_iff (m code : Nat) : gateAcquires m code = true ↔ code = 0 ∧ m ∈ [3, 4, 5] := by
  simp only [gateAcquires, Bool.and_eq_true, Bool.or_eq_true, decide_eq_true_eq, List.mem_cons, List.not_mem_nil, or_false, or_assoc]
  rfl

/-- The requests that are left when some threads of one have its reply. -/
def State.gateLeft (s : State) (q : GateReq) (here : List ThreadId) : State :=
  { s with gateReqs := if (q.without here).owners.isEmpty then s.gateReqs.filter (·.key ≠ q.key)
      else s.gateReqs.map fun y : GateReq => if y.key = q.key then q.without here else y }

/-- What a reply does in the threads of its request that are on a core, and in the snapshots of their teams. -/
def State.gateTold (s : State) (q : GateReq) (here : List ThreadId) (e : Thread → Thread) : State :=
  (((here.map (·.team)).eraseDups).foldl (fun s t => s.recordReply t q.key e) (s.gateLeft q here)).updThreads here e

theorem gateDeliver_status (here : List ThreadId) (code v : Nat) :
    s.gateDeliver q here (.status code v) =
      (let teams := (here.map (·.team)).eraseDups
       let z := s.gateTold q here fun t => (gateResult q code v t).pastGate
       (if gateAcquires q.minor code then (teams.map (·.core)).eraseDups.foldl (fun s c => s.acquire c) z else z).commitsAfter teams) :=
  rfl

theorem gateDeliver_trap (here : List ThreadId) (i : Nat) :
    s.gateDeliver q here (.trap i) = (s.gateTold q here fun t => { t with park := .ready }).raises
      ((if q.lead then q.owners.head?.toList.filter here.contains else []).map fun l => (l, trapR 0x14 i 0)) :=
  rfl

/-- GATE is raised in the leader, when the reply reaches it. -/
theorem leadTrap_eq (ho : q.owners = l :: ls) (here : List ThreadId) (x : Raise) :
    (if q.lead then q.owners.head?.toList.filter here.contains else []).map (fun i => (i, x)) =
      if q.lead = true ∧ l ∈ here then [(l, x)] else [] := by
  by_cases lead : q.lead = true <;> by_cases reached : l ∈ here <;> simp [ho, lead, reached]

theorem gateLeft_eq (s : State) (ho : q.owners = l :: ls) (here : List ThreadId) :
    s.gateLeft q here =
      (let rest := q.owners.filter fun i => !here.contains i
       { s with gateReqs := if rest = [] then s.gateReqs.filter (·.key ≠ q.key) else s.gateReqs.map fun y : GateReq =>
          if y.key = q.key then { q with owners := rest, lead := q.lead && !here.contains l } else y }) := by
  have same : q.without here =
      { q with owners := q.owners.filter fun i => !here.contains i, lead := q.lead && !here.contains l } := by
    simp [GateReq.without, ho]
  simp only [State.gateLeft, same, List.isEmpty_iff]

end

/-- Settles O48. -/
theorem gateHomeAndReply : Obligations.GateHomeAndReply := by
  unfold Obligations.GateHomeAndReply
  refine ⟨?uses, ?refused, ?closes, ?opens, ?reply, ?refill⟩
  case uses =>
    rintro s r k q g e ⟨hq, sent, fresh, unanswered, hg, few, valid, gen⟩ ⟨hk, he, right⟩ open_ token
    obtain rfl : q.key = r := by simpa using List.find?_some hq
    have performed : q.minor ≠ 0 → q.minor ≠ 1 → exec (.gateHomeRequest q.key) s = .next
        (((s.bucketsNow q.num).updGate q.num fun x =>
          { x with acl := x.acl.set k (if e.period = 0 then e else { e with tokens := e.tokens - 1 }) }).gateEffect (g.refilled s.clkw) q) := by
      intro opens user
      refine (execGateHomeRequest_of_asks hq sent fresh unanswered).trans ?_
      rw [gatePerform_of_uses hg (gateBad_of_allows few valid gen user hk he right) opens user hk he open_, use_of_token token]
      rfl
    refine ⟨fun m => (performed (by omega) (by omega)).trans ?_, fun m => (performed (by omega) (by omega)).trans ?_,
      fun m => (performed (by omega) (by omega)).trans ?_, fun m reached => (performed (by omega) (by omega)).trans ?_,
      fun m ahead => (performed (by omega) (by omega)).trans ?_⟩
    · simp only [State.gateEffect, m]
      rfl
    · simp only [State.gateEffect, m]
      rfl
    · simp only [State.gateEffect, m]
      rfl
    · simp only [State.gateEffect, m]
      exact congrArg _ (if_pos reached)
    · simp only [State.gateEffect, m]
      exact congrArg _ (if_neg (Nat.not_le.mpr ahead))
  case refused =>
    rintro s r k q g e ⟨hq, sent, fresh, unanswered, hg, few, valid, gen⟩ ⟨hk, he, right⟩ minor
    obtain rfl : q.key = r := by simpa using List.find?_some hq
    have performed : exec (.gateHomeRequest q.key) s = .next (s.gatePerform q) := execGateHomeRequest_of_asks hq sent fresh unanswered
    simp only [List.mem_cons, List.not_mem_nil, or_false] at minor
    have sound := gateBad_of_allows (q := q) (g := g.refilled s.clkw) few valid gen (by omega) hk he right
    refine ⟨fun closed => performed.trans ?_, fun open_ rated empty => performed.trans ?_⟩
    · rw [gatePerform_of_closed hg sound (by omega) closed]
      rfl
    · rw [gatePerform_of_uses hg sound (by omega) (by omega) hk he open_, use_of_empty rated empty]
      rfl
  case closes =>
    rintro s r q g ⟨hq, sent, fresh, unanswered, hg, few, valid, gen⟩ close own open_
    obtain rfl : q.key = r := by simpa using List.find?_some hq
    refine (execGateHomeRequest_of_asks hq sent fresh unanswered).trans ?_
    rw [gatePerform_of_closes hg (gateBad_of_owner few valid gen close own) close open_]
    rfl
  case opens =>
    rintro s r k q g e ⟨hq, sent, fresh, unanswered, hg, few, valid, gen⟩ opens ⟨hk, he, right⟩
    obtain rfl : q.key = r := by simpa using List.find?_some hq
    refine (execGateHomeRequest_of_asks hq sent fresh unanswered).trans ?_
    rw [gatePerform_of_opens hg (gateBad_of_allows few valid gen (by omega) hk he right) opens]
    rfl
  case reply =>
    intro s r q a l ls hq ha ho here rest u teams told
    have delivered : here ≠ [] → exec (.gateReply r) s = .next (s.gateDeliver q here a) := fun some_here =>
      (execGateReply_of_answer hq ha ho).trans (congrArg _ (if_neg some_here))
    have same_told : ∀ e, s.gateTold q here e = told e := fun e => by rw [State.gateTold, gateLeft_eq s ho here]
    refine ⟨fun none_here => (execGateReply_of_answer hq ha ho).trans (congrArg _ (if_pos none_here)), ?_, ?_⟩
    · rintro code v some_here rfl z
      rw [delivered some_here, gateDeliver_status, same_told]
      simp only [gateResult_eq, gateAcquires_iff]
      rfl
    · rintro i some_here rfl
      rw [delivered some_here, gateDeliver_trap, same_told, leadTrap_eq ho]
  case refill =>
    intro s n k
    simp only [← refill_ite]
    rfl

end Sys2Proof.Machine

namespace Sys2Proof.Machine

open Claims

/-! # Gate instructions at issue (R348, R349, R355, R356) -/

/-- The effect of a gate instruction on the group that issues it. -/
def gateAct (m : Nat) (f : L2R) (g : UniGroup) (s : State) : UniRes :=
  let num := g.lt.readReg g.env f.a.toNat 1
  let gen := if m = 0 then 0 else g.lt.readReg g.env (f.a.toNat + 1) 1
  let x := if m = 3 || m = 4 then g.lt.readReg g.env f.b.toNat 2 else 0
  let guarded := g.teams.filter fun t => (s.team t).any Team.guarded
  if s.quiescing (s.ctxId g.leader) then s.groupWaits g.all (.ordered .quiesce)
  else if 65535 < num || !((s.gate num).any (·.valid)) then .trap s (trapR 0x14 4 0)
  else if s.mustCommits g.teams then .stay (s.commitsFirst g.teams)
  else if guarded.any fun t => !s.quiet t then .stay (s.waitOrder g.all .quiet)
  else if (m = 2 || m = 4) && !(s.earlier g.all).isEmpty then s.groupWaits g.all (.ordered .earlier)
  else
    let s := if m = 2 || m = 4 then s.expose g.leader.team.core fun d => d.owners.any g.all.contains else s
    .done (guarded.foldl State.commit (s.gateSend g m num gen x f.d.toNat))

theorem runGate_eq (m : Nat) (f : L2R) (s : State) : runGate m f s = runUniform (gateUni m f) s (gateAct m f) := rfl

section
variable {m : Nat} {f : L2R} {s : State} {l : ThreadId} {lt : Thread}

/-- The request of a leader's group, its threads parked for the reply. -/
theorem gateSend_eq (h : (s.onGroup f.toL1).head? = some (l, lt)) (u w : State) (num gen x : Nat) :
    let r : GateReq := ⟨true, w.seq, m, num, gen, x, (w.ctxId l).vf, w.ctxId l, s.onIds f.toL1, f.d.toNat, true, false, none⟩
    w.gateSend (fullGroup s u f.toL1 l lt) m num gen x f.d.toNat =
      { w with seq := w.seq + 1, gateReqs := w.gateReqs ++ [r] }.updThreads (s.onIds f.toL1) fun t => { t with park := .gate w.seq } := by
  have leads : (s.onIds f.toL1).head? = some l := by
    rw [State.onIds, List.head?_map, h]
    rfl
  simp only [State.gateSend, fullGroup, leads, State.fresh, decide_true]
  rfl

/-- The effect on a group whose destinations pass, with the operands that the leader read before the others stepped past. -/
theorem gateAct_fullGroup (h : (s.onGroup f.toL1).head? = some (l, lt)) :
    let num := lt.readReg (s.env l) f.a.toNat 1
    let u := s.stepAll (s.offIds f.toL1) 2
    let guarded := (teamsOf s f.toL1).filter fun t => (u.team t).any Team.guarded
    let w := if m = 2 ∨ m = 4 then u.expose l.team.core fun d => d.owners.any (s.onIds f.toL1).contains else u
    let r : GateReq :=
      ⟨true, w.seq, m, num, if m = 0 then 0 else lt.readReg (s.env l) (f.a.toNat + 1) 1,
        if m = 3 ∨ m = 4 then lt.readReg (s.env l) f.b.toNat 2 else 0, (w.ctxId l).vf, w.ctxId l, s.onIds f.toL1, f.d.toNat,
        true, false, none⟩
    gateAct m f (fullGroup s u f.toL1 l lt) u =
      if u.quiescing (u.ctxId l) = true then .parked (u.updThreads (s.onIds f.toL1) fun t => { t with park := .ordered .quiesce })
      else if ¬(num < 65536 ∧ (u.gate num).any (·.valid) = true) then .trap u (trapR 0x14 4 0)
      else if u.mustCommits (teamsOf s f.toL1) = true then .stay (u.commitsFirst (teamsOf s f.toL1))
      else if ∃ t ∈ guarded, u.quiet t = false then
        .stay (u.updThreads (s.onIds f.toL1) fun t => { t with park := .ordered .quiet })
      else if (m = 2 ∨ m = 4) ∧ u.earlier (s.onIds f.toL1) ≠ [] then
        .parked (u.updThreads (s.onIds f.toL1) fun t => { t with park := .ordered .earlier })
      else .done (guarded.foldl State.commit ({ w with seq := w.seq + 1, gateReqs := w.gateReqs ++ [r] }.updThreads (s.onIds f.toL1)
        fun t => { t with park := .gate w.seq })) := by
  intro num u guarded w r
  have trap_iff : (65535 < num || !((u.gate num).any (·.valid))) = true ↔ ¬(num < 65536 ∧ (u.gate num).any (·.valid) = true) := by
    simp only [Bool.or_eq_true, decide_eq_true_eq, Bool.not_eq_true', not_and_or, Bool.not_eq_true, not_lt]
    exact Iff.rfl
  have busy_iff : (guarded.any fun t => !u.quiet t) = true ↔ ∃ t ∈ guarded, u.quiet t = false := by
    simp
  have release_iff : (decide (m = 2) || decide (m = 4)) = true ↔ m = 2 ∨ m = 4 := by simp
  have wide_iff : (decide (m = 3) || decide (m = 4)) = true ↔ m = 3 ∨ m = 4 := by simp
  have before_iff : ((decide (m = 2) || decide (m = 4)) && !(u.earlier (s.onIds f.toL1)).isEmpty) = true ↔
      (m = 2 ∨ m = 4) ∧ u.earlier (s.onIds f.toL1) ≠ [] := by simp
  have sent := gateSend_eq (m := m) h u w num (if m = 0 then 0 else lt.readReg (s.env l) (f.a.toNat + 1) 1)
    (if m = 3 ∨ m = 4 then lt.readReg (s.env l) f.b.toNat 2 else 0)
  rw [← sent]
  simp only [gateAct, u, readReg_fullGroup]
  refine if_congr Iff.rfl rfl (if_congr trap_iff rfl (if_congr Iff.rfl rfl (if_congr busy_iff rfl (if_congr before_iff rfl ?_))))
  simp only [wide_iff, release_iff]
  rfl

end

theorem not_exists_busy {u : State} {ts : List TeamId} (h : ∀ t ∈ ts, u.quiet t = true) : ¬∃ t ∈ ts, u.quiet t = false :=
  fun ⟨t, ht, busy⟩ => absurd (h t ht) (ne_true_of_eq_false busy)

/-- Every gate instruction is its effect on the group that issues it. -/
theorem gateForm_of {c : L2R → Instr} {m : Nat} (hc : ∀ f s, exec (c f) s = runUniform (gateUni m f) s (gateAct m f))
    (hw : ∀ f, (c f).WellFormed → (gateUni m f).legal = true) : GateForm c m := by
  intro f s l lt wf h num u guarded releases w r waits valid
  have hl := hw f wf
  have act := gateAct_fullGroup (m := m) h.1
  refine ⟨fun quiesced => ?_, fun runs bad => ?_, fun runs good => ⟨fun dirty => ?_, fun clean => ⟨fun busy => ?_, fun quiet =>
    ⟨fun orders before => ?_, fun none_before => ?_⟩⟩⟩⟩ <;> rw [hc]
  · exact runUniform_next rfl rfl hl h rfl (.inr (act.trans (if_pos quiesced)))
  · refine runUniform_trap rfl rfl hl h rfl (act.trans ?_)
    rw [if_neg (ne_true_of_eq_false runs), if_pos bad]
  · refine runUniform_stay rfl rfl hl h rfl (act.trans ?_)
    rw [if_neg (ne_true_of_eq_false runs), if_neg (not_not.mpr good), if_pos dirty]
  · refine runUniform_stay rfl rfl hl h rfl (act.trans ?_)
    rw [if_neg (ne_true_of_eq_false runs), if_neg (not_not.mpr good), if_neg (ne_true_of_eq_false clean), if_pos busy]
  · refine runUniform_next rfl rfl hl h rfl (.inr (act.trans ?_))
    rw [if_neg (ne_true_of_eq_false runs), if_neg (not_not.mpr good), if_neg (ne_true_of_eq_false clean),
      if_neg (not_exists_busy quiet), if_pos ⟨orders, before⟩]
  · refine runUniform_next rfl rfl hl h rfl (.inl (act.trans ?_))
    rw [if_neg (ne_true_of_eq_false runs), if_neg (not_not.mpr good), if_neg (ne_true_of_eq_false clean),
      if_neg (not_exists_busy quiet), if_neg fun both => both.2 (none_before both.1)]

/-- Settles O47: the six instructions are one effect. -/
theorem gateRequestsGoHome : Obligations.GateRequestsGoHome :=
  ⟨gateForm_of (fun _ _ => rfl) fun _ h => h, gateForm_of (fun _ _ => rfl) fun _ h => h, gateForm_of (fun _ _ => rfl) fun _ h => h,
    gateForm_of (fun _ _ => rfl) fun _ h => h, gateForm_of (fun _ _ => rfl) fun _ h => h, gateForm_of (fun _ _ => rfl) fun _ h => h⟩

end Sys2Proof.Machine

namespace Sys2Proof.Machine

/-! # The hoist's fills (R363, R366) -/

section
variable {s : State} {k v : Nat} {x : Fill}

/-- A header read that is next in its core's order, of an image that is not in the store, whose header translates. -/
theorem execOverlayHeaderRead_of_read (hx : s.fills.find? (·.key = k) = some x) (new : x.slot = none) (answered : x.waits = [])
    (may : s.fillMay x = true)
    (next : (s.fills.takeWhile (·.key ≠ k)).any (fun y => y.core = x.core && (y.slot.isNone && y.waits.isEmpty && s.fillMay y)) = false)
    (absent : (s.core x.core).tagged x.ctx.vf (s.pasid x.ctx) x.image = none)
    (hv : s.readHeader (viewAt x.ctx x.core) x.image = .ok v) :
    execOverlayHeaderRead k s =
      match s.badLines (viewAt x.ctx x.core) x.image 8 with
      | some (gpa, src) => .next ((s.countBad x.ctx gpa src).failFill x 2)
      | none =>
        match headerOf v with
        | none => .next (s.failFill x 2)
        | some h => .next (s.startFill x h) := by
  simp only [execOverlayHeaderRead, hx]
  rw [if_neg (by simp only [new, answered, may, next]; decide)]
  simp only [absent, hv]
  rfl

/-- A body fill whose image translates and holds no uncorrectable error. -/
theorem execOverlayFillComplete_of_read {o : Overlay} {bs : List Byte} (hx : s.fills.find? (·.key = k) = some x)
    (slot : x.slot = some o.first) (answered : x.waits = []) (ho : (s.core x.core).overlayAt o.first = some o)
    (hit : s.missVa (viewAt x.ctx x.core) (x.image + 0x400) (4 * o.len) false = none)
    (sound : s.badLines (viewAt x.ctx x.core) (x.image + 0x400) ((4 * o.len + 127) / 128) = none)
    (hb : s.readVa (viewAt x.ctx x.core) (x.image + 0x400) (4 * o.len) = .ok bs) :
    execOverlayFillComplete k s = .next (s.endFill x o bs) := by
  simp only [execOverlayFillComplete, hx, slot, Option.bind_some, ho]
  rw [if_neg (by simp [answered])]
  simp only [hit, sound, hb]

theorem loseFill_of_slot {n code : Nat} (slot : x.slot = some n) :
    s.loseFill x code = (s.updCore x.core fun c => c.spoilOverlay n).failFill x code := by
  simp only [State.loseFill, slot]

end

/-- Settles O50. -/
theorem hoistFills : Obligations.HoistFills := by
  unfold Obligations.HoistFills
  refine ⟨?faulty, ?good, ?struck, ?resident, ?mismatch⟩
  case faulty =>
    rintro s k v x ⟨hx, new, answered, may, next, absent, hv⟩ sound none_good
    refine (execOverlayHeaderRead_of_read hx new answered may next absent hv).trans ?_
    simp only [sound, none_good]
  case good =>
    rintro s k v x h ⟨hx, new, answered, may, next, absent, hv⟩ sound good
    refine (execOverlayHeaderRead_of_read hx new answered may next absent hv).trans ?_
    simp only [sound, good]
  case struck =>
    rintro s k v gpa src x ⟨hx, new, answered, may, next, absent, hv⟩ bad
    refine (execOverlayHeaderRead_of_read hx new answered may next absent hv).trans ?_
    simp only [bad]
  case resident =>
    rintro s k x o bs ⟨hx, slot, answered, ho, hit, hb⟩ sound same
    refine (execOverlayFillComplete_of_read hx slot answered ho hit sound hb).trans ?_
    rw [State.endFill, if_neg (not_not.mpr same)]
    rfl
  case mismatch =>
    rintro s k x o bs ⟨hx, slot, answered, ho, hit, hb⟩ sound differ
    refine (execOverlayFillComplete_of_read hx slot answered ho hit sound hb).trans ?_
    rw [State.endFill, if_pos differ, loseFill_of_slot slot]
    rfl

end Sys2Proof.Machine

namespace Sys2Proof.Machine

open Claims

/-! # Overlay instructions (R365 to R369) -/

section
variable {f : L2R} {s : State} {l : ThreadId} {lt : Thread}

/-- The state in which the guarded-off threads of a group have stepped past. -/
def State.passed (s : State) (f : L2R) : State := s.stepAll (s.offIds f.toL1) 2

/-- The result of an overlay instruction, in each guard-true thread of its group. -/
def State.ovGives (w s : State) (f : L2R) (v : Nat) : State :=
  w.updThreads (s.onIds f.toL1) fun t => (t.writeReg f.d.toNat 1 v 0).step 2

/-- The overlay of an image in the store of a leader's core. -/
def State.ovFound (s : State) (f : L2R) (l : ThreadId) (i : Nat) : Option Overlay :=
  ((s.passed f).core l.team.core).tagged ((s.passed f).ctxId l).vf ((s.passed f).pasid ((s.passed f).ctxId l)) i

theorem leader_fullGroup (s u : State) (f : L1) (l : ThreadId) (lt : Thread) : (fullGroup s u f l lt).leader = l := rfl

theorem readReg_passed (s : State) (f : L2R) (l : ThreadId) (lt : Thread) (n w : Nat) :
    (fullGroup s (s.passed f) f.toL1 l lt).lt.readReg (fullGroup s (s.passed f) f.toL1 l lt).env n w = lt.readReg (s.env l) n w :=
  readReg_fullGroup s f.toL1 l lt n w

theorem imageBad_of_page {i : Nat} (canon : canonical i 1 = true) (page : i % 4096 = 0) : imageBad i = none := by
  rw [imageBad, if_neg (by simp [canon]), if_neg (by simp [page])]

theorem hoistCommits_of_found {g : UniGroup} {i : Nat} {o : Overlay}
    (h : (s.core g.leader.team.core).tagged (s.ctxId g.leader).vf (s.pasid (s.ctxId g.leader)) i = some o) : s.hoistCommits g i = false := by
  simp only [State.hoistCommits, h, Option.isNone_some, Bool.false_and]

theorem hoistCommits_of_clean {g : UniGroup} {i : Nat} (h : ¬∃ t ∈ g.teams, s.heldFor t g.all 0 = true) : s.hoistCommits g i = false := by
  have clean : (g.teams.any fun t => s.heldFor t g.all 0) = false := by
    rw [List.any_eq_false]
    exact fun t ht held => h ⟨t, ht, held⟩
  simp only [State.hoistCommits, clean, Bool.and_false]

/-! ## OVLD -/

section
variable (hl : (ovldUni f).legal = true) (h : s.leads f.toL1 [⟨.src 2, f.a.toNat⟩] [⟨.dst 1, f.d.toNat⟩] l lt)
  (canon : canonical (lt.readReg (s.env l) f.a.toNat 2) 1 = true) (page : lt.readReg (s.env l) f.a.toNat 2 % 4096 = 0)
include hl h canon page

theorem execOvld_of_found {o : Overlay} (found : s.ovFound f l (lt.readReg (s.env l) f.a.toNat 2) = some o) :
    execOvld f s = .next ((((s.passed f).updCore l.team.core fun k => k.updOverlay o.first fun x =>
      x.addRef ((s.passed f).ctxId l)).stampOverlay l.team.core o).ovGives s f (((s.passed f).core l.team.core).tokenOf o)) := by
  rw [execOvld]
  refine runUniform_next (u := s.passed f) rfl rfl hl h rfl (.inl ?_)
  simp only [readReg_passed, leader_fullGroup]
  rw [imageBad_of_page canon page]
  dsimp only
  rw [show ((s.passed f).core l.team.core).tagged _ _ _ = some o from found]
  rfl

theorem execOvld_of_absent (absent : s.ovFound f l (lt.readReg (s.env l) f.a.toNat 2) = none)
    (clean : ¬∃ t ∈ teamsOf s f.toL1, (s.passed f).heldFor t (s.onIds f.toL1) 0 = true) :
    let x : Fill := ⟨s.seq, l.team.core, (s.passed f).ctxId l, lt.readReg (s.env l) f.a.toNat 2, s.onIds f.toL1,
      some (s.onIds f.toL1, f.d.toNat), none, [], false, 0⟩
    execOvld f s = .next ({ s.passed f with seq := s.seq + 1, fills := s.fills ++ [x] }.updThreads (s.onIds f.toL1) fun t =>
      { t with park := .ovld s.seq f.d.toNat }) := by
  rw [execOvld]
  refine runUniform_next (u := s.passed f) rfl rfl hl h rfl (.inl ?_)
  simp only [readReg_passed, leader_fullGroup]
  rw [imageBad_of_page canon page]
  dsimp only
  rw [show ((s.passed f).core l.team.core).tagged _ _ _ = none from absent]
  dsimp only
  rw [if_neg (ne_true_of_eq_false (hoistCommits_of_clean (g := fullGroup s (s.passed f) f.toL1 l lt) clean))]
  rfl

end

/-! ## Instructions on a token -/

/-- The overlay that a leader's token names. -/
def State.ovOwn (s : State) (f : L2R) (l : ThreadId) (lt : Thread) : Option Overlay :=
  (s.passed f).ownOverlay l.team.core ((s.passed f).ctxId l) (lt.readReg (s.env l) f.a.toNat 1)

section
variable (hl : (ovtokUni f).legal = true) (h : s.leads f.toL1 [⟨.src 1, f.a.toNat⟩] [⟨.dst 1, f.d.toNat⟩] l lt)
include hl h

theorem execOvwait_of_stale (stale : s.ovOwn f l lt = none) : execOvwait f s = .next ((s.passed f).ovGives s f 4) := by
  rw [execOvwait]
  refine runUniform_next (u := s.passed f) rfl rfl hl h rfl (.inl ?_)
  simp only [readReg_passed, leader_fullGroup]
  rw [show (s.passed f).ownOverlay _ _ _ = none from stale]
  rfl

theorem execOvwait_of_resident {o : Overlay} (own : s.ovOwn f l lt = some o) (resident : o.state = .resident) :
    execOvwait f s = .next ((s.passed f).ovGives s f 0) := by
  rw [execOvwait]
  refine runUniform_next (u := s.passed f) rfl rfl hl h rfl (.inl ?_)
  simp only [readReg_passed, leader_fullGroup]
  rw [show (s.passed f).ownOverlay _ _ _ = some o from own]
  dsimp only
  rw [if_pos resident]
  rfl

theorem execOvwait_of_filling {o : Overlay} {x : Fill} (own : s.ovOwn f l lt = some o) (filling : o.state = .filling)
    (hx : s.fills.find? (fun x => x.core = l.team.core && x.slot = some o.first) = some x) :
    execOvwait f s = .next ((s.passed f).updThreads (s.onIds f.toL1) fun t => { t with park := .ovwait x.key f.d.toNat }) := by
  let g := fullGroup s (s.passed f) f.toL1 l lt
  have own_g : (s.passed f).ownOverlay g.leader.team.core ((s.passed f).ctxId g.leader) (g.lt.readReg g.env f.a.toNat 1) = some o := by
    rw [readReg_passed]
    exact own
  have find_g : (s.passed f).fills.find? (fun x => x.core = g.leader.team.core && x.slot = some o.first) = some x := hx
  rw [execOvwait]
  refine runUniform_next (u := s.passed f) rfl rfl hl h rfl (.inl ?_)
  dsimp only
  rw [own_g]
  dsimp only
  rw [if_neg (by simp [filling]), find_g]
  rfl

theorem runOvCount_of_stale {m : Nat} (stale : s.ovOwn f l lt = none) : runOvCount m f s = .next ((s.passed f).ovGives s f 4) := by
  rw [runOvCount]
  refine runUniform_next (u := s.passed f) rfl rfl hl h rfl (.inl ?_)
  simp only [readReg_passed, leader_fullGroup]
  rw [show (s.passed f).ownOverlay _ _ _ = none from stale]
  rfl

/-- What OVPIN, OVUNPIN and OVREL change in the overlay. -/
def ovCount (m : Nat) (x : CtxId) (o : Overlay) : Overlay :=
  match m with
  | 2 => o.addPin x
  | 3 => o.dropPin x
  | _ => o.dropRef x

theorem runOvCount_of_own {m : Nat} {o : Overlay} (own : s.ovOwn f l lt = some o) :
    runOvCount m f s = .next (if m = 2 ∧ (o.pins = 65535 ∨ 56 < o.slots.length + ((s.passed f).core l.team.core).pinned o)
      then (s.passed f).ovGives s f 5
      else ((s.passed f).updCore l.team.core fun k => k.updOverlay o.first fun x => ovCount m ((s.passed f).ctxId l) x).ovGives s f 0) := by
  rw [runOvCount]
  refine runUniform_next (u := s.passed f) rfl rfl hl h rfl (.inl ?_)
  simp only [readReg_passed, leader_fullGroup]
  rw [show (s.passed f).ownOverlay _ _ _ = some o from own]
  dsimp only
  have full_iff : (decide (m = 2) && (decide (o.pins = 65535) || decide (56 < o.slots.length + ((s.passed f).core l.team.core).pinned o))) =
      true ↔ m = 2 ∧ (o.pins = 65535 ∨ 56 < o.slots.length + ((s.passed f).core l.team.core).pinned o) := by
    simp only [Bool.and_eq_true, Bool.or_eq_true, decide_eq_true_eq]
  exact (if_congr full_iff rfl rfl).trans (apply_ite UniRes.done ..).symm

end

end

end Sys2Proof.Machine

namespace Sys2Proof.Machine

open Claims

/-! # CALLO (R369) -/

/-! ## The stamp of an overlay (R363) -/

/-- An overlay with another use stamp. -/
def Overlay.stamped (o : Overlay) (n : Nat) : Overlay := { o with stamp := n }

theorem gens_updOverlay (k : Core) (n : Nat) (e : Overlay → Overlay) : (k.updOverlay n e).gens = k.gens := rfl

/-- The overlay of a tag stays the one found, under its new stamp. -/
theorem tagged_updOverlay_stamp {k : Core} {v : VfId} {p i n t : Nat} {o : Overlay} (h : k.tagged v p i = some o) :
    ∃ m, (k.updOverlay n fun o => { o with stamp := t }).tagged v p i = some (o.stamped m) := by
  let e : Overlay → Overlay := fun o => if o.state ≠ .faulty ∧ o.first = n then { o with stamp := t } else o
  have same : ((fun o : Overlay => decide (o.state ≠ .faulty ∧ o.vf = v ∧ o.pasid = p ∧ o.image = i)) ∘ e) =
      fun o : Overlay => decide (o.state ≠ .faulty ∧ o.vf = v ∧ o.pasid = p ∧ o.image = i) := by
    funext o
    simp only [Function.comp, e]
    split <;> rfl
  have moved : (k.updOverlay n fun o => { o with stamp := t }).tagged v p i = some (e o) := by
    rw [Core.tagged, Core.updOverlay]
    refine (List.find?_map ..).trans ?_
    rw [same]
    exact congrArg (Option.map e) h
  by_cases hit : o.state ≠ .faulty ∧ o.first = n
  · exact ⟨t, moved.trans (congrArg some (if_pos hit))⟩
  · exact ⟨o.stamp, moved.trans (congrArg some (if_neg hit))⟩

/-! ## One thread lands -/

section
variable {v : State} {i : ThreadId} {c : CtxId} {t : Thread} {o : Overlay} {image d e off : Nat} {lead : Bool}

/-- A thread that CALLO lands at an offset of a resident overlay. -/
def Thread.called (t : Thread) (d tok off : Nat) : Thread :=
  { t with regs := (t.writeReg d 2 (pairOf t.pc.tok.toNat (t.pc.off + 2)) 0).regs, pc := ⟨BitVec.ofNat 16 tok, off⟩, park := .ready }

/-- What CALLO does in one thread of its group. -/
def State.calloOne (v : State) (i : ThreadId) (image d e : Nat) (lead : Bool) : State :=
  v.ifRuns i.team fun s => s.reachImage i image (.call d e lead) fun s o => s.land i o (.call d e lead)

theorem calloOne_of_runs (runs : ∃ tm, v.team i.team = some tm ∧ tm.stop = .running) (hc : v.ctxOf i.team = some c) :
    v.calloOne i image d e lead =
      match (v.core i.team.core).tagged c.vf (v.pasid c) image with
      | some o => if o.state = .resident then v.land i o (.call d e lead)
        else (v.stampOverlay i.team.core o).awaitFill i c image (.call d e lead)
      | none => v.awaitFill i c image (.call d e lead) := by
  obtain ⟨tm, htm, running⟩ := runs
  rw [State.calloOne, State.ifRuns, if_pos (by simp [htm, running]), State.reachImage, hc] <;> rfl

theorem land_call_of_entry (ht : v.thread i = some t) (he : o.entries[e]? = some off) :
    v.land i o (.call d e lead) =
      (v.updThread i fun _ => t.called d ((v.core i.team.core).tokenOf o) off).stampOverlay i.team.core o := by
  simp only [State.land, ht, landing, he]
  rfl

theorem land_call_of_none (ht : v.thread i = some t) (he : o.entries[e]? = none) :
    v.land i o (.call d e true) =
      ((v.updThread i fun t => { t with park := .ready }).stampOverlay i.team.core o).deliver i (trapR 0x06 e 0) := by
  simp only [State.land, ht, landing, he]

/-- The leader traps at an entry number that the overlay does not have. -/
theorem calloOne_of_none_there (runs : ∃ tm, v.team i.team = some tm ∧ tm.stop = .running) (hc : v.ctxOf i.team = some c)
    (found : (v.core i.team.core).tagged c.vf (v.pasid c) image = some o) (resident : o.state = .resident) (ht : v.thread i = some t)
    (he : o.entries[e]? = none) :
    v.calloOne i image d e true =
      ((v.updThread i fun t => { t with park := .ready }).stampOverlay i.team.core o).deliver i (trapR 0x06 e 0) := by
  rw [calloOne_of_runs runs hc, found]
  dsimp only
  rw [if_pos resident, land_call_of_none ht he]

end

/-! ## The group lands, or waits for its fill -/

/-- A state that differs from the one of the issue in threads and cores only, in which the image is still in the store of a core. -/
structure CallsInto (u v : State) (k : CoreId) (c : CtxId) (image : Nat) (o : Overlay) : Prop where
  frame : v = { u with threads := v.threads, cores := v.cores }
  found : ∃ m, (v.core k).tagged c.vf (v.pasid c) image = some (o.stamped m)
  gens : (v.core k).gens = (u.core k).gens

section
variable {u v : State} {k : CoreId} {c : CtxId} {image d e off : Nat} {o : Overlay} {x : ThreadId × Thread}

theorem CallsInto.step (inv : CallsInto u v k c image o) (i : ThreadId) (t : Thread) :
    CallsInto u ((v.updThread i fun _ => t).stampOverlay k o) k c image o := by
  obtain ⟨frame, ⟨m, found⟩, gens⟩ := inv
  have core : ((v.updThread i fun _ => t).stampOverlay k o).core k =
      (v.core k).updOverlay o.first fun y => { y with stamp := (v.updThread i fun _ => t).cycle } := core_updCore_self ..
  refine ⟨?_, ?_, ?_⟩
  · rw [frame]
    rfl
  · obtain ⟨m', again⟩ := tagged_updOverlay_stamp (n := o.first) (t := (v.updThread i fun _ => t).cycle) found
    rw [core]
    exact ⟨m', again⟩
  · rw [core, gens_updOverlay, gens]

/-- One thread of the group lands. -/
theorem CallsInto.calloOne (inv : CallsInto u v k c image o) (resident : o.state = .resident) (he : o.entries[e]? = some off)
    (at_core : x.1.team.core = k) (hc : u.ctxOf x.1.team = some c) (runs : ∃ tm, u.team x.1.team = some tm ∧ tm.stop = .running)
    (ht : v.thread x.1 = some x.2) (lead : Bool) :
    v.calloOne x.1 image d e lead =
      (v.updThread x.1 fun _ => x.2.called d ((u.core k).tokenOf o) off).stampOverlay k o := by
  obtain ⟨frame, ⟨m, found⟩, gens⟩ := inv
  have same_team : v.team x.1.team = u.team x.1.team := by rw [frame]; rfl
  have same_ctx : v.ctxOf x.1.team = u.ctxOf x.1.team := by rw [frame]; rfl
  have same_tok : (v.core k).tokenOf (o.stamped m) = (u.core k).tokenOf o := by
    simp only [Core.tokenOf, Core.gen, gens]
    rfl
  rw [calloOne_of_runs (same_team ▸ runs) (same_ctx.trans hc), at_core, found]
  dsimp only
  rw [if_pos (show (o.stamped m).state = .resident from resident), land_call_of_entry (o := o.stamped m) ht he, at_core, same_tok]
  rfl

/-- The threads of a group land one after another. -/
theorem CallsInto.foldl {xs : List (ThreadId × Thread)} (inv : CallsInto u v k c image o) (resident : o.state = .resident)
    (he : o.entries[e]? = some off) (here : ∀ x ∈ xs, x.1.team.core = k ∧ u.ctxOf x.1.team = some c ∧
      ∃ tm, u.team x.1.team = some tm ∧ tm.stop = .running)
    (rows : ∀ x ∈ xs, v.thread x.1 = some x.2) (nodup : (xs.map (·.1)).Nodup) (lead : ThreadId → Bool) :
    (xs.map (·.1)).foldl (fun s i => s.calloOne i image d e (lead i)) v =
      xs.foldl (fun v x => (v.updThread x.1 fun _ => x.2.called d ((u.core k).tokenOf o) off).stampOverlay k o) v := by
  induction xs generalizing v with
  | nil => rfl
  | cons x xs ih =>
    obtain ⟨at_core, hc, runs⟩ := here x List.mem_cons_self
    rw [List.map_cons, List.nodup_cons] at nodup
    rw [List.map_cons, List.foldl_cons, List.foldl_cons,
      inv.calloOne resident he at_core hc runs (rows x List.mem_cons_self)]
    refine ih (inv.step _ _) (fun y hy => here y (List.mem_cons_of_mem _ hy)) (fun y hy => ?_) nodup.2
    have other : y.1 ≠ x.1 := fun same => nodup.1 (same ▸ List.mem_map_of_mem hy)
    have row : (v.updThread x.1 fun _ => x.2.called d ((u.core k).tokenOf o) off).thread y.1 = some y.2 := by
      rw [thread_updThread, rows y (List.mem_cons_of_mem _ hy), Option.map_some, if_neg other]
    exact row

/-- A state that differs from the one of the issue in threads, numbers and fills only. -/
def State.fillsFrom (v u : State) : Prop := v = { u with threads := v.threads, seq := v.seq, fills := v.fills }

theorem demandFill_frame (v : State) (i : ThreadId) (x : CtxId) (image : Nat) :
    (v.demandFill i x image).1 = { v with seq := (v.demandFill i x image).1.seq, fills := (v.demandFill i x image).1.fills } := by
  unfold State.demandFill
  split <;> rfl

/-- A thread whose team holds no write of it in stream 0 waits for the fill of an image, and that is all that changes. -/
theorem awaitFill_fillsFrom {i : ThreadId} {then_ : FillThen} (h : v.fillsFrom u) (clean : v.heldFor i.team [i] 0 = false) :
    (v.awaitFill i c image then_).fillsFrom u := by
  have frame := demandFill_frame v i c image
  rw [State.awaitFill, if_neg (ne_true_of_eq_false clean)]
  dsimp only
  rw [State.fillsFrom, frame, h]
  rfl

theorem heldFor_of_subset {t : TeamId} {ids : List ThreadId} {i : ThreadId} (hi : i ∈ ids) (clean : v.heldFor t ids 0 = false) :
    v.heldFor t [i] 0 = false := by
  simp only [State.heldFor, List.any_eq_false, Bool.or_eq_true, Bool.and_eq_true, not_or, not_and] at clean ⊢
  intro a ha
  refine ⟨(clean a ha).1, fun strm owner => (clean a ha).2 strm ?_⟩
  obtain ⟨j, hj, same⟩ := List.any_eq_true.mp owner
  exact List.any_eq_true.mpr ⟨j, hj, by simp_all⟩

/-- The threads of a group wait one after another for the fill of an image that is not in the store. -/
theorem calloFold_waits {is : List ThreadId} (h : v.fillsFrom u) (absent : (u.core k).tagged c.vf (u.pasid c) image = none)
    (here : ∀ i ∈ is, i.team.core = k ∧ u.ctxOf i.team = some c ∧ ∃ tm, u.team i.team = some tm ∧ tm.stop = .running)
    (clean : ∀ i ∈ is, u.heldFor i.team [i] 0 = false) (lead : ThreadId → Bool) :
    is.foldl (fun s i => s.calloOne i image d e (lead i)) v = is.foldl (fun v i => v.awaitFill i c image (.call d e (lead i))) v := by
  induction is generalizing v with
  | nil => rfl
  | cons i is ih =>
    obtain ⟨at_core, hc, runs⟩ := here i List.mem_cons_self
    have same_team : v.team i.team = u.team i.team := by rw [h]; rfl
    have same_ctx : v.ctxOf i.team = u.ctxOf i.team := by rw [h]; rfl
    have same_found : (v.core k).tagged c.vf (v.pasid c) image = none := by rw [h]; exact absent
    have same_held : v.heldFor i.team [i] 0 = false := by rw [h]; exact clean i List.mem_cons_self
    have waits : v.calloOne i image d e (lead i) = v.awaitFill i c image (.call d e (lead i)) := by
      rw [calloOne_of_runs (same_team ▸ runs) (same_ctx.trans hc), at_core, same_found]
    rw [List.foldl_cons, List.foldl_cons, waits]
    exact ih (awaitFill_fillsFrom h same_held) (fun j hj => here j (List.mem_cons_of_mem _ hj))
      fun j hj => clean j (List.mem_cons_of_mem _ hj)

end

/-! ## The instruction -/

section
variable {f : L2R} {s : State} {l : ThreadId} {lt : Thread}

theorem row_passed {x : ThreadId × Thread} (hx : x ∈ s.onGroup f.toL1) : (s.passed f).thread x.1 = some x.2 := thread_stepAll_offIds hx

theorem execCallo_of_clean {e : Nat} (hl : (calloUni f).legal = true)
    (h : s.leads f.toL1 [⟨.src 2, f.a.toNat⟩] [⟨.dstZ 2, f.d.toNat⟩] l lt) (he : lt.readReg (s.env l) f.a.toNat 2 = e)
    (canon : canonical (erefImage e) 1 = true)
    (clean : (s.passed f).hoistCommits (fullGroup s (s.passed f) f.toL1 l lt) (erefImage e) = false) :
    execCallo f s = .next ((s.onIds f.toL1).foldl
      (fun v i => v.calloOne i (erefImage e) f.d.toNat (erefEntry e) (i = l)) (s.passed f)) := by
  have page : erefImage e % 4096 = 0 := by
    rw [erefImage]
    exact Nat.mul_mod_left _ _
  rw [execCallo]
  refine runUniform_next (u := s.passed f) rfl rfl hl h rfl (.inl ?_)
  simp only [readReg_passed, he, leader_fullGroup]
  rw [imageBad_of_page canon page]
  dsimp only
  rw [if_neg (ne_true_of_eq_false clean)]
  rfl

end

/-- Settles O49. -/
theorem overlayInstructions : Obligations.OverlayInstructions := by
  unfold Obligations.OverlayInstructions
  refine ⟨fun f s l lt hl h => ?ovld, fun f s l lt hl h => ?ovwait, fun f s l lt hl h => ?ovpin, fun c hc f s l lt hl h => ?count,
    fun f s l lt hl h nodup => ?callo⟩
  case ovld =>
    intro i c canon page
    refine ⟨fun o found => ?_, fun absent clean => ?_⟩
    · have taken := execOvld_of_found hl h canon page found
      exact taken
    · have begun := execOvld_of_absent hl h canon page absent clean
      exact begun
  case ovwait => exact ⟨fun stale => execOvwait_of_stale hl h stale, fun o own resident => execOvwait_of_resident hl h own resident,
    fun o x own filling hx => execOvwait_of_filling hl h own filling hx⟩
  case ovpin =>
    refine ⟨fun stale => runOvCount_of_stale hl h stale, fun o own => ⟨fun full => ?_, fun room => ?_⟩⟩
    · exact (runOvCount_of_own (m := 2) hl h own).trans (congrArg _ (if_pos ⟨rfl, full⟩))
    · exact (runOvCount_of_own (m := 2) hl h own).trans (congrArg _ (if_neg fun full => room full.2))
  case count =>
    simp only [List.mem_cons, List.not_mem_nil, or_false] at hc
    obtain rfl | rfl := hc
    · exact ⟨fun stale => runOvCount_of_stale hl h stale,
        fun o own => (runOvCount_of_own (m := 3) hl h own).trans (congrArg _ (if_neg fun pin => absurd pin.1 (by decide)))⟩
    · exact ⟨fun stale => runOvCount_of_stale hl h stale,
        fun o own => (runOvCount_of_own (m := 4) hl h own).trans (congrArg _ (if_neg fun pin => absurd pin.1 (by decide)))⟩
  case callo =>
    intro e image c here canon
    refine ⟨fun o off found resident he => ?_, fun o found resident none_there alone => ?_, fun absent clean => ?_⟩
    · refine (execCallo_of_clean hl h rfl canon (hoistCommits_of_found found)).trans (congrArg Host.Outcome.next ?_)
      have inv : CallsInto (s.passed f) (s.passed f) l.team.core c image o := ⟨rfl, ⟨o.stamp, found⟩, rfl⟩
      exact inv.foldl resident he here (fun x hx => thread_stepAll_offIds hx) nodup _
    · refine (execCallo_of_clean hl h rfl canon (hoistCommits_of_found found)).trans (congrArg Host.Outcome.next ?_)
      obtain ⟨-, hc, runs⟩ := here (l, lt) (by rw [alone]; exact List.mem_cons_self)
      rw [show s.onIds f.toL1 = [l] by rw [State.onIds, alone]; rfl, List.foldl_cons, List.foldl_nil, decide_eq_true rfl]
      exact calloOne_of_none_there runs hc found resident (row_passed (x := (l, lt)) (by rw [alone]; exact List.mem_cons_self)) none_there
    · refine (execCallo_of_clean hl h rfl canon
        (hoistCommits_of_clean (g := fullGroup s (s.passed f) f.toL1 l lt) clean)).trans (congrArg Host.Outcome.next ?_)
      have onGroup_of : ∀ i ∈ s.onIds f.toL1, ∃ x ∈ s.onGroup f.toL1, x.1 = i := fun i hi => List.mem_map.mp hi
      refine calloFold_waits (k := l.team.core) (u := s.passed f) (v := s.passed f) rfl absent (fun i hi => ?_) (fun i hi => ?_) _
      · obtain ⟨x, hx, rfl⟩ := onGroup_of i hi
        exact here x hx
      · refine heldFor_of_subset hi ?_
        by_contra held
        exact clean ⟨i.team, List.mem_eraseDups.mpr (List.mem_map_of_mem hi), Bool.not_eq_false _ ▸ held⟩

end Sys2Proof.Machine

namespace Sys2Proof.Machine

open Claims

/-! # Pushes, counter accesses and fences of queue sets at issue (R324, R332, R337) -/

section
variable {f : L2R} {s : State} {l : ThreadId} {lt : Thread}

theorem toNat_div_eq_fld (x : W64) : fld x.toNat 32 32 = x.toNat / 2 ^ 32 := by
  have := x.isLt
  rw [fld, Nat.mod_eq_of_lt (by omega)]

/-! ## TSPAWN, GRID, QPUSH -/

/-- The record of a push: a GRID's has kind 1 (R324). -/
def pushRec (m : Nat) (r : Rec) : Rec := if m = 1 then { r with frame := BitVec.ofNat 64 (setFld r.frame.toNat 0 3 1) } else r

/-- The entry of a push in its core's pending-launch queue. -/
def pushEntry (m : Nat) (f : L2R) (g : UniGroup) (s : State) (h : Nat) (r : Rec) : Launch :=
  ⟨m, s.covered g.leader.team.core g.all, s.taskNo g.leader.team, s.handleSet (s.ctxId g.leader).vf h, r,
    if m = 1 then fld r.arg.toNat 32 32 else 1, g.rcv, f.d.toNat, g.leader.team, s.ctxId g.leader, [], false⟩

/-- What a push whose operands are sound does in the group that issues it. -/
def pushSound (m : Nat) (f : L2R) (g : UniGroup) (s : State) (h : Nat) (r : Rec) : UniRes :=
  let n := if m = 1 then fld r.arg.toNat 32 32 else 1
  let counts := m ≠ 2 && r.join ≠ 0 && r.kind < 5 && n ≠ 0
  if s.mustCommits g.teams then .stay (s.commitsFirst g.teams)
  else if 4 ≤ (s.core g.leader.team.core).launch.length then s.groupWaits g.all .launch
  else if !s.roomAll g.rcv (·.ldn) then s.groupStalls g.all true false false
  else if counts && (s.missVa (viewAt (s.ctxId g.leader) g.leader.team.core) r.join.toNat 16 true).isSome then
    .stay (s.probeFault g.all r.join.toNat true)
  else
    let s' := s.updCore g.leader.team.core fun k => { k with launch := k.launch ++ [pushEntry m f g s h r] }
    .done (((s'.startLoad g.rcv f.d.toNat 1).stepAll g.rcv 2).commitsAfter g.teams)

/-- The effect of a push: its checks, then what a sound one does. -/
def pushAct (m : Nat) (f : L2R) (g : UniGroup) (s : State) : UniRes :=
  let h := g.lt.readReg g.env f.a.toNat 2
  let r0 := recOf (g.lt.readReg g.env f.b.toNat 8)
  match s.handleBad (s.ctxId g.leader).vf h rightEnq with
  | some r => .trap s r
  | none =>
    if m ≠ 1 && r0.kind ≠ 0 && r0.kind < 5 then .trap s (trapR 0x13 3 0)
    else
      match s.joinBad g.leader (pushRec m r0).join.toNat with
      | some e => .trap s e
      | none => pushSound m f g s h (pushRec m r0)

theorem runPush_eq (m : Nat) (f : L2R) (s : State) : runPush m f s = runUniform (pushUni f) s (pushAct m f) := rfl

theorem pushAct_of_sound {m : Nat} {g : UniGroup} (right : s.handleBad (s.ctxId g.leader).vf (g.lt.readReg g.env f.a.toNat 2) 1 = none)
    (kind : m = 1 ∨ (recOf (g.lt.readReg g.env f.b.toNat 8)).kind = 0 ∨ 5 ≤ (recOf (g.lt.readReg g.env f.b.toNat 8)).kind)
    (join : s.joinBad g.leader (pushRec m (recOf (g.lt.readReg g.env f.b.toNat 8))).join.toNat = none) :
    pushAct m f g s = pushSound m f g s (g.lt.readReg g.env f.a.toNat 2) (pushRec m (recOf (g.lt.readReg g.env f.b.toNat 8))) := by
  have sound : (decide (m ≠ 1) && decide ((recOf (g.lt.readReg g.env f.b.toNat 8)).kind ≠ 0) &&
      decide ((recOf (g.lt.readReg g.env f.b.toNat 8)).kind < 5)) = false := by
    simp only [Bool.and_eq_false_iff, decide_eq_false_iff_not]
    omega
  unfold pushAct
  dsimp only
  rw [show s.handleBad _ _ rightEnq = none from right]
  dsimp only
  rw [if_neg (ne_true_of_eq_false sound), join]

section
variable {m h : Nat} {g : UniGroup} {r : Rec} (clean : s.mustCommits g.teams = false)
include clean

theorem pushSound_of_full (full : 4 ≤ (s.core g.leader.team.core).launch.length) :
    pushSound m f g s h r = .parked (s.updThreads g.all fun t => { t with park := .launch }) := by
  rw [pushSound]
  dsimp only
  rw [if_neg (ne_true_of_eq_false clean), if_pos full]
  rfl

theorem pushSound_of_room (space : (s.core g.leader.team.core).launch.length < 4) (room : s.roomAll g.rcv (·.ldn) = true)
    (counter : r.join = 0 ∨ s.missVa (viewAt (s.ctxId g.leader) g.leader.team.core) r.join.toNat 16 true = none) :
    pushSound m f g s h r = .done ((((s.updCore g.leader.team.core fun k =>
      { k with launch := k.launch ++ [pushEntry m f g s h r] }).startLoad g.rcv f.d.toNat 1).stepAll g.rcv 2).commitsAfter g.teams) := by
  have translates : ∀ n : Nat, (decide (m ≠ 2) && decide (r.join ≠ 0) && decide (r.kind < 5) && decide (n ≠ 0) &&
      (s.missVa (viewAt (s.ctxId g.leader) g.leader.team.core) r.join.toNat 16 true).isSome) = false := by
    intro n
    rcases counter with none_there | hit
    · simp [none_there]
    · simp [hit]
  rw [pushSound]
  dsimp only
  rw [if_neg (ne_true_of_eq_false clean), if_neg (Nat.not_le.mpr space), if_neg (by simp [room]), if_neg (ne_true_of_eq_false (translates _))]

end

/-- A counter address that passes its checks is no trap. -/
theorem joinBad_of_place {id : ThreadId} {n : Nat} (h : n = 0 ∨ s.place id 0 n 16 true = .ok none) : s.joinBad id n = none := by
  rw [State.joinBad]
  rcases h with rfl | ok
  · rfl
  · split
    · rfl
    · rw [ok]

/-- TSPAWN, GRID and QPUSH are one effect. -/
theorem pushForm_of {c : L2R → Instr} {m : Nat} (hc : ∀ f s, exec (c f) s = runUniform (pushUni f) s (pushAct m f))
    (hw : ∀ f, (c f).WellFormed → (pushUni f).legal = true) : PushForm c m := by
  intro f s l lt wf hl u h r0 r right kind join clean
  have place : r.join.toNat = 0 ∨ u.place l 0 r.join.toNat 16 true = .ok none :=
    join.imp (fun none_there => by rw [none_there]; rfl) And.left
  have read_h : (fullGroup s u f.toL1 l lt).lt.readReg (fullGroup s u f.toL1 l lt).env f.a.toNat 2 = h := readReg_fullGroup ..
  have read_r : recOf ((fullGroup s u f.toL1 l lt).lt.readReg (fullGroup s u f.toL1 l lt).env f.b.toNat 8) = r0 :=
    congrArg recOf (readReg_fullGroup ..)
  have act := pushAct_of_sound (f := f) (m := m) (s := u) (g := fullGroup s u f.toL1 l lt) (read_h ▸ right) (read_r ▸ kind)
    (read_r ▸ joinBad_of_place place)
  rw [read_h, read_r] at act
  refine ⟨fun full => ?_, fun space room => ?_⟩ <;> rw [hc]
  · exact runUniform_next rfl rfl (hw f wf) hl rfl (.inr (act.trans (pushSound_of_full (g := fullGroup s u f.toL1 l lt) clean full)))
  · refine runUniform_next rfl rfl (hw f wf) hl rfl (.inl (act.trans
      ((pushSound_of_room (g := fullGroup s u f.toL1 l lt) clean space (roomAll_of_room room) (join.imp_right And.right)).trans ?_)))
    simp only [pushEntry, toNat_div_eq_fld]
    rfl

/-! ## JADD and JRD -/

theorem teams_fullGroup (s u : State) (f : L1) (l : ThreadId) (lt : Thread) : (fullGroup s u f l lt).teams = teamsOf s f := rfl

theorem rcv_fullGroup (s u : State) (f : L1) (l : ThreadId) (lt : Thread) : (fullGroup s u f l lt).rcv = s.onIds f := rfl

/-- The counter access of a group: its entry among the outstanding ones, beside the threads' steps. -/
theorem counterAccess_fullGroup (s : State) (f : L2R) (l : ThreadId) (lt : Thread) (kind : AccKind) (addr data : Nat) (back : Bool) :
    let u := s.passed f
    let acc := { newAccess u l kind 0 addr 16 none with
      seq := s.seq, owners := s.onIds f.toL1, rcv := s.onIds f.toL1, data := data, dst := f.d.toNat, g := 2, scope := 6 }
    u.counterAccess (fullGroup s u f.toL1 l lt) kind addr data f.d.toNat back =
      { s.uniNext f.toL1 2 (fun t => if back then { (t.setPend f.d.toNat 2) with ldn := t.ldn + 1 } else { t with stn := t.stn + 1 }) with
        seq := s.seq + max 1 (teamsOf s f.toL1).length, accs := s.accs ++ [acc] } := by
  intro u acc
  cases back with
  | true => exact addAccess_uniNext s f.toL1 { acc with seq := 0 } _
  | false => exact addAccess_uniNext s f.toL1 { acc with seq := 0 } _

theorem execJadd_issued (hl : (jaddUni f).legal = true)
    (h : s.leads f.toL1 [⟨.src 2, f.a.toNat⟩, ⟨.src 2, f.b.toNat⟩] [⟨.dstZ 2, f.d.toNat⟩] l lt)
    (hp : (s.passed f).place l 0 (lt.readReg (s.env l) f.a.toNat 2) 16 true = .ok none)
    (clean : (s.passed f).mustCommits (teamsOf s f.toL1) = false)
    (room : ∀ x ∈ s.onGroup f.toL1, if f.d = 124 then x.2.stn < 63 else x.2.ldn < 63) :
    execJadd f s = .next (((s.passed f).counterAccess (fullGroup s (s.passed f) f.toL1 l lt) .jadd (lt.readReg (s.env l) f.a.toNat 2)
      (lt.readReg (s.env l) f.b.toNat 2) f.d.toNat (f.d ≠ 124)).commitsAfter (teamsOf s f.toL1)) := by
  have room_all : (s.passed f).roomAll (s.onIds f.toL1) (fun t => if f.d ≠ 124 then t.ldn else t.stn) = true := by
    refine roomAll_of_room fun x hx => ?_
    have := room x hx
    by_cases zero : f.d = 124 <;> simp_all
  rw [execJadd]
  refine runUniform_next (u := s.passed f) rfl rfl hl h rfl (.inl ?_)
  simp only [readReg_passed, leader_fullGroup, teams_fullGroup, rcv_fullGroup, hp, clean, Bool.false_eq_true, if_false]
  rw [if_neg (by rw [room_all]; decide)]

theorem execJrd_issued (hl : (jrdUni f).legal = true) (h : s.leads f.toL1 [⟨.src 2, f.a.toNat⟩] [⟨.dst 2, f.d.toNat⟩] l lt)
    (hp : (s.passed f).place l 0 (lt.readReg (s.env l) f.a.toNat 2) 16 true = .ok none) (room : ∀ x ∈ s.onGroup f.toL1, x.2.ldn < 63) :
    execJrd f s = .next ((s.passed f).counterAccess (fullGroup s (s.passed f) f.toL1 l lt) .jrd (lt.readReg (s.env l) f.a.toNat 2) 0
      f.d.toNat true) := by
  have room_all : (s.passed f).roomAll (s.onIds f.toL1) (·.ldn) = true := roomAll_of_room room
  rw [execJrd]
  refine runUniform_next (u := s.passed f) rfl rfl hl h rfl (.inl ?_)
  simp only [readReg_passed, leader_fullGroup, rcv_fullGroup, hp]
  rw [if_neg (by rw [room_all]; decide)]

/-! ## QFENCE -/

section
variable (hl : (jrdUni f).legal = true) (h : s.leads f.toL1 [⟨.src 2, f.a.toNat⟩] [⟨.dst 2, f.d.toNat⟩] l lt)
  (right : (s.passed f).handleBad ((s.passed f).ctxId l).vf (lt.readReg (s.env l) f.a.toNat 2) 1 = none)
include hl h right

theorem execQfence_of_launches (waits : ∃ i ∈ teamsOf s f.toL1, (s.passed f).teamLaunch i ≠ []) :
    execQfence f s = .next ((s.passed f).updThreads (s.onIds f.toL1) fun t => { t with park := .ordered .launches }) := by
  have busy : ((teamsOf s f.toL1).any fun t => !((s.passed f).teamLaunch t).isEmpty) = true := by
    simpa using waits
  rw [execQfence]
  refine runUniform_next (u := s.passed f) rfl rfl hl h rfl (.inr ?_)
  simp only [readReg_passed, leader_fullGroup]
  rw [show (s.passed f).handleBad _ _ rightEnq = none from right]
  dsimp only
  exact if_pos busy

theorem execQfence_issued {x : QSet} (none_waits : ∀ i ∈ teamsOf s f.toL1, (s.passed f).teamLaunch i = [])
    (clean : (s.passed f).mustCommits (teamsOf s f.toL1) = false)
    (hx : (s.passed f).qset ((s.passed f).handleSet ((s.passed f).ctxId l).vf (lt.readReg (s.env l) f.a.toNat 2)) = some x)
    (room : ∀ x ∈ s.onGroup f.toL1, x.2.ldn < 63) :
    let u := s.passed f
    let q := u.handleSet (u.ctxId l).vf (lt.readReg (s.env l) f.a.toNat 2)
    let acc := { newAccess u l .load 1 0 8 (some (.pad l.team.core 0)) with
      seq := s.seq + 1, owners := s.onIds f.toL1, dst := f.d.toNat, g := 2, got := some (x.fenceSeq + 1) }
    execQfence f s = .next (State.commitsAfter { (({ s with seq := s.seq + 1 }.updQSet q fun y =>
      { y with fenceSeq := x.fenceSeq + 1, fences := y.fences ++ [(x.fenceSeq + 1, s.seq, u.taskNo l.team)] }).uniNext f.toL1 2 fun t =>
        { (t.setPend f.d.toNat 2) with ldn := t.ldn + 1 }) with
      seq := s.seq + 1 + max 1 (teamsOf s f.toL1).length, accs := s.accs ++ [acc] } (teamsOf s f.toL1)) := by
  intro u q acc
  have idle : ¬(((teamsOf s f.toL1).any fun t => !((s.passed f).teamLaunch t).isEmpty) = true) := by
    simpa using none_waits
  have room_all : (s.passed f).roomAll (s.onIds f.toL1) (·.ldn) = true := roomAll_of_room room
  rw [execQfence]
  refine runUniform_next (u := s.passed f) rfl rfl hl h rfl (.inl ?_)
  simp only [readReg_passed, leader_fullGroup, teams_fullGroup, rcv_fullGroup]
  rw [show (s.passed f).handleBad _ _ rightEnq = none from right]
  dsimp only
  rw [if_neg idle, if_neg (ne_true_of_eq_false clean), if_neg (by rw [room_all]; decide), show ((s.passed f).fresh.1).qset _ = some x from hx]
  let z := { s with seq := s.seq + 1 }.updQSet q fun y =>
    { y with fenceSeq := x.fenceSeq + 1, fences := y.fences ++ [(x.fenceSeq + 1, s.seq, u.taskNo l.team)] }
  exact congrArg (fun w : State => UniRes.done (w.commitsAfter (teamsOf s f.toL1))) (addAccess_uniNext z f.toL1 { acc with seq := 0 } _)

end

end

/-- Settles O44. -/
theorem pushesJoinsAndFences : Obligations.PushesJoinsAndFences := by
  refine ⟨pushForm_of (fun _ _ => rfl) fun _ h => h, pushForm_of (fun _ _ => rfl) fun _ h => h, pushForm_of (fun _ _ => rfl) fun _ h => h,
    fun f s l lt hl h => ?jadd, fun f s l lt hl h => ?jrd, fun f s l lt x hl h => ?qfence⟩
  case jadd =>
    intro u a hp clean room acc
    refine (execJadd_issued hl h hp clean room).trans ?_
    rw [counterAccess_fullGroup]
    simp only [decide_eq_true_eq, ne_eq, ite_not]
    rfl
  case jrd =>
    intro u a hp room acc
    refine (execJrd_issued hl h hp room).trans ?_
    rw [counterAccess_fullGroup]
    rfl
  case qfence =>
    intro u v q right
    exact ⟨fun waits => execQfence_of_launches hl h right waits,
      fun none_waits clean hx room => execQfence_issued hl h right none_waits clean hx room⟩

end Sys2Proof.Machine

namespace Sys2Proof.Machine

/-! # The queue controller (R316, R321, R324, R330, R336, R338) -/

/-! ## PENDING_LAUNCH_TAKE -/

section
variable {s w : State} {c : CoreId} {e : Launch} {n st : Nat}

/-- A launch entry leaves its queue, and its status is delivered. -/
def State.launchTold (s : State) (c : CoreId) (e : Launch) (st : Nat) : State :=
  (s.dropLaunch c).settleThreads e.owners fun t => { (t.writeReg e.dst 1 st 0) with ldn := t.ldn - 1 }

/-- The oldest entry, whose release is done, is taken as the controller's verdict on it says. -/
theorem execPendingLaunchTake_of_ok (head : (s.core c).launch.head? = some e) (answered : e.waits = [])
    (done : s.released e.need = true) (hw : w = s.expose c fun d => e.need.contains d.seq) {v : State}
    (taken : w.takeLaunch e = .ok (v, st)) : execPendingLaunchTake c s = .next (v.launchTold c e st) := by
  obtain ⟨es, queue⟩ := List.head?_eq_some_iff.mp head
  simp only [execPendingLaunchTake, queue]
  rw [if_neg (by simp [answered, done]), ← hw, taken]
  rfl

theorem takeLaunch_of_malformed (single : e.minor ≠ 1) (kind : 5 ≤ e.body.kind) : w.takeLaunch e = .ok (w.countDrop e.q, 0) := by
  rw [State.takeLaunch]
  dsimp only
  rw [if_pos (by simp [single, kind])]
  rfl

section
variable (single : e.minor ≠ 1) (kind : e.body.kind = 0) (some_n : e.n ≠ 0)
include single kind some_n

theorem takeLaunch_of_single (hst : w.pushStatus e.q (coreDieId e.team.core) e.n true = st) :
    w.takeLaunch e =
      if st ≠ 0 then .ok (w, st)
      else if e.minor = 2 || e.body.join = 0 then .ok (w.queueRec e.q (coreDieId e.team.core) e.body e.pusher, 0)
      else match w.translate (viewOf e.ctx) e.body.join.toNat true with
        | .error m => .error m
        | .ok p => .ok ((w.counterAdd e.ctx p.gpa p.key e.n).1.queueRec e.q (coreDieId e.team.core) e.body e.pusher, 0) := by
  rw [State.takeLaunch]
  dsimp only
  simp only [single, kind, some_n, hst, decide_true, decide_false, Bool.and_false, Bool.false_and, Bool.true_and, Bool.false_eq_true, if_false,
    ne_eq, not_false_eq_true] <;> rfl

end

theorem takeLaunch_of_grid (grid : e.minor = 1) (some_n : e.n ≠ 0) (status : w.pushStatus e.q (coreDieId e.team.core) e.n false = 0)
    (room : w.slicesFull (w.shardDies e.q.part e.team.core.pkg) e.n = false) (no_join : e.body.join = 0) :
    w.takeLaunch e = .ok (w.queueGrid e.q (w.shardDies e.q.part e.team.core.pkg) e.body e.n e.pusher, 0) := by
  have room' : w.slicesFull (w.shardDies e.q.part (coreDieId e.team.core).pkg) e.n = false := room
  rw [State.takeLaunch]
  dsimp only
  simp only [grid, some_n, status, room', no_join, ne_eq, not_true_eq_false, decide_false, decide_true, Bool.false_and, Bool.and_false,
    Bool.false_eq_true, if_false, Bool.or_true, if_true]
  rfl

theorem takeLaunch_of_none (grid : e.minor = 1) (none_n : e.n = 0) : w.takeLaunch e = .ok (w, 0) := by
  rw [State.takeLaunch]
  dsimp only
  rw [if_neg (by simp [grid]), if_pos none_n]
  rfl

end

/-! ## JOIN_DECREMENT -/

section
variable {s : State} {k : Nat} {j : Join}

/-- The release of an ended task is done: its record is complete, or its counter is lowered. -/
theorem execJoinDecrement_of_released (hj : s.joins.find? (·.key = k) = some j) (answered : j.waits = []) (done : s.released j.need = true)
    (first : s.behindHeld j = false) (ended : j.frame = false) :
    let u := s.exposeAll fun d => j.need.contains d.seq
    (j.addr = 0 → execJoinDecrement k s = .next ((u.dropJoin k).completeRec j.rec_)) ∧
    (∀ p, j.addr ≠ 0 → u.translate (viewOf j.ctx) j.addr true = .ok p → execJoinDecrement k s = .next
      ((u.updJoin k fun j => { j with need := [], addr := 0 }).counterAdd j.ctx p.gpa p.key (-1)).1) := by
  intro u
  have ready : ¬((!j.waits.isEmpty || !s.released j.need || s.behindHeld j) = true) := by
    simp [answered, done, first]
  refine ⟨fun lowered => ?_, fun p counts hit => ?_⟩
  · simp only [execJoinDecrement, hj]
    rw [if_neg ready, if_neg (by simp [ended]), if_pos lowered]
  · simp only [execJoinDecrement, hj]
    rw [if_neg ready, if_neg (by simp [ended]), if_neg counts, show (s.exposeAll _).translate _ _ _ = .ok p from hit]

end

/-! ## STEAL_MESSAGE and FENCE_COMPLETE -/

section
variable {s : State} {q : QSetId} {x : QSet}

theorem execStealMessage_of_waits {d e : DieId} (hx : s.qset q = some x) (empty : x.holds d = 0) (waits : s.waitsOn q d = true)
    (other : ((s.stealOrder q.part d).filter (· ≠ d)).find? (fun e => 2 ≤ x.holds e) = some e) :
    execStealMessage q d s = .next (s.updQSet q fun x => x.steal e d) := by
  simp only [execStealMessage, hx]
  rw [if_neg (by simp [empty, waits]), other]

theorem execFenceComplete_of_first {k no key : Nat} {i : Option Nat} {rest : List (Nat × Nat × Option Nat)} (hx : s.qset q = some x)
    (fences : x.fences = (k, no, i) :: rest) (answered : x.logWaits = []) (before : x.completeTo no = true)
    (hit : s.stage2 q.part x.fenceLog true = .ok key) :
    execFenceComplete q s = .next ((s.memStore key 8 k).updQSet q fun x =>
      { x with fences := rest, logged := k, lastFenceNo := no, recs := x.recs.filter fun r => no ≤ r.no || r.state ≠ .done }) := by
  simp only [execFenceComplete, hx, fences]
  rw [if_neg (by simp [answered, before]), hit]

end

/-- Settles O46. -/
theorem queueControllerActs : Obligations.QueueControllerActs := by
  unfold Obligations.QueueControllerActs
  refine ⟨?malformed, ?refused, ?single, ?counted, ?grid, ?none, ?join, ?steal, ?fence⟩
  case malformed =>
    rintro s w c e ⟨head, answered, done, hw⟩ single kind
    exact execPendingLaunchTake_of_ok head answered done hw (takeLaunch_of_malformed single kind)
  case refused =>
    rintro s w c e ⟨head, answered, done, hw⟩ single kind some_n refused
    exact execPendingLaunchTake_of_ok head answered done hw ((takeLaunch_of_single single kind some_n rfl).trans (if_pos refused))
  case single =>
    rintro s w c e ⟨head, answered, done, hw⟩ single kind some_n status uncounted
    refine execPendingLaunchTake_of_ok head answered done hw ((takeLaunch_of_single single kind some_n status).trans ?_)
    rw [if_neg (by simp), if_pos (by simpa using uncounted)]
  case counted =>
    rintro s w c e p ⟨head, answered, done, hw⟩ spawn kind some_n status join hit
    refine execPendingLaunchTake_of_ok head answered done hw ((takeLaunch_of_single (by omega) kind some_n status).trans ?_)
    rw [if_neg (by simp), if_neg (by simpa [spawn] using join), hit]
  case grid =>
    rintro s w c e ⟨head, answered, done, hw⟩ grid some_n ds status room no_join
    exact execPendingLaunchTake_of_ok head answered done hw (takeLaunch_of_grid grid some_n status room no_join)
  case none =>
    rintro s w c e ⟨head, answered, done, hw⟩ grid none_n
    exact execPendingLaunchTake_of_ok head answered done hw (takeLaunch_of_none grid none_n)
  case join => exact fun s k j hj answered done first ended => execJoinDecrement_of_released hj answered done first ended
  case steal => exact fun s q d e x hx empty waits other => execStealMessage_of_waits hx empty waits other
  case fence => exact fun s q x k no key i rest hx fences answered before hit => execFenceComplete_of_first hx fences answered before hit

end Sys2Proof.Machine

namespace Sys2Proof.Machine

open Claims

/-! # The instructions of a whole team (R333, R335, R389) -/

section
variable {s : State} {ok : Bool} {act : State → State}

theorem asTeam_arrives (hl : ok = true) (hr : s.gathered.rdv = false) :
    (if ok then asTeam s .team act else .next s.illegal) = .next (s.arrive (s.gathered.ids.map fun i => (i, .team))) := by
  simp [asTeam, hl, hr]

theorem asTeam_released (hl : ok = true) (hr : s.gathered.rdv = true) :
    (if ok then asTeam s .team act else .next s.illegal) = .next (act s.readied) := by
  simp [asTeam, hl, hr, State.readied]

end

/-! ## JWAIT -/

theorem uncached_writeVa (v : View) (bs : List Byte) (va : Nat) (s : State) : (s.writeVa v va bs).uncached = s.uncached := by
  induction bs generalizing s va with
  | nil => rfl
  | cons b bs ih =>
    rw [State.writeVa]
    split
    · exact ih _ _
    · exact ih _ _

theorem blockOf_of_uncached {u s : State} (h : u.uncached = s.uncached) (t : TeamId) : u.blockOf t = s.blockOf t :=
  congrArg (·.blockOf t) h

/-- A change of teams that keeps their blocks. -/
theorem blockOf_updTeam {e : Team → Team} (he : ∀ tm, (e tm).block = tm.block) (s : State) (k t : TeamId) :
    (s.updTeam k e).blockOf t = s.blockOf t := by
  simp only [State.blockOf, team_updTeam]
  cases s.team t with
  | none => rfl
  | some tm =>
    simp only [Option.map_some, Option.bind_some]
    split
    · rw [he]
      rfl
    · rfl

/-- The end of a task leaves its team in its block. -/
theorem blockOf_endTask (s : State) (k t : TeamId) (dec : Bool) : (s.endTask k dec).blockOf t = s.blockOf t := by
  let e : Team → Team := fun tm => { tm with task := none, frame := 0, targ := 0, snap := none }
  have moved : ({ s with seq := s.seq + 1 }.updTeam k e).blockOf t = s.blockOf t := blockOf_updTeam (e := e) (fun _ => rfl) _ k t
  unfold State.endTask
  split
  · split
    · rfl
    · dsimp only
      split
      · exact moved
      · exact (blockOf_of_uncached (uncached_expose _ _ _) t).trans moved
  · rfl

section
variable {f : L2R} {s : State} {l : ThreadId} {lt : Thread} {rest : List (ThreadId × Thread)}
  (hg : s.group = (l, lt) :: rest) (sound : regCheck lt [⟨.src 2, f.a.toNat⟩, ⟨.src 2, f.b.toNat⟩] = none)
  (good : s.jwaitBad l (lt.readReg (s.env l) f.a.toNat 2) (lt.readReg (s.env l) f.b.toNat 2) f.imm.toNat = none)
  (clean : s.mustCommit l.team = false)
include hg sound good clean

theorem jwaitAct_of_busy (busy : s.atRest l.team = false) : jwaitAct f s = s.waitTeam s.gathered.ids .rest := by
  simp only [jwaitAct, hg, sound, good]
  rw [if_neg (ne_true_of_eq_false clean), if_pos (by rw [busy]; rfl)]

theorem jwaitAct_of_rest {p : Place} (rested : s.atRest l.team = true)
    (hit : s.missVa (viewAt (s.ctxId l) l.team.core) (s.frameOf l) (frameSize f.imm.toNat) true = none)
    (hp : s.translate (viewAt (s.ctxId l) l.team.core) (lt.readReg (s.env l) f.a.toNat 2) true = .ok p) :
    jwaitAct f s = s.jwaitDone l lt.pc (lt.readReg (s.env l) f.a.toNat 2) p.key (lt.readReg (s.env l) f.b.toNat 2) f.imm.toNat := by
  simp only [jwaitAct, hg, sound, good]
  rw [if_neg (ne_true_of_eq_false clean), if_neg (by rw [rested]; decide)]
  simp only [hit, hp]

end

/-! ## RGIVE and RCLAIM -/

/-- An allocation in which D fits, and in which it is pending in no live thread, is given. -/
theorem reallot_of_fits {s : State} {t : TeamId} {alloc d : Nat} (b : BlockId) (budget v : Nat) (fits : d = 124 ∨ d < alloc)
    (free : ∀ i ∈ s.liveIds t, ∀ th, s.thread i = some th → hazardFail (th.resize alloc) [⟨.dst 1, d⟩] = none) :
    s.reallot t b alloc budget d v =
      ((s.updBlock b fun x => { x with budget := budget }).mapThreads fun i th => if i.team = t then th.resize alloc else th).updThreads
        (s.liveIds t) fun th => (th.writeReg d 1 v 0).step 2 := by
  have none_bad : ((s.liveIds t).filterMap fun i => (s.thread i).bind fun th =>
      (hazardFail (th.resize alloc) [⟨.dst 1, d⟩]).map fun n => (i, trapR 0x03 n 0)) = [] := by
    refine List.filterMap_eq_nil_iff.mpr fun i hi => ?_
    cases ht : s.thread i with
    | none => rfl
    | some th => simp only [Option.bind_some, free i hi th ht, Option.map_none]
  have inside : (decide (alloc ≤ d) && decide (d < 120)) = false := by
    simp only [Bool.and_eq_false_iff, decide_eq_false_iff_not]
    omega
  rw [State.reallot]
  dsimp only
  rw [if_neg (ne_true_of_eq_false inside), none_bad]
  simp [State.raises]

section
variable {f : L2R} {s : State} {l : ThreadId} {ids : List ThreadId} {tm : Team} {b : Block}
  (hg : s.gathered.ids = l :: ids) (htm : s.team l.team = some tm) (hb : s.blockOf l.team = some b)
include hg htm hb

theorem rgiveAct_eq (room : f.imm.toNat + 8 ≤ s.allocOf l.team) :
    rgiveAct f s = s.reallot l.team tm.block (s.allocOf l.team - f.imm.toNat) (b.budget + f.imm.toNat) f.d.toNat
      (s.allocOf l.team - f.imm.toNat) := by
  simp only [rgiveAct, hg, htm, hb]
  rw [if_neg (by omega)]

theorem rclaimAct_eq (room : s.allocOf l.team + f.imm.toNat ≤ 120) :
    let got := f.imm.toNat ≤ b.budget
    let new := if got then s.allocOf l.team + f.imm.toNat else s.allocOf l.team
    rclaimAct f s = s.reallot l.team tm.block new (if got then b.budget - f.imm.toNat else b.budget) f.d.toNat
      (if got then new else 2 ^ 32 - 1) := by
  intro got new
  simp only [rclaimAct, hg, htm, hb]
  rw [if_neg (by omega)]
  by_cases enough : f.imm.toNat ≤ b.budget
  · rw [if_neg (by omega)]
    simp only [new, got, enough, if_true]
  · rw [if_pos (by omega)]
    simp only [new, got, enough, if_false]
    rfl

end

/-! ## SNAP -/

theorem snapAct_of_sound {f : L2R} {s : State} {l : ThreadId} {ids : List ThreadId} (hg : s.gathered.ids = l :: ids)
    (clean : s.mustCommit l.team = false) (rested : s.atRest l.team = true)
    (sound : ∀ x ∈ s.group, regCheck x.2 [⟨.dst 1, f.d.toNat⟩] = none) :
    snapAct f s = (s.updThreads s.gathered.ids fun t =>
      (t.writeReg f.d.toNat 1 (if (s.team l.team).any Team.guarded then 0 else 1) 0).step 2).commitAfter l.team := by
  have none_bad : (s.group.filterMap fun (i, th) => (regCheck th [⟨.dst 1, f.d.toNat⟩]).map fun r => (i, r)) = [] := by
    refine List.filterMap_eq_nil_iff.mpr fun x hx => ?_
    simp only [sound x hx, Option.map_none]
  have value : b2n (!(s.team l.team).any Team.guarded) = if (s.team l.team).any Team.guarded then 0 else 1 := by
    cases (s.team l.team).any Team.guarded <;> rfl
  have every : (l :: ids).filter (fun i => !(([] : List (ThreadId × Raise)).any (·.1 = i))) = l :: ids := by simp
  simp only [snapAct, hg, none_bad, every, value]
  rw [if_neg (by simp), if_neg (ne_true_of_eq_false clean), if_neg (by rw [rested]; decide)]
  rfl

/-- Settles O45. -/
theorem teamInstructions : Obligations.TeamInstructions := by
  unfold Obligations.TeamInstructions
  refine ⟨?arrive, ?jwait, ?rgive, ?rclaim, ?snap⟩
  case arrive =>
    intro c hc f s hl hr
    simp only [List.mem_cons, List.not_mem_nil, or_false] at hc
    obtain rfl | rfl | rfl | rfl := hc
    · exact asTeam_arrives (ok := jwaitOk f) hl hr
    · exact asTeam_arrives (ok := allotOk f) hl hr
    · exact asTeam_arrives (ok := allotOk f) hl hr
    · exact asTeam_arrives (ok := snapOk f) hl hr
  case jwait =>
    intro f s l lt rest p hl hr hg u n cnt h sound good clean
    have released : exec (.jwait f) s = .next (jwaitAct f u) := asTeam_released (ok := jwaitOk f) hl hr
    refine ⟨fun busy => ?_, fun rested hit hp => ?_⟩
    · exact released.trans (congrArg _ (jwaitAct_of_busy hg sound good clean busy))
    · intro c frame task q bytes here v
      refine released.trans (congrArg Host.Outcome.next ((jwaitAct_of_rest hg sound good clean rested hit hp).trans ?_))
      have same_block : ((u.endTask l.team false).writeVa here frame bytes).blockOf l.team = u.blockOf l.team :=
        (blockOf_of_uncached (uncached_writeVa _ _ _ _) _).trans (blockOf_endTask u l.team l.team false)
      unfold State.jwaitDone
      dsimp only
      rw [show (((u.endTask l.team false).writeVa _ _ _).blockOf l.team) = u.blockOf l.team from same_block]
  case rgive =>
    intro f s l ids tm b hl hr hg htm hb u n alloc room fits free
    refine (asTeam_released (ok := allotOk f) hl hr).trans (congrArg Host.Outcome.next ?_)
    rw [rgiveAct_eq (s := u) hg htm hb room]
    refine reallot_of_fits _ _ _ (fits.imp_left fun zero => by rw [zero]; rfl) free
  case rclaim =>
    intro f s l ids tm b hl hr hg htm hb u n alloc got new room fits free
    refine (asTeam_released (ok := allotOk f) hl hr).trans (congrArg Host.Outcome.next ?_)
    rw [rclaimAct_eq (s := u) hg htm hb room]
    exact reallot_of_fits _ _ _ (fits.imp_left fun zero => by rw [zero]; rfl) free
  case snap =>
    intro f s l ids hl hr hg clean rested sound guarded v
    refine (asTeam_released (ok := snapOk f) hl hr).trans (congrArg Host.Outcome.next ?_)
    rw [snapAct_of_sound (s := s.readied) hg clean rested sound]
    rfl

end Sys2Proof.Machine

namespace Sys2Proof.Machine

open Claims

/-! # Held writes and the commit before an atomic (R387, R388) -/

/-- An address that is placed nowhere in a scratchpad goes through translation. -/
theorem global_of_placed {f : LM} {idx al : Bool} {n : Nat} {s : State} {x : ThreadId × Thread} {a : Access}
    (hp : s.placed f idx n al x none) (ha : a.space = f.space.toNat) : a.global = true := by
  by_cases hg : (f.space.toNat = 0 || f.space.toNat = 3) = true
  · rw [Access.global, ha]
    exact hg
  · unfold State.placed State.place at hp
    dsimp only at hp
    rw [if_neg hg] at hp
    split at hp
    · cases hp
    · split_ifs at hp
      all_goals cases hp

/-- Without room in STN a guarded task's write calls for a commit. -/
theorem putStore_commits {s : State} {i : ThreadId} {t : Thread} {ids : List ThreadId} {a : Access} (ha : a.global = true)
    (hg : (s.team i.team).any Team.guarded = true) (hr : 63 ≤ t.stn) : s.putStore i t ids a = .wait (s.commitFirst i.team) := by
  simp only [State.putStore, ha, hg, Bool.and_true, if_true, hr]

section
variable {f : LM} {s : State} {l : ThreadId} {t : Thread}

/-- A store whose address passes puts the data that it reads now. -/
theorem issueStore_puts {kind : AccKind} {size : Nat} {loc : Option Loc} (hp : s.placed f true size true (l, t) loc) (hc : s.unclamped l f) :
    issueStore f kind size l t s = s.putStore l t [l] { memAccess s l f f.scope.toNat kind (s.addrOf f true (l, t)) size loc with
      data := t.readReg (s.env l) f.d.toNat (gsz f.w) % 2 ^ (8 * size) } := by
  have addr : memAddr f true (s.env l) t (s.frameOf l) = s.addrOf f true (l, t) := rfl
  unfold State.placed at hp
  unfold State.unclamped at hc
  simp only [issueStore, addr, hp, hc]

/-- A guarded task's stores are held, or call for a commit. -/
theorem heldForm_of_issueStore {c : LM → Instr} {size : LM → Nat} (m : LM → MemDef)
    (hc : ∀ f s, exec (c f) s = runMem (m f) (issueStore f .store (size f)) s := by exact fun _ _ => rfl)
    (hl : ∀ f, (c f).WellFormed → (m f).legal = true := by exact fun _ h => h)
    (hm : ∀ f, (m f).g = f.g ∧ (m f).gn = f.gn ∧ (m f).opds = accessOpds f true ⟨.src (gsz f.w), f.d.toNat⟩ := by
      exact fun _ => ⟨rfl, rfl, rfl⟩) : HeldForm c size := by
  intro f s l t hw hs ht hg hr hp hu guarded
  obtain ⟨hmg, hmn, hmo⟩ := hm f
  rw [← hmg, ← hmn] at hg
  rw [← hmo] at hr
  rw [hc]
  refine ⟨fun room_stn room => ?_, fun full => ?_⟩
  · exact runMem_single_ok hs ht (hl f hw) hg hr ((issueStore_puts hp hu).trans (putStore_held (global_of_placed hp rfl) guarded room_stn room))
  · exact runMem_single_wait hs ht (hl f hw) hg hr ((issueStore_puts hp hu).trans (putStore_commits (global_of_placed hp rfl) guarded full.ge))

/-- A team that must commit is a guarded task's. -/
theorem guarded_of_mustCommit {tm : TeamId} (h : s.mustCommit tm = true) : (s.team tm).any Team.guarded = true := by
  obtain ⟨k, row, both⟩ := (Option.any_eq_true _ _).mp h
  exact (Option.any_eq_true _ _).mpr ⟨k, row, (Bool.and_eq_true_iff.mp both).1⟩

/-- An atomic that returns a value is irrevocable, so that a team that must commit does so before it. -/
theorem issueAtomic_commits {op : NetOp} {loc : Option Loc} (ho : op ≠ .fadd) (hd : f.d ≠ 124)
    (hp : s.placed f false (4 * gsz f.w) true (l, t) loc) (hu : s.unclamped l f) (hm : s.mustCommit l.team = true) :
    issueAtomic op f l t s = .wait (s.commitFirst l.team) := by
  have addr : memAddr f false (s.env l) t (s.frameOf l) = s.addrOf f false (l, t) := rfl
  have returns : f.d.toNat ≠ 124 := fun h => hd (BitVec.eq_of_toNat_eq h)
  unfold State.placed at hp
  unfold State.unclamped at hu
  simp only [issueAtomic, ho, addr, hp, hu, guarded_of_mustCommit hm, State.irrevocableAt, returns, hm, ne_eq, not_false_eq_true, decide_true,
    decide_false, Bool.true_or, Bool.and_true, Bool.false_and, Bool.false_eq_true, if_false, if_true]

end

/-- No request is formed of accesses that were there before the issue. -/
theorem combineLanes_old {s t : State} {op : NetOp} {p : Access → Bool} (same : t.accs = s.accs) (old : ∀ a ∈ s.accs, a.seq < s.seq) :
    t.combineLanes op s.seq 32 (t.accs.filter fun a => s.seq ≤ a.seq && p a) = t := by
  have none_new : (t.accs.filter fun a => s.seq ≤ a.seq && p a) = [] := by
    rw [same, List.filter_eq_nil_iff]
    intro a ha
    simp [old a ha]
  rw [none_new]
  rfl

/-- Settles O30: the store buffer takes a guarded task's store where memory would, and an atomic that returns a value waits for the commit. -/
theorem guardedWritesAreHeld : Obligations.GuardedWritesAreHeld := by
  refine ⟨heldForm_of_issueStore fun f => storeMem f [0] true, heldForm_of_issueStore fun f => storeMem f [0] true,
    heldForm_of_issueStore fun f => storeMem f [0, 1, 2, 3] true, ?atomic⟩
  rintro f s l t hw hd hs ht hg hr ⟨loc, hp⟩ hu hm old
  have waits : runMem (atMem .add f) (issueAtomic .add f) s = .next (s.commitFirst l.team) :=
    runMem_single_wait hs ht hw hg hr (issueAtomic_commits (by decide) hd hp hu hm)
  show runAtomic .add f s = _
  rw [runAtomic, waits]
  exact congrArg Host.Outcome.next (combineLanes_old (t := s.commitFirst l.team) rfl old)

end Sys2Proof.Machine

namespace Sys2Proof.Machine

open Claims

/-! # RET of a thread that is listed twice (R114, R380) -/

/-- The core and the thread of the counterexample, and the thread's record. -/
def oneCore : CoreId := ⟨0, 0⟩
def oneLane : ThreadId := ⟨⟨oneCore, 0⟩, 0⟩
def oneThread : Thread := startThread 8

/-- An overlay of one word at slot 0, whose token is 0. -/
def wordOverlay : Overlay := ⟨⟨0, 0⟩, 0, 0, .resident, 1, [], [0], [0], 0, 0, 0, 0, []⟩

/-- A gathered thread of a running team in that overlay, with a second record that has a load outstanding. -/
def laneListedTwice : State :=
  { State.reset with
    threads := [(oneLane, oneThread), (oneLane, { oneThread with ldn := 1 })]
    teams := [(oneLane.team, ⟨⟨oneCore, 0⟩, 0, 0, 0, 0, none, 0, false, false, false, [], [], [], none, .running, false, false⟩)]
    blocks := [(⟨oneCore, 0⟩, ⟨⟨⟨0, 0⟩, 0⟩, 0, 0, 0, 0, 0, [], 0, 0, 0, false⟩)]
    cores := [(oneCore, { Core.reset with overlays := [wordOverlay] })]
    gathered := ⟨oneCore, [oneLane], false⟩ }

/-- The loads outstanding in the threads that an outcome lists. -/
def Out.loads : Out → List Nat
  | .next s => s.threads.map (·.2.ldn)
  | _ => []

/-- Refutes O8: the thread that lands is written over every record of its number, so that a second record, which no lookup finds, does not keep
its own counters as the statement says. -/
theorem not_trapsEnterAndLeave : ¬ Obligations.TrapsEnterAndLeave := by
  rintro ⟨-, -, returns⟩
  obtain ⟨resident, -⟩ := returns ⟨31, false, 0, 0, 0⟩ laneListedTwice oneLane oneThread ⟨⟨0, 0⟩, 0⟩ (by decide) rfl rfl (by decide) (by decide)
    rfl rfl (by decide) (by decide)
  have loads := congrArg Out.loads (resident wordOverlay (by decide) (by decide) rfl (by decide))
  have landed : Out.loads (exec (.ret ⟨31, false, 0, 0, 0⟩) laneListedTwice) = [0, 0] := by decide
  rw [landed] at loads
  exact absurd loads (by decide)

end Sys2Proof.Machine

namespace Sys2Proof.Machine

open Claims

/-! # Pops of several shards (R318, R327) -/

section
variable {s : State} {t : TeamId} {team tail : Bool} {q : QSetId} {x : QSet} {d : DieId} {dies : List DieId} {cd : Cand}

/-- What taking a candidate comes to. -/
def State.popTakes (s : State) (t : TeamId) (team tail : Bool) (q : QSetId) (x : QSet) (cd : Cand) : PopRes :=
  match cd.what with
  | .cont k =>
    if !s.quiet t then .busy
    else
      match s.readVa (viewAt k.ctx t.core) k.frame (frameSize k.n) with
      | .error _ => .missed ((s.missVa (viewAt k.ctx t.core) k.frame (frameSize k.n) false).getD k.frame)
      | .ok bs => .moved ((((s.noteLines k.ctx k.frame (frameSize k.n)).updQSet q fun x => x.take tail .running cd.what).acquire
          t.core).restoreCont t k (bytesToNat bs))
  | _ => .given ((s.deliverRec t team tail q x cd).1.acquire t.core) (s.deliverRec t team tail q x cd).2

theorem popTakes_whole {r : QRec} (hw : cd.what = .whole r) :
    s.popTakes t team tail q x cd = .given (popped s t team tail q x cd.no r) r.body := by
  obtain ⟨acquired, body⟩ := deliverRec_whole (s := s) (t := t) (team := team) (q := q) (x := x) (tail := tail) hw
  simp only [State.popTakes, hw, acquired, body]

theorem popTakes_of_busy {k : Cont} (hw : cd.what = .cont k) (busy : s.quiet t = false) : s.popTakes t team tail q x cd = .busy := by
  simp only [State.popTakes, hw, busy, Bool.not_false, if_true]

theorem popTakes_moved {k : Cont} {bs : List Byte} (hw : cd.what = .cont k) (quiet : s.quiet t = true)
    (frame : s.readVa (viewAt k.ctx t.core) k.frame (frameSize k.n) = .ok bs) :
    s.popTakes t team tail q x cd = .moved ((((s.noteLines k.ctx k.frame (frameSize k.n)).updQSet q fun x =>
      x.take tail .running cd.what).acquire t.core).restoreCont t k (bytesToNat bs)) := by
  simp only [State.popTakes, hw, quiet, Bool.not_true, Bool.false_eq_true, if_false, frame]

section
variable (hq : s.qset q = some x)
include hq

theorem popShards_cons_of_none (hf : finds s t team tail x d = none) :
    s.popShards t team tail q (d :: dies) = s.popShards t team tail q dies := by
  unfold finds at hf
  rw [State.popShards, hq]
  dsimp only
  rw [hf]

theorem popShards_cons_of_some (hf : finds s t team tail x d = some cd) :
    s.popShards t team tail q (d :: dies) = s.popTakes t team tail q x cd := by
  obtain ⟨level, no, sub, what⟩ := cd
  unfold finds at hf
  rw [State.popShards, hq]
  dsimp only
  cases what <;> (rw [hf] <;> rfl)

theorem popShards_of_nothing (hf : ∀ d ∈ dies, finds s t team tail x d = none) : s.popShards t team tail q dies = .empty := by
  induction dies with
  | nil => rfl
  | cons d ds ih =>
    rw [popShards_cons_of_none hq (hf d List.mem_cons_self)]
    exact ih fun d hd => hf d (List.mem_cons_of_mem _ hd)

/-- A pop takes what the first shard that holds something holds first. -/
theorem popShards_of_find (hd : dies.find? (fun d => (finds s t team tail x d).isSome) = some d)
    (hf : finds s t team tail x d = some cd) : s.popShards t team tail q dies = s.popTakes t team tail q x cd := by
  induction dies with
  | nil => cases hd
  | cons e ds ih =>
    cases he : finds s t team tail x e with
    | none =>
      rw [List.find?_cons_of_neg (by simp [he])] at hd
      rw [popShards_cons_of_none hq he]
      exact ih hd
    | some ce =>
      rw [List.find?_cons_of_pos (by simp [he])] at hd
      obtain rfl := Option.some.inj hd
      exact popShards_cons_of_some hq hf

end

/-- A pop by a team that may resume a saved task takes that. -/
theorem pop_eq_pop_of_resume {w : State} (ht : team = true) (hw : s.takeResume t = some w) :
    s.pop t team tail q dies = if s.quiet t then .moved (w.acquire t.core) else .busy := by
  simp only [State.pop, ht, if_true, hw]

/-- A pop that has no saved task to resume looks at the shards, in either order. -/
theorem pop_eq_popShards_of_none (h : team = true → (s.takeResume t).isNone) :
    s.pop t team tail q dies = s.popShards t team tail q dies := by
  cases team with
  | false => rfl
  | true => simp only [State.pop, if_true, Option.isNone_iff_eq_none.mp (h rfl)]

end

/-! ## QPOP and QSTEAL (R327) -/

/-- What the result of a pop does to its group. -/
def popGives (f : L2R) (g : UniGroup) (s : State) : PopRes → UniRes
  | .empty => .done (s.updThreads g.rcv fun t => (t.setPred f.c.toNat false).step 2)
  | .given s r =>
    .done ((s.updThreads g.rcv fun t => ((t.writeReg f.d.toNat 8 r.num 0).setPred f.c.toNat true).step 2).commitAfter g.leader.team)
  | .moved s => .stay (s.commitAfter g.leader.team)
  | .busy => .parked (s.waitOrder g.all .quiet)
  | .missed va => .stay (s.probeFault g.all va false)

/-- The dies whose shards a pop tries. -/
def popDies (s : State) (steal : Bool) (part : Nat) (c : CoreId) : List DieId :=
  if steal then s.stealOrder part (coreDieId c) else [coreDieId c]

/-- The effect of a pop: its checks, then what the pop gives. -/
def popAct (steal : Bool) (f : L2R) (g : UniGroup) (s : State) : UniRes :=
  let h := g.lt.readReg g.env f.a.toNat 2
  let v := (s.ctxId g.leader).vf
  let t := g.leader.team
  match s.handleBad v h (if steal then rightSteal else rightDeq) with
  | some r => .trap s r
  | none =>
    if s.popCommits t (s.isTeamPop g) then .stay (s.commitFirst t)
    else popGives f g s (s.pop t (s.isTeamPop g) steal (s.handleSet v h) (popDies s steal (s.handleSet v h).part t.core))

theorem runQpop_eq (steal : Bool) (f : L2R) (s : State) : runQpop steal f s = runUniform (qpopUni f) s (popAct steal f) := rfl

theorem popAct_of_right {steal : Bool} {f : L2R} {g : UniGroup} {s : State} {h : Nat} (read : g.lt.readReg g.env f.a.toNat 2 = h)
    (right : s.handleBad (s.ctxId g.leader).vf h (if steal then rightSteal else rightDeq) = none)
    (clean : s.popCommits g.leader.team (s.isTeamPop g) = false) :
    popAct steal f g s = popGives f g s (s.pop g.leader.team (s.isTeamPop g) steal (s.handleSet (s.ctxId g.leader).vf h)
      (popDies s steal (s.handleSet (s.ctxId g.leader).vf h).part g.leader.team.core)) := by
  rw [popAct, read, right]
  exact if_neg (ne_true_of_eq_false clean)

section
variable {f : L2R} {s v : State} {l : ThreadId} {lt : Thread} {steal : Bool} {h : Nat}

/-- A QPOP or QSTEAL whose handle has the right, and whose team has nothing to commit first, does what its pop gives. -/
theorem runQpop_of_pop (hl : (qpopUni f).legal = true) (hs : s.leads f.toL1 [⟨.src 2, f.a.toNat⟩] [⟨.dst 8, f.d.toNat⟩] l lt)
    (read : lt.readReg (s.env l) f.a.toNat 2 = h)
    (right : s.handleBad (s.ctxId l).vf h (if steal then rightSteal else rightDeq) = none)
    (clean : (s.passed f).popCommits l.team (((s.passed f).liveIds l.team).all (s.onIds f.toL1).contains) = false) {p : PopRes}
    (hp : (s.passed f).pop l.team (((s.passed f).liveIds l.team).all (s.onIds f.toL1).contains) steal (s.handleSet (s.ctxId l).vf h)
      (popDies s steal (s.handleSet (s.ctxId l).vf h).part l.team.core) = p)
    (hv : popGives f (fullGroup s (s.passed f) f.toL1 l lt) (s.passed f) p = .done v ∨
      popGives f (fullGroup s (s.passed f) f.toL1 l lt) (s.passed f) p = .parked v ∨
      popGives f (fullGroup s (s.passed f) f.toL1 l lt) (s.passed f) p = .stay v) :
    runQpop steal f s = .next v := by
  have act := popAct_of_right (f := f) (g := fullGroup s (s.passed f) f.toL1 l lt) (s := s.passed f) (steal := steal)
    ((readReg_passed s f l lt f.a.toNat 2).trans read) right clean
  have act_p := act.trans (congrArg (popGives f (fullGroup s (s.passed f) f.toL1 l lt) (s.passed f)) hp)
  rw [runQpop_eq]
  rcases hv with done | parks | stays
  · exact runUniform_next rfl rfl hl hs rfl (.inl (act_p.trans done))
  · exact runUniform_next rfl rfl hl hs rfl (.inr (act_p.trans parks))
  · exact runUniform_stay rfl rfl hl hs rfl (act_p.trans stays)

end

/-- QPOP and QSTEAL are one effect: they differ in the right that they ask for and the shards that they try. -/
theorem popForm_of {c : L2R → Instr} {steal : Bool} (hc : ∀ f s, exec (c f) s = runQpop steal f s)
    (hw : ∀ f, (c f).WellFormed → (qpopUni f).legal = true) : PopForm c steal (if steal then rightSteal else rightDeq) := by
  intro f s l lt x wf hs u v h q team dies right clean
  have runs {p : PopRes} {w : State} (hp : u.pop l.team team steal q dies = p)
      (hv : popGives f (fullGroup s u f.toL1 l lt) u p = .done w ∨ popGives f (fullGroup s u f.toL1 l lt) u p = .parked w ∨
        popGives f (fullGroup s u f.toL1 l lt) u p = .stay w) : exec (c f) s = .next w :=
    (hc f s).trans (runQpop_of_pop (hw f wf) hs rfl right clean hp hv)
  refine ⟨fun w whole resumes => ?resume, fun fresh hx => ?shards⟩
  case resume =>
    have pops := pop_eq_pop_of_resume (tail := steal) (q := q) (dies := dies) whole resumes
    exact ⟨fun quiet => runs (pops.trans (if_pos quiet)) (.inr (.inr rfl)),
      fun busy => runs (pops.trans (if_neg (ne_true_of_eq_false busy))) (.inr (.inl rfl))⟩
  case shards =>
    have pops := pop_eq_popShards_of_none (tail := steal) (q := q) (dies := dies) fresh
    have hxu : u.qset q = some x := hx
    refine ⟨fun nothing => ?_, fun d cd r first held whole => ?_, fun d cd k first held cont => ⟨fun busy => ?_, fun bs quiet frame => ?_⟩⟩
    · exact runs (pops.trans (popShards_of_nothing hxu nothing)) (.inl rfl)
    · exact runs (pops.trans ((popShards_of_find hxu first held).trans (popTakes_whole whole))) (.inl rfl)
    · exact runs (pops.trans ((popShards_of_find hxu first held).trans (popTakes_of_busy cont busy))) (.inr (.inl rfl))
    · exact runs (pops.trans ((popShards_of_find hxu first held).trans (popTakes_moved cont quiet frame))) (.inr (.inr rfl))

/-! ## QCAP and QBIND (R328) -/

theorem handleBad_of_valid {s : State} {v : VfId} {h : Nat} (hv : s.handleValid v h = true) : s.handleBad v h 0 = none := by
  simp [State.handleBad, hv]

theorem handleBad_of_invalid {s : State} {v : VfId} {h right : Nat} (hv : s.handleValid v h = false) :
    s.handleBad v h right = some (trapR 0x13 1 0) := by
  simp [State.handleBad, hv]

section
variable {f : L2R} {s : State} {l : ThreadId} {lt : Thread} {h : Nat}

theorem handleBad_passed (right : Nat) :
    (s.passed f).handleBad ((s.passed f).ctxId l).vf h right = s.handleBad (s.ctxId l).vf h right := rfl

section
variable (hl : (qcapUni f).legal = true) (hs : s.leads f.toL1 [⟨.src 2, f.a.toNat⟩] [⟨.dst 2, f.d.toNat⟩] l lt)
  (read : lt.readReg (s.env l) f.a.toNat 2 = h)
include hl hs read

theorem execQcap_of_valid (valid : s.handleValid (s.ctxId l).vf h = true) :
    execQcap f s = .next (s.uniNext f.toL1 2 fun t => t.writeReg f.d.toNat 2 (makeHandle (s.partOfVf (s.ctxId l).vf) (s.ctxId l).vf
      (h % 2 ^ 10) (h / 2 ^ 16 % 8 &&& f.imm.toNat) (h / 2 ^ 32 % 2 ^ 16)) 0) := by
  have low : h % 2 ^ 10 = fld h 0 10 := by rw [fld, Nat.pow_zero, Nat.div_one]
  rw [execQcap, low]
  refine runUniform_next (u := s.passed f) rfl rfl hl hs rfl (.inl ?_)
  simp only [readReg_passed, leader_fullGroup, read, handleBad_passed, handleBad_of_valid valid]
  rfl

theorem execQcap_of_invalid (invalid : s.handleValid (s.ctxId l).vf h = false) :
    execQcap f s = .next ((s.stepAll (s.offIds f.toL1) 2).raises [(l, trapR 0x13 1 0)]) := by
  rw [execQcap]
  refine runUniform_trap (u := s.passed f) rfl rfl hl hs rfl ?_
  simp only [readReg_passed, leader_fullGroup, read, handleBad_passed, handleBad_of_invalid invalid]
  rfl

end

theorem execQbind_binds {tm : Team} (hl : (qbindUni f).legal = true) (hs : s.leads f.toL1 [⟨.srcZ 2, f.a.toNat⟩] [] l lt)
    (read : lt.readReg (s.env l) f.a.toNat 2 = h) (ht : s.team l.team = some tm)
    (hv : f.a = 124 ∨ s.handleValid (s.ctxId l).vf h = true) :
    execQbind f s = .next ((s.updBlock tm.block fun b =>
      { b with windows := b.windows.set f.imm.toNat (BitVec.ofNat 64 (if f.a = 124 then 0 else h)) }).uniNext f.toL1 2 fun t => t) := by
  have fine : (if f.a = 124 then none else (s.passed f).handleBad ((s.passed f).ctxId l).vf h 0) = none := by
    rcases hv with zero | valid
    · exact if_pos zero
    · rw [handleBad_passed, handleBad_of_valid valid, ite_self]
  rw [execQbind]
  refine runUniform_next (u := s.passed f) rfl rfl hl hs rfl (.inl ?_)
  simp only [readReg_passed, leader_fullGroup, read]
  rw [fine, show (s.passed f).team l.team = some tm from ht]
  rfl

end

/-- Settles O42. -/
theorem queuePopsAndHandles : Obligations.QueuePopsAndHandles := by
  refine ⟨popForm_of (steal := false) (fun _ _ => rfl) fun _ h => h, popForm_of (steal := true) (fun _ _ => rfl) fun _ h => h,
    fun f s l lt hl hs => ?qcap, fun f s l lt tm hl hs ht => ?qbind⟩
  case qcap => exact ⟨execQcap_of_valid hl hs rfl, execQcap_of_invalid hl hs rfl⟩
  case qbind => exact execQbind_binds hl hs rfl ht

end Sys2Proof.Machine

namespace Sys2Proof.Machine
set_option Elab.async false -- as in the tests: many proofs under way at once outgrow the memory limit

/-! # What no trap changes (R380, R381, R390)

A trap changes how its threads go on and which of their writes are dropped: it writes no register and no memory. -/

/-- What a thread holds that no trap changes. -/
structure ThreadLasting where
  live : Bool
  regs : List Reg
  preds : BitVec 24
  ldn : Nat
  cpn : Nat
  mxn : Nat
  fmode : BitVec 2

def Thread.lasting (t : Thread) : ThreadLasting := ⟨t.live, t.regs, t.preds, t.ldn, t.cpn, t.mxn, t.fmode⟩

/-- What the state holds that no trap changes. -/
structure StateLasting where
  mem : List Host.Cell
  accs : List Access
  bars : Tbl BarId Bar
  qsets : Tbl QSetId QSet
  gates : Tbl Nat Gate
  parts : Tbl Nat Part
  clkw : Nat
  threads : ThreadId → Option ThreadLasting

def State.lasting (s : State) : StateLasting :=
  ⟨s.mem, s.accs, s.bars, s.qsets, s.gates, s.parts, s.clkw, fun i => (s.thread i).map Thread.lasting⟩

section
variable (s : State)

/-! ## Updates of one part of the state -/

@[simp] theorem lasting_updTeam (t : TeamId) (f : Team → Team) : (s.updTeam t f).lasting = s.lasting := rfl
@[simp] theorem lasting_updBlock (b : BlockId) (f : Block → Block) : (s.updBlock b f).lasting = s.lasting := rfl
@[simp] theorem lasting_updCore (c : CoreId) (f : Core → Core) : (s.updCore c f).lasting = s.lasting := rfl
@[simp] theorem lasting_updCtx (c : CtxId) (f : Ctx → Ctx) : (s.updCtx c f).lasting = s.lasting := rfl
@[simp] theorem lasting_countVf (v : VfId) (n : Nat) : (s.countVf v n).lasting = s.lasting := rfl
@[simp] theorem lasting_commitFirst (t : TeamId) : (s.commitFirst t).lasting = s.lasting := rfl
@[simp] theorem lasting_stampOverlay (c : CoreId) (o : Overlay) : (s.stampOverlay c o).lasting = s.lasting := rfl

/-- A change of every thread that leaves what it holds. -/
theorem lasting_mapThreads {f : ThreadId → Thread → Thread} (h : ∀ i t, s.thread i = some t → (f i t).lasting = t.lasting) :
    (s.mapThreads f).lasting = s.lasting := by
  have same (i : ThreadId) : ((s.mapThreads f).thread i).map Thread.lasting = (s.thread i).map Thread.lasting := by
    rw [thread_mapThreads, Option.map_map]
    exact Option.map_congr (h i)
  simp only [State.lasting, same]
  rfl

theorem lasting_updThread {i : ThreadId} {f : Thread → Thread} (h : ∀ t, s.thread i = some t → (f t).lasting = t.lasting) :
    (s.updThread i f).lasting = s.lasting := by
  rw [updThread_eq]
  refine lasting_mapThreads s fun k t ht => ?_
  split
  next hk => exact h t (hk ▸ ht)
  next => rfl

theorem lasting_updThreads {is : List ThreadId} {f : Thread → Thread} (h : ∀ t, (f t).lasting = t.lasting) :
    (s.updThreads is f).lasting = s.lasting := by
  refine lasting_mapThreads s fun k t _ => ?_
  split
  next => exact h t
  next => rfl

theorem lasting_park (i : ThreadId) (k : Park) : (s.updThread i fun t => { t with park := k }).lasting = s.lasting :=
  lasting_updThread s fun _ _ => rfl

/-! ## The ends of tasks (R381, R390, R391) -/

@[simp] theorem lasting_lowerStn (is : List ThreadId) : (s.lowerStn is).lasting = s.lasting := lasting_updThreads s fun _ => rfl

@[simp] theorem lasting_dropHeld (t : TeamId) : (s.dropHeld t).lasting = s.lasting := by
  unfold State.dropHeld
  split
  · rfl
  · exact foldl_keeps (fun s (a : Access) => lasting_lowerStn s a.owners) _ s

@[simp] theorem lasting_killTeam (i : ThreadId) (r : Raise) : (s.killTeam i r).lasting = s.lasting := lasting_dropHeld s _

@[simp] theorem lasting_strikeSusps (t : TeamId) (roll : Bool) (r : Raise) : (s.strikeSusps t roll r).lasting = s.lasting := by
  unfold State.strikeSusps
  dsimp only
  split <;> rfl

@[simp] theorem lasting_gangFault (i : ThreadId) (r : Raise) : (s.gangFault i r).lasting = s.lasting := by
  unfold State.gangFault
  extract_lets marked run who susps killed
  have same_marked : marked.lasting = s.lasting := by
    unfold marked
    split
    · split <;> rfl
    · rfl
  have same_killed : killed.lasting = s.lasting := by
    unfold killed
    split <;> simp [same_marked]
  split
  · exact (lasting_strikeSusps _ _ _ _).trans ((foldl_keeps (fun u t => lasting_updTeam u t _) _ _).trans same_killed)
  · exact (lasting_strikeSusps _ _ _ _).trans ((foldl_keeps (fun u t => lasting_killTeam u (who t) r) _ _).trans same_killed)

@[simp] theorem lasting_endByTrap (i : ThreadId) (r : Raise) : (s.endByTrap i r).lasting = s.lasting := by
  unfold State.endByTrap
  split <;> simp

@[simp] theorem lasting_countDivergence (i : ThreadId) (r : Raise) : (s.countDivergence i r).lasting = s.lasting := by
  unfold State.countDivergence
  split
  · rfl
  · split <;> rfl

@[simp] theorem lasting_recover (i : ThreadId) (r : Raise) : (s.recover i r).lasting = s.lasting := by
  unfold State.recover
  dsimp only
  split
  · simp
  · split <;> simp

/-! ## The way to the handler (R369, R370, R380) -/

@[simp] theorem lasting_demandFill (i : ThreadId) (x : CtxId) (image : Nat) : (s.demandFill i x image).1.lasting = s.lasting := by
  unfold State.demandFill
  split <;> rfl

@[simp] theorem lasting_awaitFill (i : ThreadId) (x : CtxId) (image : Nat) (k : FillThen) : (s.awaitFill i x image k).lasting = s.lasting := by
  unfold State.awaitFill
  dsimp only
  refine (lasting_park _ _ _).trans ((lasting_demandFill _ _ _ _).trans ?_)
  split <;> rfl

@[simp] theorem lasting_refusedEntry_handler (i : ThreadId) (e : Nat) (r : Raise) : (s.refusedEntry i (.handler e) r).lasting = s.lasting := by
  unfold State.refusedEntry
  dsimp only
  split
  · exact (lasting_endByTrap _ _ _).trans (lasting_park _ _ _)
  · rfl

/-- A thread that lands at a handler keeps what it holds. -/
theorem lasting_landing_handler {o : Overlay} {tok e : Nat} {t t' : Thread} (h : landing o tok t (.handler e) = .ok t') :
    t'.lasting = t.lasting := by
  unfold landing at h
  dsimp only at h
  split at h
  · cases h
  · cases h
    rfl

@[simp] theorem lasting_landEntry_handler (i : ThreadId) (o : Overlay) (e : Nat) : (s.landEntry i o (.handler e)).lasting = s.lasting := by
  unfold State.landEntry
  split
  · rfl
  next t ht =>
    split
    next t' landed =>
      rw [lasting_stampOverlay]
      refine lasting_updThread s fun u hu => ?_
      cases hu.symm.trans ht
      exact lasting_landing_handler landed
    · exact lasting_refusedEntry_handler s i e _

@[simp] theorem lasting_reachEntry_handler (i : ThreadId) (e : Nat) : (s.reachEntry i e .handler).lasting = s.lasting := by
  unfold State.reachEntry State.reachImage
  split
  · rfl
  split
  · split <;> simp
  · simp

@[simp] theorem lasting_deliver (i : ThreadId) (r : Raise) : (s.deliver i r).lasting = s.lasting := by
  unfold State.deliver
  split
  · split
    · simp
    split
    · simp
    · exact (lasting_reachEntry_handler _ _ _).trans (lasting_updThread _ fun _ _ => rfl)
  · rfl

@[simp] theorem lasting_raises (rs : List (ThreadId × Raise)) : (s.raises rs).lasting = s.lasting := by
  induction rs generalizing s with
  | nil => rfl
  | cons x rs ih =>
    rw [State.raises, ih]
    split <;> simp

@[simp] theorem lasting_illegal : s.illegal.lasting = s.lasting := lasting_raises s _

end

end Sys2Proof.Machine

namespace Sys2Proof.Machine
set_option Elab.async false -- as in the tests: many proofs under way at once outgrow the memory limit

open Claims

/-! # The frame of lane instructions on registers and predicates (R33, R79) -/

/-- What a lane instruction that writes w registers from n on, and predicates when p holds, leaves of a thread. -/
structure WritesOnly (n w : Nat) (p : Bool) (t t' : Thread) : Prop where
  regs : ∀ k, k < n ∨ n + w ≤ k → t'.regs[k]? = t.regs[k]?
  preds : p = false → t'.preds = t.preds
  ldn : t'.ldn = t.ldn
  cpn : t'.cpn = t.cpn
  mxn : t'.mxn = t.mxn
  fmode : t'.fmode = t.fmode
  live : t'.live = t.live

theorem regs_writeReg (t : Thread) (n w v tag : Nat) {k : Nat} (hk : k < n ∨ n + w ≤ k) : (t.writeReg n w v tag).regs[k]? = t.regs[k]? := by
  induction w with
  | zero => rfl
  | succ w ih =>
    rw [Thread.writeReg]
    split
    · have other : n + w ≠ k := by omega
      exact (List.getElem?_set_ne other).trans (ih (by omega))
    · rfl

theorem WritesOnly.refl (n w : Nat) (p : Bool) (t : Thread) : WritesOnly n w p t t :=
  ⟨fun _ _ => rfl, fun _ => rfl, rfl, rfl, rfl, rfl, rfl⟩

theorem writesOnly_writeReg (t : Thread) (n w v tag : Nat) : WritesOnly n w false t (t.writeReg n w v tag) where
  regs _ hk := regs_writeReg t n w v tag hk
  preds _ := t.writeReg_preds n w v tag
  ldn := t.writeReg_ldn n w v tag
  cpn := t.writeReg_cpn n w v tag
  mxn := t.writeReg_mxn n w v tag
  fmode := t.writeReg_fmode n w v tag
  live := t.writeReg_live n w v tag

theorem writesOnly_preds (t : Thread) (v : BitVec 24) : WritesOnly 0 0 true t { t with preds := v } :=
  ⟨fun _ _ => rfl, fun h => Bool.noConfusion h, rfl, rfl, rfl, rfl, rfl⟩

section
variable {n w : Nat} {p : Bool} {t t' : Thread} (h : WritesOnly n w p t t')
include h

theorem WritesOnly.addFlags (fl : Nat) : WritesOnly n w p t (t'.addFlags fl) := ⟨h.regs, h.preds, h.ldn, h.cpn, h.mxn, h.fmode, h.live⟩

theorem WritesOnly.step (k : Nat) : WritesOnly n w p t (t'.step k) := ⟨h.regs, h.preds, h.ldn, h.cpn, h.mxn, h.fmode, h.live⟩

/-- What the thread is left holding by an effect, when what comes after the effect leaves what it holds. -/
theorem WritesOnly.of_lasting {u : Thread} (hu : u.lasting = t'.lasting) : WritesOnly n w p t u := by
  simp only [Thread.lasting, ThreadLasting.mk.injEq] at hu
  obtain ⟨live, regs, preds, ldn, cpn, mxn, fmode⟩ := hu
  exact ⟨regs ▸ h.regs, preds ▸ h.preds, ldn ▸ h.ldn, cpn ▸ h.cpn, mxn ▸ h.mxn, fmode ▸ h.fmode, live ▸ h.live⟩

end

/-- A lane definition whose effect writes w registers from n on, and predicates when p holds. -/
def LaneDef.WritesOnly (i : LaneDef) (n w : Nat) (p : Bool) : Prop :=
  ∀ e t t', i.sem e i.nums t = .ok t' → Machine.WritesOnly n w p t t'

/-- What such an instruction leaves of the state. -/
def LaneFrame (n w : Nat) (p : Bool) (s t : State) : Prop :=
  (∀ a, memGet t.mem a = memGet s.mem a) ∧ t.accs = s.accs ∧ t.bars = s.bars ∧ t.qsets = s.qsets ∧ t.gates = s.gates ∧
    t.parts = s.parts ∧ t.clkw = s.clkw ∧
    ∀ id th, s.thread id = some th → ∃ th', t.thread id = some th' ∧
      (∀ k, id ∉ s.gathered.ids ∨ k < n ∨ n + w ≤ k → th'.regs[k]? = th.regs[k]?) ∧
      (id ∉ s.gathered.ids ∨ p = false → th'.preds = th.preds) ∧
      th'.ldn = th.ldn ∧ th'.cpn = th.cpn ∧ th'.mxn = th.mxn ∧ th'.fmode = th.fmode ∧ th'.live = th.live

section
variable {n w : Nat} {p : Bool} {s t : State}

/-- Where every gathered thread takes an effect that leaves the others alone, and then traps are raised. -/
theorem laneFrame_of_effect {f : ThreadId → Thread → Thread} (hf : ∀ i u, i ∈ s.gathered.ids → WritesOnly n w p u (f i u))
    (ht : t.lasting = (s.mapThreads fun i u => if i ∈ s.gathered.ids then f i u else u).lasting) : LaneFrame n w p s t := by
  simp only [State.lasting, StateLasting.mk.injEq] at ht
  obtain ⟨mem, accs, bars, qsets, gates, parts, clkw, threads⟩ := ht
  refine ⟨fun a => by rw [mem]; rfl, accs, bars, qsets, gates, parts, clkw, fun i th hi => ?_⟩
  have lasting := congrFun threads i
  rw [thread_mapThreads, hi, Option.map_some, Option.map_some, Option.map_eq_some_iff] at lasting
  obtain ⟨th', hth', same⟩ := lasting
  refine ⟨th', hth', ?_⟩
  by_cases gathered : i ∈ s.gathered.ids
  · rw [if_pos gathered] at same
    have left := (hf i th gathered).of_lasting same
    exact ⟨fun k hk => left.regs k (hk.resolve_left fun h => h gathered), fun h => left.preds (h.resolve_left fun h => h gathered),
      left.ldn, left.cpn, left.mxn, left.fmode, left.live⟩
  · rw [if_neg gathered] at same
    have left := (WritesOnly.refl 0 0 false th).of_lasting same
    exact ⟨fun k _ => left.regs k (.inr (by omega)), fun _ => left.preds rfl, left.ldn, left.cpn, left.mxn, left.fmode, left.live⟩

/-- A thread takes its effect, steps past a guard that is false, or keeps its record and traps. -/
theorem LaneDef.WritesOnly.run {i : LaneDef} (h : i.WritesOnly n w p) {e : Env} {u u' : Thread} (hr : i.run e u = .ok u') :
    Machine.WritesOnly n w p u u' := by
  unfold LaneDef.run at hr
  split at hr
  · split at hr
    · cases hr
    · split at hr
      next performed =>
        cases hr
        exact (h _ _ _ performed).step _
      next => cases hr
  · cases hr
    exact (WritesOnly.refl n w p u).step _

theorem laneFrame_of_runLane {i : LaneDef} (h : i.WritesOnly n w p) (hr : runLane i s = .next t) : LaneFrame n w p s t := by
  unfold runLane at hr
  split at hr
  · cases hr
    refine laneFrame_of_effect (fun j u _ => ?_) (lasting_raises _ _)
    split
    next performed => exact h.run performed
    next => exact .refl n w p u
  · cases hr
    refine laneFrame_of_effect (f := fun _ u => u) (fun _ u _ => .refl n w p u) ?_
    rw [lasting_illegal, lasting_mapThreads]
    exact fun i u _ => by rw [ite_self]

end
end Sys2Proof.Machine

namespace Sys2Proof.Machine
set_option Elab.async false -- as in the tests: many proofs under way at once outgrow the memory limit

open Claims

/-! ## The effects of the lane definitions -/

section
variable {i : LaneDef} {n w : Nat}

theorem writesOnly_of_writeReg {v : Env → Thread → Nat} {tag : Nat} (h : ∀ e t, i.sem e i.nums t = .ok (t.writeReg n w (v e t) tag)) :
    i.WritesOnly n w false := by
  intro e t t' ht
  cases (h e t).symm.trans ht
  exact writesOnly_writeReg t n w _ _

theorem writesOnly_of_preds {v : Env → Thread → BitVec 24} (h : ∀ e t, i.sem e i.nums t = .ok { t with preds := v e t }) :
    i.WritesOnly 0 0 true := by
  intro e t t' ht
  cases (h e t).symm.trans ht
  exact writesOnly_preds t _

end

theorem writesOnly_arithR (k : Nat) (f : L2R) : (arithR k f).WritesOnly f.d.toNat (gsz f.w) false := by
  intro e t t' ht
  dsimp only [arithR, arithSem, numsR] at ht
  repeat' split at ht
  all_goals cases ht <;> exact (writesOnly_writeReg t _ _ _ _).addFlags _

theorem writesOnly_fcmpR (k : Nat) (f : L2R) : (fcmpR k f).WritesOnly 0 0 true := by
  intro e t t' ht
  dsimp only [fcmpR, numsR] at ht
  repeat' split at ht
  all_goals cases ht <;> exact (writesOnly_preds t _).addFlags _

theorem writesOnly_unary (op : FFmt → RMode → Nat → Res) (f : L1) : (unary op f).WritesOnly f.d.toNat (gsz f.w) false := by
  intro e t t' ht
  dsimp only [unary, nums1] at ht
  repeat' split at ht
  all_goals cases ht <;> exact (writesOnly_writeReg t _ _ _ _).addFlags _

theorem writesOnly_cvtR (srcs dsts : List Nat) (modOk : Nat → Bool) (conv : Nat → Nat → RMode → Bool → Nat → Res) (f : L2R) :
    (cvtR srcs dsts modOk conv f).WritesOnly f.d.toNat (cvtGroups f).2 false := by
  intro e t t' ht
  dsimp only [cvtR, numsR] at ht
  split at ht
  all_goals cases ht <;> exact (writesOnly_writeReg t _ _ _ _).addFlags _

theorem writesOnly_dotFR (tags : List Nat) (same : Bool) (f : L2R) : (dotFR tags same f).WritesOnly f.d.toNat 1 false := by
  intro e t t' ht
  dsimp only [dotFR, numsR] at ht
  repeat' split at ht
  all_goals cases ht <;> exact (writesOnly_writeReg t _ _ _ _).addFlags _

theorem writesOnly_dotIR (tags : List Nat) (f : L2R) : (dotIR tags f).WritesOnly f.d.toNat 1 false := by
  intro e t t' ht
  dsimp only [dotIR, numsR] at ht
  split at ht
  all_goals cases ht <;> exact (writesOnly_writeReg t _ _ _ _).addFlags _

theorem writesOnly_sclR (f : L2R) : (sclR f).WritesOnly f.d.toNat 1 false := by
  intro e t t' ht
  dsimp only [sclR, numsR] at ht
  repeat' split at ht
  all_goals cases ht <;> exact (writesOnly_writeReg t _ _ _ _).addFlags _

/-- What `laneWrites` says of an instruction is what its lane definition writes. -/
theorem exists_laneDef_of_laneWrites {i : Instr} {n w : Nat} {p : Bool} (h : laneWrites i = some (n, w, p)) :
    ∃ d : LaneDef, (∀ s, exec i s = runLane d s) ∧ d.WritesOnly n w p := by
  cases i with
  | add | sub | and | or | xor | shl | shr | sar | not | neg | abs | popc | clz | ctz | brev | tagget | addReg | subReg | andReg | orReg
    | xorReg | shlReg | shrReg | sarReg | mul | mulhs | mulhu | mad | min | max | minu | maxu | sel | div | divu | rem | remu | bfx | bfxu
    | bfi | rotl | andn | addLit | subLit | andLit | orLit | xorLit | shlLit | shrLit | sarLit | movl | sext | zext | tagset | madw | leax
    | lea | bsel | prd =>
    cases h
    exact ⟨_, fun _ => rfl, writesOnly_of_writeReg fun _ _ => rfl⟩
  | cmpEq | cmpNe | cmpLt | cmpGe | cmpLtu | cmpGeu | cmpTst | cmpTstz | pand | por | pxor | pandn | pmov | pset | pwr | cmpiEq | cmpiNe
    | cmpiLt | cmpiGe | cmpiLtu | cmpiGeu | cmpiTst | cmpiTstz | tagchk =>
    cases h
    exact ⟨_, fun _ => rfl, writesOnly_of_preds fun _ _ => rfl⟩
  | fadd | fsub | fmul | fmin | fmax | ffma =>
    cases h
    exact ⟨_, fun _ => rfl, writesOnly_arithR _ _⟩
  | fclass | frint | fsat | rcp | rsq | sqrt | ex2 | lg2 | sin | cos | tanh =>
    cases h
    exact ⟨_, fun _ => rfl, writesOnly_unary _ _⟩
  | fcmpEq | fcmpNe | fcmpLt | fcmpLe | fcmpUno | fcmpOrd =>
    cases h
    exact ⟨_, fun _ => rfl, writesOnly_fcmpR _ _⟩
  | cvt | cvti | cvtf | pack | unpk =>
    cases h
    exact ⟨_, fun _ => rfl, writesOnly_cvtR _ _ _ _ _⟩
  | dot2 | dot4f | dot8f =>
    cases h
    exact ⟨_, fun _ => rfl, writesOnly_dotFR _ _ _⟩
  | dot4 | dot8 =>
    cases h
    exact ⟨_, fun _ => rfl, writesOnly_dotIR _ _⟩
  | scl =>
    cases h
    exact ⟨_, fun _ => rfl, writesOnly_sclR _⟩
  | _ => cases h

/-- Settles O10: the instruction runs its lane definition, whose effect on a thread is one write of the destination group or of the
predicates, and the traps raised after the effects change nothing that a thread holds. -/
theorem laneInstructionsFrame : Obligations.LaneInstructionsFrame := by
  intro i n w p s t writes runs
  obtain ⟨d, exec_eq, only⟩ := exists_laneDef_of_laneWrites writes
  exact laneFrame_of_runLane only ((exec_eq s).symm.trans runs)

end Sys2Proof.Machine

namespace Sys2Proof.Machine
set_option Elab.async false -- as in the tests: many proofs under way at once outgrow the memory limit

open Claims

/-! # Numbers and bit vectors (R4, R74, R79)

The model computes on exact numbers and narrows them when it writes them; the statements compute on bit vectors. `BitVec.ofNat` of the
one is the other. -/

section
variable {n : Nat} (x : BitVec n)

theorem sgn_toNat : sgn x.toNat n = x.toInt := by
  have small := x.isLt
  rw [sgn, Nat.mod_eq_of_lt small, BitVec.toInt_eq_toNat_cond]
  obtain _ | m := n
  · have zero : x.toNat = 0 := by omega
    simp [zero]
  · have double : 2 ^ (m + 1) = 2 * 2 ^ m := Nat.pow_succ'
    rw [Nat.add_sub_cancel, double]
    split <;> split <;> omega

theorem notW_toNat : notW x.toNat n = (~~~x).toNat := by
  rw [notW, Nat.mod_eq_of_lt x.isLt, BitVec.toNat_not]

theorem ofNat_wrap (v : Int) : BitVec.ofNat n (wrap v n) = BitVec.ofInt n v := by
  apply BitVec.eq_of_toNat_eq
  rw [wrap, ← BitVec.toNat_ofInt, BitVec.ofNat_toNat, BitVec.setWidth_eq]

end

/-- The literal of an instruction, sign-extended to the group (R80). -/
theorem wrap_lit (lit : W32) (n : Nat) : wrap (sgn lit.toNat 32) n = (lit.signExtend n).toNat := by
  rw [sgn_toNat, BitVec.signExtend, BitVec.toNat_ofInt]
  rfl

/-- An operation on numbers does modulo 2^(32g) what one on bit vectors does. -/
def Computes (op : Nat → Nat → Nat → Nat) (bop : (n : Nat) → BitVec n → BitVec n → BitVec n) : Prop :=
  ∀ (g : Nat) (x y : BitVec (32 * g)), BitVec.ofNat (32 * g) (op g x.toNat y.toNat) = bop _ x y

/-- The same of a shift by a number. -/
def Shifts (op : Nat → Nat → Nat → Nat) (bop : (n : Nat) → BitVec n → Nat → BitVec n) : Prop :=
  ∀ (g : Nat) (x : BitVec (32 * g)) (k : Nat), BitVec.ofNat (32 * g) (op g x.toNat k) = bop _ x k

/-- The same of an operation on one group. -/
def Maps (op : Nat → Nat → Nat) (bop : (n : Nat) → BitVec n → BitVec n) : Prop :=
  ∀ (g : Nat) (x : BitVec (32 * g)), BitVec.ofNat (32 * g) (op g x.toNat) = bop _ x

/-! ## The operations -/

theorem computes_opAdd : Computes opAdd fun _ x y => x + y := fun g x y => by
  rw [opAdd, BitVec.ofNat_add, BitVec.ofNat_toNat, BitVec.ofNat_toNat, BitVec.setWidth_eq, BitVec.setWidth_eq]

theorem computes_opSub : Computes opSub fun _ x y => x - y := fun g x y => by
  rw [opSub, ofNat_wrap, Int.sub_eq_add_neg, BitVec.ofInt_add, BitVec.ofInt_neg]
  simp [BitVec.sub_eq_add_neg]

theorem computes_opAnd : Computes opAnd fun _ x y => x &&& y := fun g x y => by
  simp [opAnd, BitVec.ofNat_and]

theorem computes_opOr : Computes opOr fun _ x y => x ||| y := fun g x y => by
  simp [opOr, BitVec.ofNat_or]

theorem computes_opXor : Computes opXor fun _ x y => x ^^^ y := fun g x y => by
  simp [opXor, BitVec.ofNat_xor]

theorem computes_opAndn : Computes opAndn fun _ x y => x &&& ~~~y := fun g x y => by
  simp only [opAndn, notW_toNat, BitVec.ofNat_and, BitVec.ofNat_toNat, BitVec.setWidth_eq]

theorem computes_opMul : Computes opMul fun _ x y => x * y := fun g x y => by
  rw [opMul, BitVec.ofNat_mul]
  simp

theorem shifts_opShl : Shifts opShl fun _ x k => x <<< k := fun g x k => by
  rw [opShl]
  split
  next beyond => exact (BitVec.shiftLeft_eq_zero beyond).symm
  next =>
    apply BitVec.eq_of_toNat_eq
    simp [Nat.shiftLeft_eq]

theorem shifts_opShr : Shifts opShr fun _ x k => x >>> k := fun g x k => by
  rw [opShr]
  split
  next beyond => exact (BitVec.ushiftRight_eq_zero beyond).symm
  next =>
    have small : x.toNat / 2 ^ k < 2 ^ (32 * g) := Nat.lt_of_le_of_lt (Nat.div_le_self ..) x.isLt
    apply BitVec.eq_of_toNat_eq
    simp [Nat.shiftRight_eq_div_pow, Nat.mod_eq_of_lt small]

/-- Beyond its width a number shifted right is all sign. -/
theorem toInt_ediv_two_pow_min {n : Nat} (x : BitVec n) (k : Nat) :
    x.toInt / (2 ^ min k n : Nat) = x.toInt / (2 ^ k : Nat) := by
  obtain inside | beyond := Nat.le_total k n
  · rw [Nat.min_eq_left inside]
  · have low := BitVec.le_two_mul_toInt (x := x)
    have high := BitVec.two_mul_toInt_lt (x := x)
    have wider : (2 : Int) ^ n ≤ 2 ^ k := by exact_mod_cast Nat.pow_le_pow_right (by decide) beyond
    rw [Nat.min_eq_right beyond]
    push_cast
    obtain nonneg | neg := le_or_gt 0 x.toInt
    · rw [Int.ediv_eq_zero_of_lt nonneg (by omega), Int.ediv_eq_zero_of_lt nonneg (by omega)]
    · rw [Int.ediv_eq_neg_one_of_neg_of_le neg (by omega), Int.ediv_eq_neg_one_of_neg_of_le neg (by omega)]

theorem shifts_opSar : Shifts opSar fun _ x k => x.sshiftRight k := fun g x k => by
  rw [opSar, ofNat_wrap, sgn_toNat, toInt_ediv_two_pow_min, ← Int.shiftRight_eq_div_pow]
  rfl

/-- The parts of a number rotated by r places do not overlap. -/
theorem rotated_parts {n x r : Nat} (hx : x < 2 ^ n) (hr : r ≤ n) :
    (x * 2 ^ r + x / 2 ^ (n - r)) % 2 ^ n = x <<< r % 2 ^ n ||| x >>> (n - r) := by
  have split_n : 2 ^ n = 2 ^ r * 2 ^ (n - r) := by rw [← Nat.pow_add, Nat.add_sub_cancel' hr]
  have low : x / 2 ^ (n - r) < 2 ^ r := Nat.div_lt_of_lt_mul (by rwa [Nat.mul_comm, ← split_n])
  rw [Nat.shiftLeft_eq, Nat.shiftRight_eq_div_pow, split_n, Nat.mul_comm x, Nat.mod_mul, Nat.mul_add_mod, Nat.mod_eq_of_lt low,
    Nat.mul_add_div (Nat.two_pow_pos r), Nat.div_eq_of_lt low, Nat.add_zero, Nat.mul_mod_mul_left, Nat.add_comm,
    Nat.two_pow_add_eq_or_of_lt low]

theorem shifts_opRotl : Shifts opRotl fun _ x k => x.rotateLeft k := fun g x k => by
  obtain _ | g := g
  · exact (BitVec.eq_nil _).trans (BitVec.eq_nil _).symm
  · apply BitVec.eq_of_toNat_eq
    rw [BitVec.toNat_rotateLeft, BitVec.toNat_ofNat, opRotl]
    exact rotated_parts x.isLt (Nat.mod_lt k (by omega)).le

/-- The number of a bit vector of all ones. -/
theorem ofNat_two_pow_pred (n : Nat) : BitVec.ofNat n (2 ^ n - 1) = BitVec.allOnes n := by
  apply BitVec.eq_of_toNat_eq
  rw [BitVec.toNat_ofNat, BitVec.toNat_allOnes, Nat.mod_eq_of_lt (Nat.sub_lt (Nat.two_pow_pos n) Nat.one_pos)]

/-! ## Products, extremes and quotients (R82, R84, R87) -/

/-- The high half of a number of twice the width. -/
theorem extractLsb'_ofInt_double (n : Nat) (v : Int) : (BitVec.ofInt (2 * n) v).extractLsb' n n = BitVec.ofInt n (v / (2 ^ n : Nat)) := by
  have pos : (2 ^ n : Nat) ≠ (0 : Int) := by exact_mod_cast (Nat.two_pow_pos n).ne'
  have square : ((2 ^ (2 * n) : Nat) : Int) = (2 ^ n : Nat) * (2 ^ n : Nat) := by rw [Nat.two_mul, Nat.pow_add, Int.natCast_mul]
  have nonneg : 0 ≤ v % (2 ^ (2 * n) : Nat) := Int.emod_nonneg _ (by rw [square]; exact Int.mul_ne_zero pos pos)
  have half : v % (2 ^ (2 * n) : Nat) / (2 ^ n : Nat) = v / (2 ^ n : Nat) - (2 ^ n : Nat) * (v / (2 ^ (2 * n) : Nat)) := by
    rw [Int.emod_def, square, Int.mul_assoc, Int.sub_mul_ediv_left _ _ pos]
  have modulo : ((v % (2 ^ (2 * n) : Nat)).toNat / 2 ^ n % 2 ^ n : Nat) = v / (2 ^ n : Nat) % (2 ^ n : Nat) := by
    rw [Int.natCast_mod, Int.natCast_div, Int.toNat_of_nonneg nonneg, half, Int.sub_mul_emod_self_left]
  apply BitVec.eq_of_toNat_eq
  rw [BitVec.extractLsb'_toNat, BitVec.toNat_ofInt, BitVec.toNat_ofInt, Nat.shiftRight_eq_div_pow, ← modulo, Int.toNat_natCast]

theorem computes_opMulhs : Computes opMulhs mulHighS := fun g x y => by
  rw [opMulhs, ofNat_wrap, sgn_toNat, sgn_toNat, mulHighS, BitVec.signExtend, BitVec.signExtend, ← BitVec.ofInt_mul, extractLsb'_ofInt_double]

theorem computes_opMulhu : Computes opMulhu mulHighU := fun g x y => by
  have wide : mulHighU (32 * g) x y = (BitVec.ofInt (2 * (32 * g)) ((x.toNat * y.toNat : Nat) : Int)).extractLsb' (32 * g) (32 * g) := by
    rw [mulHighU, BitVec.ofInt_natCast, BitVec.ofNat_mul, BitVec.ofNat_toNat, BitVec.ofNat_toNat]
  rw [wide, extractLsb'_ofInt_double]
  rfl

theorem computes_opMin : Computes opMin fun _ x y => if x.sle y then x else y := fun g x y => by
  rw [opMin, sgn_toNat, sgn_toNat]
  simp only [BitVec.sle_iff_toInt_le]
  split <;> simp

theorem computes_opMax : Computes opMax fun _ x y => if x.sle y then y else x := fun g x y => by
  rw [opMax, sgn_toNat, sgn_toNat]
  simp only [BitVec.sle_iff_toInt_le]
  split <;> simp

theorem computes_opMinu : Computes opMinu fun _ x y => if x.ule y then x else y := fun g x y => by
  simp only [opMinu, BitVec.ule_iff_le, BitVec.le_def]
  split <;> simp

theorem computes_opMaxu : Computes opMaxu fun _ x y => if x.ule y then y else x := fun g x y => by
  simp only [opMaxu, BitVec.ule_iff_le, BitVec.le_def]
  split <;> simp

theorem toNat_eq_zero_iff {n : Nat} (y : BitVec n) : y.toNat = 0 ↔ y = 0 := BitVec.toNat_inj (y := 0)

theorem computes_opDiv : Computes opDiv fun n x y => if y = 0 then BitVec.allOnes n else x.sdiv y := fun g x y => by
  simp only [opDiv, toNat_eq_zero_iff]
  split
  next => exact ofNat_two_pow_pred _
  next =>
    apply BitVec.eq_of_toInt_eq
    rw [ofNat_wrap, sgn_toNat, sgn_toNat, BitVec.toInt_ofInt, BitVec.toInt_sdiv]

theorem computes_opDivu : Computes opDivu fun n x y => if y = 0 then BitVec.allOnes n else x.udiv y := fun g x y => by
  simp only [opDivu, toNat_eq_zero_iff]
  split
  next => exact ofNat_two_pow_pred _
  next => exact BitVec.udiv_def.symm

theorem computes_opRem : Computes opRem fun _ x y => if y = 0 then x else x.srem y := fun g x y => by
  simp only [opRem, toNat_eq_zero_iff]
  split
  next => simp
  next => rw [ofNat_wrap, sgn_toNat, sgn_toNat, ← BitVec.toInt_srem, BitVec.ofInt_toInt]

theorem computes_opRemu : Computes opRemu fun _ x y => if y = 0 then x else x.umod y := fun g x y => by
  simp only [opRemu, toNat_eq_zero_iff]
  split
  next => simp
  next => exact BitVec.umod_def.symm

end Sys2Proof.Machine

namespace Sys2Proof.Machine
set_option Elab.async false -- as in the tests: many proofs under way at once outgrow the memory limit

open Claims

/-! # The forms of integer instructions: from their lane definitions to the effect on every thread (R79, R80, R81) -/

/-- A group write of a number and of the bit vector that it narrows to are one. -/
theorem writeReg_of_ofNat {t : Thread} {n g v tag : Nat} {b : BitVec (32 * g)} (h : BitVec.ofNat (32 * g) v = b) :
    t.writeReg n g v tag = t.writeReg n g b.toNat tag := by
  rw [← h, BitVec.toNat_ofNat]
  exact writeReg_mod t n g tag (Nat.mod_mod _ _).symm

/-- A legal lane instruction whose effect on a thread is what it says, when its operands pass. -/
theorem runLane_of_sem {i : LaneDef} {s : State} {f : L1} {e : Env → Thread → Thread} (hl : i.legal = true)
    (ho : s.operandsPass f (i.opds i.nums)) (hs : ∀ en t, i.sem en i.nums t = .ok (e en t)) (hg : i.g = f.g := by rfl)
    (hn : i.gn = f.gn := by rfl) : runLane i s = .next (s.laneNext f i.words e) :=
  runLane_next hg hn hl ho fun _ _ _ _ => hs _ _

section
variable {op : Nat → Nat → Nat → Nat} {bop : (n : Nat) → BitVec n → BitVec n → BitVec n}
variable {sop : (n : Nat) → BitVec n → Nat → BitVec n} {uop : Nat → Nat → Nat} {ubop : (n : Nat) → BitVec n → BitVec n} {ws : List Nat}

/-- Two groups under an operation. -/
theorem Computes.grps (h : Computes op bop) (e : Env) (t : Thread) (a b g : Nat) :
    BitVec.ofNat (32 * g) (op g (t.readReg e a g) (t.readReg e b g)) = bop _ (t.grp e a g) (t.grp e b g) := by
  rw [← h, grp_toNat, grp_toNat]

/-- A group and the sign-extended literal under an operation. -/
theorem Computes.lit (h : Computes op bop) (e : Env) (t : Thread) (a g : Nat) (lit : W32) :
    BitVec.ofNat (32 * g) (op g (t.readReg e a g) (wrap (sgn lit.toNat 32) (32 * g))) = bop _ (t.grp e a g) (lit.signExtend _) := by
  rw [← h, grp_toNat, wrap_lit]

theorem Shifts.grp (h : Shifts op sop) (e : Env) (t : Thread) (a g k : Nat) :
    BitVec.ofNat (32 * g) (op g (t.readReg e a g) k) = sop _ (t.grp e a g) k := by
  rw [← h, grp_toNat]

theorem Shifts.reg (h : Shifts op sop) (e : Env) (t : Thread) (a b g : Nat) :
    BitVec.ofNat (32 * g) (op g (t.readReg e a g) (t.readReg e b 1)) = sop _ (t.grp e a g) (t.grp e b 1).toNat := by
  rw [h.grp, grp_toNat]

theorem Maps.grp (h : Maps uop ubop) (e : Env) (t : Thread) (a g : Nat) :
    BitVec.ofNat (32 * g) (uop g (t.readReg e a g)) = ubop _ (t.grp e a g) := by
  rw [← h, grp_toNat]

theorem destForm_of_bin1 (h : Computes op bop) {c : L1 → Instr} (hc : ∀ f s, exec (c f) s = runLane (bin1 ws op f) s := by exact fun _ _ => rfl)
    (hl : ∀ f, (c f).WellFormed → (bin1 ws op f).legal = true := by exact fun _ h => h) : DestForm c bop := fun f s hw ho =>
  (hc f s).trans (runLane_of_sem (hl f hw) ho fun e t => congrArg Except.ok (writeReg_of_ofNat (h.grps e t f.d.toNat f.a.toNat (gsz f.w))))

theorem destShift_of_sh1 (h : Shifts op sop) {c : L1 → Instr} (hc : ∀ f s, exec (c f) s = runLane (sh1 op f) s := by exact fun _ _ => rfl)
    (hl : ∀ f, (c f).WellFormed → (sh1 op f).legal = true := by exact fun _ h => h) : DestShift c sop := fun f s hw ho =>
  (hc f s).trans (runLane_of_sem (hl f hw) ho fun e t => congrArg Except.ok (writeReg_of_ofNat (h.reg e t f.d.toNat f.a.toNat (gsz f.w))))

theorem unaryForm_of_un1 (h : Maps uop ubop) {c : L1 → Instr} (hc : ∀ f s, exec (c f) s = runLane (un1 ws uop f) s := by exact fun _ _ => rfl)
    (hl : ∀ f, (c f).WellFormed → (un1 ws uop f).legal = true := by exact fun _ h => h) : UnaryForm c ubop := fun f s hw ho =>
  (hc f s).trans (runLane_of_sem (hl f hw) ho fun e t => congrArg Except.ok (writeReg_of_ofNat (h.grp e t f.a.toNat (gsz f.w))))

theorem regForm_of_binR (h : Computes op bop) {c : L2R → Instr} (hc : ∀ f s, exec (c f) s = runLane (binR ws op f) s := by exact fun _ _ => rfl)
    (hl : ∀ f, (c f).WellFormed → (binR ws op f).legal = true := by exact fun _ h => h) : RegForm c bop := fun f s hw ho =>
  (hc f s).trans (runLane_of_sem (hl f hw) ho fun e t => congrArg Except.ok (writeReg_of_ofNat (h.grps e t f.a.toNat f.b.toNat (gsz f.w))))

theorem regShift_of_shR (h : Shifts op sop) {c : L2R → Instr} (hc : ∀ f s, exec (c f) s = runLane (shR op f) s := by exact fun _ _ => rfl)
    (hl : ∀ f, (c f).WellFormed → (shR op f).legal = true := by exact fun _ h => h) : RegShift c sop := fun f s hw ho =>
  (hc f s).trans (runLane_of_sem (hl f hw) ho fun e t => congrArg Except.ok (writeReg_of_ofNat (h.reg e t f.a.toNat f.b.toNat (gsz f.w))))

theorem litForm_of_binI (h : Computes op bop) {c : L2I → Instr} (hc : ∀ f s, exec (c f) s = runLane (binI ws op f) s := by exact fun _ _ => rfl)
    (hl : ∀ f, (c f).WellFormed → (binI ws op f).legal = true := by exact fun _ h => h) : LitForm c bop := fun f s hw ho =>
  (hc f s).trans (runLane_of_sem (hl f hw) ho fun e t => congrArg Except.ok (writeReg_of_ofNat (h.lit e t f.a.toNat (gsz f.w) f.lit)))

theorem litShift_of_shI (h : Shifts op sop) {c : L2I → Instr} (hc : ∀ f s, exec (c f) s = runLane (shI op f) s := by exact fun _ _ => rfl)
    (hl : ∀ f, (c f).WellFormed → (shI op f).legal = true := by exact fun _ h => h) : LitShift c sop := fun f s hw ho =>
  (hc f s).trans (runLane_of_sem (hl f hw) ho fun e t => congrArg Except.ok (writeReg_of_ofNat (h.grp e t f.a.toNat (gsz f.w) f.lit.toNat)))

end

/-- Settles O12: each form is one lane definition over the operation, and the operation on numbers narrows to the one on bit vectors. -/
theorem aluThreeForms : Obligations.AluThreeForms :=
  ⟨destForm_of_bin1 computes_opAdd, destForm_of_bin1 computes_opSub, destForm_of_bin1 computes_opAnd, destForm_of_bin1 computes_opOr,
    destForm_of_bin1 computes_opXor, destShift_of_sh1 shifts_opShl, destShift_of_sh1 shifts_opShr, destShift_of_sh1 shifts_opSar,
    regForm_of_binR computes_opAdd, regForm_of_binR computes_opSub, regForm_of_binR computes_opAnd, regForm_of_binR computes_opOr,
    regForm_of_binR computes_opXor, regShift_of_shR shifts_opShl, regShift_of_shR shifts_opShr, regShift_of_shR shifts_opSar,
    litForm_of_binI computes_opAdd, litForm_of_binI computes_opSub, litForm_of_binI computes_opAnd, litForm_of_binI computes_opOr,
    litForm_of_binI computes_opXor, litShift_of_shI shifts_opShl, litShift_of_shI shifts_opShr, litShift_of_shI shifts_opSar⟩

/-- Settles O13: all but ROTL are the lane definition of ADD's register form over another operation, and ROTL is that of SHL's. -/
theorem multiplyDivideMinMax : Obligations.MultiplyDivideMinMax :=
  ⟨regForm_of_binR computes_opMul, regForm_of_binR computes_opMulhs, regForm_of_binR computes_opMulhu, regForm_of_binR computes_opMin,
    regForm_of_binR computes_opMax, regForm_of_binR computes_opMinu, regForm_of_binR computes_opMaxu, regForm_of_binR computes_opDiv,
    regForm_of_binR computes_opDivu, regForm_of_binR computes_opRem, regForm_of_binR computes_opRemu, regShift_of_shR shifts_opRotl,
    regForm_of_binR computes_opAndn⟩

end Sys2Proof.Machine

namespace Sys2Proof.Machine
set_option Elab.async false -- as in the tests: many proofs under way at once outgrow the memory limit

open Claims

/-! # MAD, MADW, SEL and LEAX (R82, R83, R85, R86) -/

theorem mad_next {f : L2R} {s : State} (hw : (Instr.mad f).WellFormed)
    (ho : s.operandsPass f.toL1 [⟨.src (gsz f.w), f.a.toNat⟩, ⟨.src (gsz f.w), f.b.toNat⟩, ⟨.src (gsz f.w), f.c.toNat⟩,
      ⟨.dst (gsz f.w), f.d.toNat⟩]) :
    exec (.mad f) s = .next (s.laneNext f.toL1 2 fun e t => t.writeReg f.d.toNat (gsz f.w)
      (t.grp e f.a.toNat (gsz f.w) * t.grp e f.b.toNat (gsz f.w) + t.grp e f.c.toNat (gsz f.w)).toNat 0) :=
  runLane_of_sem (i := madR f) hw ho fun e t => congrArg Except.ok (writeReg_of_ofNat (by rw [BitVec.ofNat_add, BitVec.ofNat_mul]; rfl))

section
variable {signed : Bool} {x y : BitVec 32} {z : BitVec 64}

/-- The widening product narrows to that of the extended operands. -/
theorem ofNat_madwVal : BitVec.ofNat 64 (madwVal signed x.toNat y.toNat z.toNat) =
    (if signed then x.signExtend 64 * y.signExtend 64 else x.setWidth 64 * y.setWidth 64) + z := by
  cases signed with
  | false => simp [madwVal, BitVec.ofNat_add, BitVec.ofNat_mul]
  | true =>
    simp only [madwVal, if_true, ofNat_wrap, sgn_toNat, BitVec.ofInt_add, BitVec.ofInt_mul, BitVec.ofInt_natCast, BitVec.ofNat_toNat,
      BitVec.setWidth_eq]
    rfl

/-- A product with a power of 2 is a shift. -/
theorem ofInt_mul_two_pow {n : Nat} (v : Int) (k : Nat) : BitVec.ofInt n (v * (2 ^ k : Nat)) = BitVec.ofInt n v <<< k := by
  have power : BitVec.ofNat n (2 ^ k) = BitVec.twoPow n k := BitVec.eq_of_toNat_eq (by rw [BitVec.toNat_twoPow, BitVec.toNat_ofNat])
  rw [BitVec.ofInt_mul, BitVec.ofInt_natCast, BitVec.shiftLeft_eq_mul_twoPow, power]

theorem ofNat_leaxVal (k : Nat) :
    BitVec.ofNat 64 (wrap ((z.toNat : Int) + (if signed then (y.toNat : Int) else sgn y.toNat 32) * (2 ^ k : Nat)) 64) =
      z + (if signed then y.setWidth 64 else y.signExtend 64) <<< k := by
  rw [ofNat_wrap, BitVec.ofInt_add, ofInt_mul_two_pow, apply_ite (BitVec.ofInt 64), sgn_toNat, BitVec.ofInt_natCast, BitVec.ofInt_natCast,
    BitVec.ofNat_toNat, BitVec.ofNat_toNat, BitVec.setWidth_eq]
  rfl

end

theorem madw_next {f : L2R} {s : State} (hw : (Instr.madw f).WellFormed)
    (ho : s.operandsPass f.toL1 [⟨.src 1, f.a.toNat⟩, ⟨.src 1, f.b.toNat⟩, ⟨.src 2, f.c.toNat⟩, ⟨.dst 2, f.d.toNat⟩]) :
    exec (.madw f) s = .next (s.laneNext f.toL1 2 fun e t => t.writeReg f.d.toNat 2
      ((if f.mod = 1 then (t.grp e f.a.toNat 1).signExtend _ * (t.grp e f.b.toNat 1).signExtend _
        else (t.grp e f.a.toNat 1).setWidth _ * (t.grp e f.b.toNat 1).setWidth _) + t.grp e f.c.toNat 2).toNat 0) := by
  refine runLane_of_sem (i := madwR f) hw ho fun e t => congrArg Except.ok (writeReg_of_ofNat ?_)
  have value := ofNat_madwVal (signed := f.mod = 1) (x := t.grp e f.a.toNat 1) (y := t.grp e f.b.toNat 1) (z := t.grp e f.c.toNat 2)
  rw [grp_toNat, grp_toNat, grp_toNat] at value
  simp only [decide_eq_true_eq] at value
  exact value

theorem sel_next {f : L2R} {s : State} (hw : (Instr.sel f).WellFormed)
    (ho : s.operandsPass f.toL1 [⟨.src (gsz f.w), f.a.toNat⟩, ⟨.src (gsz f.w), f.b.toNat⟩, ⟨.dst (gsz f.w), f.d.toNat⟩]) :
    exec (.sel f) s = .next (s.laneNext f.toL1 2 fun e t => t.writeReg f.d.toNat (gsz f.w)
      (if t.pred f.c.toNat then t.grp e f.a.toNat (gsz f.w) else t.grp e f.b.toNat (gsz f.w)).toNat 0) :=
  runLane_of_sem (i := selR f) hw ho fun _ _ => congrArg Except.ok (writeReg_of_ofNat (apply_ite (BitVec.ofNat _) _ _ _))

theorem leax_next {f : L2R} {s : State} (hw : (Instr.leax f).WellFormed)
    (ho : s.operandsPass f.toL1 [⟨.src 2, f.a.toNat⟩, ⟨.src 1, f.b.toNat⟩, ⟨.dst 2, f.d.toNat⟩]) :
    exec (.leax f) s = .next (s.laneNext f.toL1 2 fun e t =>
      let b := t.grp e f.b.toNat 1
      let i : BitVec (32 * 2) := if f.imm.getLsbD 2 then b.setWidth _ else b.signExtend _
      t.writeReg f.d.toNat 2 (t.grp e f.a.toNat 2 + i <<< (f.imm.toNat % 4)).toNat 0) := by
  refine runLane_of_sem (i := leaxR f) hw ho fun e t => congrArg Except.ok (writeReg_of_ofNat ?_)
  have value := ofNat_leaxVal (signed := f.imm.getLsbD 2) (y := t.grp e f.b.toNat 1) (z := t.grp e f.a.toNat 2) (fld f.imm.toNat 0 2)
  rw [grp_toNat, grp_toNat, fld_zero] at value
  simp only [leaxR, numsR, fld_zero]
  exact value

theorem multiplyAddSelectAddress : MultiplyAddSelectAddress :=
  ⟨fun _ _ => mad_next, fun _ _ => madw_next, fun _ _ => sel_next, fun _ _ => leax_next⟩

/-! # Bit fields and the byte select (R89, R90) -/

theorem fieldPos_eq (f : L2R) (ctl : BitVec 32) : fieldPos f ctl.toNat = fieldAt f ctl := by
  simp only [fieldPos, fieldAt, toNat_extractLsb'_eq_fld]

theorem fieldPos_readReg (f : L2R) (e : Env) (t : Thread) (n : Nat) : fieldPos f (t.readReg e n 1) = fieldAt f (t.grp e n 1) := by
  rw [← grp_toNat]
  exact fieldPos_eq f _

/-- A field cut at the width. -/
theorem fieldLen_eq (n pos len : Nat) : fieldLen n pos len = min len (n - pos) := by
  rw [fieldLen]
  split <;> omega

/-- The extracted field, extended from its top bit or with zeros (R89). -/
theorem ofNat_bfxVal {n : Nat} (signed : Bool) (x : BitVec n) (pos len : Nat) : BitVec.ofNat n (bfxVal signed n x.toNat pos len) =
    if signed then (x.extractLsb' pos (min len (n - pos))).signExtend n else (x.extractLsb' pos (min len (n - pos))).setWidth n := by
  simp only [bfxVal, fieldLen_eq]
  generalize min len (n - pos) = l
  rw [← toNat_extractLsb'_eq_fld, sgn_toNat]
  split
  next zero =>
    subst zero
    have none_set : x.extractLsb' pos 0 = 0 := BitVec.eq_nil _
    cases signed <;> simp [none_set, BitVec.signExtend]
  next =>
    cases signed with
    | false => exact BitVec.ofNat_toNat ..
    | true => exact ofNat_wrap _

/-- The bits of a number in which a field is replaced. -/
theorem testBit_setFld (x lo len v i : Nat) :
    (setFld x lo len v).testBit i = if lo ≤ i ∧ i < lo + len then v.testBit (i - lo) else x.testBit i := by
  have low : x % 2 ^ lo < 2 ^ lo := Nat.mod_lt _ (Nat.two_pow_pos lo)
  have field : v % 2 ^ len < 2 ^ len := Nat.mod_lt _ (Nat.two_pow_pos len)
  have parts : setFld x lo len v = 2 ^ lo * (2 ^ len * (x / 2 ^ lo / 2 ^ len) + v % 2 ^ len) + x % 2 ^ lo := by
    have outer := Nat.div_add_mod x (2 ^ lo)
    have inner := congrArg (2 ^ lo * ·) (Nat.div_add_mod (x / 2 ^ lo) (2 ^ len))
    simp only [Nat.mul_add] at inner ⊢
    rw [setFld, fld, Nat.mul_comm (x / 2 ^ lo % 2 ^ len), Nat.mul_comm (v % 2 ^ len)]
    omega
  rw [parts, Nat.testBit_two_pow_mul_add _ low, Nat.testBit_two_pow_mul_add _ field, Nat.testBit_mod_two_pow, Nat.testBit_mod_two_pow,
    Nat.testBit_div_two_pow, Nat.testBit_div_two_pow]
  obtain below | above := Nat.lt_or_ge i lo
  · simp [below, Nat.not_le.mpr below]
  · obtain ⟨j, rfl⟩ := Nat.exists_eq_add_of_le above
    obtain inside | beyond := Nat.lt_or_ge j len
    · simp [inside]
    · obtain ⟨k, rfl⟩ := Nat.exists_eq_add_of_le beyond
      simp [Nat.add_comm]

theorem getLsbD_fieldMask {n : Nat} (pos len i : Nat) (hi : i < n) :
    (fieldMask n pos len).getLsbD i = decide (pos ≤ i ∧ i < pos + min len (n - pos)) := by
  rw [fieldMask, BitVec.getLsbD_shiftLeft, BitVec.getLsbD_setWidth, BitVec.getLsbD_allOnes]
  simp only [hi, decide_true, Bool.true_and, ← decide_not, ← Bool.decide_and, decide_eq_decide]
  omega

/-- The inserted field (R89). -/
theorem ofNat_bfiVal {n : Nat} (x y : BitVec n) (pos len : Nat) :
    BitVec.ofNat n (bfiVal n x.toNat y.toNat pos len) = (x &&& ~~~fieldMask n pos len) ||| (y <<< pos &&& fieldMask n pos len) := by
  apply BitVec.eq_of_getLsbD_eq
  intro i hi
  have whole : (bfiVal n x.toNat y.toNat pos len).testBit i =
      if pos ≤ i ∧ i < pos + min len (n - pos) then y.getLsbD (i - pos) else x.getLsbD i := by
    simp only [bfiVal, fieldLen_eq]
    split
    next none_cut =>
      rw [none_cut, if_neg (by omega), BitVec.testBit_toNat]
    next => rw [testBit_setFld, BitVec.testBit_toNat, BitVec.testBit_toNat]
  rw [BitVec.getLsbD_ofNat, whole, BitVec.getLsbD_or, BitVec.getLsbD_and, BitVec.getLsbD_and, BitVec.getLsbD_not, BitVec.getLsbD_shiftLeft,
    getLsbD_fieldMask pos len i hi]
  by_cases field : pos ≤ i ∧ i < pos + min len (n - pos)
  · simp [field, hi]
  · simp [field, hi]

section
variable {f : L2R} {s : State}

theorem bfx_next {c : L2R → Instr} (signed : Bool) (hc : ∀ f s, exec (c f) s = runLane (bfxR signed f) s)
    (hl : (bfxR signed f).legal = true)
    (ho : s.operandsPass f.toL1 ([⟨.src (gsz f.w), f.a.toNat⟩] ++ ctlOpd f f.b ++ [⟨.dst (gsz f.w), f.d.toNat⟩])) :
    exec (c f) s = .next (s.laneNext f.toL1 2 fun e t =>
      let p := fieldAt f (t.grp e f.b.toNat 1)
      let v := (t.grp e f.a.toNat (gsz f.w)).extractLsb' p.1 (min p.2 (32 * gsz f.w - p.1))
      t.writeReg f.d.toNat (gsz f.w) (if signed then v.signExtend (32 * gsz f.w) else v.setWidth (32 * gsz f.w)).toNat 0) := by
  refine (hc f s).trans (runLane_of_sem (i := bfxR signed f) hl ho fun e t => congrArg Except.ok (writeReg_of_ofNat ?_))
  refine Eq.trans ?_ (ofNat_bfxVal signed _ _ _)
  rw [← fieldPos_readReg, grp_toNat]
  rfl

theorem bfi_next (hw : (Instr.bfi f).WellFormed)
    (ho : s.operandsPass f.toL1 ([⟨.src (gsz f.w), f.a.toNat⟩, ⟨.src (gsz f.w), f.b.toNat⟩] ++ ctlOpd f f.c ++
      [⟨.dst (gsz f.w), f.d.toNat⟩])) :
    exec (.bfi f) s = .next (s.laneNext f.toL1 2 fun e t =>
      let p := fieldAt f (t.grp e f.c.toNat 1)
      let m := fieldMask (32 * gsz f.w) p.1 p.2
      t.writeReg f.d.toNat (gsz f.w)
        ((t.grp e f.a.toNat (gsz f.w) &&& ~~~m) ||| (t.grp e f.b.toNat (gsz f.w) <<< p.1 &&& m)).toNat 0) := by
  refine runLane_of_sem (i := bfiR f) hw ho fun e t => congrArg Except.ok (writeReg_of_ofNat ?_)
  refine Eq.trans ?_ (ofNat_bfiVal _ _ _ _)
  rw [← fieldPos_readReg, grp_toNat, grp_toNat]
  rfl

end

end Sys2Proof.Machine

namespace Sys2Proof.Machine
set_option Elab.async false -- as in the tests: many proofs under way at once outgrow the memory limit

open Claims

/-! ## The byte select (R90) -/

theorem toNat_append_eq {m n : Nat} (x : BitVec m) (y : BitVec n) : (x ++ y).toNat = x.toNat * 2 ^ n + y.toNat := by
  rw [BitVec.toNat_append, ← Nat.shiftLeft_add_eq_or_of_lt y.isLt, Nat.shiftLeft_eq]

/-- Bytes side by side, the first lowest. -/
theorem toNat_append_bytes (a b c d : Byte) : (d ++ c ++ b ++ a : BitVec 32).toNat = bytesToNat [a, b, c, d] := by
  simp only [toNat_append_eq, bytesToNat]
  omega

/-- Byte i of a byte select: 0 under the control's mask, else the source's byte that the control names. -/
def selByte (v : BitVec 64) (ctl : BitVec 16) (i : Nat) : Byte :=
  if ctl.getLsbD (12 + i) then 0 else v.extractLsb' (8 * (ctl.extractLsb' (3 * i) 3).toNat) 8

theorem bselVal_eq (v : BitVec 64) (ctl : BitVec 16) : bselVal v.toNat (fld ctl.toNat 0 12) (fld ctl.toNat 12 4) =
    (selByte v ctl 3 ++ selByte v ctl 2 ++ selByte v ctl 1 ++ selByte v ctl 0 : BitVec 32).toNat := by
  have byte_eq : ∀ i < 4, (if (fld ctl.toNat 12 4).testBit i then 0
      else BitVec.ofNat 8 (fld v.toNat (8 * fld (fld ctl.toNat 0 12) (3 * i) 3) 8)) = selByte v ctl i := by
    intro i hi
    have mask : (fld ctl.toNat 12 4).testBit i = ctl.getLsbD (12 + i) := by
      rw [fld, Nat.testBit_mod_two_pow, Nat.testBit_div_two_pow, BitVec.testBit_toNat, Nat.add_comm]
      simp [hi]
    have select : fld (fld ctl.toNat 0 12) (3 * i) 3 = (ctl.extractLsb' (3 * i) 3).toNat := by
      rw [← toNat_extractLsb'_eq_fld, ← toNat_extractLsb'_eq_fld]
      congr 1
      apply BitVec.eq_of_getLsbD_eq
      intro j hj
      have low : 3 * i + j < 12 := by omega
      simp [hj, low]
    rw [mask, select, selByte, ← toNat_extractLsb'_eq_fld, BitVec.ofNat_toNat, BitVec.setWidth_eq]
  rw [toNat_append_bytes]
  exact congrArg bytesToNat (List.map_congr_left fun i hi => byte_eq i (List.mem_range.mp hi))

/-- The control of a byte select: the low half of the register C, or MOD[4:1] above IMM12. -/
def selControl (f : L2R) (c : BitVec 32) : BitVec 16 := if f.mod.getLsbD 0 then c.setWidth 16 else f.mod.extractLsb' 1 4 ++ f.imm

theorem fld_selControl_low (f : L2R) (c : BitVec 32) :
    fld (selControl f c).toNat 0 12 = if f.mod.getLsbD 0 then fld c.toNat 0 12 else f.imm.toNat := by
  unfold selControl
  split
  · simp only [fld_zero, BitVec.toNat_setWidth]
    omega
  · rw [fld_zero, toNat_append_eq, Nat.mul_comm, Nat.mul_add_mod, Nat.mod_eq_of_lt f.imm.isLt]

theorem fld_selControl_high (f : L2R) (c : BitVec 32) :
    fld (selControl f c).toNat 12 4 = if f.mod.getLsbD 0 then fld c.toNat 12 4 else fld f.mod.toNat 1 4 := by
  unfold selControl
  split
  · simp only [fld, BitVec.toNat_setWidth]
    omega
  · have below := f.imm.isLt
    have fits := (f.mod.extractLsb' 1 4).isLt
    rw [← toNat_extractLsb'_eq_fld f.mod, fld, toNat_append_eq, Nat.mul_comm, Nat.mul_add_div (Nat.two_pow_pos 12), Nat.div_eq_of_lt below,
      Nat.add_zero, Nat.mod_eq_of_lt fits]

theorem bsel_next {f : L2R} {s : State} (hw : (Instr.bsel f).WellFormed)
    (ho : s.operandsPass f.toL1 ([⟨.src 1, f.a.toNat⟩, ⟨.src 1, f.b.toNat⟩] ++
      (if f.mod.getLsbD 0 then [⟨.src 1, f.c.toNat⟩] else []) ++ [⟨.dst 1, f.d.toNat⟩])) :
    exec (.bsel f) s = .next (s.laneNext f.toL1 2 fun e t =>
      let byte := selByte (t.grp e f.b.toNat 1 ++ t.grp e f.a.toNat 1) (selControl f (t.grp e f.c.toNat 1))
      t.writeReg f.d.toNat 1 (byte 3 ++ byte 2 ++ byte 1 ++ byte 0).toNat 0) := by
  refine runLane_of_sem (i := bselR f) hw ho fun e t => congrArg (fun v => Except.ok (t.writeReg f.d.toNat 1 v 0)) ?_
  refine Eq.trans ?_ (bselVal_eq _ _)
  rw [fld_selControl_low, fld_selControl_high, toNat_append_eq, grp_toNat, grp_toNat, grp_toNat, Nat.mul_comm, Nat.add_comm]
  rfl

theorem bitFieldsAndByteSelect : BitFieldsAndByteSelect :=
  ⟨fun _ _ hw ho => bfx_next true (fun _ _ => rfl) hw ho, fun _ _ hw ho => bfx_next false (fun _ _ => rfl) hw ho, fun _ _ => bfi_next,
    fun _ _ => bsel_next⟩

/-- Settles O14: each is one lane definition, whose value on numbers narrows to the one on bit vectors. -/
theorem multiplyAddAndBitFields : Obligations.MultiplyAddAndBitFields := ⟨multiplyAddSelectAddress, bitFieldsAndByteSelect⟩

end Sys2Proof.Machine

namespace Sys2Proof.Machine
set_option Elab.async false -- as in the tests: many proofs under way at once outgrow the memory limit

open Claims

/-! # Unary operations (R92) -/

theorem maps_opNot : Maps opNot fun _ x => ~~~x := fun g x => by
  rw [opNot, notW_toNat, BitVec.ofNat_toNat, BitVec.setWidth_eq]

theorem maps_opNeg : Maps opNeg fun _ x => -x := fun g x => by
  rw [opNeg, ofNat_wrap, BitVec.ofInt_neg, BitVec.ofInt_natCast, BitVec.ofNat_toNat, BitVec.setWidth_eq]

theorem maps_opAbs : Maps opAbs fun _ x => x.abs := fun g x => by
  rw [opAbs, ofNat_wrap, sgn_toNat]
  simp only [BitVec.abs_eq, BitVec.msb_eq_toInt, decide_eq_true_eq]
  split
  next neg => rw [Int.ofNat_natAbs_of_nonpos neg.le, BitVec.ofInt_neg, BitVec.ofInt_toInt]
  next nonneg => rw [Int.natAbs_of_nonneg (Int.not_lt.mp nonneg), BitVec.ofInt_toInt]

/-- The bits of a vector are those of its number. -/
theorem bitsOf_eq {n : Nat} (x : BitVec n) : bitsOf n x = (List.range n).map fun i => x.toNat.testBit i := by
  simp [bitsOf, BitVec.testBit_toNat]

theorem popc_eq {n : Nat} (x : BitVec n) : popc x.toNat n = ((bitsOf n x).filter id).length := by
  rw [bitsOf_eq, List.filter_map, List.length_map]
  rfl

theorem ctz_eq {n : Nat} (x : BitVec n) : ctz x.toNat n = Claims.zeros (bitsOf n x) := by
  rw [Claims.zeros, bitsOf_eq, List.takeWhile_map, List.length_map]
  rfl

theorem clz_eq {n : Nat} (x : BitVec n) : clz x.toNat n = Claims.zeros (bitsOf n x).reverse := by
  have backwards : (List.range n).reverse = (List.range n).map fun i => n - 1 - i := by
    rw [List.range_eq_range', List.reverse_range', List.range_eq_range']
    simp
  rw [Claims.zeros, bitsOf_eq, ← List.map_reverse, backwards, List.map_map, List.takeWhile_map, List.length_map]
  rfl

/-- A number below 2^w given by its bits. -/
theorem ofBits_succ (w : Nat) (p : Nat → Bool) : ofBits (w + 1) p = if p w then ofBits w p + 2 ^ w else ofBits w p := by
  simp [ofBits, List.range_succ]

theorem ofBits_lt (w : Nat) (p : Nat → Bool) : ofBits w p < 2 ^ w := by
  induction w with
  | zero => exact Nat.one_pos
  | succ w ih =>
    rw [ofBits_succ, Nat.pow_succ]
    split <;> omega

@[simp] theorem testBit_ofBits (w : Nat) (p : Nat → Bool) (i : Nat) : (ofBits w p).testBit i = (decide (i < w) && p i) := by
  induction w with
  | zero => simp [ofBits]
  | succ w ih =>
    have top : ofBits w p + 2 ^ w = 2 ^ w * 1 + ofBits w p := by omega
    rw [ofBits_succ, top, apply_ite (Nat.testBit · i), Nat.testBit_two_pow_mul_add 1 (ofBits_lt w p), ih]
    obtain below | rfl | above := Nat.lt_trichotomy i w
    · simp [below, Nat.lt_succ_of_lt below]
    · simp
    · have not_in : ¬ i < w + 1 := by omega
      have beyond : Nat.testBit 1 (i - w) = false :=
        Bool.eq_false_iff.mpr fun one => (Nat.sub_pos_of_lt above).ne' (Nat.testBit_one_eq_true_iff_self_eq_zero.mp one)
      simp [above.not_gt, not_in, beyond]

theorem brev_eq {n : Nat} (x : BitVec n) : BitVec.ofNat n (brev x.toNat n) = x.reverse := by
  apply BitVec.eq_of_getLsbD_eq
  intro i hi
  rw [BitVec.getLsbD_ofNat, brev, testBit_ofBits, BitVec.getLsbD_reverse, BitVec.getMsbD_eq_getLsbD, BitVec.testBit_toNat]
  simp

theorem mov_next {f : L1} {s : State} (hw : (Instr.mov f).WellFormed) (ha : windowNo f.a = none) (hd : windowNo f.d = none)
    (ho : s.operandsPass f [⟨.src (gsz f.w), f.a.toNat⟩, ⟨.dst (gsz f.w), f.d.toNat⟩]) :
    exec (.mov f) s = .next (s.laneNext f 1 fun e t => t.writeReg f.d.toNat (gsz f.w) (t.grp e f.a.toNat (gsz f.w)).toNat 0) := by
  have no_window : movWindowed f = false := by simp [movWindowed, ha, hd]
  have legal : (laneMov f).legal = true := by
    have ok : movOk f = true := hw
    simpa [movOk, no_window] using ok
  have runs : exec (.mov f) s = runLane (laneMov f) s := if_neg (ne_true_of_eq_false no_window)
  exact runs.trans (runLane_of_sem legal ho fun e t => congrArg Except.ok (writeReg_of_ofNat rfl))

theorem unaryInteger : UnaryInteger :=
  ⟨fun _ _ => mov_next, unaryForm_of_un1 maps_opNot, unaryForm_of_un1 maps_opNeg, unaryForm_of_un1 maps_opAbs,
    unaryForm_of_un1 (fun _ x => congrArg _ (popc_eq x)), unaryForm_of_un1 (fun _ x => congrArg _ (clz_eq x)),
    unaryForm_of_un1 (fun _ x => congrArg _ (ctz_eq x)), unaryForm_of_un1 fun _ x => brev_eq x⟩

/-! # Literal moves and extensions (R93, R94) -/

section
variable {f : L2I} {s : State}

theorem movl_next (hw : (Instr.movl f).WellFormed) (ho : s.operandsPass f.toL1 [⟨.dst (gsz f.w), f.d.toNat⟩]) :
    exec (.movl f) s = .next (s.laneNext f.toL1 2 fun _ t => t.writeReg f.d.toNat (gsz f.w) (f.lit.signExtend (32 * gsz f.w)).toNat 0) :=
  runLane_of_sem (i := movlI f) hw ho fun _ t =>
    congrArg (fun v => Except.ok (t.writeReg f.d.toNat (gsz f.w) v 0)) (wrap_lit f.lit _)

theorem lea_next (hw : (Instr.lea f).WellFormed) (ho : s.operandsPass f.toL1 [⟨.src 2, f.a.toNat⟩, ⟨.dst 2, f.d.toNat⟩]) :
    exec (.lea f) s = .next (s.laneNext f.toL1 2 fun e t =>
      t.writeReg f.d.toNat 2 (t.grp e f.a.toNat 2 + f.lit.signExtend _).toNat 0) :=
  runLane_of_sem (i := leaI f) hw ho fun e t => congrArg Except.ok <| writeReg_of_ofNat <| by
    rw [ofNat_wrap, BitVec.ofInt_add, sgn_toNat]
    rfl

theorem ext_next {c : L2I → Instr} (signed : Bool) (hc : ∀ f s, exec (c f) s = runLane (extI signed f) s)
    (hl : (extI signed f).legal = true) (ho : s.operandsPass f.toL1 [⟨.src 1, f.a.toNat⟩, ⟨.dst (gsz f.w), f.d.toNat⟩]) :
    exec (c f) s = .next (s.laneNext f.toL1 2 fun e t =>
      let v := (t.grp e f.a.toNat 1).extractLsb' 0 f.lit.toNat
      t.writeReg f.d.toNat (gsz f.w) (if signed then v.signExtend (32 * gsz f.w) else v.setWidth (32 * gsz f.w)).toNat 0) := by
  refine (hc f s).trans (runLane_of_sem (i := extI signed f) hl ho fun e t => congrArg Except.ok (writeReg_of_ofNat ?_))
  simp only [extI, nums1, ← grp_toNat, ← toNat_extractLsb'_eq_fld, sgn_toNat]
  cases signed with
  | false => exact BitVec.ofNat_toNat ..
  | true => exact ofNat_wrap _

end

theorem literalMovesAndExtensions : LiteralMovesAndExtensions :=
  ⟨fun _ _ => movl_next, fun _ _ => lea_next, fun _ _ => ext_next true fun _ _ => rfl, fun _ _ => ext_next false fun _ _ => rfl⟩

/-- Settles O15: MOV without a window is the identity of the unary form, and the extensions are one lane definition with a sign and without. -/
theorem unaryAndLiteralMoves : Obligations.UnaryAndLiteralMoves := ⟨unaryInteger, literalMovesAndExtensions⟩

end Sys2Proof.Machine

namespace Sys2Proof.Machine
set_option Elab.async false -- as in the tests: many proofs under way at once outgrow the memory limit

open Claims

/-! # Compares (R95, Table 8) -/

/-- The eight conditions on numbers are those on bit vectors. -/
theorem cond_eq_holds (k g : Nat) (x y : BitVec (32 * g)) : cond k g x.toNat y.toNat = Claims.holds k _ x y := by
  match k with
  | 0 => simp [cond, Claims.holds, BitVec.toNat_inj]
  | 1 => simp [cond, Claims.holds, BitVec.toNat_inj]
  | 2 => simp [cond, Claims.holds, sgn_toNat, BitVec.slt]
  | 3 => simp [cond, Claims.holds, sgn_toNat, BitVec.sle]
  | 4 => simp [cond, Claims.holds, BitVec.ult]
  | 5 => simp [cond, Claims.holds, BitVec.ule]
  | 6 => simp [cond, Claims.holds, ← BitVec.toNat_and, toNat_eq_zero_iff]
  | _ + 7 => simp [cond, Claims.holds, ← BitVec.toNat_and, toNat_eq_zero_iff]

theorem compareForm_of_cmpR {c : L2R → Instr} {k : Nat} (hc : ∀ f s, exec (c f) s = runLane (cmpR k f) s := by exact fun _ _ => rfl)
    (hl : ∀ f, (c f).WellFormed → (cmpR k f).legal = true := by exact fun _ h => h) : CompareForm c (Claims.holds k) := by
  intro f s hw ho
  refine (hc f s).trans (runLane_of_sem (hl f hw) ho fun e t => congrArg (fun v => Except.ok (t.setPred f.d.toNat v)) ?_)
  rw [← cond_eq_holds, grp_toNat, grp_toNat]
  rfl

theorem compareLit_of_cmpI {c : L2I → Instr} {k : Nat} (hc : ∀ f s, exec (c f) s = runLane (cmpI k f) s := by exact fun _ _ => rfl)
    (hl : ∀ f, (c f).WellFormed → (cmpI k f).legal = true := by exact fun _ h => h) : CompareLit c (Claims.holds k) := by
  intro f s hw ho
  refine (hc f s).trans (runLane_of_sem (hl f hw) ho fun e t => congrArg (fun v => Except.ok (t.setPred f.d.toNat v)) ?_)
  rw [← cond_eq_holds, grp_toNat, ← wrap_lit]
  rfl

theorem compareWritesPredicate : CompareWritesPredicate :=
  ⟨compareForm_of_cmpR, compareForm_of_cmpR, compareForm_of_cmpR, compareForm_of_cmpR, compareForm_of_cmpR, compareForm_of_cmpR,
    compareForm_of_cmpR, compareForm_of_cmpR, compareLit_of_cmpI, compareLit_of_cmpI, compareLit_of_cmpI, compareLit_of_cmpI,
    compareLit_of_cmpI, compareLit_of_cmpI, compareLit_of_cmpI, compareLit_of_cmpI⟩

/-! # Predicate instructions (R97, R98) -/

theorem predForm_of_laneDef {c : L2R → Instr} {v : L2R → Thread → Bool} (d : L2R → LaneDef)
    (hs : ∀ f e t, (d f).sem e (d f).nums t = .ok (t.setPred f.d.toNat (v f t)) := by exact fun _ _ _ => rfl)
    (hc : ∀ f s, exec (c f) s = runLane (d f) s := by exact fun _ _ => rfl)
    (hl : ∀ f, (c f).WellFormed → (d f).legal = true := by exact fun _ h => h)
    (hf : ∀ f, (d f).g = f.g ∧ (d f).gn = f.gn ∧ (d f).words = 2 ∧ (d f).opds (d f).nums = [] := by exact fun _ => ⟨rfl, rfl, rfl, rfl⟩) :
    PredForm c v := by
  intro f s hw
  obtain ⟨hg, hn, words, none_named⟩ := hf f
  rw [hc, runLane_of_sem (hl f hw) (none_named ▸ operandsPass_nil s f.toL1) (hs f) hg hn, words]

section
variable {f : L2R} {s : State}

theorem prd_next (hw : (Instr.prd f).WellFormed) (ho : s.operandsPass f.toL1 [⟨.dst 1, f.d.toNat⟩]) :
    exec (.prd f) s = .next (s.laneNext f.toL1 2 fun _ t => t.writeReg f.d.toNat 1 t.preds.toNat 0) :=
  runLane_of_sem (i := prdR f) hw ho fun _ _ => rfl

/-- The predicates that a mask selects take new bits, and the others stay (R97). -/
theorem ofNat_ofBits_select (preds : BitVec 24) (new mask : BitVec 32) :
    BitVec.ofNat 24 (ofBits 24 fun i => if mask.toNat.testBit i then new.toNat.testBit i else preds.getLsbD i) =
      (preds &&& ~~~mask.setWidth 24) ||| (new.setWidth 24 &&& mask.setWidth 24) := by
  apply BitVec.eq_of_getLsbD_eq
  intro i hi
  rw [BitVec.getLsbD_ofNat, testBit_ofBits, BitVec.testBit_toNat, BitVec.testBit_toNat]
  cases selected : mask.getLsbD i <;> simp [selected, hi]

theorem pwr_next (hw : (Instr.pwr f).WellFormed) (ho : s.operandsPass f.toL1 [⟨.src 1, f.a.toNat⟩, ⟨.src 1, f.b.toNat⟩]) :
    exec (.pwr f) s = .next (s.laneNext f.toL1 2 fun e t =>
      let m : BitVec 24 := (t.grp e f.b.toNat 1).setWidth 24
      { t with preds := (t.preds &&& ~~~m) ||| ((t.grp e f.a.toNat 1).setWidth 24 &&& m) }) := by
  refine runLane_of_sem (i := pwrR f) hw ho fun e t => ?_
  have selected := ofNat_ofBits_select t.preds (t.grp e f.a.toNat 1) (t.grp e f.b.toNat 1)
  rw [grp_toNat, grp_toNat] at selected
  exact congrArg (fun v => Except.ok { t with preds := v }) selected

end

theorem pred_setPred (t : Thread) (n k : Nat) (v : Bool) (hn : n < 24) : (t.setPred n v).pred k = if k = n then v else t.pred k := by
  rw [Thread.setPred, Thread.pred, BitVec.getLsbD_ofNat, testBit_ofBits]
  obtain inside | beyond := Nat.lt_or_ge k 24
  · simp [inside, Thread.pred]
  · have other : k ≠ n := by omega
    have none_there : t.pred k = false := BitVec.getLsbD_of_ge t.preds k beyond
    simp [Nat.not_lt.mpr beyond, other, none_there]

theorem predicateInstructions : PredicateInstructions :=
  ⟨predForm_of_laneDef lanePand, predForm_of_laneDef lanePor, predForm_of_laneDef lanePxor, predForm_of_laneDef lanePandn,
    predForm_of_laneDef lanePmov, predForm_of_laneDef lanePset, fun _ _ => prd_next, fun _ _ => pwr_next, pred_setPred⟩

/-- Settles O16: the compares are two lane definitions over one condition, and each predicate instruction is its own. -/
theorem comparesAndPredicates : Obligations.ComparesAndPredicates := ⟨compareWritesPredicate, predicateInstructions⟩

end Sys2Proof.Machine

namespace Sys2Proof.Machine
set_option Elab.async false -- as in the tests: many proofs under way at once outgrow the memory limit

open Claims

/-! # Uniform instructions: one value from the leader, in every guard-true thread (R45, R77 to R80, R96, R100, R102) -/

/-- A uniform instruction whose operands pass writes, in every guard-true thread, the bit vector to which its value narrows. The leader reads
what it read before the guard-false threads stepped past. -/
theorem runUniform_writes {u : UniDef} {s : State} {f : L1} {l : ThreadId} {lt : Thread} {d w : Nat} {v : UniGroup → Nat} {b : BitVec (32 * w)}
    (hl : u.legal = true) (h : s.leads f u.srcs u.dsts l lt)
    (hv : ∀ env, (∀ n w, lt.readReg env n w = lt.readReg (s.env l) n w) →
      BitVec.ofNat (32 * w) (v ⟨l, lt, env, s.onIds f, s.onIds f, []⟩) = b)
    (hg : u.g = f.g := by rfl) (hn : u.gn = f.gn := by rfl) :
    runUniform u s (fun g s => .done (s.result g u.words d w (v g))) = .next (s.uniNext f u.words fun t => t.writeReg d w b.toNat 0) := by
  have narrows := hv _ fun n w => readReg_of_like (stepAll_like s (s.offIds f) u.words) l lt n w
  refine runUniform_next hg hn hl h rfl (.inl (congrArg UniRes.done ?_))
  exact congrArg (State.updThreads _ _) (funext fun t => congrArg (Thread.step · u.words) (writeReg_of_ofNat narrows))

section
variable {op : Nat → Nat → Nat → Nat} {bop : (n : Nat) → BitVec n → BitVec n → BitVec n}
variable {sop : (n : Nat) → BitVec n → Nat → BitVec n}

theorem uniReg_of_uniR (h : Computes op bop) {c : L2R → Instr} (hc : ∀ f s, exec (c f) s = uniR op f s := by exact fun _ _ => rfl)
    (hl : ∀ f, (c f).WellFormed → (regUni f).legal = true := by exact fun _ h => h) : UniReg c bop := by
  intro f s l lt hw leads
  rw [hc, uniR]
  refine runUniform_writes (u := regUni f) (hl f hw) leads fun env same => ?_
  simp only [same]
  exact h.grps ..

theorem uniShift_of_uniShR (h : Shifts op sop) {c : L2R → Instr} (hc : ∀ f s, exec (c f) s = uniShR op f s := by exact fun _ _ => rfl)
    (hl : ∀ f, (c f).WellFormed → (regShUni f).legal = true := by exact fun _ h => h) : UniShift c sop := by
  intro f s l lt hw leads
  rw [hc, uniShR]
  refine runUniform_writes (u := regShUni f) (hl f hw) leads fun env same => ?_
  simp only [same]
  exact h.reg ..

theorem uniLit_of_uniI (h : Computes op bop) {c : L2I → Instr} (hc : ∀ f s, exec (c f) s = uniI op f s := by exact fun _ _ => rfl)
    (hl : ∀ f, (c f).WellFormed → (litUni f).legal = true := by exact fun _ h => h) : UniLit c bop := by
  intro f s l lt hw leads
  rw [hc, uniI]
  refine runUniform_writes (u := litUni f) (hl f hw) leads fun env same => ?_
  simp only [same]
  exact h.lit ..

theorem uniLitShift_of_uniShI (h : Shifts op sop) {c : L2I → Instr} (hc : ∀ f s, exec (c f) s = uniShI op f s := by exact fun _ _ => rfl)
    (hl : ∀ f, (c f).WellFormed → (litShUni f).legal = true := by exact fun _ h => h) : UniLitShift c sop := by
  intro f s l lt hw leads
  rw [hc, uniShI]
  refine runUniform_writes (u := litShUni f) (hl f hw) leads fun env same => ?_
  simp only [same]
  exact h.grp ..

end

theorem uniCompare_of_uniCmp {c : L2R → Instr} {k : Nat} (hc : ∀ f s, exec (c f) s = uniCmp k f s := by exact fun _ _ => rfl)
    (hl : ∀ f, (c f).WellFormed → (cmpUni f).legal = true := by exact fun _ h => h) : UniCompare c (Claims.holds k) := by
  intro f s l lt hw leads
  rw [hc, uniCmp]
  refine runUniform_next (d := cmpUni f) rfl rfl (hl f hw) leads rfl (.inl (congrArg UniRes.done ?_))
  refine congrArg (fun v => State.updThreads _ _ fun t => (t.setPred f.d.toNat v).step 2) ?_
  rw [← cond_eq_holds, grp_toNat, grp_toNat]
  exact congrArg₂ (cond k _) (readReg_fullGroup ..) (readReg_fullGroup ..)

/-- What ULANE, UCNT and ULEAD give a thread of a group: its place, the group's size, and the leader's TIDX (R100, R102). -/
def groupValue (k : Nat) (s : State) (on : List ThreadId) (l id : ThreadId) : Nat :=
  match k with
  | 0 => on.findIdx (· = id)
  | 1 => on.length
  | _ => s.tidx l

theorem uniGroupValue_of_uniGroup {c : L1 → Instr} (k : Nat) (hc : ∀ f s, exec (c f) s = uniGroup k f s := by exact fun _ _ => rfl)
    (hl : ∀ f, (c f).WellFormed → (groupUni f).legal = true := by exact fun _ h => h) : UniGroupValue c (groupValue k) := by
  intro f s l lt hw leads
  rw [hc, uniGroup]
  exact runUniform_next (d := groupUni f) rfl rfl (hl f hw) leads rfl (.inl rfl)

/-- UMOV without a window reads the leader's group (R100). -/
theorem umovUni_register {f : L1} (h : windowNo f.a = none) : umovUni f =
    { g := f.g, gn := f.gn, ok := true, words := 1, srcs := [⟨.src (gsz f.w), f.a.toNat⟩], dsts := [⟨.dst (gsz f.w), f.d.toNat⟩] } := by
  simp [umovUni, h]

theorem umov_register {f : L1} {s : State} {l : ThreadId} {lt : Thread} (hw : (Instr.umov f).WellFormed) (ha : windowNo f.a = none)
    (leads : s.leads f [⟨.src (gsz f.w), f.a.toNat⟩] [⟨.dst (gsz f.w), f.d.toNat⟩] l lt) :
    exec (.umov f) s = .next (s.uniNext f 1 fun t => t.writeReg f.d.toNat (gsz f.w) (lt.readReg (s.env l) f.a.toNat (gsz f.w)) 0) := by
  have legal : (umovUni f).legal = true := hw
  rw [umovUni_register ha] at legal
  show execUmov f s = _
  rw [execUmov, ha, umovUni_register ha, ← grp_toNat]
  exact runUniform_writes legal leads fun env same => by rw [same]; rfl

theorem uniformArithmetic : UniformArithmetic :=
  ⟨uniReg_of_uniR computes_opAdd, uniReg_of_uniR computes_opSub, uniReg_of_uniR computes_opAnd, uniReg_of_uniR computes_opOr,
    uniReg_of_uniR computes_opXor, uniReg_of_uniR computes_opMul, uniShift_of_uniShR shifts_opShl, uniShift_of_uniShR shifts_opShr,
    uniLit_of_uniI computes_opAdd, uniLit_of_uniI computes_opSub, uniLit_of_uniI computes_opAnd, uniLit_of_uniI computes_opOr,
    uniLit_of_uniI computes_opXor, uniLit_of_uniI computes_opMul, uniLitShift_of_uniShI shifts_opShl, uniLitShift_of_uniShI shifts_opShr⟩

theorem uniformComparesAndGroup : UniformComparesAndGroup :=
  ⟨uniCompare_of_uniCmp, uniCompare_of_uniCmp, uniCompare_of_uniCmp, uniCompare_of_uniCmp, uniCompare_of_uniCmp, uniCompare_of_uniCmp,
    uniGroupValue_of_uniGroup 0, uniGroupValue_of_uniGroup 1, uniGroupValue_of_uniGroup 2, fun _ _ _ _ => umov_register⟩

/-- Settles O25: the forms run one frame with the lane forms' operations, on what the leader reads. -/
theorem uniformInstructions : Obligations.UniformInstructions := ⟨uniformArithmetic, uniformComparesAndGroup⟩

end Sys2Proof.Machine
